-- ==== Sys2Proof/Machine/AMap.lean ====
section
/-! DEFINITION. Machine/AMap.lean: sparse maps from Nat keys as lists of pairs in one canonical form: keys strictly rising,
and no entry equal to what an unlisted key reads as. Memory, its inverted bits and the registers are such maps. -/

namespace Sys2Proof.Machine

/-- The entry of a key, if it is listed. -/
def amapFind {α : Type} (k : Nat) : List (Nat × α) → Option α
  | [] => none
  | (j, v) :: m => if k = j then some v else amapFind k m

/-- The value at a key; d is what an unlisted key reads as. -/
def amapGet {α : Type} (d : α) (m : List (Nat × α)) (k : Nat) : α := (amapFind k m).getD d

/-- The map without key k. -/
def amapDel {α : Type} (k : Nat) : List (Nat × α) → List (Nat × α)
  | [] => []
  | (j, u) :: m => if k = j then amapDel k m else (j, u) :: amapDel k m

/-- The map with value v at key k; d is what an unlisted key k reads as. -/
def amapSet {α : Type} [DecidableEq α] (d : α) (k : Nat) (v : α) : List (Nat × α) → List (Nat × α)
  | [] => if v = d then [] else [(k, v)]
  | (j, u) :: m =>
    if k < j then (if v = d then (j, u) :: amapDel k m else (k, v) :: (j, u) :: amapDel k m)
    else if k = j then amapSet d k v m
    else (j, u) :: amapSet d k v m

/-- Every key of a map is above k. -/
def amapAbove {α : Type} (k : Nat) : List (Nat × α) → Bool
  | [] => true
  | (j, _) :: m => k < j && amapAbove j m

/-- Keys strictly rising. -/
def amapSorted {α : Type} : List (Nat × α) → Bool
  | [] => true
  | (j, _) :: m => amapAbove j m

/-- The canonical form; d gives what each unlisted key reads as. -/
def amapWf {α : Type} [DecidableEq α] (d : Nat → α) (m : List (Nat × α)) : Bool :=
  amapSorted m && m.all fun p => decide (p.2 ≠ d p.1)

/-- The map without the keys of [lo, hi). -/
def amapDrop {α : Type} (lo hi : Nat) (m : List (Nat × α)) : List (Nat × α) :=
  m.filter fun p => !(lo ≤ p.1 && p.1 < hi)

end Sys2Proof.Machine
end

