-- ==== Sys2Proof/Machine/Op.lean ====
section
/-! DEFINITION. Machine/Op.lean: a Kosvel instruction, its 32-bit word and the reading of a word (03_kosvel_instruction_set.md,
R84, R85 and the format table). The block has no instruction decoder in its command table; words matter to the machine all
the same: EVAL holds them (R69), a prefix names the word that follows it (R109), and DBG.FEED executes one (R481). -/

namespace Sys2Proof.Machine

/-- A general register number (R51). -/
abbrev GReg := Fin 32

/-- The operations of class 000 (R95), in the order of their func codes. -/
inductive AluFn where
  | add | sub | and | or | xor | andn | shl | shr | sra | ror | slt | sltu | min | max | minu | maxu
  | sextb | sexth | zexth | clz | ctz | popc | bswap
  | mul | mulh | mulhu | macc | div | divu | rem | remu | dot8 | dot8u | dot16
  deriving DecidableEq, Repr

/-- The operations 0 to 6 of class 001 (R97). -/
inductive ImmFn where
  | addi | andi | ori | xori | slti | sltiu | addhi
  deriving DecidableEq, Repr

/-- The shift kinds of class 001, op 7 (R97). -/
inductive ShiftFn where
  | shl | shr | sra | ror
  deriving DecidableEq, Repr

/-- The load kinds of R98, with sign or zero extension (R86). -/
inductive LdFn where
  | w | h | hu | b | bu
  deriving DecidableEq, Repr

/-- The store kinds of R98. -/
inductive StFn where
  | w | h | b
  deriving DecidableEq, Repr

/-- The atomics of class 011 (R99). -/
inductive AmoFn where
  | swap | add | and | or | min | max
  deriving DecidableEq, Repr

/-- The branch conditions of R101; the immediate forms take eq, ne, lt, ge. -/
inductive Cond where
  | eq | ne | lt | ge | ltu | geu
  deriving DecidableEq, Repr

/-- A Kosvel instruction as its word spells it. -/
inductive Op where
  /-- Class 000 (R95). -/
  | alu (f : AluFn) (rd ra rb : GReg)
  /-- Class 001, op 0 to 6 (R97). -/
  | imm (f : ImmFn) (rd ra : GReg) (i : BitVec 16)
  /-- Class 001, op 7 (R97). -/
  | shi (f : ShiftFn) (rd ra : GReg) (n : BitVec 5)
  /-- Short-form load (R98). -/
  | ld (f : LdFn) (rt base : GReg) (i : BitVec 16)
  /-- Short-form store (R98). -/
  | st (f : StFn) (rt base : GReg) (i : BitVec 16)
  /-- Post-increment load (R99). -/
  | ldi (f : LdFn) (rt ra : GReg) (i : BitVec 12)
  /-- Post-increment store (R99). -/
  | sti (f : StFn) (rt ra : GReg) (i : BitVec 12)
  /-- Long-form load (R99). -/
  | ldl (f : LdFn) (rt ra : GReg) (i : BitVec 12)
  /-- Long-form store (R99). -/
  | stl (f : StFn) (rt ra : GReg) (i : BitVec 12)
  | ll (rt ra : GReg)
  | sc (rt ra rb : GReg)
  | amo (f : AmoFn) (rt ra rb : GReg)
  /-- Compare-and-branch on two registers (R101). -/
  | br (c : Cond) (ra rb : GReg) (off : BitVec 15)
  /-- Compare-and-branch with an immediate (R101): eq, ne, lt and ge only. -/
  | bri (c : Fin 4) (ra : GReg) (i : BitVec 5) (off : BitVec 15)
  | jmp (off : BitVec 22)
  | call (off : BitVec 22)
  | jmpr (ra : GReg)
  | callr (ra : GReg)
  | ret
  | mfs (rd : GReg) (sr : BitVec 8)
  | mts (sr : BitVec 8) (ra : GReg)
  | trap (i : BitVec 16)
  | bkpt (i : BitVec 16)
  | rfe
  | fenceA
  | fenceR
  /-- INVAL with sel 01 data, 10 instruction, 11 both; 00 is reserved (R104). -/
  | inval (ra : GReg) (sel : BitVec 2)
  | flush (ra : GReg)
  | wfe
  /-- SEV with RG = 0 and the target field; scopes 5 to 7 are reserved (R117). -/
  | sev (scope : BitVec 3) (target : BitVec 6)
  /-- SEV with RG = 1 and ra. -/
  | sevr (scope : BitVec 3) (ra : GReg)
  | waitt (rd ra : GReg)
  /-- REPN with count - 1. -/
  | repn (n : BitVec 5)
  /-- REPI with count - 1 (RG = 0). -/
  | repi (n : BitVec 16)
  /-- REPI with the count in ra (RG = 1). -/
  | repr (ra : GReg)
  /-- Class 111 (R121). -/
  | cx (slot : Fin 8) (rd ra rb : GReg) (i : BitVec 11)
  deriving DecidableEq, Repr

/-- The func code of a class 000 operation (R95). -/
def AluFn.code : AluFn → BitVec 6
  | .add => 0x00 | .sub => 0x01 | .and => 0x02 | .or => 0x03 | .xor => 0x04 | .andn => 0x05
  | .shl => 0x06 | .shr => 0x07 | .sra => 0x08 | .ror => 0x09 | .slt => 0x0A | .sltu => 0x0B
  | .min => 0x0C | .max => 0x0D | .minu => 0x0E | .maxu => 0x0F | .sextb => 0x10 | .sexth => 0x11
  | .zexth => 0x12 | .clz => 0x13 | .ctz => 0x14 | .popc => 0x15 | .bswap => 0x16
  | .mul => 0x20 | .mulh => 0x21 | .mulhu => 0x22 | .macc => 0x23 | .div => 0x24 | .divu => 0x25
  | .rem => 0x26 | .remu => 0x27 | .dot8 => 0x28 | .dot8u => 0x29 | .dot16 => 0x2A

/-- The operation of a func code, none where R95 assigns none. -/
def AluFn.ofCode (c : BitVec 6) : Option AluFn :=
  match c.toNat with
  | 0x00 => some .add | 0x01 => some .sub | 0x02 => some .and | 0x03 => some .or | 0x04 => some .xor
  | 0x05 => some .andn | 0x06 => some .shl | 0x07 => some .shr | 0x08 => some .sra | 0x09 => some .ror
  | 0x0A => some .slt | 0x0B => some .sltu | 0x0C => some .min | 0x0D => some .max | 0x0E => some .minu
  | 0x0F => some .maxu | 0x10 => some .sextb | 0x11 => some .sexth | 0x12 => some .zexth
  | 0x13 => some .clz | 0x14 => some .ctz | 0x15 => some .popc | 0x16 => some .bswap
  | 0x20 => some .mul | 0x21 => some .mulh | 0x22 => some .mulhu | 0x23 => some .macc | 0x24 => some .div
  | 0x25 => some .divu | 0x26 => some .rem | 0x27 => some .remu | 0x28 => some .dot8 | 0x29 => some .dot8u
  | 0x2A => some .dot16
  | _ => none

/-- The single-operand forms SEXTB to BSWAP, whose rb field is reserved (R95). -/
def AluFn.unary : AluFn → Bool
  | .sextb | .sexth | .zexth | .clz | .ctz | .popc | .bswap => true
  | _ => false

/-- The operations that name ra and rb as register pairs (R87). -/
def AluFn.pairs : AluFn → Bool
  | .dot8 | .dot8u | .dot16 => true
  | _ => false

/-- The op code of a class 001 operation (R97). -/
def ImmFn.code : ImmFn → BitVec 3
  | .addi => 0 | .andi => 1 | .ori => 2 | .xori => 3 | .slti => 4 | .sltiu => 5 | .addhi => 6

/-- The kind code of a class 001 shift (R97). -/
def ShiftFn.code : ShiftFn → BitVec 3
  | .shl => 0 | .shr => 1 | .sra => 2 | .ror => 3

/-- The code of a load in classes 010 and 011 (R98, R99). -/
def LdFn.code : LdFn → Nat
  | .w => 0 | .h => 1 | .hu => 2 | .b => 3 | .bu => 4

/-- The code of a store in classes 010 and 011 (R98, R99). -/
def StFn.code : StFn → Nat
  | .w => 5 | .h => 6 | .b => 7

/-- The sub code of an atomic (R99). -/
def AmoFn.code : AmoFn → Nat
  | .swap => 0x12 | .add => 0x13 | .and => 0x14 | .or => 0x15 | .min => 0x16 | .max => 0x17

/-- The cond code of a two-register branch (R101). -/
def Cond.code : Cond → Nat
  | .eq => 0 | .ne => 1 | .lt => 2 | .ge => 3 | .ltu => 4 | .geu => 5

/-- A register number as a field. -/
def rf (r : GReg) : BitVec 5 := BitVec.ofNat 5 r.val

/-- Format R: class 000. -/
def wordR (rd ra rb : GReg) (f : BitVec 6) : Word := 0#3 ++ rf rd ++ rf ra ++ rf rb ++ 0#8 ++ f
/-- Formats I and S: classes 001 and 010. -/
def wordI (cls : BitVec 3) (a b : GReg) (op : BitVec 3) (i : BitVec 16) : Word := cls ++ rf a ++ rf b ++ op ++ i
/-- Format L: class 011, sub 0x00 to 0x0F. -/
def wordL (a b : GReg) (sub : Nat) (i : BitVec 12) : Word := 3#3 ++ rf a ++ rf b ++ BitVec.ofNat 5 sub ++ 0#2 ++ i
/-- Format A: class 011, sub 0x10 to 0x17. -/
def wordA (a b : GReg) (sub : Nat) (rb : GReg) : Word := 3#3 ++ rf a ++ rf b ++ BitVec.ofNat 5 sub ++ rf rb ++ 0#9
/-- Format B: class 100. -/
def wordB (c : Nat) (ra : GReg) (b : BitVec 5) (off : BitVec 15) : Word := 4#3 ++ BitVec.ofNat 4 c ++ rf ra ++ b ++ off
/-- Format J: JMP and CALL. -/
def wordJ (op : Nat) (off : BitVec 22) : Word := 5#3 ++ BitVec.ofNat 3 op ++ 0#4 ++ off
/-- Format JR: JMPR, CALLR and RET. -/
def wordJR (op : Nat) (ra : GReg) : Word := 5#3 ++ BitVec.ofNat 3 op ++ rf ra ++ 0#21
/-- Format Y: class 110. -/
def wordY (sub : Nat) (lo : BitVec 24) : Word := 6#3 ++ BitVec.ofNat 5 sub ++ lo

/-- The word of an instruction (R84; the format, class and system tables of 03_kosvel_instruction_set.md). -/
def Op.encode : Op → Word
  | .alu f rd ra rb => wordR rd ra (if f.unary then 0 else rb) f.code
  | .imm f rd ra i => wordI 1 rd ra f.code i
  | .shi f rd ra n => wordI 1 rd ra 7 (f.code ++ 0#8 ++ n)
  | .ld f rt b i => wordI 2 rt b (BitVec.ofNat 3 f.code) i
  | .st f rt b i => wordI 2 rt b (BitVec.ofNat 3 f.code) i
  | .ldi f rt ra i => wordL rt ra f.code i
  | .sti f rt ra i => wordL rt ra f.code i
  | .ldl f rt ra i => wordL rt ra (8 + f.code) i
  | .stl f rt ra i => wordL rt ra (8 + f.code) i
  | .ll rt ra => wordA rt ra 0x10 0
  | .sc rt ra rb => wordA rt ra 0x11 rb
  | .amo f rt ra rb => wordA rt ra f.code rb
  | .br c ra rb off => wordB c.code ra (rf rb) off
  | .bri c ra i off => wordB (8 + c.val) ra i off
  | .jmp off => wordJ 0 off
  | .call off => wordJ 1 off
  | .jmpr ra => wordJR 2 ra
  | .callr ra => wordJR 3 ra
  | .ret => wordJR 4 0
  | .mfs rd sr => wordY 0x00 (rf rd ++ 0#11 ++ sr)
  | .mts sr ra => wordY 0x01 (rf ra ++ 0#11 ++ sr)
  | .trap i => wordY 0x02 (0#8 ++ i)
  | .bkpt i => wordY 0x03 (0#8 ++ i)
  | .rfe => wordY 0x04 0
  | .fenceA => wordY 0x05 0
  | .fenceR => wordY 0x06 0
  | .inval ra sel => wordY 0x07 (rf ra ++ 0#17 ++ sel)
  | .flush ra => wordY 0x08 (rf ra ++ 0#19)
  | .wfe => wordY 0x09 0
  | .sev scp t => wordY 0x0A (scp ++ 0#15 ++ t)
  | .sevr scp ra => wordY 0x0A (scp ++ 1#1 ++ rf ra ++ 0#15)
  | .waitt rd ra => wordY 0x0B (rf rd ++ rf ra ++ 0#14)
  | .repn n => wordY 0x0C (0#19 ++ n)
  | .repi n => wordY 0x0D (0#8 ++ n)
  | .repr ra => wordY 0x0D (rf ra ++ 0#2 ++ 1#1 ++ 0#16)
  | .cx s rd ra rb i => 7#3 ++ BitVec.ofNat 3 s.val ++ rf rd ++ rf ra ++ rf rb ++ i

/-- Bits [hi:lo] of a word. -/
def bits (w : Word) (hi lo : Nat) : Nat := w.toNat / 2 ^ lo % 2 ^ (hi - lo + 1)

/-- The register a five-bit field names. -/
def greg (n : Nat) : GReg := ⟨n % 32, Nat.mod_lt _ (by decide)⟩

/-- SEV with RG = 0 has an assigned scope and a target inside the rule for it (R117). -/
def sevOk (scope : BitVec 3) (target : BitVec 6) : Bool :=
  match scope.toNat with
  | 0 => target == 0
  | 1 => true
  | 2 => target.ult 8
  | 3 => target.ult 2
  | 4 => target == 0
  | _ => false

/-- Class 000. -/
def decode0 (w : Word) : Option Op :=
  if bits w 13 6 ≠ 0 then none
  else match AluFn.ofCode (w.extractLsb' 0 6) with
    | none => none
    | some f =>
      if f.unary && bits w 18 14 != 0 then none
      else if f.pairs && (bits w 23 19 == 31 || bits w 18 14 == 31) then none
      else some (.alu f (greg (bits w 28 24)) (greg (bits w 23 19)) (greg (bits w 18 14)))

/-- Class 001. -/
def decode1 (w : Word) : Option Op :=
  let rd := greg (bits w 28 24)
  let ra := greg (bits w 23 19)
  let i := w.extractLsb' 0 16
  match bits w 18 16 with
  | 0 => some (.imm .addi rd ra i) | 1 => some (.imm .andi rd ra i) | 2 => some (.imm .ori rd ra i)
  | 3 => some (.imm .xori rd ra i) | 4 => some (.imm .slti rd ra i) | 5 => some (.imm .sltiu rd ra i)
  | 6 => some (.imm .addhi rd ra i)
  | _ =>
    if bits w 12 5 ≠ 0 then none
    else
      let n := w.extractLsb' 0 5
      match bits w 15 13 with
      | 0 => some (.shi .shl rd ra n) | 1 => some (.shi .shr rd ra n)
      | 2 => some (.shi .sra rd ra n) | 3 => some (.shi .ror rd ra n)
      | _ => none

/-- The load of a code 0 to 4. -/
def LdFn.ofCode : Nat → Option LdFn
  | 0 => some .w | 1 => some .h | 2 => some .hu | 3 => some .b | 4 => some .bu | _ => none

/-- The store of a code 5 to 7. -/
def StFn.ofCode : Nat → Option StFn
  | 5 => some .w | 6 => some .h | 7 => some .b | _ => none

/-- Class 010. -/
def decode2 (w : Word) : Option Op :=
  let rt := greg (bits w 28 24)
  let b := greg (bits w 23 19)
  let i := w.extractLsb' 0 16
  match LdFn.ofCode (bits w 18 16), StFn.ofCode (bits w 18 16) with
  | some f, _ => some (.ld f rt b i)
  | none, some f => some (.st f rt b i)
  | none, none => none

/-- Class 011: formats L and A (R99, R100). -/
def decode3 (w : Word) : Option Op :=
  let rt := greg (bits w 28 24)
  let ra := greg (bits w 23 19)
  let sub := bits w 18 14
  let i := w.extractLsb' 0 12
  if sub < 16 then
    if bits w 13 12 ≠ 0 then none
    else match LdFn.ofCode (sub % 8), StFn.ofCode (sub % 8) with
      | some f, _ => if sub < 8 then (if rt = ra then none else some (.ldi f rt ra i)) else some (.ldl f rt ra i)
      | none, some f => if sub < 8 then some (.sti f rt ra i) else some (.stl f rt ra i)
      | none, none => none
  else if bits w 8 0 ≠ 0 then none
  else
    let rb := greg (bits w 13 9)
    match sub with
    | 0x10 => if bits w 13 9 ≠ 0 then none else some (.ll rt ra)
    | 0x11 => some (.sc rt ra rb)
    | 0x12 => some (.amo .swap rt ra rb) | 0x13 => some (.amo .add rt ra rb) | 0x14 => some (.amo .and rt ra rb)
    | 0x15 => some (.amo .or rt ra rb) | 0x16 => some (.amo .min rt ra rb) | 0x17 => some (.amo .max rt ra rb)
    | _ => none

/-- Class 100. -/
def decode4 (w : Word) : Option Op :=
  let ra := greg (bits w 24 20)
  let rb := greg (bits w 19 15)
  let i := w.extractLsb' 15 5
  let off := w.extractLsb' 0 15
  match bits w 28 25 with
  | 0 => some (.br .eq ra rb off) | 1 => some (.br .ne ra rb off) | 2 => some (.br .lt ra rb off)
  | 3 => some (.br .ge ra rb off) | 4 => some (.br .ltu ra rb off) | 5 => some (.br .geu ra rb off)
  | 8 => some (.bri 0 ra i off) | 9 => some (.bri 1 ra i off) | 10 => some (.bri 2 ra i off)
  | 11 => some (.bri 3 ra i off)
  | _ => none

/-- Class 101. -/
def decode5 (w : Word) : Option Op :=
  match bits w 28 26 with
  | 0 => if bits w 25 22 ≠ 0 then none else some (.jmp (w.extractLsb' 0 22))
  | 1 => if bits w 25 22 ≠ 0 then none else some (.call (w.extractLsb' 0 22))
  | 2 => if bits w 20 0 ≠ 0 then none else some (.jmpr (greg (bits w 25 21)))
  | 3 => if bits w 20 0 ≠ 0 then none else some (.callr (greg (bits w 25 21)))
  | 4 => if bits w 25 0 ≠ 0 then none else some .ret
  | _ => none

/-- Class 110 (R104, R117; R87 for WAITT). -/
def decode6 (w : Word) : Option Op :=
  let ra := greg (bits w 23 19)
  let z (o : Op) (ok : Bool) : Option Op := if ok then some o else none
  match bits w 28 24 with
  | 0x00 => z (.mfs ra (w.extractLsb' 0 8)) (bits w 18 8 == 0)
  | 0x01 => z (.mts (w.extractLsb' 0 8) ra) (bits w 18 8 == 0)
  | 0x02 => z (.trap (w.extractLsb' 0 16)) (bits w 23 16 == 0)
  | 0x03 => z (.bkpt (w.extractLsb' 0 16)) (bits w 23 16 == 0)
  | 0x04 => z .rfe (bits w 23 0 == 0)
  | 0x05 => z .fenceA (bits w 23 0 == 0)
  | 0x06 => z .fenceR (bits w 23 0 == 0)
  | 0x07 => z (.inval ra (w.extractLsb' 0 2)) (bits w 18 2 == 0 && bits w 1 0 != 0)
  | 0x08 => z (.flush ra) (bits w 18 0 == 0)
  | 0x09 => z .wfe (bits w 23 0 == 0)
  | 0x0A =>
    if bits w 20 20 = 0 then
      z (.sev (w.extractLsb' 21 3) (w.extractLsb' 0 6)) (bits w 19 6 == 0 && sevOk (w.extractLsb' 21 3) (w.extractLsb' 0 6))
    else z (.sevr (w.extractLsb' 21 3) (greg (bits w 19 15))) (bits w 14 0 == 0 && (w.extractLsb' 21 3).ult 5)
  | 0x0B => z (.waitt ra (greg (bits w 18 14))) (bits w 13 0 == 0 && bits w 18 14 != 31)
  | 0x0C => z (.repn (w.extractLsb' 0 5)) (bits w 23 5 == 0)
  | 0x0D =>
    if bits w 18 17 ≠ 0 then none
    else if bits w 16 16 = 0 then z (.repi (w.extractLsb' 0 16)) (bits w 23 19 == 0)
    else z (.repr ra) (bits w 15 0 == 0)
  | _ => none

/-- The instruction a word spells; none where it traps ILLEGAL under R85, R87, R100 or R117. Class 111 always spells a
custom instruction (R121). -/
def Op.decode (w : Word) : Option Op :=
  match bits w 31 29 with
  | 0 => decode0 w
  | 1 => decode1 w
  | 2 => decode2 w
  | 3 => decode3 w
  | 4 => decode4 w
  | 5 => decode5 w
  | 6 => decode6 w
  | _ => some (.cx ⟨bits w 28 26 % 8, Nat.mod_lt _ (by decide)⟩ (greg (bits w 25 21)) (greg (bits w 20 16))
      (greg (bits w 15 11)) (w.extractLsb' 0 11))

/-- An operation's encoding is assigned: its operands meet R87, R100, R104 and R117, and an unused rb field is 0 (R95). -/
def Op.wf : Op → Bool
  | .alu f _ ra rb => !(f.unary && rb != 0) && !(f.pairs && (ra == 31 || rb == 31))
  | .ldi _ rt ra _ => rt != ra
  | .inval _ sel => sel != 0
  | .sev scope target => sevOk scope target
  | .sevr scope _ => scope.ult 5
  | .waitt _ ra => ra != 31
  | _ => true

/-- The instructions a repeat prefix may repeat (R109). -/
def Op.repeatable : Op → Bool
  | .alu .. | .imm .. | .shi .. | .ldi .. | .sti .. => true
  | _ => false

end Sys2Proof.Machine
end

