-- ==== Sys2Proof/Config.lean ====
section
/-! DEFINITION. Config.lean: what an implementation or its fuses fix and this model leaves open. Every constant here is
opaque: nothing in Lean can see its value, so a statement about it holds for every value. -/

namespace Sys2Proof.Config

/-- The fused reset value of SP0.RSEQCTL.STATREG (14_platform_ports.md; the Reset column says "fuse"). -/
opaque fuseRseqStatreg : BitVec 8
/-- The fused reset value of SP0.RSEQCTL.ADDR. -/
opaque fuseRseqAddr : BitVec 7
/-- The fused reset value of byte n of SP0.RSEQW[w], n = 0 ENOFF, 1 ENON, 2 ENREG, 3 VREG. -/
opaque fuseRseqW : Nat → Nat → BitVec 8
/-- The fused reset value of SP0.RSEQMAP.BASE. -/
opaque fuseRseqBase : BitVec 10
/-- The fused reset value of SP0.RSEQMAP.STEPQ (its legal range begins at 1). -/
opaque fuseRseqStepq : BitVec 12

/-- The contents of the boot ROM, fixed at manufacture (R341): byte i of its 64 KiB. -/
opaque bootRom : Nat → BitVec 8
/-- What a read of a word with three or more inverted bits finds (R190): 0 uncorrectable, 1 miscorrected, else no error. The
argument is the model's count of free values taken. -/
opaque eccOutcome : Nat → Nat
/-- The bit a miscorrection inverts (R190), modulo 72. -/
opaque eccBit : Nat → Nat

/-- A byte of host memory as a read finds it: the count of free values taken, then the host address. Host memory lies
outside the device and the host may change it at any time. -/
opaque hostByte : Nat → Nat → BitVec 8
/-- Whether a host read is answered with an error: GO-Err, poison or an error completion (R286). -/
opaque hostFails : Nat → Bool
/-- The host answers RdShared with GO-E instead of GO-S (R286). -/
opaque hostGrantsE : Nat → Bool
/-- A lookup of an engine's cache finds a parity error in the word or its tag (R189). -/
opaque parityFails : Nat → Bool
/-- Which of the 16 ways of a full far-cache set an allocation evicts; the manual names no replacement rule. -/
opaque farVictim : Nat → Nat
/-- Which of the 4 ways of a full data-cache set an allocation evicts; the manual names no replacement rule. -/
opaque dcVictim : Nat → Nat
/-- Which of the 2 ways of a full instruction-cache set an allocation evicts. -/
opaque icVictim : Nat → Nat

/-- Where the capabilities of R278 lie in configuration space, as byte offsets of their first dwords; the manual lists them and gives
no offsets: MSI-X, power management, PCI Express, AER, L1 PM Substates, Device Serial Number, and the three CXL DVSECs. -/
opaque msixCap : Nat
opaque pmCap : Nat
opaque pcieCap : Nat
opaque aerCap : Nat
opaque l1Cap : Nat
opaque dsnCap : Nat
opaque cxlDvsec : Nat
opaque portDvsec : Nat
opaque locDvsec : Nat
/-- A dword of configuration space that the manual names without giving its layout (R278), at its reset value. -/
opaque cfgWord : Nat → BitVec 32
/-- A dword of the CXL component registers at BAR0 offset 0xF_0000 (R280), which CXL defines. -/
opaque cxlWord : Nat → BitVec 32
/-- What such a dword holds after the host has written it: the dword, its value before, and the value written. -/
opaque cxlStore : Nat → BitVec 32 → BitVec 32 → BitVec 32
/-- Whether a line of a COPY above its lowest failing line, already in flight, was written (R321). -/
opaque lineWritten : Nat → Bool

/-- What a read of an empty FIFO window returns as its byte; the manual states none (14_platform_ports.md, SPk.DATA and
FSPI.DATA). -/
opaque fifoEmpty : Nat → BitVec 8
/-- A byte the boot flash returns: the count of free values taken, then the flash address. The flash lies outside the device. -/
opaque flashByte : Nat → Nat → BitVec 8
/-- Whether the data of a flash command of KIND OTHER goes to the flash, by opcode (R448 states no direction). -/
opaque flashSends : BitVec 8 → Bool
/-- The bytes an erase opcode erases, which the flash defines (R449). -/
opaque eraseSize : BitVec 8 → Nat

/-- A value the manual leaves open, by the model's count of free values taken. -/
opaque free : Nat → BitVec 32

/-- The fuses of factory test (R26): FUSE[i], the worst-case pace of point i at 105 °C, and the ratio TC[i], whose format the manual does not
give: tcNum i / (tcDen i + 1). -/
opaque fusePace : Nat → Nat
opaque tcNum : Nat → Nat
opaque tcDen : Nat → Nat

/-- BOOTSEL0 to BOOTSEL2 as the board straps them (R497). -/
opaque bootsel : BitVec 3
/-- The life-cycle copies as manufactured, by state − 1 (R502), and VER.MIN (R506). -/
opaque fuseLc : Nat → BitVec 3
opaque fuseVerMin : Nat
/-- The OEM boot key and the OEM debug key are fused (SEC.LC). -/
opaque fuseBootKey : Bool
opaque fuseDbgKey : Bool
/-- The device serial number (SERIAL). -/
opaque fuseSerial : Nat → BitVec 32
/-- An image's signature is good for the key a life-cycle state selects (R499): the state, header bytes 0 to 191 with the bytes of
each section in table order, and the signature. -/
opaque imageSigned : Nat → List (BitVec 8) → List (BitVec 8) → Bool
/-- The random source of SEC. -/
opaque random : Nat → BitVec 32
/-- The permutation of the vault's 8,192 lines that a key chooses (R198). -/
opaque vaultPlace : BitVec 64 → Equiv.Perm (Fin 8192)
/-- A debug signature is good (R474): challenge, LEVEL, response; and a debug password is. -/
opaque debugSigned : List (BitVec 32) → Nat → List (BitVec 32) → Bool
opaque debugPassword : List (BitVec 32) → Bool

/-- How many events of a code that depends on an engine's timing one instruction brings (R172). -/
opaque timedEvents : Nat → Nat
/-- How many bits of a token pair the comparator compares: the places its test bit goes through (R348); the manual gives no number. -/
opaque comparedBits : Nat

end Sys2Proof.Config
end

