-- ==== Sys2Proof/Machine/RegTab.lean ====
section
/-! DEFINITION. Machine/RegTab.lean: the register map of bank 0x04 as the register tables of the spec give it.
Every table of the spec with the columns Bits, Field, Access, Reset, Meaning is one row here (an array register is one row
with its index range). `Machine/Regs.lean` reads and writes registers through these rows and nothing else. -/

namespace Sys2Proof.Machine

/-- The access codes of 00_scope.md, "Reading the register chapters". -/
inductive Acc where
  | rw | ro | wo | w1c | w1s | rc | rwl
  deriving DecidableEq, Repr

/-- How a written field value becomes a stored one (R11 to R13, R537). -/
inductive Clamp where
  /-- Every code of the field is legal. -/
  | raw
  /-- A numeric field with a range; the nearest legal value is stored (R11). -/
  | range (lo hi : Nat)
  /-- An enumerated field; an illegal code stores the highest legal code (R13). -/
  | enum (max : Nat)
  /-- A key field, never clamped (R537). -/
  | key
  deriving DecidableEq, Repr

/-- One field of a register table: its bits, access, reset value (`rst + step * index` in an array) and clamping. -/
structure FldSpec where
  hi : Nat
  lo : Nat
  acc : Acc
  rst : Nat
  step : Nat
  clamp : Clamp
  deriving Repr

/-- One register table: its name, its offset in the block, its two array dimensions (count and stride; 1 where there is
none), whether a write to it is a set-up write, how many bytes below it its storage lies (R359, R360: ENCLR and ENSET share
theirs) and its fields. -/
structure RegRow where
  name : String
  base : Nat
  n1 : Nat
  s1 : Nat
  n2 : Nat
  s2 : Nat
  setup : Bool
  back : Nat
  flds : List FldSpec
  deriving Repr

/-- A named field: the bank 0x04 offset of its register and its bits. -/
structure Fld where
  addr : Nat
  hi : Nat
  lo : Nat
  deriving DecidableEq, Repr

/-- The registers of block SYS. -/
def rowsSYS : List RegRow := [
  ⟨"SYS.ID", 0x0, 1, 0x4, 1, 0x4, false, 0x0,
    [⟨31, 16, .ro, 25624, 0, .raw⟩, ⟨15, 8, .ro, 17, 0, .raw⟩]⟩,
  ⟨"SYS.BOOT", 0x4, 1, 0x4, 1, 0x4, false, 0x0,
    [⟨31, 28, .ro, 0, 0, .raw⟩, ⟨27, 24, .ro, 0, 0, .raw⟩, ⟨23, 22, .ro, 0, 0, .raw⟩, ⟨21, 16, .ro, 0, 0, .raw⟩, ⟨2, 0, .ro, 0, 0, .raw⟩]⟩,
  ⟨"SYS.RSTCAUSE", 0x8, 1, 0x4, 1, 0x4, false, 0x0,
    [⟨7, 7, .w1c, 0, 0, .raw⟩, ⟨6, 6, .w1c, 0, 0, .raw⟩, ⟨5, 5, .w1c, 0, 0, .raw⟩, ⟨4, 4, .w1c, 0, 0, .raw⟩, ⟨3, 3, .w1c, 0, 0, .raw⟩, ⟨2, 2, .w1c, 0, 0, .raw⟩, ⟨1, 1, .w1c, 0, 0, .raw⟩, ⟨0, 0, .w1c, 0, 0, .raw⟩]⟩,
  ⟨"SYS.RSTCMD", 0xC, 1, 0x4, 1, 0x4, true, 0x0,
    [⟨31, 16, .wo, 0, 0, .key⟩, ⟨1, 0, .wo, 0, 0, (.enum 2)⟩]⟩,
  ⟨"SYS.PLTRST", 0x10, 1, 0x4, 1, 0x4, true, 0x0,
    [⟨1, 1, .rw, 0, 0, .raw⟩, ⟨0, 0, .rw, 1, 0, .raw⟩]⟩]

/-- The registers of block PWR, part 1. -/
def rowsPWR1 : List RegRow := [
  ⟨"PWR.CTL", 0x0, 1, 0x4, 1, 0x4, true, 0x0,
    [⟨0, 0, .rw, 0, 0, .raw⟩]⟩,
  ⟨"PWR.ENTER", 0x4, 1, 0x4, 1, 0x4, true, 0x0,
    [⟨31, 16, .wo, 0, 0, .key⟩, ⟨1, 0, .wo, 0, 0, .raw⟩]⟩,
  ⟨"PWR.STAT", 0x8, 1, 0x4, 1, 0x4, false, 0x0,
    [⟨31, 31, .ro, 0, 0, .raw⟩, ⟨30, 30, .ro, 0, 0, .raw⟩, ⟨26, 24, .ro, 0, 0, .raw⟩, ⟨22, 20, .ro, 0, 0, .raw⟩, ⟨17, 16, .ro, 0, 0, .raw⟩, ⟨6, 0, .ro, 0, 0, .raw⟩]⟩,
  ⟨"PWR.ISTAT", 0xC, 1, 0x4, 1, 0x4, false, 0x0,
    [⟨3, 3, .w1c, 0, 0, .raw⟩, ⟨2, 2, .w1c, 0, 0, .raw⟩, ⟨1, 1, .w1c, 0, 0, .raw⟩, ⟨0, 0, .w1c, 0, 0, .raw⟩]⟩,
  ⟨"PWR.IEN", 0x10, 1, 0x4, 1, 0x4, true, 0x0,
    [⟨3, 0, .rw, 0, 0, .raw⟩]⟩,
  ⟨"PWR.WAKEEN", 0x20, 1, 0x4, 1, 0x4, true, 0x0,
    [⟨10, 10, .rw, 0, 0, .raw⟩, ⟨9, 9, .rw, 0, 0, .raw⟩, ⟨8, 8, .rw, 0, 0, .raw⟩, ⟨7, 7, .rw, 0, 0, .raw⟩, ⟨6, 6, .rw, 0, 0, .raw⟩, ⟨5, 5, .rw, 0, 0, .raw⟩, ⟨4, 4, .rw, 0, 0, .raw⟩, ⟨3, 0, .rw, 1, 0, .raw⟩]⟩,
  ⟨"PWR.WAKESRC", 0x24, 1, 0x4, 1, 0x4, false, 0x0,
    [⟨31, 31, .ro, 0, 0, .raw⟩, ⟨30, 30, .ro, 0, 0, .raw⟩, ⟨29, 27, .ro, 0, 0, .raw⟩, ⟨12, 12, .ro, 0, 0, .raw⟩, ⟨11, 11, .ro, 0, 0, .raw⟩, ⟨10, 0, .ro, 0, 0, .raw⟩]⟩,
  ⟨"PWR.HSTMO", 0x28, 1, 0x4, 1, 0x4, true, 0x0,
    [⟨15, 0, .rw, 3000, 0, (.range 100 10000)⟩]⟩,
  ⟨"PWR.EXIT", 0x2C, 1, 0x4, 1, 0x4, true, 0x0,
    [⟨3, 0, .rw, 8, 0, .raw⟩]⟩,
  ⟨"PWR.CGATE", 0x30, 1, 0x4, 1, 0x4, true, 0x0,
    [⟨11, 11, .rw, 0, 0, .raw⟩, ⟨10, 10, .rw, 0, 0, .raw⟩, ⟨9, 9, .rw, 0, 0, .raw⟩, ⟨8, 8, .rw, 0, 0, .raw⟩, ⟨7, 0, .rw, 0, 0, .raw⟩]⟩,
  ⟨"PWR.PDOWN", 0x34, 1, 0x4, 1, 0x4, true, 0x0,
    [⟨26, 17, .ro, 0, 0, .raw⟩, ⟨10, 1, .rw, 0, 0, .raw⟩]⟩,
  ⟨"PWR.LAST", 0x40, 1, 0x4, 1, 0x4, false, 0x0,
    [⟨31, 24, .ro, 0, 0, .raw⟩, ⟨22, 20, .ro, 0, 0, .raw⟩, ⟨19, 16, .ro, 0, 0, .raw⟩]⟩]

/-- The registers of block PWR, part 2. -/
def rowsPWR2 : List RegRow := [
  ⟨"PWR.RAILERR", 0x4C, 1, 0x4, 1, 0x4, false, 0x0,
    [⟨31, 31, .w1c, 0, 0, .raw⟩, ⟨10, 8, .ro, 0, 0, .raw⟩, ⟨4, 4, .ro, 0, 0, .raw⟩, ⟨0, 0, .ro, 0, 0, .raw⟩]⟩,
  ⟨"PWR.LSNHIT", 0x88, 1, 0x4, 1, 0x4, false, 0x0,
    [⟨31, 31, .w1c, 0, 0, .raw⟩, ⟨8, 8, .ro, 0, 0, .raw⟩, ⟨7, 0, .ro, 0, 0, .raw⟩]⟩,
  ⟨"PWR.LASTTL", 0x44, 1, 0x4, 1, 0x4, false, 0x0,
    [⟨31, 0, .ro, 0, 0, .raw⟩]⟩,
  ⟨"PWR.LASTTH", 0x48, 1, 0x4, 1, 0x4, false, 0x0,
    [⟨31, 0, .ro, 0, 0, .raw⟩]⟩,
  ⟨"PWR.LSN", 0x80, 2, 0x4, 1, 0x4, true, 0x0,
    [⟨31, 31, .rw, 0, 0, .raw⟩, ⟨30, 30, .rw, 0, 0, .raw⟩, ⟨29, 29, .rw, 0, 0, .raw⟩, ⟨22, 16, .rw, 0, 0, .raw⟩, ⟨6, 0, .rw, 0, 0, .raw⟩]⟩,
  ⟨"PWR.REFCNT", 0x400, 4, 0x100, 64, 0x4, false, 0x0,
    [⟨31, 0, .rc, 0, 0, .raw⟩]⟩]

/-- The registers of block PWR. -/
def rowsPWR : List RegRow := rowsPWR1 ++ rowsPWR2

/-- The registers of block TBS, part 1. -/
def rowsTBS1 : List RegRow := [
  ⟨"TBS.TBL", 0x0, 1, 0x4, 1, 0x4, false, 0x0,
    [⟨31, 0, .ro, 0, 0, .raw⟩]⟩,
  ⟨"TBS.TBH", 0x4, 1, 0x4, 1, 0x4, false, 0x0,
    [⟨31, 0, .ro, 0, 0, .raw⟩]⟩,
  ⟨"TBS.STAT", 0x8, 1, 0x4, 1, 0x4, false, 0x0,
    [⟨31, 31, .ro, 0, 0, .raw⟩, ⟨1, 1, .ro, 1, 0, .raw⟩, ⟨0, 0, .ro, 0, 0, .raw⟩]⟩,
  ⟨"TBS.ISTAT", 0xC, 1, 0x4, 1, 0x4, false, 0x0,
    [⟨5, 5, .w1c, 0, 0, .raw⟩, ⟨4, 4, .w1c, 0, 0, .raw⟩, ⟨3, 0, .w1c, 0, 0, .raw⟩]⟩,
  ⟨"TBS.IEN", 0x10, 1, 0x4, 1, 0x4, true, 0x0,
    [⟨5, 0, .rw, 0, 0, .raw⟩]⟩,
  ⟨"TBS.GRACE", 0x14, 1, 0x4, 1, 0x4, true, 0x0,
    [⟨15, 0, .rw, 32, 0, (.range 1 65535)⟩]⟩,
  ⟨"TBS.WDPCTL", 0xD0, 1, 0x4, 1, 0x4, true, 0x0,
    [⟨31, 31, .rwl, 0, 0, .raw⟩, ⟨30, 30, .rw, 0, 0, .raw⟩, ⟨29, 29, .rw, 0, 0, .raw⟩, ⟨23, 16, .rw, 20, 0, (.range 1 255)⟩, ⟨15, 0, .rw, 1000, 0, (.range 1 65535)⟩]⟩,
  ⟨"TBS.WDPKICK", 0xD4, 1, 0x4, 1, 0x4, false, 0x0,
    [⟨31, 16, .wo, 0, 0, .key⟩]⟩,
  ⟨"TBS.WDPCNT", 0xD8, 1, 0x4, 1, 0x4, false, 0x0,
    [⟨15, 0, .ro, 0, 0, .raw⟩]⟩,
  ⟨"TBS.WDPWARN", 0xDC, 1, 0x4, 1, 0x4, true, 0x0,
    [⟨15, 0, .rw, 0, 0, .raw⟩]⟩,
  ⟨"TBS.WDEKICK", 0xC0, 1, 0x4, 1, 0x4, false, 0x0,
    [⟨31, 16, .wo, 0, 0, .key⟩]⟩,
  ⟨"TBS.ALM_CMPL", 0x40, 4, 0x20, 1, 0x4, true, 0x0,
    [⟨31, 0, .rw, 0, 0, .raw⟩]⟩]

/-- The registers of block TBS, part 2. -/
def rowsTBS2 : List RegRow := [
  ⟨"TBS.ALM_CMPH", 0x44, 4, 0x20, 1, 0x4, true, 0x0,
    [⟨31, 0, .rw, 0, 0, .raw⟩]⟩,
  ⟨"TBS.ALM_PER", 0x48, 4, 0x20, 1, 0x4, true, 0x0,
    [⟨31, 0, .rw, 0, 0, .raw⟩]⟩,
  ⟨"TBS.ALM_CTL", 0x4C, 4, 0x20, 1, 0x4, true, 0x0,
    [⟨31, 31, .rw, 0, 0, .raw⟩, ⟨30, 30, .ro, 0, 0, .raw⟩, ⟨16, 16, .rw, 0, 0, .raw⟩, ⟨15, 0, .ro, 0, 0, .raw⟩]⟩,
  ⟨"TBS.ALM_NEXTL", 0x50, 4, 0x20, 1, 0x4, false, 0x0,
    [⟨31, 0, .ro, 0, 0, .raw⟩]⟩,
  ⟨"TBS.ALM_NEXTH", 0x54, 4, 0x20, 1, 0x4, false, 0x0,
    [⟨31, 0, .ro, 0, 0, .raw⟩]⟩,
  ⟨"TBS.WDE_CTL", 0x100, 64, 0x8, 1, 0x4, true, 0x0,
    [⟨31, 31, .rw, 0, 0, .raw⟩, ⟨30, 30, .rw, 0, 0, .raw⟩, ⟨15, 0, .rw, 32, 0, (.range 1 65535)⟩]⟩,
  ⟨"TBS.WDE_CNT", 0x104, 64, 0x8, 1, 0x4, false, 0x0,
    [⟨15, 0, .ro, 0, 0, .raw⟩]⟩]

/-- The registers of block TBS. -/
def rowsTBS : List RegRow := rowsTBS1 ++ rowsTBS2

/-- The registers of block ITC, part 1. -/
def rowsITC1 : List RegRow := [
  ⟨"ITC.CTL", 0x0, 1, 0x4, 1, 0x4, true, 0x0,
    [⟨8, 8, .rw, 0, 0, .raw⟩, ⟨0, 0, .rw, 0, 0, .raw⟩]⟩,
  ⟨"ITC.ERR", 0x4, 1, 0x4, 1, 0x4, false, 0x0,
    [⟨23, 16, .ro, 0, 0, .raw⟩, ⟨0, 0, .w1c, 0, 0, .raw⟩]⟩,
  ⟨"ITC.CLAIM", 0x10, 1, 0x4, 1, 0x4, false, 0x0,
    [⟨31, 31, .ro, 0, 0, .raw⟩, ⟨11, 8, .ro, 0, 0, .raw⟩, ⟨7, 0, .ro, 0, 0, .raw⟩]⟩,
  ⟨"ITC.EOI", 0x14, 1, 0x4, 1, 0x4, false, 0x0,
    [⟨31, 0, .wo, 0, 0, .raw⟩]⟩,
  ⟨"ITC.RPRI", 0x18, 1, 0x4, 1, 0x4, false, 0x0,
    [⟨20, 16, .ro, 16, 0, .raw⟩, ⟨12, 8, .ro, 0, 0, .raw⟩, ⟨7, 0, .ro, 0, 0, .raw⟩]⟩,
  ⟨"ITC.TSTAT", 0x800, 65, 0x4, 1, 0x4, false, 0x0,
    [⟨20, 16, .ro, 16, 0, .raw⟩, ⟨12, 8, .ro, 0, 0, .raw⟩, ⟨7, 0, .ro, 0, 0, .raw⟩]⟩,
  ⟨"ITC.ENSET", 0x100, 8, 0x4, 1, 0x4, true, 0x0,
    [⟨31, 0, .w1s, 0, 0, .raw⟩]⟩,
  ⟨"ITC.ENCLR", 0x120, 8, 0x4, 1, 0x4, true, 0x20,
    [⟨31, 0, .w1c, 0, 0, .raw⟩]⟩,
  ⟨"ITC.PENDSET", 0x140, 8, 0x4, 1, 0x4, false, 0x0,
    [⟨31, 0, .w1s, 0, 0, .raw⟩]⟩,
  ⟨"ITC.PENDCLR", 0x160, 8, 0x4, 1, 0x4, false, 0x20,
    [⟨31, 0, .w1c, 0, 0, .raw⟩]⟩,
  ⟨"ITC.ACTIVE", 0x180, 8, 0x4, 1, 0x4, false, 0x0,
    [⟨31, 0, .ro, 0, 0, .raw⟩]⟩,
  ⟨"ITC.LINE", 0x1A0, 8, 0x4, 1, 0x4, false, 0x0,
    [⟨31, 0, .ro, 0, 0, .raw⟩]⟩]

/-- The registers of block ITC, part 2. -/
def rowsITC2 : List RegRow := [
  ⟨"ITC.SRC", 0x1000, 32, 0x4, 1, 0x4, true, 0x0,
    [⟨31, 31, .rw, 0, 0, .raw⟩, ⟨25, 24, .rw, 1, 0, (.enum 2)⟩, ⟨21, 16, .rw, 0, 0, .raw⟩, ⟨13, 8, .rw, 0, 0, .raw⟩, ⟨4, 4, .ro, 0, 0, .raw⟩, ⟨3, 0, .rw, 15, 0, .raw⟩]⟩,
  ⟨"ITC.SRC", 0x1080, 64, 0x4, 1, 0x4, true, 0x0,
    [⟨31, 31, .rw, 1, 0, .raw⟩, ⟨25, 24, .rw, 1, 0, (.enum 2)⟩, ⟨21, 16, .rw, 0, 0, .raw⟩, ⟨13, 8, .rw, 0, 0, .raw⟩, ⟨4, 4, .rw, 1, 0, .raw⟩, ⟨3, 0, .rw, 15, 0, .raw⟩]⟩,
  ⟨"ITC.SRC", 0x1180, 24, 0x4, 1, 0x4, true, 0x0,
    [⟨31, 31, .rw, 0, 0, .raw⟩, ⟨25, 24, .rw, 1, 0, (.enum 2)⟩, ⟨21, 16, .rw, 0, 0, .raw⟩, ⟨13, 8, .rw, 0, 0, .raw⟩, ⟨4, 4, .rw, 1, 0, .raw⟩, ⟨3, 0, .rw, 15, 0, .raw⟩]⟩,
  ⟨"ITC.SRC", 0x11E0, 104, 0x4, 1, 0x4, true, 0x0,
    [⟨31, 31, .rw, 0, 0, .raw⟩, ⟨25, 24, .rw, 1, 0, (.enum 2)⟩, ⟨21, 16, .rw, 0, 0, .raw⟩, ⟨13, 8, .rw, 0, 0, .raw⟩, ⟨4, 4, .rw, 0, 0, .raw⟩, ⟨3, 0, .rw, 15, 0, .raw⟩]⟩,
  ⟨"ITC.SRC", 0x1380, 32, 0x4, 1, 0x4, true, 0x0,
    [⟨31, 31, .rw, 0, 0, .raw⟩, ⟨25, 24, .rw, 1, 0, (.enum 2)⟩, ⟨21, 16, .rw, 0, 0, .raw⟩, ⟨13, 8, .rw, 0, 0, .raw⟩, ⟨4, 4, .rw, 1, 0, .raw⟩, ⟨3, 0, .rw, 15, 0, .raw⟩]⟩]

/-- The registers of block ITC. -/
def rowsITC : List RegRow := rowsITC1 ++ rowsITC2

/-- The registers of block EVN. -/
def rowsEVN : List RegRow := [
  ⟨"EVN.ALMRT", 0x10, 4, 0x4, 1, 0x4, true, 0x0,
    [⟨31, 31, .rw, 0, 0, .raw⟩, ⟨10, 8, .rw, 0, 0, (.enum 4)⟩, ⟨5, 0, .rw, 0, 0, .raw⟩]⟩,
  ⟨"EVN.LATCH", 0x40, 2, 0x4, 1, 0x4, false, 0x0,
    [⟨31, 0, .ro, 0, 0, .raw⟩]⟩,
  ⟨"EVN.STAT", 0x48, 1, 0x4, 1, 0x4, false, 0x0,
    [⟨0, 0, .ro, 0, 0, .raw⟩]⟩,
  ⟨"EVN.MERGE", 0x50, 1, 0x4, 1, 0x4, false, 0x0,
    [⟨31, 0, .rc, 0, 0, .raw⟩]⟩]

/-- The registers of block ADM, part 1. -/
def rowsADM1 : List RegRow := [
  ⟨"ADM.CTL", 0x0, 1, 0x4, 1, 0x4, true, 0x0,
    [⟨4, 4, .rw, 0, 0, .raw⟩, ⟨1, 1, .ro, 0, 0, .raw⟩, ⟨0, 0, .rw, 0, 0, .raw⟩]⟩,
  ⟨"ADM.STAT", 0x4, 1, 0x4, 1, 0x4, false, 0x0,
    [⟨31, 31, .ro, 0, 0, .raw⟩, ⟨30, 30, .ro, 0, 0, .raw⟩, ⟨28, 16, .ro, 0, 0, .raw⟩, ⟨15, 12, .ro, 0, 0, .raw⟩, ⟨11, 8, .ro, 0, 0, .raw⟩, ⟨7, 4, .ro, 0, 0, .raw⟩, ⟨3, 0, .ro, 0, 0, .raw⟩]⟩,
  ⟨"ADM.ISTAT", 0x8, 1, 0x4, 1, 0x4, false, 0x0,
    [⟨6, 6, .w1c, 0, 0, .raw⟩, ⟨5, 5, .w1c, 0, 0, .raw⟩, ⟨4, 4, .w1c, 0, 0, .raw⟩, ⟨3, 3, .w1c, 0, 0, .raw⟩, ⟨2, 2, .w1c, 0, 0, .raw⟩, ⟨1, 1, .w1c, 0, 0, .raw⟩, ⟨0, 0, .w1c, 0, 0, .raw⟩]⟩,
  ⟨"ADM.IEN", 0xC, 1, 0x4, 1, 0x4, true, 0x0,
    [⟨6, 0, .rw, 0, 0, .raw⟩]⟩,
  ⟨"ADM.GUARD", 0x10, 1, 0x4, 1, 0x4, true, 0x0,
    [⟨8, 0, .rw, 115, 0, (.range 100 400)⟩]⟩,
  ⟨"ADM.RAILLAT", 0x14, 1, 0x4, 1, 0x4, true, 0x0,
    [⟨9, 0, .rw, 40, 0, (.range 1 1000)⟩]⟩,
  ⟨"ADM.STUB", 0x18, 1, 0x4, 1, 0x4, true, 0x0,
    [⟨15, 0, .rw, 7400, 0, .raw⟩]⟩,
  ⟨"ADM.THERM", 0x1C, 1, 0x4, 1, 0x4, true, 0x0,
    [⟨16, 16, .ro, 0, 0, .raw⟩, ⟨9, 9, .rw, 1, 0, .raw⟩, ⟨8, 8, .rw, 1, 0, .raw⟩, ⟨1, 1, .ro, 0, 0, .raw⟩, ⟨0, 0, .rw, 0, 0, .raw⟩]⟩,
  ⟨"ADM.VTHERM", 0x50, 1, 0x4, 1, 0x4, true, 0x0,
    [⟨3, 0, .rw, 8, 0, .raw⟩]⟩,
  ⟨"ADM.LASTB", 0x60, 1, 0x4, 1, 0x4, false, 0x0,
    [⟨30, 28, .ro, 0, 0, .raw⟩, ⟨27, 22, .ro, 0, 0, .raw⟩, ⟨11, 0, .ro, 0, 0, .raw⟩]⟩,
  ⟨"ADM.RESULT", 0x880, 1, 0x4, 1, 0x4, false, 0x0,
    [⟨31, 0, .wo, 0, 0, .raw⟩]⟩,
  ⟨"ADM.DONE", 0x884, 1, 0x4, 1, 0x4, false, 0x0,
    [⟨31, 31, .wo, 0, 0, .raw⟩, ⟨23, 16, .wo, 0, 0, (.range 0 31)⟩, ⟨11, 0, .wo, 0, 0, .raw⟩]⟩]

/-- The registers of block ADM, part 2. -/
def rowsADM2 : List RegRow := [
  ⟨"ADM.OWN", 0x20, 8, 0x4, 1, 0x4, true, 0x0,
    [⟨15, 8, .ro, 0, 0, .raw⟩, ⟨7, 0, .rw, 0, 0, .raw⟩]⟩,
  ⟨"ADM.VCEIL", 0x40, 2, 0x4, 1, 0x4, true, 0x0,
    [⟨11, 8, .ro, 8, 0, .raw⟩, ⟨3, 0, .rw, 8, 0, .raw⟩]⟩,
  ⟨"ADM.VFLOOR", 0x48, 2, 0x4, 1, 0x4, true, 0x0,
    [⟨3, 0, .rw, 8, 0, .raw⟩]⟩,
  ⟨"ADM.CNT", 0x80, 11, 0x4, 1, 0x4, false, 0x0,
    [⟨31, 0, .rc, 0, 0, .raw⟩]⟩,
  ⟨"ADM.PTAB", 0x400, 2, 0x40, 1, 0x4, false, 0x0,
    [⟨31, 31, .ro, 0, 0, .raw⟩, ⟨30, 30, .ro, 0, 0, .raw⟩, ⟨25, 16, .ro, 420, 0, .raw⟩, ⟨15, 0, .ro, 0, 0, .raw⟩]⟩,
  ⟨"ADM.PTAB", 0x404, 2, 0x40, 1, 0x4, false, 0x0,
    [⟨31, 31, .ro, 0, 0, .raw⟩, ⟨30, 30, .ro, 0, 0, .raw⟩, ⟨25, 16, .ro, 450, 0, .raw⟩, ⟨15, 0, .ro, 0, 0, .raw⟩]⟩,
  ⟨"ADM.PTAB", 0x408, 2, 0x40, 1, 0x4, false, 0x0,
    [⟨31, 31, .ro, 0, 0, .raw⟩, ⟨30, 30, .ro, 0, 0, .raw⟩, ⟨25, 16, .ro, 480, 0, .raw⟩, ⟨15, 0, .ro, 0, 0, .raw⟩]⟩,
  ⟨"ADM.PTAB", 0x40C, 2, 0x40, 1, 0x4, false, 0x0,
    [⟨31, 31, .ro, 0, 0, .raw⟩, ⟨30, 30, .ro, 0, 0, .raw⟩, ⟨25, 16, .ro, 500, 0, .raw⟩, ⟨15, 0, .ro, 0, 0, .raw⟩]⟩,
  ⟨"ADM.PTAB", 0x410, 2, 0x40, 1, 0x4, false, 0x0,
    [⟨31, 31, .ro, 0, 0, .raw⟩, ⟨30, 30, .ro, 0, 0, .raw⟩, ⟨25, 16, .ro, 520, 0, .raw⟩, ⟨15, 0, .ro, 0, 0, .raw⟩]⟩,
  ⟨"ADM.PTAB", 0x414, 2, 0x40, 1, 0x4, false, 0x0,
    [⟨31, 31, .ro, 0, 0, .raw⟩, ⟨30, 30, .ro, 0, 0, .raw⟩, ⟨25, 16, .ro, 540, 0, .raw⟩, ⟨15, 0, .ro, 0, 0, .raw⟩]⟩,
  ⟨"ADM.PTAB", 0x418, 2, 0x40, 1, 0x4, false, 0x0,
    [⟨31, 31, .ro, 0, 0, .raw⟩, ⟨30, 30, .ro, 0, 0, .raw⟩, ⟨25, 16, .ro, 560, 0, .raw⟩, ⟨15, 0, .ro, 0, 0, .raw⟩]⟩,
  ⟨"ADM.PTAB", 0x41C, 2, 0x40, 1, 0x4, false, 0x0,
    [⟨31, 31, .ro, 0, 0, .raw⟩, ⟨30, 30, .ro, 0, 0, .raw⟩, ⟨25, 16, .ro, 580, 0, .raw⟩, ⟨15, 0, .ro, 0, 0, .raw⟩]⟩]

/-- The registers of block ADM, part 3. -/
def rowsADM3 : List RegRow := [
  ⟨"ADM.PTAB", 0x420, 2, 0x40, 1, 0x4, false, 0x0,
    [⟨31, 31, .ro, 0, 0, .raw⟩, ⟨30, 30, .ro, 0, 0, .raw⟩, ⟨25, 16, .ro, 600, 0, .raw⟩, ⟨15, 0, .ro, 0, 0, .raw⟩]⟩,
  ⟨"ADM.PTAB", 0x424, 2, 0x40, 1, 0x4, false, 0x0,
    [⟨31, 31, .ro, 0, 0, .raw⟩, ⟨30, 30, .ro, 0, 0, .raw⟩, ⟨25, 16, .ro, 620, 0, .raw⟩, ⟨15, 0, .ro, 0, 0, .raw⟩]⟩,
  ⟨"ADM.PTAB", 0x428, 2, 0x40, 1, 0x4, false, 0x0,
    [⟨31, 31, .ro, 0, 0, .raw⟩, ⟨30, 30, .ro, 0, 0, .raw⟩, ⟨25, 16, .ro, 650, 0, .raw⟩, ⟨15, 0, .ro, 0, 0, .raw⟩]⟩,
  ⟨"ADM.PTAB", 0x42C, 2, 0x40, 1, 0x4, false, 0x0,
    [⟨31, 31, .ro, 0, 0, .raw⟩, ⟨30, 30, .ro, 0, 0, .raw⟩, ⟨25, 16, .ro, 680, 0, .raw⟩, ⟨15, 0, .ro, 0, 0, .raw⟩]⟩,
  ⟨"ADM.PTAB", 0x430, 2, 0x40, 1, 0x4, false, 0x0,
    [⟨31, 31, .ro, 0, 0, .raw⟩, ⟨30, 30, .ro, 0, 0, .raw⟩, ⟨25, 16, .ro, 720, 0, .raw⟩, ⟨15, 0, .ro, 0, 0, .raw⟩]⟩,
  ⟨"ADM.PTAB", 0x434, 2, 0x40, 1, 0x4, false, 0x0,
    [⟨31, 31, .ro, 0, 0, .raw⟩, ⟨30, 30, .ro, 0, 0, .raw⟩, ⟨25, 16, .ro, 760, 0, .raw⟩, ⟨15, 0, .ro, 0, 0, .raw⟩]⟩,
  ⟨"ADM.PTAB", 0x438, 2, 0x40, 1, 0x4, false, 0x0,
    [⟨31, 31, .ro, 0, 0, .raw⟩, ⟨30, 30, .ro, 0, 0, .raw⟩, ⟨25, 16, .ro, 800, 0, .raw⟩, ⟨15, 0, .ro, 0, 0, .raw⟩]⟩,
  ⟨"ADM.PTAB", 0x43C, 2, 0x40, 1, 0x4, false, 0x0,
    [⟨31, 31, .ro, 0, 0, .raw⟩, ⟨30, 30, .ro, 0, 0, .raw⟩, ⟨25, 16, .ro, 850, 0, .raw⟩, ⟨15, 0, .ro, 0, 0, .raw⟩]⟩,
  ⟨"ADM.CAT_ENTRY", 0x1000, 256, 0x10, 1, 0x4, true, 0x0,
    [⟨31, 2, .rw, 0, 0, .raw⟩]⟩,
  ⟨"ADM.CAT_MARKS", 0x1004, 256, 0x10, 1, 0x4, true, 0x0,
    [⟨31, 0, .rw, 1, 0, (.range 1 4294967295)⟩]⟩,
  ⟨"ADM.CAT_SET", 0x1008, 256, 0x10, 1, 0x4, true, 0x0,
    [⟨31, 16, .rw, 0, 0, .raw⟩, ⟨7, 0, .rw, 0, 0, .raw⟩]⟩,
  ⟨"ADM.CAT_CTL", 0x100C, 256, 0x10, 1, 0x4, true, 0x0,
    [⟨31, 31, .rwl, 0, 0, .raw⟩, ⟨25, 24, .ro, 0, 0, .raw⟩, ⟨1, 1, .ro, 0, 0, .raw⟩, ⟨0, 0, .rw, 0, 0, .raw⟩]⟩]

/-- The registers of block ADM. -/
def rowsADM : List RegRow := rowsADM1 ++ rowsADM2 ++ rowsADM3

/-- The registers of block DPT, part 1. -/
def rowsDPT1 : List RegRow := [
  ⟨"DPT.CTL", 0x0, 1, 0x4, 1, 0x4, true, 0x0,
    [⟨7, 4, .ro, 0, 0, .raw⟩, ⟨1, 1, .ro, 0, 0, .raw⟩, ⟨0, 0, .rw, 0, 0, .raw⟩]⟩,
  ⟨"DPT.POOL", 0x4, 1, 0x4, 1, 0x4, true, 0x0,
    [⟨29, 24, .ro, 4, 0, .raw⟩, ⟨21, 16, .ro, 60, 0, .raw⟩, ⟨13, 8, .rw, 4, 0, (.range 1 32)⟩, ⟨5, 0, .rw, 60, 0, .raw⟩]⟩,
  ⟨"DPT.FREE", 0x8, 1, 0x4, 1, 0x4, false, 0x0,
    [⟨17, 0, .ro, 0, 0, .raw⟩]⟩,
  ⟨"DPT.OPEN", 0xC, 1, 0x4, 1, 0x4, false, 0x0,
    [⟨6, 0, .ro, 0, 0, .raw⟩]⟩,
  ⟨"DPT.FULLCNT", 0x10, 1, 0x4, 1, 0x4, false, 0x0,
    [⟨31, 0, .rc, 0, 0, .raw⟩]⟩,
  ⟨"DPT.ABNCNT", 0x14, 1, 0x4, 1, 0x4, false, 0x0,
    [⟨31, 0, .rc, 0, 0, .raw⟩]⟩,
  ⟨"DPT.SLOWCNT", 0x18, 1, 0x4, 1, 0x4, false, 0x0,
    [⟨31, 0, .rc, 0, 0, .raw⟩]⟩,
  ⟨"DPT.QCMD", 0x20, 1, 0x4, 1, 0x4, true, 0x0,
    [⟨31, 31, .wo, 0, 0, .raw⟩, ⟨9, 0, .wo, 0, 0, .raw⟩]⟩,
  ⟨"DPT.ISTAT", 0x28, 1, 0x4, 1, 0x4, false, 0x0,
    [⟨4, 4, .w1c, 0, 0, .raw⟩, ⟨3, 3, .w1c, 0, 0, .raw⟩, ⟨2, 2, .w1c, 0, 0, .raw⟩, ⟨1, 1, .w1c, 0, 0, .raw⟩, ⟨0, 0, .w1c, 0, 0, .raw⟩]⟩,
  ⟨"DPT.IEN", 0x2C, 1, 0x4, 1, 0x4, true, 0x0,
    [⟨4, 0, .rw, 0, 0, .raw⟩]⟩,
  ⟨"DPT.QCFG", 0x4000, 16, 0x10, 1, 0x4, true, 0x0,
    [⟨31, 31, .ro, 0, 0, .raw⟩, ⟨30, 30, .rw, 0, 0, .raw⟩, ⟨29, 29, .ro, 0, 0, .raw⟩, ⟨28, 28, .ro, 0, 0, .raw⟩, ⟨15, 8, .rw, 255, 0, .raw⟩]⟩,
  ⟨"DPT.QCFG", 0x4100, 64, 0x10, 1, 0x4, true, 0x0,
    [⟨31, 31, .ro, 0, 0, .raw⟩, ⟨30, 30, .rw, 0, 0, .raw⟩, ⟨29, 29, .ro, 0, 0, .raw⟩, ⟨28, 28, .ro, 0, 0, .raw⟩, ⟨15, 8, .rw, 64, 1, .raw⟩]⟩]

/-- The registers of block DPT, part 2. -/
def rowsDPT2 : List RegRow := [
  ⟨"DPT.QCFG", 0x4500, 944, 0x10, 1, 0x4, true, 0x0,
    [⟨31, 31, .ro, 0, 0, .raw⟩, ⟨30, 30, .rw, 0, 0, .raw⟩, ⟨29, 29, .ro, 0, 0, .raw⟩, ⟨28, 28, .ro, 0, 0, .raw⟩, ⟨15, 8, .rw, 255, 0, .raw⟩]⟩,
  ⟨"DPT.QLIM", 0x4004, 1024, 0x10, 1, 0x4, true, 0x0,
    [⟨17, 0, .rw, 256, 0, (.range 1 131072)⟩]⟩,
  ⟨"DPT.QTHR", 0x4008, 1024, 0x10, 1, 0x4, true, 0x0,
    [⟨31, 31, .rw, 0, 0, .raw⟩, ⟨30, 30, .rw, 0, 0, .raw⟩, ⟨29, 29, .rw, 0, 0, .raw⟩, ⟨28, 24, .rw, 0, 0, .raw⟩, ⟨21, 16, .rw, 0, 0, .raw⟩, ⟨15, 0, .rw, 1, 0, (.range 1 65535)⟩]⟩,
  ⟨"DPT.QSTAT", 0x400C, 1024, 0x10, 1, 0x4, false, 0x0,
    [⟨31, 18, .ro, 0, 0, .raw⟩, ⟨17, 0, .ro, 0, 0, .raw⟩]⟩]

/-- The registers of block DPT. -/
def rowsDPT : List RegRow := rowsDPT1 ++ rowsDPT2

/-- The registers of block GAL. -/
def rowsGAL : List RegRow := [
  ⟨"GAL.SVC", 0x0, 1, 0x4, 1, 0x4, true, 0x0,
    [⟨9, 8, .ro, 0, 0, .raw⟩, ⟨0, 0, .rwl, 0, 0, .raw⟩]⟩,
  ⟨"GAL.RET", 0x10, 1, 0x4, 1, 0x4, true, 0x0,
    [⟨25, 25, .rw, 1, 0, .raw⟩, ⟨24, 24, .rw, 1, 0, .raw⟩, ⟨23, 16, .rw, 255, 0, .raw⟩, ⟨15, 0, .rw, 65535, 0, .raw⟩]⟩,
  ⟨"GAL.PGATE", 0x14, 1, 0x4, 1, 0x4, true, 0x0,
    [⟨31, 16, .ro, 0, 0, .raw⟩, ⟨15, 0, .rw, 0, 0, .raw⟩]⟩,
  ⟨"GAL.SCRUB", 0x20, 1, 0x4, 1, 0x4, true, 0x0,
    [⟨31, 31, .rw, 0, 0, .raw⟩, ⟨15, 0, .rw, 1024, 0, (.range 1 65535)⟩]⟩,
  ⟨"GAL.SCRPOS", 0x24, 1, 0x4, 1, 0x4, false, 0x0,
    [⟨31, 24, .ro, 0, 0, .raw⟩, ⟨18, 0, .ro, 0, 0, .raw⟩]⟩,
  ⟨"GAL.CECNT", 0x30, 1, 0x4, 1, 0x4, false, 0x0,
    [⟨31, 0, .rc, 0, 0, .raw⟩]⟩,
  ⟨"GAL.UECNT", 0x34, 1, 0x4, 1, 0x4, false, 0x0,
    [⟨31, 0, .rc, 0, 0, .raw⟩]⟩,
  ⟨"GAL.UEADDR", 0x38, 1, 0x4, 1, 0x4, false, 0x0,
    [⟨31, 3, .ro, 0, 0, .raw⟩]⟩,
  ⟨"GAL.ESTAT", 0x3C, 1, 0x4, 1, 0x4, true, 0x0,
    [⟨8, 8, .rw, 0, 0, .raw⟩, ⟨1, 1, .w1c, 0, 0, .raw⟩, ⟨0, 0, .w1c, 0, 0, .raw⟩]⟩,
  ⟨"GAL.EINJ", 0x40, 1, 0x4, 1, 0x4, true, 0x0,
    [⟨31, 31, .rw, 0, 0, .raw⟩, ⟨30, 30, .rw, 0, 0, .raw⟩, ⟨14, 8, .rw, 0, 0, (.range 0 71)⟩, ⟨6, 0, .rw, 0, 0, (.range 0 71)⟩]⟩,
  ⟨"GAL.CCTL", 0x80, 1, 0x4, 1, 0x4, true, 0x0,
    [⟨1, 1, .wo, 0, 0, .raw⟩, ⟨0, 0, .rw, 0, 0, .raw⟩]⟩,
  ⟨"GAL.CONF", 0x1000, 8, 0x200, 128, 0x4, false, 0x0,
    [⟨31, 0, .ro, 0, 0, .raw⟩]⟩]

/-- The registers of block VLT. -/
def rowsVLT : List RegRow := [
  ⟨"VLT.STAT", 0x0, 1, 0x4, 1, 0x4, false, 0x0,
    [⟨31, 31, .ro, 0, 0, .raw⟩, ⟨30, 30, .ro, 0, 0, .raw⟩, ⟨23, 16, .ro, 0, 0, .raw⟩, ⟨2, 0, .ro, 0, 0, .raw⟩]⟩,
  ⟨"VLT.WIPE", 0x4, 1, 0x4, 1, 0x4, true, 0x0,
    [⟨31, 16, .wo, 0, 0, .key⟩, ⟨0, 0, .wo, 0, 0, .raw⟩]⟩,
  ⟨"VLT.CECNT", 0x10, 1, 0x4, 1, 0x4, false, 0x0,
    [⟨31, 0, .rc, 0, 0, .raw⟩]⟩,
  ⟨"VLT.UEADDR", 0x14, 1, 0x4, 1, 0x4, false, 0x0,
    [⟨31, 3, .ro, 0, 0, .raw⟩]⟩,
  ⟨"VLT.ESTAT", 0x18, 1, 0x4, 1, 0x4, true, 0x0,
    [⟨8, 8, .rw, 0, 0, .raw⟩, ⟨1, 1, .w1c, 0, 0, .raw⟩, ⟨0, 0, .w1c, 0, 0, .raw⟩]⟩,
  ⟨"VLT.WPROT", 0x20, 1, 0x4, 1, 0x4, true, 0x0,
    [⟨15, 0, .w1s, 0, 0, .raw⟩]⟩]

/-- The registers of block HPT, part 1. -/
def rowsHPT1 : List RegRow := [
  ⟨"HPT.CTL", 0x0, 1, 0x4, 1, 0x4, true, 0x0,
    [⟨3, 3, .rw, 0, 0, .raw⟩, ⟨2, 2, .rw, 0, 0, .raw⟩, ⟨1, 1, .w1s, 0, 0, .raw⟩, ⟨0, 0, .rw, 0, 0, .raw⟩]⟩,
  ⟨"HPT.LINKCFG", 0x4, 1, 0x4, 1, 0x4, true, 0x0,
    [⟨30, 28, .ro, 4, 0, .raw⟩, ⟨27, 26, .ro, 2, 0, .raw⟩, ⟨25, 25, .ro, 1, 0, .raw⟩, ⟨6, 4, .rw, 4, 0, (.range 0 4)⟩, ⟨3, 2, .rw, 2, 0, (.range 0 2)⟩, ⟨1, 1, .rw, 1, 0, .raw⟩]⟩,
  ⟨"HPT.LSTAT", 0x8, 1, 0x4, 1, 0x4, false, 0x0,
    [⟨27, 24, .ro, 0, 0, .raw⟩, ⟨21, 20, .ro, 0, 0, .raw⟩, ⟨19, 18, .ro, 0, 0, .raw⟩, ⟨17, 15, .ro, 0, 0, .raw⟩, ⟨14, 13, .ro, 0, 0, .raw⟩, ⟨12, 12, .ro, 0, 0, .raw⟩, ⟨11, 8, .ro, 0, 0, .raw⟩, ⟨2, 2, .ro, 0, 0, .raw⟩, ⟨1, 1, .ro, 0, 0, .raw⟩, ⟨0, 0, .ro, 0, 0, .raw⟩]⟩,
  ⟨"HPT.ISTAT", 0xC, 1, 0x4, 1, 0x4, false, 0x0,
    [⟨5, 5, .w1c, 0, 0, .raw⟩, ⟨4, 4, .w1c, 0, 0, .raw⟩, ⟨3, 3, .w1c, 0, 0, .raw⟩, ⟨2, 2, .w1c, 0, 0, .raw⟩, ⟨1, 1, .w1c, 0, 0, .raw⟩, ⟨0, 0, .w1c, 0, 0, .raw⟩]⟩,
  ⟨"HPT.IEN", 0x10, 1, 0x4, 1, 0x4, true, 0x0,
    [⟨5, 0, .rw, 0, 0, .raw⟩]⟩,
  ⟨"HPT.HOLDMAX", 0x14, 1, 0x4, 1, 0x4, true, 0x0,
    [⟨9, 0, .rw, 50, 0, (.range 1 1000)⟩]⟩,
  ⟨"HPT.HOLD", 0x18, 1, 0x4, 1, 0x4, false, 0x0,
    [⟨31, 31, .ro, 0, 0, .raw⟩, ⟨8, 0, .ro, 0, 0, .raw⟩]⟩,
  ⟨"HPT.LOSTW", 0x20, 1, 0x4, 1, 0x4, false, 0x0,
    [⟨31, 31, .w1c, 0, 0, .raw⟩, ⟨15, 0, .ro, 0, 0, .raw⟩]⟩,
  ⟨"HPT.LOSTA", 0x24, 1, 0x4, 1, 0x4, false, 0x0,
    [⟨31, 0, .ro, 0, 0, .raw⟩]⟩,
  ⟨"HPT.HMEM", 0x30, 1, 0x4, 1, 0x4, true, 0x0,
    [⟨1, 1, .ro, 1, 0, .raw⟩, ⟨0, 0, .rw, 1, 0, .raw⟩]⟩,
  ⟨"HPT.FCCMD", 0x40, 1, 0x4, 1, 0x4, true, 0x0,
    [⟨31, 31, .wo, 0, 0, .raw⟩]⟩,
  ⟨"HPT.FCSTAT", 0x44, 1, 0x4, 1, 0x4, false, 0x0,
    [⟨31, 31, .ro, 0, 0, .raw⟩, ⟨14, 0, .ro, 0, 0, .raw⟩]⟩]

/-- The registers of block HPT, part 2. -/
def rowsHPT2 : List RegRow := [
  ⟨"HPT.SUBID", 0x50, 1, 0x4, 1, 0x4, true, 0x0,
    [⟨31, 16, .rw, 0, 0, .raw⟩, ⟨15, 0, .rw, 0, 0, .raw⟩]⟩,
  ⟨"HPT.DPERR", 0x60, 1, 0x4, 1, 0x4, false, 0x0,
    [⟨31, 31, .w1c, 0, 0, .raw⟩, ⟨15, 0, .ro, 0, 0, .raw⟩]⟩,
  ⟨"HPT.DPEA", 0x64, 1, 0x4, 1, 0x4, false, 0x0,
    [⟨31, 0, .ro, 0, 0, .raw⟩]⟩,
  ⟨"HPT.DPF_BASE", 0x100, 8, 0x8, 1, 0x4, true, 0x0,
    [⟨31, 12, .rw, 0, 0, .raw⟩]⟩,
  ⟨"HPT.DPF_LIMIT", 0x104, 8, 0x8, 1, 0x4, true, 0x0,
    [⟨31, 12, .rw, 0, 0, .raw⟩, ⟨1, 0, .rw, 0, 0, (.enum 2)⟩]⟩,
  ⟨"HPT.FWT_BASE", 0x1080, 240, 0x8, 1, 0x4, true, 0x0,
    [⟨31, 4, .rw, 0, 0, .raw⟩]⟩,
  ⟨"HPT.FWT_ATTR", 0x1084, 240, 0x8, 1, 0x4, true, 0x0,
    [⟨31, 31, .ro, 0, 0, .raw⟩, ⟨30, 30, .rw, 0, 0, .raw⟩, ⟨3, 3, .rw, 0, 0, .raw⟩, ⟨2, 2, .rw, 0, 0, .raw⟩, ⟨1, 1, .rw, 0, 0, .raw⟩]⟩]

/-- The registers of block HPT. -/
def rowsHPT : List RegRow := rowsHPT1 ++ rowsHPT2

/-- The registers of block RNG, part 1. -/
def rowsRNG1 : List RegRow := [
  ⟨"RNG.CTL", 0x0, 1, 0x4, 1, 0x4, true, 0x0,
    [⟨0, 0, .rw, 0, 0, .raw⟩]⟩,
  ⟨"RNG.STAT", 0x4, 1, 0x4, 1, 0x4, false, 0x0,
    [⟨31, 31, .ro, 0, 0, .raw⟩, ⟨9, 0, .ro, 0, 0, .raw⟩]⟩,
  ⟨"RNG.RESUME", 0x8, 1, 0x4, 1, 0x4, true, 0x0,
    [⟨0, 0, .wo, 0, 0, .raw⟩]⟩,
  ⟨"RNG.ISTAT", 0xC, 1, 0x4, 1, 0x4, false, 0x0,
    [⟨3, 3, .w1c, 0, 0, .raw⟩, ⟨2, 2, .w1c, 0, 0, .raw⟩, ⟨1, 1, .w1c, 0, 0, .raw⟩, ⟨0, 0, .w1c, 0, 0, .raw⟩]⟩,
  ⟨"RNG.IEN", 0x10, 1, 0x4, 1, 0x4, true, 0x0,
    [⟨3, 0, .rw, 0, 0, .raw⟩]⟩,
  ⟨"RNG.DROPCNT", 0x14, 1, 0x4, 1, 0x4, false, 0x0,
    [⟨31, 0, .rc, 0, 0, .raw⟩]⟩,
  ⟨"RNG.SQBASEL", 0x1000, 64, 0x20, 1, 0x4, true, 0x0,
    [⟨31, 6, .rw, 0, 0, .raw⟩]⟩,
  ⟨"RNG.SQBASEH", 0x1004, 64, 0x20, 1, 0x4, true, 0x0,
    [⟨19, 0, .rw, 0, 0, .raw⟩]⟩,
  ⟨"RNG.SQCTL", 0x1008, 64, 0x20, 1, 0x4, true, 0x0,
    [⟨31, 31, .ro, 0, 0, .raw⟩, ⟨30, 30, .rw, 0, 0, .raw⟩, ⟨21, 16, .rw, 0, 0, .raw⟩, ⟨11, 8, .rw, 4, 0, (.range 4 12)⟩, ⟨6, 4, .rw, 4, 0, (.range 1 4)⟩, ⟨0, 0, .rw, 0, 0, .raw⟩]⟩,
  ⟨"RNG.SQSTAT", 0x100C, 64, 0x20, 1, 0x4, false, 0x0,
    [⟨31, 30, .ro, 0, 0, .raw⟩, ⟨27, 24, .ro, 0, 0, .raw⟩, ⟨23, 12, .ro, 0, 0, .raw⟩, ⟨11, 0, .ro, 0, 0, .raw⟩]⟩,
  ⟨"RNG.CQBASEL", 0x2000, 64, 0x20, 1, 0x4, true, 0x0,
    [⟨31, 5, .rw, 0, 0, .raw⟩]⟩,
  ⟨"RNG.CQBASEH", 0x2004, 64, 0x20, 1, 0x4, true, 0x0,
    [⟨19, 0, .rw, 0, 0, .raw⟩]⟩]

/-- The registers of block RNG, part 2. -/
def rowsRNG2 : List RegRow := [
  ⟨"RNG.CQCTL", 0x2008, 64, 0x20, 1, 0x4, true, 0x0,
    [⟨31, 31, .ro, 0, 0, .raw⟩, ⟨30, 30, .rw, 0, 0, .raw⟩, ⟨21, 16, .rw, 0, 0, .raw⟩, ⟨11, 8, .rw, 4, 0, (.range 4 12)⟩, ⟨0, 0, .rw, 0, 0, .raw⟩]⟩,
  ⟨"RNG.CQSTAT", 0x200C, 64, 0x20, 1, 0x4, false, 0x0,
    [⟨31, 30, .ro, 0, 0, .raw⟩, ⟨29, 29, .ro, 0, 0, .raw⟩, ⟨27, 24, .ro, 0, 0, .raw⟩, ⟨23, 12, .ro, 0, 0, .raw⟩, ⟨11, 0, .ro, 0, 0, .raw⟩]⟩,
  ⟨"RNG.CQMOD", 0x2010, 64, 0x20, 1, 0x4, true, 0x0,
    [⟨23, 16, .rw, 1, 0, (.range 1 255)⟩, ⟨9, 0, .rw, 0, 0, .raw⟩]⟩,
  ⟨"RNG.CQPEND", 0x2014, 64, 0x20, 1, 0x4, false, 0x0,
    [⟨25, 16, .ro, 0, 0, .raw⟩, ⟨11, 0, .ro, 0, 0, .raw⟩]⟩]

/-- The registers of block RNG. -/
def rowsRNG : List RegRow := rowsRNG1 ++ rowsRNG2

/-- The registers of block CUR, part 1. -/
def rowsCUR1 : List RegRow := [
  ⟨"CUR.STAT", 0x0, 1, 0x4, 1, 0x4, false, 0x0,
    [⟨31, 31, .ro, 0, 0, .raw⟩, ⟨30, 30, .ro, 0, 0, .raw⟩, ⟨29, 29, .ro, 0, 0, .raw⟩, ⟨1, 0, .ro, 0, 0, .raw⟩]⟩,
  ⟨"CUR.FAULT", 0x4, 1, 0x4, 1, 0x4, false, 0x0,
    [⟨31, 31, .w1c, 0, 0, .raw⟩, ⟨30, 30, .w1c, 0, 0, .raw⟩, ⟨27, 24, .ro, 0, 0, .raw⟩, ⟨21, 20, .ro, 0, 0, .raw⟩, ⟨18, 16, .ro, 0, 0, .raw⟩, ⟨15, 8, .ro, 0, 0, .raw⟩]⟩,
  ⟨"CUR.FSEQ", 0x8, 1, 0x4, 1, 0x4, false, 0x0,
    [⟨31, 0, .ro, 0, 0, .raw⟩]⟩,
  ⟨"CUR.FADDR", 0xC, 1, 0x4, 1, 0x4, false, 0x0,
    [⟨31, 0, .ro, 0, 0, .raw⟩]⟩,
  ⟨"CUR.SAFE", 0x10, 1, 0x4, 1, 0x4, true, 0x0,
    [⟨31, 31, .rwl, 0, 0, .raw⟩, ⟨15, 12, .rw, 3, 0, .raw⟩, ⟨5, 5, .rw, 0, 0, .raw⟩, ⟨4, 4, .rw, 0, 0, .raw⟩, ⟨3, 3, .rw, 0, 0, .raw⟩, ⟨2, 2, .rw, 1, 0, .raw⟩, ⟨1, 0, .rw, 2, 0, (.enum 2)⟩]⟩,
  ⟨"CUR.SAFECMD", 0x14, 1, 0x4, 1, 0x4, true, 0x0,
    [⟨31, 16, .wo, 0, 0, .key⟩, ⟨0, 0, .wo, 0, 0, .raw⟩]⟩,
  ⟨"CUR.RESTART", 0x18, 1, 0x4, 1, 0x4, true, 0x0,
    [⟨31, 2, .rwl, 0, 0, .raw⟩, ⟨0, 0, .rwl, 0, 0, .raw⟩]⟩,
  ⟨"CUR.CMPX", 0x20, 1, 0x4, 1, 0x4, true, 0x0,
    [⟨13, 0, .rw, 1000, 0, (.range 100 10000)⟩]⟩,
  ⟨"CUR.CMPXCNT", 0x24, 1, 0x4, 1, 0x4, false, 0x0,
    [⟨31, 0, .ro, 0, 0, .raw⟩]⟩,
  ⟨"CUR.DPCNT", 0x28, 1, 0x4, 1, 0x4, false, 0x0,
    [⟨31, 0, .rc, 0, 0, .raw⟩]⟩,
  ⟨"CUR.WDCTL", 0x30, 1, 0x4, 1, 0x4, true, 0x0,
    [⟨31, 31, .rwl, 0, 0, .raw⟩, ⟨30, 30, .rw, 0, 0, .raw⟩, ⟨15, 0, .rw, 1000, 0, (.range 1 60000)⟩]⟩,
  ⟨"CUR.WDKICK", 0x34, 1, 0x4, 1, 0x4, false, 0x0,
    [⟨31, 16, .wo, 0, 0, .key⟩]⟩]

/-- The registers of block CUR, part 2. -/
def rowsCUR2 : List RegRow := [
  ⟨"CUR.WDCNT", 0x38, 1, 0x4, 1, 0x4, false, 0x0,
    [⟨15, 0, .ro, 0, 0, .raw⟩]⟩]

/-- The registers of block CUR. -/
def rowsCUR : List RegRow := rowsCUR1 ++ rowsCUR2

/-- The registers of block PRV. -/
def rowsPRV : List RegRow := [
  ⟨"PRV.CTL", 0x0, 1, 0x4, 1, 0x4, true, 0x0,
    [⟨31, 31, .rw, 0, 0, .raw⟩, ⟨11, 0, .rw, 1024, 0, (.range 1 2048)⟩]⟩,
  ⟨"PRV.STAT", 0x4, 1, 0x4, 1, 0x4, false, 0x0,
    [⟨27, 16, .ro, 0, 0, .raw⟩, ⟨10, 0, .ro, 0, 0, .raw⟩]⟩,
  ⟨"PRV.ACK", 0x8, 1, 0x4, 1, 0x4, false, 0x0,
    [⟨11, 0, .wo, 0, 0, (.range 0 2048)⟩]⟩,
  ⟨"PRV.OVF", 0xC, 1, 0x4, 1, 0x4, false, 0x0,
    [⟨31, 0, .rc, 0, 0, .raw⟩]⟩,
  ⟨"PRV.ENT", 0x20, 8, 0x4, 1, 0x4, false, 0x0,
    [⟨31, 0, .ro, 0, 0, .raw⟩]⟩]

/-- The registers of block SEC. -/
def rowsSEC : List RegRow := [
  ⟨"SEC.LC", 0x0, 1, 0x4, 1, 0x4, true, 0x0,
    [⟨31, 31, .ro, 0, 0, .raw⟩, ⟨17, 17, .ro, 0, 0, .raw⟩, ⟨16, 16, .ro, 0, 0, .raw⟩, ⟨2, 0, .ro, 0, 0, .raw⟩]⟩,
  ⟨"SEC.LCREQ", 0x4, 1, 0x4, 1, 0x4, true, 0x0,
    [⟨31, 16, .wo, 0, 0, .key⟩, ⟨2, 0, .wo, 0, 0, (.enum 4)⟩]⟩,
  ⟨"SEC.TCTL", 0x8, 1, 0x4, 1, 0x4, true, 0x0,
    [⟨31, 31, .rwl, 0, 0, .raw⟩, ⟨0, 0, .rwl, 0, 0, .raw⟩]⟩,
  ⟨"SEC.IRQ", 0xC, 1, 0x4, 1, 0x4, true, 0x0,
    [⟨19, 16, .rw, 0, 0, .raw⟩, ⟨3, 0, .w1c, 0, 0, .raw⟩]⟩,
  ⟨"SEC.TCNT", 0x10, 1, 0x4, 1, 0x4, true, 0x0,
    [⟨15, 0, .ro, 0, 0, .raw⟩]⟩,
  ⟨"SEC.VER", 0x14, 1, 0x4, 1, 0x4, true, 0x0,
    [⟨31, 16, .wo, 0, 0, .key⟩, ⟨15, 15, .ro, 0, 0, .raw⟩, ⟨13, 8, .wo, 0, 0, .raw⟩, ⟨5, 0, .ro, 0, 0, .raw⟩]⟩]

/-- The registers of block DBG, part 1. -/
def rowsDBG1 : List RegRow := [
  ⟨"DBG.CTL", 0x0, 1, 0x4, 1, 0x4, true, 0x0,
    [⟨31, 30, .ro, 0, 0, .raw⟩, ⟨3, 3, .rw, 0, 0, .raw⟩, ⟨2, 2, .rw, 0, 0, .raw⟩, ⟨1, 1, .rw, 0, 0, .raw⟩, ⟨0, 0, .rw, 0, 0, .raw⟩]⟩,
  ⟨"DBG.RCTL", 0x4, 1, 0x4, 1, 0x4, false, 0x0,
    [⟨31, 30, .wo, 0, 0, .raw⟩, ⟨6, 0, .wo, 0, 0, (.range 0 65)⟩]⟩,
  ⟨"DBG.FEEDST", 0x20, 1, 0x4, 1, 0x4, false, 0x0,
    [⟨31, 30, .ro, 0, 0, .raw⟩, ⟨27, 24, .ro, 0, 0, .raw⟩, ⟨23, 16, .ro, 0, 0, .raw⟩, ⟨15, 8, .ro, 0, 0, .raw⟩, ⟨6, 0, .rw, 0, 0, (.range 0 64)⟩]⟩,
  ⟨"DBG.FEED", 0x24, 1, 0x4, 1, 0x4, false, 0x0,
    [⟨31, 0, .wo, 0, 0, .raw⟩]⟩,
  ⟨"DBG.DXFER", 0x28, 1, 0x4, 1, 0x4, false, 0x0,
    [⟨31, 0, .rw, 0, 0, .raw⟩]⟩,
  ⟨"DBG.HPC", 0x2C, 1, 0x4, 1, 0x4, false, 0x0,
    [⟨31, 2, .rw, 0, 0, .raw⟩]⟩,
  ⟨"DBG.TRCTL", 0x40, 1, 0x4, 1, 0x4, true, 0x0,
    [⟨31, 31, .rw, 0, 0, .raw⟩, ⟨30, 30, .rw, 0, 0, .raw⟩, ⟨29, 29, .rw, 0, 0, .raw⟩, ⟨28, 28, .rw, 0, 0, .raw⟩, ⟨23, 16, .rw, 0, 0, .raw⟩, ⟨13, 0, .rw, 4096, 0, (.range 1 8192)⟩]⟩,
  ⟨"DBG.TRSTAT", 0x44, 1, 0x4, 1, 0x4, false, 0x0,
    [⟨31, 31, .ro, 0, 0, .raw⟩, ⟨30, 30, .w1c, 0, 0, .raw⟩, ⟨28, 16, .ro, 0, 0, .raw⟩, ⟨15, 8, .ro, 0, 0, .raw⟩, ⟨7, 0, .ro, 0, 0, .raw⟩]⟩,
  ⟨"DBG.TRRP", 0x48, 1, 0x4, 1, 0x4, false, 0x0,
    [⟨12, 0, .rw, 0, 0, .raw⟩]⟩,
  ⟨"DBG.TRHBASEL", 0x60, 1, 0x4, 1, 0x4, true, 0x0,
    [⟨31, 12, .rw, 0, 0, .raw⟩, ⟨3, 0, .rw, 0, 0, (.range 0 8)⟩]⟩,
  ⟨"DBG.TRHBASEH", 0x64, 1, 0x4, 1, 0x4, true, 0x0,
    [⟨19, 0, .rw, 0, 0, .raw⟩]⟩,
  ⟨"DBG.HALTED", 0x8, 3, 0x4, 1, 0x4, false, 0x0,
    [⟨31, 0, .ro, 0, 0, .raw⟩]⟩]

/-- The registers of block DBG, part 2. -/
def rowsDBG2 : List RegRow := [
  ⟨"DBG.TRDATA", 0x50, 4, 0x4, 1, 0x4, false, 0x0,
    [⟨31, 0, .ro, 0, 0, .raw⟩]⟩,
  ⟨"DBG.STIMEN", 0x70, 2, 0x4, 1, 0x4, true, 0x0,
    [⟨31, 0, .rw, 0, 0, .raw⟩]⟩,
  ⟨"DBG.STIM", 0x100, 64, 0x4, 1, 0x4, false, 0x0,
    [⟨31, 0, .wo, 0, 0, .raw⟩]⟩,
  ⟨"DBG.CMP_ADDR", 0x1000, 64, 0x20, 4, 0x8, true, 0x0,
    [⟨31, 0, .rw, 0, 0, .raw⟩]⟩,
  ⟨"DBG.CMPC_ADDR", 0x1800, 8, 0x8, 1, 0x4, true, 0x0,
    [⟨31, 0, .rw, 0, 0, .raw⟩]⟩,
  ⟨"DBG.CMP_CTL", 0x1004, 64, 0x20, 2, 0x8, true, 0x0,
    [⟨31, 30, .rw, 0, 0, .raw⟩, ⟨11, 10, .ro, 3, 0, .raw⟩, ⟨4, 0, .rw, 0, 0, .raw⟩]⟩,
  ⟨"DBG.CMP_CTL", 0x1014, 64, 0x20, 2, 0x8, true, 0x0,
    [⟨31, 30, .rw, 0, 0, .raw⟩, ⟨11, 10, .rw, 0, 0, (.enum 2)⟩, ⟨4, 0, .rw, 0, 0, .raw⟩]⟩,
  ⟨"DBG.CMPC_CTL", 0x1804, 8, 0x8, 1, 0x4, true, 0x0,
    [⟨31, 30, .rw, 0, 0, .raw⟩, ⟨11, 10, .rw, 0, 0, .raw⟩, ⟨4, 0, .rw, 0, 0, .raw⟩]⟩]

/-- The registers of block DBG. -/
def rowsDBG : List RegRow := rowsDBG1 ++ rowsDBG2

/-- The registers of block PAD. -/
def rowsPAD : List RegRow := [
  ⟨"PAD.HOLDREL", 0x0, 1, 0x4, 1, 0x4, true, 0x0,
    [⟨31, 31, .ro, 0, 0, .raw⟩, ⟨30, 30, .ro, 0, 0, .raw⟩, ⟨0, 0, .wo, 0, 0, .raw⟩]⟩,
  ⟨"PAD.GCFG", 0x10, 1, 0x4, 1, 0x4, true, 0x0,
    [⟨31, 31, .rw, 1, 0, .raw⟩, ⟨30, 30, .rw, 0, 0, .raw⟩, ⟨29, 29, .rw, 0, 0, .raw⟩, ⟨28, 28, .rw, 0, 0, .raw⟩, ⟨15, 0, .rw, 1000, 0, (.range 1 65535)⟩]⟩,
  ⟨"PAD.GCFG", 0x14, 4, 0x4, 1, 0x4, true, 0x0,
    [⟨31, 31, .rw, 1, 0, .raw⟩, ⟨30, 30, .rw, 0, 0, .raw⟩, ⟨29, 29, .ro, 0, 0, .raw⟩, ⟨28, 28, .ro, 0, 0, .raw⟩, ⟨15, 0, .rw, 1000, 0, (.range 1 65535)⟩]⟩,
  ⟨"PAD.GSTAT", 0x30, 5, 0x4, 1, 0x4, true, 0x0,
    [⟨31, 31, .w1c, 0, 0, .raw⟩, ⟨30, 30, .w1c, 0, 0, .raw⟩, ⟨29, 29, .w1c, 0, 0, .raw⟩, ⟨28, 28, .ro, 0, 0, .raw⟩, ⟨23, 22, .ro, 0, 0, .raw⟩, ⟨20, 16, .ro, 0, 0, .raw⟩, ⟨7, 0, .ro, 0, 0, .raw⟩]⟩,
  ⟨"PAD.BAT", 0x50, 1, 0x4, 1, 0x4, true, 0x0,
    [⟨31, 31, .rw, 0, 0, .raw⟩, ⟨6, 0, .rw, 11, 0, .raw⟩]⟩,
  ⟨"PAD.IRQ", 0x60, 1, 0x4, 1, 0x4, true, 0x0,
    [⟨21, 16, .rw, 0, 0, .raw⟩, ⟨5, 0, .w1c, 0, 0, .raw⟩]⟩]

/-- The registers of block SP, part 1. -/
def rowsSP1 : List RegRow := [
  ⟨"SP.CTL", 0x0, 1, 0x1000, 1, 0x4, true, 0x0,
    [⟨31, 31, .ro, 0, 0, .raw⟩, ⟨30, 30, .rw, 0, 0, .raw⟩, ⟨20, 20, .rw, 0, 0, .raw⟩, ⟨2, 0, .rw, 2, 0, (.enum 4)⟩]⟩,
  ⟨"SP.CFG", 0x4, 1, 0x1000, 1, 0x4, true, 0x0,
    [⟨31, 30, .rw, 0, 0, .raw⟩, ⟨29, 28, .rw, 0, 0, (.enum 2)⟩, ⟨27, 26, .rw, 0, 0, (.enum 2)⟩, ⟨25, 25, .rw, 0, 0, .raw⟩, ⟨24, 24, .rw, 0, 0, .raw⟩, ⟨23, 23, .rw, 0, 0, .raw⟩, ⟨15, 0, .rw, 8, 0, (.range 2 65535)⟩]⟩,
  ⟨"SP.CTL", 0x1000, 7, 0x1000, 1, 0x4, true, 0x0,
    [⟨31, 31, .ro, 0, 0, .raw⟩, ⟨30, 30, .rw, 0, 0, .raw⟩, ⟨20, 20, .rw, 0, 0, .raw⟩, ⟨2, 0, .rw, 0, 0, (.enum 4)⟩]⟩,
  ⟨"SP.CFG", 0x1004, 7, 0x1000, 1, 0x4, true, 0x0,
    [⟨31, 30, .rw, 0, 0, .raw⟩, ⟨29, 28, .rw, 0, 0, (.enum 2)⟩, ⟨27, 26, .rw, 0, 0, (.enum 2)⟩, ⟨25, 25, .rw, 0, 0, .raw⟩, ⟨24, 24, .rw, 0, 0, .raw⟩, ⟨23, 23, .rw, 0, 0, .raw⟩, ⟨15, 0, .rw, 984, 0, (.range 2 65535)⟩]⟩,
  ⟨"SP.TADDR", 0x8, 8, 0x1000, 1, 0x4, true, 0x0,
    [⟨31, 31, .rw, 0, 0, .raw⟩, ⟨22, 16, .ro, 0, 0, .raw⟩, ⟨6, 0, .rw, 0, 0, .raw⟩]⟩,
  ⟨"SP.CMD", 0xC, 8, 0x1000, 1, 0x4, false, 0x0,
    [⟨31, 31, .wo, 0, 0, .raw⟩, ⟨30, 30, .wo, 0, 0, .raw⟩, ⟨29, 29, .wo, 0, 0, .raw⟩, ⟨28, 28, .wo, 0, 0, .raw⟩, ⟨22, 16, .wo, 0, 0, .raw⟩, ⟨11, 0, .wo, 0, 0, .raw⟩]⟩,
  ⟨"SP.DATA", 0x10, 8, 0x1000, 1, 0x4, false, 0x0,
    [⟨8, 8, .ro, 0, 0, .raw⟩, ⟨7, 0, .rw, 0, 0, .raw⟩]⟩,
  ⟨"SP.STAT", 0x14, 8, 0x1000, 1, 0x4, true, 0x0,
    [⟨31, 31, .ro, 0, 0, .raw⟩, ⟨30, 30, .ro, 0, 0, .raw⟩, ⟨29, 28, .ro, 0, 0, .raw⟩, ⟨22, 16, .ro, 0, 0, .raw⟩, ⟨14, 8, .ro, 0, 0, .raw⟩]⟩,
  ⟨"SP.IRQ", 0x18, 8, 0x1000, 1, 0x4, false, 0x0,
    [⟨31, 16, .rw, 0, 0, .raw⟩, ⟨13, 13, .ro, 0, 0, .raw⟩, ⟨12, 0, .w1c, 0, 0, .raw⟩]⟩,
  ⟨"SP.RSEQCTL", 0x100, 1, 0x4, 1, 0x4, true, 0x0,
    [⟨31, 31, .rw, 0, 0, .raw⟩, ⟨30, 30, .rw, 0, 0, .raw⟩, ⟨23, 16, .rw, Config.fuseRseqStatreg.toNat, 0, .raw⟩, ⟨15, 8, .rw, 255, 0, .raw⟩, ⟨6, 0, .rw, Config.fuseRseqAddr.toNat, 0, .raw⟩]⟩,
  ⟨"SP.RSEQW", 0x104, 1, 0x4, 1, 0x4, true, 0x0,
    [⟨31, 24, .rw, (Config.fuseRseqW 0 0).toNat, 0, .raw⟩, ⟨23, 16, .rw, (Config.fuseRseqW 0 1).toNat, 0, .raw⟩, ⟨15, 8, .rw, (Config.fuseRseqW 0 2).toNat, 0, .raw⟩, ⟨7, 0, .rw, (Config.fuseRseqW 0 3).toNat, 0, .raw⟩]⟩,
  ⟨"SP.RSEQW", 0x108, 1, 0x4, 1, 0x4, true, 0x0,
    [⟨31, 24, .rw, (Config.fuseRseqW 1 0).toNat, 0, .raw⟩, ⟨23, 16, .rw, (Config.fuseRseqW 1 1).toNat, 0, .raw⟩, ⟨15, 8, .rw, (Config.fuseRseqW 1 2).toNat, 0, .raw⟩, ⟨7, 0, .rw, (Config.fuseRseqW 1 3).toNat, 0, .raw⟩]⟩]

/-- The registers of block SP, part 2. -/
def rowsSP2 : List RegRow := [
  ⟨"SP.RSEQMAP", 0x10C, 1, 0x4, 1, 0x4, true, 0x0,
    [⟨25, 16, .rw, Config.fuseRseqBase.toNat, 0, .raw⟩, ⟨11, 0, .rw, (max 1 Config.fuseRseqStepq.toNat), 0, (.range 1 4095)⟩]⟩,
  ⟨"SP.RSEQST", 0x110, 1, 0x4, 1, 0x4, false, 0x0,
    [⟨31, 31, .ro, 0, 0, .raw⟩, ⟨30, 30, .w1c, 0, 0, .raw⟩, ⟨23, 16, .ro, 0, 0, .raw⟩, ⟨12, 12, .ro, 0, 0, .raw⟩, ⟨11, 10, .ro, 0, 0, .raw⟩, ⟨3, 0, .ro, 0, 0, .raw⟩]⟩,
  ⟨"SP.RSEQREQ", 0x114, 1, 0x4, 1, 0x4, true, 0x0,
    [⟨31, 31, .wo, 0, 0, .raw⟩, ⟨30, 29, .wo, 0, 0, (.enum 2)⟩, ⟨8, 8, .wo, 0, 0, .raw⟩, ⟨3, 0, .wo, 0, 0, .raw⟩]⟩]

/-- The registers of block SP. -/
def rowsSP : List RegRow := rowsSP1 ++ rowsSP2

/-- The registers of block PDM. -/
def rowsPDM : List RegRow := [
  ⟨"PDM.CTL", 0x0, 1, 0x4, 1, 0x4, true, 0x0,
    [⟨31, 31, .ro, 0, 0, .raw⟩, ⟨30, 30, .rw, 0, 0, .raw⟩, ⟨9, 8, .rw, 0, 0, (.enum 2)⟩, ⟨7, 4, .rw, 0, 0, .raw⟩, ⟨3, 0, .rw, 0, 0, .raw⟩]⟩,
  ⟨"PDM.QCFG", 0x4, 1, 0x4, 1, 0x4, true, 0x0,
    [⟨23, 16, .rw, 160, 0, (.range 1 240)⟩, ⟨9, 0, .rw, 0, 0, .raw⟩]⟩,
  ⟨"PDM.VAD", 0x8, 1, 0x4, 1, 0x4, true, 0x0,
    [⟨31, 31, .rw, 0, 0, .raw⟩, ⟨19, 16, .rw, 2, 0, (.range 1 15)⟩, ⟨15, 0, .rw, 1024, 0, (.range 1 65535)⟩]⟩,
  ⟨"PDM.IRQ", 0xC, 1, 0x4, 1, 0x4, true, 0x0,
    [⟨17, 16, .rw, 0, 0, .raw⟩, ⟨1, 0, .w1c, 0, 0, .raw⟩]⟩,
  ⟨"PDM.STAT", 0x10, 1, 0x4, 1, 0x4, false, 0x0,
    [⟨31, 16, .ro, 0, 0, .raw⟩, ⟨15, 0, .ro, 0, 0, .raw⟩]⟩]

/-- The registers of block GPIO. -/
def rowsGPIO : List RegRow := [
  ⟨"GPIO.OUTSET", 0x8, 2, 0x4, 1, 0x4, false, 0x0,
    [⟨31, 0, .w1s, 0, 0, .raw⟩]⟩,
  ⟨"GPIO.OUTCLR", 0x10, 2, 0x4, 1, 0x4, false, 0x8,
    [⟨31, 0, .w1c, 0, 0, .raw⟩]⟩,
  ⟨"GPIO.IN", 0x20, 3, 0x4, 1, 0x4, true, 0x0,
    [⟨31, 0, .ro, 0, 0, .raw⟩]⟩,
  ⟨"GPIO.STORM", 0x40, 3, 0x4, 1, 0x4, true, 0x0,
    [⟨31, 0, .w1c, 0, 0, .raw⟩]⟩,
  ⟨"GPIO.STUCK", 0x50, 3, 0x4, 1, 0x4, true, 0x0,
    [⟨31, 0, .w1c, 0, 0, .raw⟩]⟩,
  ⟨"GPIO.PIN", 0x100, 64, 0x4, 1, 0x4, true, 0x0,
    [⟨31, 30, .rw, 0, 0, (.enum 2)⟩, ⟨29, 28, .rw, 0, 0, (.enum 2)⟩, ⟨27, 27, .rw, 0, 0, .raw⟩, ⟨26, 26, .rw, 0, 0, .raw⟩, ⟨25, 25, .rw, 0, 0, .raw⟩, ⟨22, 15, .rw, 0, 0, (.range 0 250)⟩, ⟨14, 8, .rw, 0, 0, .raw⟩, ⟨7, 0, .rw, 0, 0, .raw⟩]⟩,
  ⟨"GPIO.PIN", 0x200, 4, 0x4, 1, 0x4, true, 0x0,
    [⟨31, 30, .ro, 0, 0, .raw⟩, ⟨29, 28, .rw, 0, 0, (.enum 2)⟩, ⟨27, 27, .ro, 0, 0, .raw⟩, ⟨26, 26, .rw, 0, 0, .raw⟩, ⟨25, 25, .rw, 0, 0, .raw⟩, ⟨22, 15, .rw, 0, 0, (.range 0 250)⟩, ⟨14, 8, .rw, 0, 0, .raw⟩, ⟨7, 0, .rw, 0, 0, .raw⟩]⟩,
  ⟨"GPIO.KBDCTL", 0x280, 1, 0x4, 1, 0x4, true, 0x0,
    [⟨31, 31, .rw, 0, 0, .raw⟩, ⟨23, 16, .rw, 10, 0, (.range 1 255)⟩, ⟨15, 8, .rw, 20, 0, (.range 1 255)⟩, ⟨3, 0, .rw, 3, 0, (.range 1 15)⟩]⟩,
  ⟨"GPIO.KBD", 0x290, 4, 0x4, 1, 0x4, true, 0x0,
    [⟨31, 0, .ro, 0, 0, .raw⟩]⟩,
  ⟨"GPIO.FAN", 0x300, 2, 0x8, 1, 0x4, true, 0x0,
    [⟨31, 31, .rw, 0, 0, .raw⟩, ⟨23, 16, .rw, 0, 0, .raw⟩, ⟨9, 0, .rw, 250, 0, (.range 1 1000)⟩]⟩,
  ⟨"GPIO.TACH", 0x304, 2, 0x8, 1, 0x4, true, 0x0,
    [⟨31, 16, .rw, 0, 0, .raw⟩, ⟨15, 0, .ro, 0, 0, .raw⟩]⟩]

/-- The registers of block MOV. -/
def rowsMOV : List RegRow := [
  ⟨"MOV.CTL", 0x0, 2, 0x4, 1, 0x4, true, 0x0,
    [⟨31, 31, .ro, 0, 0, .raw⟩, ⟨30, 30, .rw, 0, 0, .raw⟩, ⟨6, 0, .rw, 64, 0, (.range 1 64)⟩]⟩,
  ⟨"MOV.STAT", 0x10, 2, 0x4, 1, 0x4, false, 0x0,
    [⟨31, 31, .ro, 0, 0, .raw⟩, ⟨21, 16, .ro, 0, 0, .raw⟩, ⟨6, 0, .ro, 0, 0, .raw⟩]⟩,
  ⟨"MOV.BYTES", 0x20, 2, 0x4, 1, 0x4, false, 0x0,
    [⟨31, 0, .rc, 0, 0, .raw⟩]⟩,
  ⟨"MOV.FAULTS", 0x30, 2, 0x4, 1, 0x4, false, 0x0,
    [⟨31, 0, .rc, 0, 0, .raw⟩]⟩,
  ⟨"MOV.ISTAT", 0x40, 1, 0x4, 1, 0x4, false, 0x0,
    [⟨3, 3, .w1c, 0, 0, .raw⟩, ⟨2, 2, .w1c, 0, 0, .raw⟩, ⟨1, 1, .w1c, 0, 0, .raw⟩, ⟨0, 0, .w1c, 0, 0, .raw⟩]⟩,
  ⟨"MOV.IEN", 0x44, 1, 0x4, 1, 0x4, true, 0x0,
    [⟨3, 0, .rw, 0, 0, .raw⟩]⟩]

/-- The registers of block ESPI. -/
def rowsESPI : List RegRow := [
  ⟨"ESPI.CTL", 0x0, 1, 0x4, 1, 0x4, true, 0x0,
    [⟨31, 31, .rw, 0, 0, .raw⟩, ⟨30, 30, .rw, 0, 0, .raw⟩, ⟨29, 29, .rw, 0, 0, .raw⟩, ⟨3, 2, .rw, 2, 0, (.enum 2)⟩]⟩,
  ⟨"ESPI.STAT", 0x4, 1, 0x4, 1, 0x4, true, 0x0,
    [⟨31, 31, .ro, 0, 0, .raw⟩, ⟨6, 4, .ro, 0, 0, .raw⟩, ⟨2, 0, .ro, 0, 0, .raw⟩]⟩,
  ⟨"ESPI.P80", 0x80, 1, 0x4, 1, 0x4, true, 0x0,
    [⟨31, 31, .w1c, 0, 0, .raw⟩, ⟨7, 0, .ro, 0, 0, .raw⟩]⟩,
  ⟨"ESPI.VWIDX", 0x84, 1, 0x4, 1, 0x4, true, 0x0,
    [⟨15, 8, .rw, 129, 0, .raw⟩, ⟨7, 0, .rw, 128, 0, .raw⟩]⟩,
  ⟨"ESPI.VWIN", 0x88, 1, 0x4, 1, 0x4, true, 0x0,
    [⟨11, 8, .ro, 0, 0, .raw⟩, ⟨7, 0, .ro, 0, 0, .raw⟩]⟩,
  ⟨"ESPI.VWOUT", 0x8C, 1, 0x4, 1, 0x4, false, 0x0,
    [⟨11, 10, .rw, 0, 0, .raw⟩, ⟨9, 8, .ro, 0, 0, .raw⟩, ⟨7, 0, .rw, 0, 0, .raw⟩]⟩,
  ⟨"ESPI.OOBCTL", 0x90, 1, 0x4, 1, 0x4, true, 0x0,
    [⟨31, 31, .wo, 0, 0, .raw⟩, ⟨30, 30, .w1c, 0, 0, .raw⟩, ⟨22, 16, .ro, 0, 0, .raw⟩, ⟨6, 0, .wo, 0, 0, (.range 1 64)⟩]⟩,
  ⟨"ESPI.IRQ", 0x94, 1, 0x4, 1, 0x4, false, 0x0,
    [⟨31, 16, .rw, 0, 0, .raw⟩, ⟨9, 0, .w1c, 0, 0, .raw⟩]⟩,
  ⟨"ESPI.IOWIN", 0x10, 4, 0x4, 1, 0x4, true, 0x0,
    [⟨31, 31, .rw, 0, 0, .raw⟩, ⟨20, 16, .rw, 1, 0, (.range 1 16)⟩, ⟨15, 0, .rw, 0, 0, .raw⟩]⟩,
  ⟨"ESPI.MBX", 0x40, 4, 0x10, 4, 0x4, false, 0x0,
    [⟨31, 0, .rw, 0, 0, .raw⟩]⟩,
  ⟨"ESPI.OOBTX", 0x100, 16, 0x4, 1, 0x4, false, 0x0,
    [⟨31, 0, .rw, 0, 0, .raw⟩]⟩,
  ⟨"ESPI.OOBRX", 0x140, 16, 0x4, 1, 0x4, false, 0x0,
    [⟨31, 0, .rw, 0, 0, .raw⟩]⟩]

/-- The registers of block FSPI. -/
def rowsFSPI : List RegRow := [
  ⟨"FSPI.CTL", 0x0, 1, 0x4, 1, 0x4, true, 0x0,
    [⟨31, 31, .rw, 0, 0, .raw⟩, ⟨30, 30, .rw, 0, 0, .raw⟩, ⟨23, 16, .rw, 5, 0, .raw⟩, ⟨15, 0, .rw, 8, 0, (.range 2 65535)⟩]⟩,
  ⟨"FSPI.CMD", 0x4, 1, 0x4, 1, 0x4, false, 0x0,
    [⟨31, 31, .wo, 0, 0, .raw⟩, ⟨30, 29, .wo, 0, 0, .raw⟩, ⟨28, 27, .wo, 0, 0, (.enum 2)⟩, ⟨26, 26, .wo, 0, 0, .raw⟩, ⟨25, 21, .wo, 0, 0, .raw⟩, ⟨20, 13, .wo, 0, 0, .raw⟩, ⟨8, 0, .wo, 0, 0, (.range 0 256)⟩]⟩,
  ⟨"FSPI.ADDR", 0x8, 1, 0x4, 1, 0x4, false, 0x0,
    [⟨31, 0, .rw, 0, 0, .raw⟩]⟩,
  ⟨"FSPI.DATA", 0xC, 1, 0x4, 1, 0x4, false, 0x0,
    [⟨31, 0, .rw, 0, 0, .raw⟩]⟩,
  ⟨"FSPI.STAT", 0x10, 1, 0x4, 1, 0x4, false, 0x0,
    [⟨31, 31, .ro, 0, 0, .raw⟩, ⟨30, 30, .w1c, 0, 0, .raw⟩, ⟨29, 29, .w1c, 0, 0, .raw⟩, ⟨28, 28, .w1c, 0, 0, .raw⟩, ⟨27, 27, .rw, 0, 0, .raw⟩, ⟨8, 0, .ro, 0, 0, .raw⟩]⟩,
  ⟨"FSPI.WP", 0x14, 1, 0x4, 1, 0x4, true, 0x0,
    [⟨31, 31, .rwl, 0, 0, .raw⟩, ⟨30, 30, .rw, 0, 0, .raw⟩, ⟨29, 15, .rw, 0, 0, .raw⟩, ⟨14, 0, .rw, 0, 0, .raw⟩]⟩]

/-- The registers of block CAB. -/
def rowsCAB : List RegRow := [
  ⟨"CAB.RST", 0x0, 1, 0x4, 1, 0x4, true, 0x0,
    [⟨15, 8, .wo, 0, 0, .raw⟩, ⟨7, 0, .rw, 255, 0, .raw⟩]⟩,
  ⟨"CAB.PACE", 0x40, 1, 0x4, 1, 0x4, false, 0x0,
    [⟨31, 31, .ro, 0, 0, .raw⟩, ⟨23, 16, .ro, 0, 0, .raw⟩, ⟨15, 0, .ro, 0, 0, .raw⟩]⟩,
  ⟨"CAB.START", 0x100, 8, 0x4, 1, 0x4, true, 0x0,
    [⟨31, 2, .rw, 0, 0, .raw⟩]⟩,
  ⟨"CAB.ESTAT", 0x140, 8, 0x4, 1, 0x4, false, 0x0,
    [⟨7, 7, .ro, 0, 0, .raw⟩, ⟨6, 6, .ro, 0, 0, .raw⟩, ⟨5, 5, .ro, 0, 0, .raw⟩, ⟨4, 4, .ro, 0, 0, .raw⟩, ⟨1, 1, .w1c, 0, 0, .raw⟩, ⟨0, 0, .ro, 0, 0, .raw⟩]⟩,
  ⟨"CAB.CXCTL", 0x200, 8, 0x4, 1, 0x4, true, 0x0,
    [⟨31, 31, .rwl, 0, 0, .raw⟩, ⟨27, 24, .ro, 0, 0, .raw⟩, ⟨23, 19, .ro, 0, 0, .raw⟩, ⟨16, 10, .ro, 0, 0, .raw⟩, ⟨1, 1, .ro, 0, 0, .raw⟩, ⟨0, 0, .rw, 0, 0, .raw⟩]⟩,
  ⟨"CAB.PMCTL", 0x300, 8, 0x20, 1, 0x4, true, 0x0,
    [⟨19, 16, .w1c, 0, 0, .raw⟩, ⟨11, 8, .rw, 0, 0, .raw⟩, ⟨5, 4, .rw, 0, 0, (.enum 2)⟩, ⟨3, 0, .rw, 0, 0, .raw⟩]⟩,
  ⟨"CAB.PMSEL", 0x304, 8, 0x20, 1, 0x4, true, 0x0,
    [⟨31, 24, .rw, 0, 0, (.range 0 28)⟩, ⟨23, 16, .rw, 0, 0, (.range 0 28)⟩, ⟨15, 8, .rw, 0, 0, (.range 0 28)⟩, ⟨7, 0, .rw, 0, 0, (.range 0 28)⟩]⟩,
  ⟨"CAB.PMCNT", 0x308, 8, 0x20, 4, 0x4, false, 0x0,
    [⟨31, 0, .rw, 0, 0, .raw⟩]⟩,
  ⟨"CAB.CXTAB", 0x800, 8, 0x100, 64, 0x4, true, 0x0,
    [⟨31, 0, .rw, 0, 0, .raw⟩]⟩]

/-- The rows of a block index (R59): the eight serial ports share index 0x10 and the eight cabinets one table. -/
def blockRows (blk : Nat) : List RegRow :=
  match blk with
  | 0x00 => rowsSYS | 0x01 => rowsPWR | 0x02 => rowsTBS | 0x03 => rowsITC
  | 0x04 => rowsEVN | 0x05 => rowsADM | 0x06 => rowsDPT | 0x07 => rowsGAL
  | 0x08 => rowsVLT | 0x09 => rowsHPT | 0x0A => rowsRNG | 0x0B => rowsCUR
  | 0x0C => rowsPRV | 0x0D => rowsSEC | 0x0E => rowsDBG | 0x0F => rowsPAD
  | 0x10 => rowsSP | 0x11 => rowsPDM | 0x12 => rowsGPIO | 0x13 => rowsMOV
  | 0x14 => rowsESPI | 0x15 => rowsFSPI
  | _ => if 0x20 ≤ blk ∧ blk ≤ 0x27 then rowsCAB else []

/-- A block index that the register block table lists (R59, R8). -/
def blockListed (blk : Nat) : Bool := blk ≤ 0x15 || (0x20 ≤ blk && blk ≤ 0x27)

/-- The index of a block offset in a row, where the row has a register there. -/
def RegRow.index (r : RegRow) (off : Nat) : Option Nat :=
  if off < r.base then none
  else
    let d := off - r.base
    let i := d / r.s1
    let e := d % r.s1
    if i < r.n1 ∧ e % r.s2 = 0 ∧ e / r.s2 < r.n2 then some (i * r.n2 + e / r.s2) else none

/-- The first row of a list with a register at a block offset, and its index there. -/
def findIn (off : Nat) : List RegRow → Option (RegRow × Nat)
  | [] => none
  | r :: rs => match r.index off with
    | some i => some (r, i)
    | none => findIn off rs

/-- The register at a bank 0x04 offset, if the manual gives one there (R8). -/
def findReg (addr : Nat) : Option (RegRow × Nat) := findIn (addr % 0x10000) (blockRows (addr / 0x10000))

/-- The reset value a field contributes to its register word. -/
def FldSpec.resetBits (f : FldSpec) (i : Nat) : Nat := (f.rst + f.step * i) % 2 ^ (f.hi - f.lo + 1) * 2 ^ f.lo

/-- What the straps contribute to a reset value (R7): SYS.BOOT.BOOTSEL, and GAL.SVC.PHASE, RECOVERY or TEST where they select recovery boot or
factory test (R203). -/
def strapBits (addr : Nat) : Nat :=
  if addr = 0x4 then Config.bootsel.toNat
  else if addr = 0x70000 then (match Config.bootsel.toNat with | 2 => 0x200 | 4 => 0x300 | _ => 0)
  else 0

/-- The word a register holds after reset, as its table's Reset column gives it (R7); 0 where there is no register. -/
def resetWord (addr : Nat) : Word :=
  match findReg addr with
  | none => 0
  | some (r, i) => BitVec.ofNat 32 ((r.flds.map (·.resetBits i)).foldl (· + ·) (strapBits addr))

/-- The value a field stores for a written value (R11, R12, R13; R537 for key fields). -/
def Clamp.apply (c : Clamp) (v : Nat) : Nat :=
  match c with
  | .raw => v
  | .key => v
  | .range lo hi => if v < lo then lo else if hi < v then hi else v
  | .enum m => if m < v then m else v

end Sys2Proof.Machine
end

