-- ==== Sys2Proof/Machine/RegNames.lean ====
section
/-! DEFINITION. Machine/RegNames.lean: the manual's register and field names as addresses in bank 0x04 and bit
ranges (BLOCK_REGISTER and BLOCK_REGISTER_FIELD; an array takes its index, a cabinet or port register its number k). -/

namespace Sys2Proof.Machine.Reg

open Sys2Proof.Machine

def CAB_RST (k : Nat) : Nat := 0x200000 + 0x10000 * k
def CAB_RST_PULSE (k : Nat) : Fld := ⟨CAB_RST k, 15, 8⟩
def CAB_RST_HOLD (k : Nat) : Fld := ⟨CAB_RST k, 7, 0⟩
def CAB_PACE (k : Nat) : Nat := 0x200040 + 0x10000 * k
def CAB_PACE_VALID (k : Nat) : Fld := ⟨CAB_PACE k, 31, 31⟩
def CAB_PACE_SEQ (k : Nat) : Fld := ⟨CAB_PACE k, 23, 16⟩
def CAB_PACE_PACE (k : Nat) : Fld := ⟨CAB_PACE k, 15, 0⟩
def CAB_START (k i : Nat) : Nat := 0x200100 + 0x10000 * k + 0x4 * i
def CAB_START_ADDR (k i : Nat) : Fld := ⟨CAB_START k i, 31, 2⟩
def CAB_ESTAT (k i : Nat) : Nat := 0x200140 + 0x10000 * k + 0x4 * i
def CAB_ESTAT_HALT (k i : Nat) : Fld := ⟨CAB_ESTAT k i, 7, 7⟩
def CAB_ESTAT_WAIT (k i : Nat) : Fld := ⟨CAB_ESTAT k i, 6, 6⟩
def CAB_ESTAT_DETEFF (k i : Nat) : Fld := ⟨CAB_ESTAT k i, 5, 5⟩
def CAB_ESTAT_RUN (k i : Nat) : Fld := ⟨CAB_ESTAT k i, 4, 4⟩
def CAB_ESTAT_WDX (k i : Nat) : Fld := ⟨CAB_ESTAT k i, 1, 1⟩
def CAB_ESTAT_FRF (k i : Nat) : Fld := ⟨CAB_ESTAT k i, 0, 0⟩
def CAB_CXCTL (k i : Nat) : Nat := 0x200200 + 0x10000 * k + 0x4 * i
def CAB_CXCTL_LOCK (k i : Nat) : Fld := ⟨CAB_CXCTL k i, 31, 31⟩
def CAB_CXCTL_ERR (k i : Nat) : Fld := ⟨CAB_CXCTL k i, 27, 24⟩
def CAB_CXCTL_ERRIDX (k i : Nat) : Fld := ⟨CAB_CXCTL k i, 23, 19⟩
def CAB_CXCTL_COMP (k i : Nat) : Fld := ⟨CAB_CXCTL k i, 16, 10⟩
def CAB_CXCTL_STATE_EFF (k i : Nat) : Fld := ⟨CAB_CXCTL k i, 1, 1⟩
def CAB_CXCTL_STATE_REQ (k i : Nat) : Fld := ⟨CAB_CXCTL k i, 0, 0⟩
def CAB_PMCTL (k i : Nat) : Nat := 0x200300 + 0x10000 * k + 0x20 * i
def CAB_PMCTL_OVF (k i : Nat) : Fld := ⟨CAB_PMCTL k i, 19, 16⟩
def CAB_PMCTL_OVFIE (k i : Nat) : Fld := ⟨CAB_PMCTL k i, 11, 8⟩
def CAB_PMCTL_FILT (k i : Nat) : Fld := ⟨CAB_PMCTL k i, 5, 4⟩
def CAB_PMCTL_EN (k i : Nat) : Fld := ⟨CAB_PMCTL k i, 3, 0⟩
def CAB_PMSEL (k i : Nat) : Nat := 0x200304 + 0x10000 * k + 0x20 * i
def CAB_PMSEL_SEL3 (k i : Nat) : Fld := ⟨CAB_PMSEL k i, 31, 24⟩
def CAB_PMSEL_SEL2 (k i : Nat) : Fld := ⟨CAB_PMSEL k i, 23, 16⟩
def CAB_PMSEL_SEL1 (k i : Nat) : Fld := ⟨CAB_PMSEL k i, 15, 8⟩
def CAB_PMSEL_SEL0 (k i : Nat) : Fld := ⟨CAB_PMSEL k i, 7, 0⟩
def CAB_PMCNT (k i j : Nat) : Nat := 0x200308 + 0x10000 * k + 0x20 * i + 0x4 * j
def CAB_PMCNT_COUNT (k i j : Nat) : Fld := ⟨CAB_PMCNT k i j, 31, 0⟩
def CAB_CXTAB (k i j : Nat) : Nat := 0x200800 + 0x10000 * k + 0x100 * i + 0x4 * j
def CAB_CXTAB_WORD (k i j : Nat) : Fld := ⟨CAB_CXTAB k i j, 31, 0⟩
def GAL_SVC : Nat := 0x70000
def GAL_SVC_PHASE : Fld := ⟨GAL_SVC, 9, 8⟩
def GAL_SVC_NORMAL : Fld := ⟨GAL_SVC, 0, 0⟩
def GAL_RET : Nat := 0x70010
def GAL_RET_DTAB : Fld := ⟨GAL_RET, 25, 25⟩
def GAL_RET_VAULT : Fld := ⟨GAL_RET, 24, 24⟩
def GAL_RET_SCR : Fld := ⟨GAL_RET, 23, 16⟩
def GAL_RET_GH : Fld := ⟨GAL_RET, 15, 0⟩
def GAL_PGATE : Nat := 0x70014
def GAL_PGATE_GH_EFF : Fld := ⟨GAL_PGATE, 31, 16⟩
def GAL_PGATE_GH_REQ : Fld := ⟨GAL_PGATE, 15, 0⟩
def GAL_SCRUB : Nat := 0x70020
def GAL_SCRUB_EN : Fld := ⟨GAL_SCRUB, 31, 31⟩
def GAL_SCRUB_STEP : Fld := ⟨GAL_SCRUB, 15, 0⟩
def GAL_SCRPOS : Nat := 0x70024
def GAL_SCRPOS_PASS : Fld := ⟨GAL_SCRPOS, 31, 24⟩
def GAL_SCRPOS_LINE : Fld := ⟨GAL_SCRPOS, 18, 0⟩
def GAL_CECNT : Nat := 0x70030
def GAL_CECNT_COUNT : Fld := ⟨GAL_CECNT, 31, 0⟩
def GAL_UECNT : Nat := 0x70034
def GAL_UECNT_COUNT : Fld := ⟨GAL_UECNT, 31, 0⟩
def GAL_UEADDR : Nat := 0x70038
def GAL_UEADDR_ADDR : Fld := ⟨GAL_UEADDR, 31, 3⟩
def GAL_ESTAT : Nat := 0x7003C
def GAL_ESTAT_UEIE : Fld := ⟨GAL_ESTAT, 8, 8⟩
def GAL_ESTAT_UEOVF : Fld := ⟨GAL_ESTAT, 1, 1⟩
def GAL_ESTAT_UEV : Fld := ⟨GAL_ESTAT, 0, 0⟩
def GAL_EINJ : Nat := 0x70040
def GAL_EINJ_ARM : Fld := ⟨GAL_EINJ, 31, 31⟩
def GAL_EINJ_DOUBLE : Fld := ⟨GAL_EINJ, 30, 30⟩
def GAL_EINJ_BIT1 : Fld := ⟨GAL_EINJ, 14, 8⟩
def GAL_EINJ_BIT0 : Fld := ⟨GAL_EINJ, 6, 0⟩
def GAL_CCTL : Nat := 0x70080
def GAL_CCTL_CLR : Fld := ⟨GAL_CCTL, 1, 1⟩
def GAL_CCTL_EN : Fld := ⟨GAL_CCTL, 0, 0⟩
def GAL_CONF (i j : Nat) : Nat := 0x71000 + 0x200 * i + 0x4 * j
def GAL_CONF_COUNT (i j : Nat) : Fld := ⟨GAL_CONF i j, 31, 0⟩
def VLT_STAT : Nat := 0x80000
def VLT_STAT_WIPING : Fld := ⟨VLT_STAT, 31, 31⟩
def VLT_STAT_READY : Fld := ⟨VLT_STAT, 30, 30⟩
def VLT_STAT_WIPES : Fld := ⟨VLT_STAT, 23, 16⟩
def VLT_STAT_CAUSE : Fld := ⟨VLT_STAT, 2, 0⟩
def VLT_WIPE : Nat := 0x80004
def VLT_WIPE_CODE : Fld := ⟨VLT_WIPE, 31, 16⟩
def VLT_WIPE_GO : Fld := ⟨VLT_WIPE, 0, 0⟩
def VLT_CECNT : Nat := 0x80010
def VLT_CECNT_COUNT : Fld := ⟨VLT_CECNT, 31, 0⟩
def VLT_UEADDR : Nat := 0x80014
def VLT_UEADDR_ADDR : Fld := ⟨VLT_UEADDR, 31, 3⟩
def VLT_ESTAT : Nat := 0x80018
def VLT_ESTAT_UEIE : Fld := ⟨VLT_ESTAT, 8, 8⟩
def VLT_ESTAT_UEOVF : Fld := ⟨VLT_ESTAT, 1, 1⟩
def VLT_ESTAT_UEV : Fld := ⟨VLT_ESTAT, 0, 0⟩
def VLT_WPROT : Nat := 0x80020
def VLT_WPROT_WP : Fld := ⟨VLT_WPROT, 15, 0⟩
def DPT_CTL : Nat := 0x60000
def DPT_CTL_ERR : Fld := ⟨DPT_CTL, 7, 4⟩
def DPT_CTL_EN_EFF : Fld := ⟨DPT_CTL, 1, 1⟩
def DPT_CTL_EN_REQ : Fld := ⟨DPT_CTL, 0, 0⟩
def DPT_POOL : Nat := 0x60004
def DPT_POOL_SIZE_EFF : Fld := ⟨DPT_POOL, 29, 24⟩
def DPT_POOL_BASE_EFF : Fld := ⟨DPT_POOL, 21, 16⟩
def DPT_POOL_SIZE_REQ : Fld := ⟨DPT_POOL, 13, 8⟩
def DPT_POOL_BASE_REQ : Fld := ⟨DPT_POOL, 5, 0⟩
def DPT_FREE : Nat := 0x60008
def DPT_FREE_FREE : Fld := ⟨DPT_FREE, 17, 0⟩
def DPT_OPEN : Nat := 0x6000C
def DPT_OPEN_OPEN : Fld := ⟨DPT_OPEN, 6, 0⟩
def DPT_FULLCNT : Nat := 0x60010
def DPT_FULLCNT_COUNT : Fld := ⟨DPT_FULLCNT, 31, 0⟩
def DPT_ABNCNT : Nat := 0x60014
def DPT_ABNCNT_COUNT : Fld := ⟨DPT_ABNCNT, 31, 0⟩
def DPT_SLOWCNT : Nat := 0x60018
def DPT_SLOWCNT_COUNT : Fld := ⟨DPT_SLOWCNT, 31, 0⟩
def DPT_QCMD : Nat := 0x60020
def DPT_QCMD_FLUSH : Fld := ⟨DPT_QCMD, 31, 31⟩
def DPT_QCMD_QUEUE : Fld := ⟨DPT_QCMD, 9, 0⟩
def DPT_ISTAT : Nat := 0x60028
def DPT_ISTAT_POOLOFF : Fld := ⟨DPT_ISTAT, 4, 4⟩
def DPT_ISTAT_FULL : Fld := ⟨DPT_ISTAT, 3, 3⟩
def DPT_ISTAT_POOLERR : Fld := ⟨DPT_ISTAT, 2, 2⟩
def DPT_ISTAT_ABANDON : Fld := ⟨DPT_ISTAT, 1, 1⟩
def DPT_ISTAT_LERR : Fld := ⟨DPT_ISTAT, 0, 0⟩
def DPT_IEN : Nat := 0x6002C
def DPT_IEN_EN : Fld := ⟨DPT_IEN, 4, 0⟩
def DPT_QCFG (i : Nat) : Nat := 0x64000 + 0x10 * i
def DPT_QCFG_EN_EFF (i : Nat) : Fld := ⟨DPT_QCFG i, 31, 31⟩
def DPT_QCFG_EN_REQ (i : Nat) : Fld := ⟨DPT_QCFG i, 30, 30⟩
def DPT_QCFG_LERR (i : Nat) : Fld := ⟨DPT_QCFG i, 29, 29⟩
def DPT_QCFG_FULL (i : Nat) : Fld := ⟨DPT_QCFG i, 28, 28⟩
def DPT_QCFG_CONS (i : Nat) : Fld := ⟨DPT_QCFG i, 15, 8⟩
def DPT_QLIM (i : Nat) : Nat := 0x64004 + 0x10 * i
def DPT_QLIM_QUOTA (i : Nat) : Fld := ⟨DPT_QLIM i, 17, 0⟩
def DPT_QTHR (i : Nat) : Nat := 0x64008 + 0x10 * i
def DPT_QTHR_IEN (i : Nat) : Fld := ⟨DPT_QTHR i, 31, 31⟩
def DPT_QTHR_EEN (i : Nat) : Fld := ⟨DPT_QTHR i, 30, 30⟩
def DPT_QTHR_KIND (i : Nat) : Fld := ⟨DPT_QTHR i, 29, 29⟩
def DPT_QTHR_SRC (i : Nat) : Fld := ⟨DPT_QTHR i, 28, 24⟩
def DPT_QTHR_ENG (i : Nat) : Fld := ⟨DPT_QTHR i, 21, 16⟩
def DPT_QTHR_LEVEL (i : Nat) : Fld := ⟨DPT_QTHR i, 15, 0⟩
def DPT_QSTAT (i : Nat) : Nat := 0x6400C + 0x10 * i
def DPT_QSTAT_DEPTH (i : Nat) : Fld := ⟨DPT_QSTAT i, 31, 18⟩
def DPT_QSTAT_HELD (i : Nat) : Fld := ⟨DPT_QSTAT i, 17, 0⟩
def ADM_CTL : Nat := 0x50000
def ADM_CTL_RECLAIM : Fld := ⟨ADM_CTL, 4, 4⟩
def ADM_CTL_EN_EFF : Fld := ⟨ADM_CTL, 1, 1⟩
def ADM_CTL_EN_REQ : Fld := ⟨ADM_CTL, 0, 0⟩
def ADM_STAT : Nat := 0x50004
def ADM_STAT_THERM : Fld := ⟨ADM_STAT, 31, 31⟩
def ADM_STAT_ENTRY : Fld := ⟨ADM_STAT, 30, 30⟩
def ADM_STAT_OUT : Fld := ⟨ADM_STAT, 28, 16⟩
def ADM_STAT_RAIL_W1 : Fld := ⟨ADM_STAT, 15, 12⟩
def ADM_STAT_CMT_W1 : Fld := ⟨ADM_STAT, 11, 8⟩
def ADM_STAT_RAIL_W0 : Fld := ⟨ADM_STAT, 7, 4⟩
def ADM_STAT_CMT_W0 : Fld := ⟨ADM_STAT, 3, 0⟩
def ADM_ISTAT : Nat := 0x50008
def ADM_ISTAT_OWNERR : Fld := ⟨ADM_ISTAT, 6, 6⟩
def ADM_ISTAT_THERM : Fld := ⟨ADM_ISTAT, 5, 5⟩
def ADM_ISTAT_PACEV_W1 : Fld := ⟨ADM_ISTAT, 4, 4⟩
def ADM_ISTAT_PACEV_W0 : Fld := ⟨ADM_ISTAT, 3, 3⟩
def ADM_ISTAT_RAILF_W1 : Fld := ⟨ADM_ISTAT, 2, 2⟩
def ADM_ISTAT_RAILF_W0 : Fld := ⟨ADM_ISTAT, 1, 1⟩
def ADM_ISTAT_BREACH : Fld := ⟨ADM_ISTAT, 0, 0⟩
def ADM_IEN : Nat := 0x5000C
def ADM_IEN_EN : Fld := ⟨ADM_IEN, 6, 0⟩
def ADM_GUARD : Nat := 0x50010
def ADM_GUARD_PCT : Fld := ⟨ADM_GUARD, 8, 0⟩
def ADM_RAILLAT : Nat := 0x50014
def ADM_RAILLAT_US : Fld := ⟨ADM_RAILLAT, 9, 0⟩
def ADM_STUB : Nat := 0x50018
def ADM_STUB_MARKS : Fld := ⟨ADM_STUB, 15, 0⟩
def ADM_THERM : Nat := 0x5001C
def ADM_THERM_ACTIVE : Fld := ⟨ADM_THERM, 16, 16⟩
def ADM_THERM_PINEN : Fld := ⟨ADM_THERM, 9, 9⟩
def ADM_THERM_HOSTEN : Fld := ⟨ADM_THERM, 8, 8⟩
def ADM_THERM_PIN : Fld := ⟨ADM_THERM, 1, 1⟩
def ADM_THERM_HOST : Fld := ⟨ADM_THERM, 0, 0⟩
def ADM_VTHERM : Nat := 0x50050
def ADM_VTHERM_POINT : Fld := ⟨ADM_VTHERM, 3, 0⟩
def ADM_LASTB : Nat := 0x50060
def ADM_LASTB_REASON : Fld := ⟨ADM_LASTB, 30, 28⟩
def ADM_LASTB_ENG : Fld := ⟨ADM_LASTB, 27, 22⟩
def ADM_LASTB_PID : Fld := ⟨ADM_LASTB, 11, 0⟩
def ADM_RESULT : Nat := 0x50880
def ADM_RESULT_VALUE : Fld := ⟨ADM_RESULT, 31, 0⟩
def ADM_DONE : Nat := 0x50884
def ADM_DONE_F : Fld := ⟨ADM_DONE, 31, 31⟩
def ADM_DONE_CAUSE : Fld := ⟨ADM_DONE, 23, 16⟩
def ADM_DONE_PID : Fld := ⟨ADM_DONE, 11, 0⟩
def ADM_OWN (i : Nat) : Nat := 0x50020 + 0x4 * i
def ADM_OWN_OWN_EFF (i : Nat) : Fld := ⟨ADM_OWN i, 15, 8⟩
def ADM_OWN_OWN_REQ (i : Nat) : Fld := ⟨ADM_OWN i, 7, 0⟩
def ADM_VCEIL (i : Nat) : Nat := 0x50040 + 0x4 * i
def ADM_VCEIL_VCEIL_EFF (i : Nat) : Fld := ⟨ADM_VCEIL i, 11, 8⟩
def ADM_VCEIL_VCEIL_REQ (i : Nat) : Fld := ⟨ADM_VCEIL i, 3, 0⟩
def ADM_VFLOOR (i : Nat) : Nat := 0x50048 + 0x4 * i
def ADM_VFLOOR_POINT (i : Nat) : Fld := ⟨ADM_VFLOOR i, 3, 0⟩
def ADM_CNT (i : Nat) : Nat := 0x50080 + 0x4 * i
def ADM_CNT_COUNT (i : Nat) : Fld := ⟨ADM_CNT i, 31, 0⟩
def ADM_PTAB (i j : Nat) : Nat := 0x50400 + 0x40 * i + 0x4 * j
def ADM_PTAB_USABLE (i j : Nat) : Fld := ⟨ADM_PTAB i j, 31, 31⟩
def ADM_PTAB_SRC (i j : Nat) : Fld := ⟨ADM_PTAB i j, 30, 30⟩
def ADM_PTAB_MV (i j : Nat) : Fld := ⟨ADM_PTAB i j, 25, 16⟩
def ADM_PTAB_PACE (i j : Nat) : Fld := ⟨ADM_PTAB i j, 15, 0⟩
def ADM_CAT_ENTRY (i : Nat) : Nat := 0x51000 + 0x10 * i
def ADM_CAT_ENTRY_ADDR (i : Nat) : Fld := ⟨ADM_CAT_ENTRY i, 31, 2⟩
def ADM_CAT_MARKS (i : Nat) : Nat := 0x51004 + 0x10 * i
def ADM_CAT_MARKS_MARKS (i : Nat) : Fld := ⟨ADM_CAT_MARKS i, 31, 0⟩
def ADM_CAT_SET (i : Nat) : Nat := 0x51008 + 0x10 * i
def ADM_CAT_SET_GACC (i : Nat) : Fld := ⟨ADM_CAT_SET i, 31, 16⟩
def ADM_CAT_SET_CABS (i : Nat) : Fld := ⟨ADM_CAT_SET i, 7, 0⟩
def ADM_CAT_CTL (i : Nat) : Nat := 0x5100C + 0x10 * i
def ADM_CAT_CTL_LOCK (i : Nat) : Fld := ⟨ADM_CAT_CTL i, 31, 31⟩
def ADM_CAT_CTL_ERR (i : Nat) : Fld := ⟨ADM_CAT_CTL i, 25, 24⟩
def ADM_CAT_CTL_STATE_EFF (i : Nat) : Fld := ⟨ADM_CAT_CTL i, 1, 1⟩
def ADM_CAT_CTL_STATE_REQ (i : Nat) : Fld := ⟨ADM_CAT_CTL i, 0, 0⟩
def HPT_CTL : Nat := 0x90000
def HPT_CTL_ERRDATA : Fld := ⟨HPT_CTL, 3, 3⟩
def HPT_CTL_DPEN : Fld := ⟨HPT_CTL, 2, 2⟩
def HPT_CTL_CFGRDY : Fld := ⟨HPT_CTL, 1, 1⟩
def HPT_CTL_LTEN : Fld := ⟨HPT_CTL, 0, 0⟩
def HPT_LINKCFG : Nat := 0x90004
def HPT_LINKCFG_RATE_EFF : Fld := ⟨HPT_LINKCFG, 30, 28⟩
def HPT_LINKCFG_WIDTH_EFF : Fld := ⟨HPT_LINKCFG, 27, 26⟩
def HPT_LINKCFG_CXLEN_EFF : Fld := ⟨HPT_LINKCFG, 25, 25⟩
def HPT_LINKCFG_RATE_REQ : Fld := ⟨HPT_LINKCFG, 6, 4⟩
def HPT_LINKCFG_WIDTH_REQ : Fld := ⟨HPT_LINKCFG, 3, 2⟩
def HPT_LINKCFG_CXLEN_REQ : Fld := ⟨HPT_LINKCFG, 1, 1⟩
def HPT_LSTAT : Nat := 0x90008
def HPT_LSTAT_STATE : Fld := ⟨HPT_LSTAT, 27, 24⟩
def HPT_LSTAT_MODE : Fld := ⟨HPT_LSTAT, 21, 20⟩
def HPT_LSTAT_CXLVER : Fld := ⟨HPT_LSTAT, 19, 18⟩
def HPT_LSTAT_RATE : Fld := ⟨HPT_LSTAT, 17, 15⟩
def HPT_LSTAT_WIDTH : Fld := ⟨HPT_LSTAT, 14, 13⟩
def HPT_LSTAT_REV : Fld := ⟨HPT_LSTAT, 12, 12⟩
def HPT_LSTAT_POL : Fld := ⟨HPT_LSTAT, 11, 8⟩
def HPT_LSTAT_D0 : Fld := ⟨HPT_LSTAT, 2, 2⟩
def HPT_LSTAT_BME : Fld := ⟨HPT_LSTAT, 1, 1⟩
def HPT_LSTAT_PRESENT : Fld := ⟨HPT_LSTAT, 0, 0⟩
def HPT_ISTAT : Nat := 0x9000C
def HPT_ISTAT_FENCE : Fld := ⟨HPT_ISTAT, 5, 5⟩
def HPT_ISTAT_HOLDTO : Fld := ⟨HPT_ISTAT, 4, 4⟩
def HPT_ISTAT_LOSTW : Fld := ⟨HPT_ISTAT, 3, 3⟩
def HPT_ISTAT_ABSENT : Fld := ⟨HPT_ISTAT, 2, 2⟩
def HPT_ISTAT_LINKDOWN : Fld := ⟨HPT_ISTAT, 1, 1⟩
def HPT_ISTAT_LINKUP : Fld := ⟨HPT_ISTAT, 0, 0⟩
def HPT_IEN : Nat := 0x90010
def HPT_IEN_EN : Fld := ⟨HPT_IEN, 5, 0⟩
def HPT_HOLDMAX : Nat := 0x90014
def HPT_HOLDMAX_MS : Fld := ⟨HPT_HOLDMAX, 9, 0⟩
def HPT_HOLD : Nat := 0x90018
def HPT_HOLD_WAKE : Fld := ⟨HPT_HOLD, 31, 31⟩
def HPT_HOLD_COUNT : Fld := ⟨HPT_HOLD, 8, 0⟩
def HPT_LOSTW : Nat := 0x90020
def HPT_LOSTW_VALID : Fld := ⟨HPT_LOSTW, 31, 31⟩
def HPT_LOSTW_COUNT : Fld := ⟨HPT_LOSTW, 15, 0⟩
def HPT_LOSTA : Nat := 0x90024
def HPT_LOSTA_ADDR : Fld := ⟨HPT_LOSTA, 31, 0⟩
def HPT_HMEM : Nat := 0x90030
def HPT_HMEM_AVAIL_EFF : Fld := ⟨HPT_HMEM, 1, 1⟩
def HPT_HMEM_AVAIL_REQ : Fld := ⟨HPT_HMEM, 0, 0⟩
def HPT_FCCMD : Nat := 0x90040
def HPT_FCCMD_FLUSH : Fld := ⟨HPT_FCCMD, 31, 31⟩
def HPT_FCSTAT : Nat := 0x90044
def HPT_FCSTAT_BUSY : Fld := ⟨HPT_FCSTAT, 31, 31⟩
def HPT_FCSTAT_DIRTY : Fld := ⟨HPT_FCSTAT, 14, 0⟩
def HPT_SUBID : Nat := 0x90050
def HPT_SUBID_SSID : Fld := ⟨HPT_SUBID, 31, 16⟩
def HPT_SUBID_SSVID : Fld := ⟨HPT_SUBID, 15, 0⟩
def HPT_DPERR : Nat := 0x90060
def HPT_DPERR_VALID : Fld := ⟨HPT_DPERR, 31, 31⟩
def HPT_DPERR_COUNT : Fld := ⟨HPT_DPERR, 15, 0⟩
def HPT_DPEA : Nat := 0x90064
def HPT_DPEA_ADDR : Fld := ⟨HPT_DPEA, 31, 0⟩
def HPT_DPF_BASE (i : Nat) : Nat := 0x90100 + 0x8 * i
def HPT_DPF_BASE_ADDR (i : Nat) : Fld := ⟨HPT_DPF_BASE i, 31, 12⟩
def HPT_DPF_LIMIT (i : Nat) : Nat := 0x90104 + 0x8 * i
def HPT_DPF_LIMIT_ADDR (i : Nat) : Fld := ⟨HPT_DPF_LIMIT i, 31, 12⟩
def HPT_DPF_LIMIT_MODE (i : Nat) : Fld := ⟨HPT_DPF_LIMIT i, 1, 0⟩
def HPT_FWT_BASE (i : Nat) : Nat := 0x91000 + 0x8 * i
def HPT_FWT_BASE_HPA (i : Nat) : Fld := ⟨HPT_FWT_BASE i, 31, 4⟩
def HPT_FWT_ATTR (i : Nat) : Nat := 0x91004 + 0x8 * i
def HPT_FWT_ATTR_EN_EFF (i : Nat) : Fld := ⟨HPT_FWT_ATTR i, 31, 31⟩
def HPT_FWT_ATTR_EN_REQ (i : Nat) : Fld := ⟨HPT_FWT_ATTR i, 30, 30⟩
def HPT_FWT_ATTR_POL (i : Nat) : Fld := ⟨HPT_FWT_ATTR i, 3, 3⟩
def HPT_FWT_ATTR_RDONLY (i : Nat) : Fld := ⟨HPT_FWT_ATTR i, 2, 2⟩
def HPT_FWT_ATTR_CACHE (i : Nat) : Fld := ⟨HPT_FWT_ATTR i, 1, 1⟩
def RNG_CTL : Nat := 0xA0000
def RNG_CTL_HOSTEN : Fld := ⟨RNG_CTL, 0, 0⟩
def RNG_STAT : Nat := 0xA0004
def RNG_STAT_PAUSED : Fld := ⟨RNG_STAT, 31, 31⟩
def RNG_STAT_INFL : Fld := ⟨RNG_STAT, 9, 0⟩
def RNG_RESUME : Nat := 0xA0008
def RNG_RESUME_GO : Fld := ⟨RNG_RESUME, 0, 0⟩
def RNG_ISTAT : Nat := 0xA000C
def RNG_ISTAT_DROP : Fld := ⟨RNG_ISTAT, 3, 3⟩
def RNG_ISTAT_CQERR : Fld := ⟨RNG_ISTAT, 2, 2⟩
def RNG_ISTAT_SQERR : Fld := ⟨RNG_ISTAT, 1, 1⟩
def RNG_ISTAT_PAUSE : Fld := ⟨RNG_ISTAT, 0, 0⟩
def RNG_IEN : Nat := 0xA0010
def RNG_IEN_EN : Fld := ⟨RNG_IEN, 3, 0⟩
def RNG_DROPCNT : Nat := 0xA0014
def RNG_DROPCNT_COUNT : Fld := ⟨RNG_DROPCNT, 31, 0⟩
def RNG_SQBASEL (i : Nat) : Nat := 0xA1000 + 0x20 * i
def RNG_SQBASEL_ADDR (i : Nat) : Fld := ⟨RNG_SQBASEL i, 31, 6⟩
def RNG_SQBASEH (i : Nat) : Nat := 0xA1004 + 0x20 * i
def RNG_SQBASEH_ADDR (i : Nat) : Fld := ⟨RNG_SQBASEH i, 19, 0⟩
def RNG_SQCTL (i : Nat) : Nat := 0xA1008 + 0x20 * i
def RNG_SQCTL_EN_EFF (i : Nat) : Fld := ⟨RNG_SQCTL i, 31, 31⟩
def RNG_SQCTL_EN_REQ (i : Nat) : Fld := ⟨RNG_SQCTL i, 30, 30⟩
def RNG_SQCTL_CQ (i : Nat) : Fld := ⟨RNG_SQCTL i, 21, 16⟩
def RNG_SQCTL_SIZE (i : Nat) : Fld := ⟨RNG_SQCTL i, 11, 8⟩
def RNG_SQCTL_BURST (i : Nat) : Fld := ⟨RNG_SQCTL i, 6, 4⟩
def RNG_SQCTL_PRI (i : Nat) : Fld := ⟨RNG_SQCTL i, 0, 0⟩
def RNG_SQSTAT (i : Nat) : Nat := 0xA100C + 0x20 * i
def RNG_SQSTAT_STATE (i : Nat) : Fld := ⟨RNG_SQSTAT i, 31, 30⟩
def RNG_SQSTAT_ERR (i : Nat) : Fld := ⟨RNG_SQSTAT i, 27, 24⟩
def RNG_SQSTAT_HEAD (i : Nat) : Fld := ⟨RNG_SQSTAT i, 23, 12⟩
def RNG_SQSTAT_TAIL (i : Nat) : Fld := ⟨RNG_SQSTAT i, 11, 0⟩
def RNG_CQBASEL (i : Nat) : Nat := 0xA2000 + 0x20 * i
def RNG_CQBASEL_ADDR (i : Nat) : Fld := ⟨RNG_CQBASEL i, 31, 5⟩
def RNG_CQBASEH (i : Nat) : Nat := 0xA2004 + 0x20 * i
def RNG_CQBASEH_ADDR (i : Nat) : Fld := ⟨RNG_CQBASEH i, 19, 0⟩
def RNG_CQCTL (i : Nat) : Nat := 0xA2008 + 0x20 * i
def RNG_CQCTL_EN_EFF (i : Nat) : Fld := ⟨RNG_CQCTL i, 31, 31⟩
def RNG_CQCTL_EN_REQ (i : Nat) : Fld := ⟨RNG_CQCTL i, 30, 30⟩
def RNG_CQCTL_VEC (i : Nat) : Fld := ⟨RNG_CQCTL i, 21, 16⟩
def RNG_CQCTL_SIZE (i : Nat) : Fld := ⟨RNG_CQCTL i, 11, 8⟩
def RNG_CQCTL_IEN (i : Nat) : Fld := ⟨RNG_CQCTL i, 0, 0⟩
def RNG_CQSTAT (i : Nat) : Nat := 0xA200C + 0x20 * i
def RNG_CQSTAT_STATE (i : Nat) : Fld := ⟨RNG_CQSTAT i, 31, 30⟩
def RNG_CQSTAT_PHASE (i : Nat) : Fld := ⟨RNG_CQSTAT i, 29, 29⟩
def RNG_CQSTAT_ERR (i : Nat) : Fld := ⟨RNG_CQSTAT i, 27, 24⟩
def RNG_CQSTAT_TAIL (i : Nat) : Fld := ⟨RNG_CQSTAT i, 23, 12⟩
def RNG_CQSTAT_HEAD (i : Nat) : Fld := ⟨RNG_CQSTAT i, 11, 0⟩
def RNG_CQMOD (i : Nat) : Nat := 0xA2010 + 0x20 * i
def RNG_CQMOD_COUNT (i : Nat) : Fld := ⟨RNG_CQMOD i, 23, 16⟩
def RNG_CQMOD_TIME (i : Nat) : Fld := ⟨RNG_CQMOD i, 9, 0⟩
def RNG_CQPEND (i : Nat) : Nat := 0xA2014 + 0x20 * i
def RNG_CQPEND_RSV (i : Nat) : Fld := ⟨RNG_CQPEND i, 25, 16⟩
def RNG_CQPEND_UNREL (i : Nat) : Fld := ⟨RNG_CQPEND i, 11, 0⟩
def MOV_CTL (i : Nat) : Nat := 0x130000 + 0x4 * i
def MOV_CTL_EN_EFF (i : Nat) : Fld := ⟨MOV_CTL i, 31, 31⟩
def MOV_CTL_EN_REQ (i : Nat) : Fld := ⟨MOV_CTL i, 30, 30⟩
def MOV_CTL_MAXOUT (i : Nat) : Fld := ⟨MOV_CTL i, 6, 0⟩
def MOV_STAT (i : Nat) : Nat := 0x130010 + 0x4 * i
def MOV_STAT_BUSY (i : Nat) : Fld := ⟨MOV_STAT i, 31, 31⟩
def MOV_STAT_QUEUED (i : Nat) : Fld := ⟨MOV_STAT i, 21, 16⟩
def MOV_STAT_OUT (i : Nat) : Fld := ⟨MOV_STAT i, 6, 0⟩
def MOV_BYTES (i : Nat) : Nat := 0x130020 + 0x4 * i
def MOV_BYTES_COUNT (i : Nat) : Fld := ⟨MOV_BYTES i, 31, 0⟩
def MOV_FAULTS (i : Nat) : Nat := 0x130030 + 0x4 * i
def MOV_FAULTS_COUNT (i : Nat) : Fld := ⟨MOV_FAULTS i, 31, 0⟩
def MOV_ISTAT : Nat := 0x130040
def MOV_ISTAT_IDLE1 : Fld := ⟨MOV_ISTAT, 3, 3⟩
def MOV_ISTAT_IDLE0 : Fld := ⟨MOV_ISTAT, 2, 2⟩
def MOV_ISTAT_FAULT1 : Fld := ⟨MOV_ISTAT, 1, 1⟩
def MOV_ISTAT_FAULT0 : Fld := ⟨MOV_ISTAT, 0, 0⟩
def MOV_IEN : Nat := 0x130044
def MOV_IEN_EN : Fld := ⟨MOV_IEN, 3, 0⟩
def CUR_STAT : Nat := 0xB0000
def CUR_STAT_RUN : Fld := ⟨CUR_STAT, 31, 31⟩
def CUR_STAT_HALT : Fld := ⟨CUR_STAT, 30, 30⟩
def CUR_STAT_SEC : Fld := ⟨CUR_STAT, 29, 29⟩
def CUR_STAT_LAG : Fld := ⟨CUR_STAT, 1, 0⟩
def CUR_FAULT : Nat := 0xB0004
def CUR_FAULT_VALID : Fld := ⟨CUR_FAULT, 31, 31⟩
def CUR_FAULT_MORE : Fld := ⟨CUR_FAULT, 30, 30⟩
def CUR_FAULT_CODE : Fld := ⟨CUR_FAULT, 27, 24⟩
def CUR_FAULT_HINT : Fld := ⟨CUR_FAULT, 21, 20⟩
def CUR_FAULT_CHAN : Fld := ⟨CUR_FAULT, 18, 16⟩
def CUR_FAULT_RSTCNT : Fld := ⟨CUR_FAULT, 15, 8⟩
def CUR_FSEQ : Nat := 0xB0008
def CUR_FSEQ_SEQ : Fld := ⟨CUR_FSEQ, 31, 0⟩
def CUR_FADDR : Nat := 0xB000C
def CUR_FADDR_ADDR : Fld := ⟨CUR_FADDR, 31, 0⟩
def CUR_SAFE : Nat := 0xB0010
def CUR_SAFE_LOCK : Fld := ⟨CUR_SAFE, 31, 31⟩
def CUR_SAFE_ESC : Fld := ⟨CUR_SAFE, 15, 12⟩
def CUR_SAFE_IEN : Fld := ⟨CUR_SAFE, 5, 5⟩
def CUR_SAFE_WAKE : Fld := ⟨CUR_SAFE, 4, 4⟩
def CUR_SAFE_VW : Fld := ⟨CUR_SAFE, 3, 3⟩
def CUR_SAFE_PADHOLD : Fld := ⟨CUR_SAFE, 2, 2⟩
def CUR_SAFE_RST : Fld := ⟨CUR_SAFE, 1, 0⟩
def CUR_SAFECMD : Nat := 0xB0014
def CUR_SAFECMD_CODE : Fld := ⟨CUR_SAFECMD, 31, 16⟩
def CUR_SAFECMD_GO : Fld := ⟨CUR_SAFECMD, 0, 0⟩
def CUR_RESTART : Nat := 0xB0018
def CUR_RESTART_ADDR : Fld := ⟨CUR_RESTART, 31, 2⟩
def CUR_RESTART_VALID : Fld := ⟨CUR_RESTART, 0, 0⟩
def CUR_CMPX : Nat := 0xB0020
def CUR_CMPX_PERIOD : Fld := ⟨CUR_CMPX, 13, 0⟩
def CUR_CMPXCNT : Nat := 0xB0024
def CUR_CMPXCNT_COUNT : Fld := ⟨CUR_CMPXCNT, 31, 0⟩
def CUR_DPCNT : Nat := 0xB0028
def CUR_DPCNT_COUNT : Fld := ⟨CUR_DPCNT, 31, 0⟩
def CUR_WDCTL : Nat := 0xB0030
def CUR_WDCTL_EN : Fld := ⟨CUR_WDCTL, 31, 31⟩
def CUR_WDCTL_DBGSTOP : Fld := ⟨CUR_WDCTL, 30, 30⟩
def CUR_WDCTL_PERIOD : Fld := ⟨CUR_WDCTL, 15, 0⟩
def CUR_WDKICK : Nat := 0xB0034
def CUR_WDKICK_CODE : Fld := ⟨CUR_WDKICK, 31, 16⟩
def CUR_WDCNT : Nat := 0xB0038
def CUR_WDCNT_MS : Fld := ⟨CUR_WDCNT, 15, 0⟩
def ITC_CTL : Nat := 0x30000
def ITC_CTL_ERRIE : Fld := ⟨ITC_CTL, 8, 8⟩
def ITC_CTL_EN : Fld := ⟨ITC_CTL, 0, 0⟩
def ITC_ERR : Nat := 0x30004
def ITC_ERR_UID : Fld := ⟨ITC_ERR, 23, 16⟩
def ITC_ERR_EOIEMPTY : Fld := ⟨ITC_ERR, 0, 0⟩
def ITC_CLAIM : Nat := 0x30010
def ITC_CLAIM_VALID : Fld := ⟨ITC_CLAIM, 31, 31⟩
def ITC_CLAIM_PRI : Fld := ⟨ITC_CLAIM, 11, 8⟩
def ITC_CLAIM_SRC : Fld := ⟨ITC_CLAIM, 7, 0⟩
def ITC_EOI : Nat := 0x30014
def ITC_EOI_VALUE : Fld := ⟨ITC_EOI, 31, 0⟩
def ITC_RPRI : Nat := 0x30018
def ITC_RPRI_RUNPRI : Fld := ⟨ITC_RPRI, 20, 16⟩
def ITC_RPRI_DEPTH : Fld := ⟨ITC_RPRI, 12, 8⟩
def ITC_RPRI_TOP : Fld := ⟨ITC_RPRI, 7, 0⟩
def ITC_TSTAT (i : Nat) : Nat := 0x30800 + 0x4 * i
def ITC_TSTAT_RUNPRI (i : Nat) : Fld := ⟨ITC_TSTAT i, 20, 16⟩
def ITC_TSTAT_DEPTH (i : Nat) : Fld := ⟨ITC_TSTAT i, 12, 8⟩
def ITC_TSTAT_TOP (i : Nat) : Fld := ⟨ITC_TSTAT i, 7, 0⟩
def ITC_ENSET (i : Nat) : Nat := 0x30100 + 0x4 * i
def ITC_ENSET_EN (i : Nat) : Fld := ⟨ITC_ENSET i, 31, 0⟩
def ITC_ENCLR (i : Nat) : Nat := 0x30120 + 0x4 * i
def ITC_ENCLR_EN (i : Nat) : Fld := ⟨ITC_ENCLR i, 31, 0⟩
def ITC_PENDSET (i : Nat) : Nat := 0x30140 + 0x4 * i
def ITC_PENDSET_PEND (i : Nat) : Fld := ⟨ITC_PENDSET i, 31, 0⟩
def ITC_PENDCLR (i : Nat) : Nat := 0x30160 + 0x4 * i
def ITC_PENDCLR_PEND (i : Nat) : Fld := ⟨ITC_PENDCLR i, 31, 0⟩
def ITC_ACTIVE (i : Nat) : Nat := 0x30180 + 0x4 * i
def ITC_ACTIVE_ACT (i : Nat) : Fld := ⟨ITC_ACTIVE i, 31, 0⟩
def ITC_LINE (i : Nat) : Nat := 0x301A0 + 0x4 * i
def ITC_LINE_LINE (i : Nat) : Fld := ⟨ITC_LINE i, 31, 0⟩
def ITC_SRC (i : Nat) : Nat := 0x31000 + 0x4 * i
def ITC_SRC_FC (i : Nat) : Fld := ⟨ITC_SRC i, 31, 31⟩
def ITC_SRC_TKIND (i : Nat) : Fld := ⟨ITC_SRC i, 25, 24⟩
def ITC_SRC_ENG (i : Nat) : Fld := ⟨ITC_SRC i, 21, 16⟩
def ITC_SRC_VEC (i : Nat) : Fld := ⟨ITC_SRC i, 13, 8⟩
def ITC_SRC_LVL (i : Nat) : Fld := ⟨ITC_SRC i, 4, 4⟩
def ITC_SRC_PRI (i : Nat) : Fld := ⟨ITC_SRC i, 3, 0⟩
def EVN_ALMRT (i : Nat) : Nat := 0x40010 + 0x4 * i
def EVN_ALMRT_EN (i : Nat) : Fld := ⟨EVN_ALMRT i, 31, 31⟩
def EVN_ALMRT_KIND (i : Nat) : Fld := ⟨EVN_ALMRT i, 10, 8⟩
def EVN_ALMRT_TARGET (i : Nat) : Fld := ⟨EVN_ALMRT i, 5, 0⟩
def EVN_LATCH (i : Nat) : Nat := 0x40040 + 0x4 * i
def EVN_LATCH_LATCH (i : Nat) : Fld := ⟨EVN_LATCH i, 31, 0⟩
def EVN_STAT : Nat := 0x40048
def EVN_STAT_CUR : Fld := ⟨EVN_STAT, 0, 0⟩
def EVN_MERGE : Nat := 0x40050
def EVN_MERGE_COUNT : Fld := ⟨EVN_MERGE, 31, 0⟩
def TBS_TBL : Nat := 0x20000
def TBS_TBL_TB : Fld := ⟨TBS_TBL, 31, 0⟩
def TBS_TBH : Nat := 0x20004
def TBS_TBH_TB : Fld := ⟨TBS_TBH, 31, 0⟩
def TBS_STAT : Nat := 0x20008
def TBS_STAT_LOCK : Fld := ⟨TBS_STAT, 31, 31⟩
def TBS_STAT_SRC : Fld := ⟨TBS_STAT, 1, 1⟩
def TBS_STAT_XTALOK : Fld := ⟨TBS_STAT, 0, 0⟩
def TBS_ISTAT : Nat := 0x2000C
def TBS_ISTAT_XTALF : Fld := ⟨TBS_ISTAT, 5, 5⟩
def TBS_ISTAT_WDPW : Fld := ⟨TBS_ISTAT, 4, 4⟩
def TBS_ISTAT_ALM : Fld := ⟨TBS_ISTAT, 3, 0⟩
def TBS_IEN : Nat := 0x20010
def TBS_IEN_EN : Fld := ⟨TBS_IEN, 5, 0⟩
def TBS_GRACE : Nat := 0x20014
def TBS_GRACE_UNITS : Fld := ⟨TBS_GRACE, 15, 0⟩
def TBS_WDPCTL : Nat := 0x200D0
def TBS_WDPCTL_EN : Fld := ⟨TBS_WDPCTL, 31, 31⟩
def TBS_WDPCTL_SLEEP : Fld := ⟨TBS_WDPCTL, 30, 30⟩
def TBS_WDPCTL_SYSRST : Fld := ⟨TBS_WDPCTL, 29, 29⟩
def TBS_WDPCTL_PULSE : Fld := ⟨TBS_WDPCTL, 23, 16⟩
def TBS_WDPCTL_PERIOD : Fld := ⟨TBS_WDPCTL, 15, 0⟩
def TBS_WDPKICK : Nat := 0x200D4
def TBS_WDPKICK_CODE : Fld := ⟨TBS_WDPKICK, 31, 16⟩
def TBS_WDPCNT : Nat := 0x200D8
def TBS_WDPCNT_MS : Fld := ⟨TBS_WDPCNT, 15, 0⟩
def TBS_WDPWARN : Nat := 0x200DC
def TBS_WDPWARN_MS : Fld := ⟨TBS_WDPWARN, 15, 0⟩
def TBS_WDEKICK : Nat := 0x200C0
def TBS_WDEKICK_CODE : Fld := ⟨TBS_WDEKICK, 31, 16⟩
def TBS_ALM_CMPL (i : Nat) : Nat := 0x20040 + 0x20 * i
def TBS_ALM_CMPL_CMP (i : Nat) : Fld := ⟨TBS_ALM_CMPL i, 31, 0⟩
def TBS_ALM_CMPH (i : Nat) : Nat := 0x20044 + 0x20 * i
def TBS_ALM_CMPH_CMP (i : Nat) : Fld := ⟨TBS_ALM_CMPH i, 31, 0⟩
def TBS_ALM_PER (i : Nat) : Nat := 0x20048 + 0x20 * i
def TBS_ALM_PER_TICKS (i : Nat) : Fld := ⟨TBS_ALM_PER i, 31, 0⟩
def TBS_ALM_CTL (i : Nat) : Nat := 0x2004C + 0x20 * i
def TBS_ALM_CTL_EN (i : Nat) : Fld := ⟨TBS_ALM_CTL i, 31, 31⟩
def TBS_ALM_CTL_ARMED (i : Nat) : Fld := ⟨TBS_ALM_CTL i, 30, 30⟩
def TBS_ALM_CTL_WAKE (i : Nat) : Fld := ⟨TBS_ALM_CTL i, 16, 16⟩
def TBS_ALM_CTL_MISS (i : Nat) : Fld := ⟨TBS_ALM_CTL i, 15, 0⟩
def TBS_ALM_NEXTL (i : Nat) : Nat := 0x20050 + 0x20 * i
def TBS_ALM_NEXTL_NEXT (i : Nat) : Fld := ⟨TBS_ALM_NEXTL i, 31, 0⟩
def TBS_ALM_NEXTH (i : Nat) : Nat := 0x20054 + 0x20 * i
def TBS_ALM_NEXTH_NEXT (i : Nat) : Fld := ⟨TBS_ALM_NEXTH i, 31, 0⟩
def TBS_WDE_CTL (i : Nat) : Nat := 0x20100 + 0x8 * i
def TBS_WDE_CTL_EN (i : Nat) : Fld := ⟨TBS_WDE_CTL i, 31, 31⟩
def TBS_WDE_CTL_RST (i : Nat) : Fld := ⟨TBS_WDE_CTL i, 30, 30⟩
def TBS_WDE_CTL_PERIOD (i : Nat) : Fld := ⟨TBS_WDE_CTL i, 15, 0⟩
def TBS_WDE_CNT (i : Nat) : Nat := 0x20104 + 0x8 * i
def TBS_WDE_CNT_UNITS (i : Nat) : Fld := ⟨TBS_WDE_CNT i, 15, 0⟩
def PWR_CTL : Nat := 0x10000
def PWR_CTL_AUTOIDLE : Fld := ⟨PWR_CTL, 0, 0⟩
def PWR_ENTER : Nat := 0x10004
def PWR_ENTER_CODE : Fld := ⟨PWR_ENTER, 31, 16⟩
def PWR_ENTER_TARGET : Fld := ⟨PWR_ENTER, 1, 0⟩
def PWR_STAT : Nat := 0x10008
def PWR_STAT_BUSY : Fld := ⟨PWR_STAT, 31, 31⟩
def PWR_STAT_EMU : Fld := ⟨PWR_STAT, 30, 30⟩
def PWR_STAT_STATE : Fld := ⟨PWR_STAT, 26, 24⟩
def PWR_STAT_TARGET : Fld := ⟨PWR_STAT, 22, 20⟩
def PWR_STAT_PHASE : Fld := ⟨PWR_STAT, 17, 16⟩
def PWR_STAT_DLYCNT : Fld := ⟨PWR_STAT, 6, 0⟩
def PWR_ISTAT : Nat := 0x1000C
def PWR_ISTAT_RAILF : Fld := ⟨PWR_ISTAT, 3, 3⟩
def PWR_ISTAT_LATE : Fld := ⟨PWR_ISTAT, 2, 2⟩
def PWR_ISTAT_REFUSED : Fld := ⟨PWR_ISTAT, 1, 1⟩
def PWR_ISTAT_EXIT : Fld := ⟨PWR_ISTAT, 0, 0⟩
def PWR_IEN : Nat := 0x10010
def PWR_IEN_EN : Fld := ⟨PWR_IEN, 3, 0⟩
def PWR_WAKEEN : Nat := 0x10020
def PWR_WAKEEN_ITC : Fld := ⟨PWR_WAKEEN, 10, 10⟩
def PWR_WAKEEN_VAD : Fld := ⟨PWR_WAKEEN, 9, 9⟩
def PWR_WAKEEN_LSN2 : Fld := ⟨PWR_WAKEEN, 8, 8⟩
def PWR_WAKEEN_LSN1 : Fld := ⟨PWR_WAKEEN, 7, 7⟩
def PWR_WAKEEN_ESPI : Fld := ⟨PWR_WAKEEN, 6, 6⟩
def PWR_WAKEEN_PCIE : Fld := ⟨PWR_WAKEEN, 5, 5⟩
def PWR_WAKEEN_ALM : Fld := ⟨PWR_WAKEEN, 4, 4⟩
def PWR_WAKEEN_WAKE : Fld := ⟨PWR_WAKEEN, 3, 0⟩
def PWR_WAKESRC : Nat := 0x10024
def PWR_WAKESRC_FROMOFF : Fld := ⟨PWR_WAKESRC, 31, 31⟩
def PWR_WAKESRC_LATE : Fld := ⟨PWR_WAKESRC, 30, 30⟩
def PWR_WAKESRC_FROM : Fld := ⟨PWR_WAKESRC, 29, 27⟩
def PWR_WAKESRC_WDP : Fld := ⟨PWR_WAKESRC, 12, 12⟩
def PWR_WAKESRC_ON : Fld := ⟨PWR_WAKESRC, 11, 11⟩
def PWR_WAKESRC_SRC : Fld := ⟨PWR_WAKESRC, 10, 0⟩
def PWR_HSTMO : Nat := 0x10028
def PWR_HSTMO_US : Fld := ⟨PWR_HSTMO, 15, 0⟩
def PWR_EXIT : Nat := 0x1002C
def PWR_EXIT_POINT : Fld := ⟨PWR_EXIT, 3, 0⟩
def PWR_CGATE : Nat := 0x10030
def PWR_CGATE_GPIO : Fld := ⟨PWR_CGATE, 11, 11⟩
def PWR_CGATE_ESPI : Fld := ⟨PWR_CGATE, 10, 10⟩
def PWR_CGATE_FSPI : Fld := ⟨PWR_CGATE, 9, 9⟩
def PWR_CGATE_PDM : Fld := ⟨PWR_CGATE, 8, 8⟩
def PWR_CGATE_SP : Fld := ⟨PWR_CGATE, 7, 0⟩
def PWR_PDOWN : Nat := 0x10034
def PWR_PDOWN_EFF : Fld := ⟨PWR_PDOWN, 26, 17⟩
def PWR_PDOWN_REQ : Fld := ⟨PWR_PDOWN, 10, 1⟩
def PWR_LAST : Nat := 0x10040
def PWR_LAST_UID : Fld := ⟨PWR_LAST, 31, 24⟩
def PWR_LAST_STATE : Fld := ⟨PWR_LAST, 22, 20⟩
def PWR_LAST_REASON : Fld := ⟨PWR_LAST, 19, 16⟩
def PWR_RAILERR : Nat := 0x1004C
def PWR_RAILERR_VALID : Fld := ⟨PWR_RAILERR, 31, 31⟩
def PWR_RAILERR_STATE : Fld := ⟨PWR_RAILERR, 10, 8⟩
def PWR_RAILERR_PHASE : Fld := ⟨PWR_RAILERR, 4, 4⟩
def PWR_RAILERR_WING : Fld := ⟨PWR_RAILERR, 0, 0⟩
def PWR_LSNHIT : Nat := 0x10088
def PWR_LSNHIT_VALID : Fld := ⟨PWR_LSNHIT, 31, 31⟩
def PWR_LSNHIT_PORT : Fld := ⟨PWR_LSNHIT, 8, 8⟩
def PWR_LSNHIT_BYTE : Fld := ⟨PWR_LSNHIT, 7, 0⟩
def PWR_LASTTL : Nat := 0x10044
def PWR_LASTTL_TB : Fld := ⟨PWR_LASTTL, 31, 0⟩
def PWR_LASTTH : Nat := 0x10048
def PWR_LASTTH_TB : Fld := ⟨PWR_LASTTH, 31, 0⟩
def PWR_LSN (i : Nat) : Nat := 0x10080 + 0x4 * i
def PWR_LSN_EN (i : Nat) : Fld := ⟨PWR_LSN i, 31, 31⟩
def PWR_LSN_I3C (i : Nat) : Fld := ⟨PWR_LSN i, 30, 30⟩
def PWR_LSN_NACK (i : Nat) : Fld := ⟨PWR_LSN i, 29, 29⟩
def PWR_LSN_MASK (i : Nat) : Fld := ⟨PWR_LSN i, 22, 16⟩
def PWR_LSN_ADDR (i : Nat) : Fld := ⟨PWR_LSN i, 6, 0⟩
def PWR_REFCNT (i j : Nat) : Nat := 0x10400 + 0x100 * i + 0x4 * j
def PWR_REFCNT_COUNT (i j : Nat) : Fld := ⟨PWR_REFCNT i j, 31, 0⟩
def SP_CTL (k : Nat) : Nat := 0x100000 + 0x1000 * k
def SP_CTL_EN_EFF (k : Nat) : Fld := ⟨SP_CTL k, 31, 31⟩
def SP_CTL_EN_REQ (k : Nat) : Fld := ⟨SP_CTL k, 30, 30⟩
def SP_CTL_ROLE (k : Nat) : Fld := ⟨SP_CTL k, 20, 20⟩
def SP_CTL_MODE (k : Nat) : Fld := ⟨SP_CTL k, 2, 0⟩
def SP_CFG (k : Nat) : Nat := 0x100004 + 0x1000 * k
def SP_CFG_SPIM (k : Nat) : Fld := ⟨SP_CFG k, 31, 30⟩
def SP_CFG_LANES (k : Nat) : Fld := ⟨SP_CFG k, 29, 28⟩
def SP_CFG_PAR (k : Nat) : Fld := ⟨SP_CFG k, 27, 26⟩
def SP_CFG_STOP2 (k : Nat) : Fld := ⟨SP_CFG k, 25, 25⟩
def SP_CFG_DDR (k : Nat) : Fld := ⟨SP_CFG k, 24, 24⟩
def SP_CFG_PEC (k : Nat) : Fld := ⟨SP_CFG k, 23, 23⟩
def SP_CFG_DIV (k : Nat) : Fld := ⟨SP_CFG k, 15, 0⟩
def SP_TADDR (k : Nat) : Nat := 0x100008 + 0x1000 * k
def SP_TADDR_SECC (k : Nat) : Fld := ⟨SP_TADDR k, 31, 31⟩
def SP_TADDR_DYN (k : Nat) : Fld := ⟨SP_TADDR k, 22, 16⟩
def SP_TADDR_SADDR (k : Nat) : Fld := ⟨SP_TADDR k, 6, 0⟩
def SP_CMD (k : Nat) : Nat := 0x10000C + 0x1000 * k
def SP_CMD_GO (k : Nat) : Fld := ⟨SP_CMD k, 31, 31⟩
def SP_CMD_STOP (k : Nat) : Fld := ⟨SP_CMD k, 30, 30⟩
def SP_CMD_RD (k : Nat) : Fld := ⟨SP_CMD k, 29, 29⟩
def SP_CMD_HDR (k : Nat) : Fld := ⟨SP_CMD k, 28, 28⟩
def SP_CMD_ADDR (k : Nat) : Fld := ⟨SP_CMD k, 22, 16⟩
def SP_CMD_LEN (k : Nat) : Fld := ⟨SP_CMD k, 11, 0⟩
def SP_DATA (k : Nat) : Nat := 0x100010 + 0x1000 * k
def SP_DATA_VALID (k : Nat) : Fld := ⟨SP_DATA k, 8, 8⟩
def SP_DATA_BYTE (k : Nat) : Fld := ⟨SP_DATA k, 7, 0⟩
def SP_STAT (k : Nat) : Nat := 0x100014 + 0x1000 * k
def SP_STAT_BUSY (k : Nat) : Fld := ⟨SP_STAT k, 31, 31⟩
def SP_STAT_TACT (k : Nat) : Fld := ⟨SP_STAT k, 30, 30⟩
def SP_STAT_ERR (k : Nat) : Fld := ⟨SP_STAT k, 29, 28⟩
def SP_STAT_RXLVL (k : Nat) : Fld := ⟨SP_STAT k, 22, 16⟩
def SP_STAT_TXLVL (k : Nat) : Fld := ⟨SP_STAT k, 14, 8⟩
def SP_IRQ (k : Nat) : Nat := 0x100018 + 0x1000 * k
def SP_IRQ_IEN (k : Nat) : Fld := ⟨SP_IRQ k, 31, 16⟩
def SP_IRQ_RXNE (k : Nat) : Fld := ⟨SP_IRQ k, 13, 13⟩
def SP_IRQ_ISTAT (k : Nat) : Fld := ⟨SP_IRQ k, 12, 0⟩
def SP_RSEQCTL : Nat := 0x100100
def SP_RSEQCTL_EN : Fld := ⟨SP_RSEQCTL, 31, 31⟩
def SP_RSEQCTL_CHK : Fld := ⟨SP_RSEQCTL, 30, 30⟩
def SP_RSEQCTL_STATREG : Fld := ⟨SP_RSEQCTL, 23, 16⟩
def SP_RSEQCTL_FMASK : Fld := ⟨SP_RSEQCTL, 15, 8⟩
def SP_RSEQCTL_ADDR : Fld := ⟨SP_RSEQCTL, 6, 0⟩
def SP_RSEQW (i : Nat) : Nat := 0x100104 + 0x4 * i
def SP_RSEQW_ENOFF (i : Nat) : Fld := ⟨SP_RSEQW i, 31, 24⟩
def SP_RSEQW_ENON (i : Nat) : Fld := ⟨SP_RSEQW i, 23, 16⟩
def SP_RSEQW_ENREG (i : Nat) : Fld := ⟨SP_RSEQW i, 15, 8⟩
def SP_RSEQW_VREG (i : Nat) : Fld := ⟨SP_RSEQW i, 7, 0⟩
def SP_RSEQMAP : Nat := 0x10010C
def SP_RSEQMAP_BASE : Fld := ⟨SP_RSEQMAP, 25, 16⟩
def SP_RSEQMAP_STEPQ : Fld := ⟨SP_RSEQMAP, 11, 0⟩
def SP_RSEQST : Nat := 0x100110
def SP_RSEQST_BUSY : Fld := ⟨SP_RSEQST, 31, 31⟩
def SP_RSEQST_FAIL : Fld := ⟨SP_RSEQST, 30, 30⟩
def SP_RSEQST_CODE : Fld := ⟨SP_RSEQST, 23, 16⟩
def SP_RSEQST_WING : Fld := ⟨SP_RSEQST, 12, 12⟩
def SP_RSEQST_KIND : Fld := ⟨SP_RSEQST, 11, 10⟩
def SP_RSEQST_POINT : Fld := ⟨SP_RSEQST, 3, 0⟩
def SP_RSEQREQ : Nat := 0x100114
def SP_RSEQREQ_GO : Fld := ⟨SP_RSEQREQ, 31, 31⟩
def SP_RSEQREQ_KIND : Fld := ⟨SP_RSEQREQ, 30, 29⟩
def SP_RSEQREQ_WING : Fld := ⟨SP_RSEQREQ, 8, 8⟩
def SP_RSEQREQ_POINT : Fld := ⟨SP_RSEQREQ, 3, 0⟩
def ESPI_CTL : Nat := 0x140000
def ESPI_CTL_EN : Fld := ⟨ESPI_CTL, 31, 31⟩
def ESPI_CTL_ALERTPIN : Fld := ⟨ESPI_CTL, 30, 30⟩
def ESPI_CTL_P80EN : Fld := ⟨ESPI_CTL, 29, 29⟩
def ESPI_CTL_IOMAX : Fld := ⟨ESPI_CTL, 3, 2⟩
def ESPI_STAT : Nat := 0x140004
def ESPI_STAT_RSTN : Fld := ⟨ESPI_STAT, 31, 31⟩
def ESPI_STAT_FREQ : Fld := ⟨ESPI_STAT, 6, 4⟩
def ESPI_STAT_RDY : Fld := ⟨ESPI_STAT, 2, 0⟩
def ESPI_P80 : Nat := 0x140080
def ESPI_P80_VALID : Fld := ⟨ESPI_P80, 31, 31⟩
def ESPI_P80_VALUE : Fld := ⟨ESPI_P80, 7, 0⟩
def ESPI_VWIDX : Nat := 0x140084
def ESPI_VWIDX_HOSTIDX : Fld := ⟨ESPI_VWIDX, 15, 8⟩
def ESPI_VWIDX_DEVIDX : Fld := ⟨ESPI_VWIDX, 7, 0⟩
def ESPI_VWIN : Nat := 0x140088
def ESPI_VWIN_HOST : Fld := ⟨ESPI_VWIN, 11, 8⟩
def ESPI_VWIN_SYS : Fld := ⟨ESPI_VWIN, 7, 0⟩
def ESPI_VWOUT : Nat := 0x14008C
def ESPI_VWOUT_FW : Fld := ⟨ESPI_VWOUT, 11, 10⟩
def ESPI_VWOUT_HWW : Fld := ⟨ESPI_VWOUT, 9, 8⟩
def ESPI_VWOUT_SYS : Fld := ⟨ESPI_VWOUT, 7, 0⟩
def ESPI_OOBCTL : Nat := 0x140090
def ESPI_OOBCTL_GO : Fld := ⟨ESPI_OOBCTL, 31, 31⟩
def ESPI_OOBCTL_RXV : Fld := ⟨ESPI_OOBCTL, 30, 30⟩
def ESPI_OOBCTL_RXLEN : Fld := ⟨ESPI_OOBCTL, 22, 16⟩
def ESPI_OOBCTL_TXLEN : Fld := ⟨ESPI_OOBCTL, 6, 0⟩
def ESPI_IRQ : Nat := 0x140094
def ESPI_IRQ_IEN : Fld := ⟨ESPI_IRQ, 31, 16⟩
def ESPI_IRQ_ISTAT : Fld := ⟨ESPI_IRQ, 9, 0⟩
def ESPI_IOWIN (i : Nat) : Nat := 0x140010 + 0x4 * i
def ESPI_IOWIN_EN (i : Nat) : Fld := ⟨ESPI_IOWIN i, 31, 31⟩
def ESPI_IOWIN_SIZE (i : Nat) : Fld := ⟨ESPI_IOWIN i, 20, 16⟩
def ESPI_IOWIN_BASE (i : Nat) : Fld := ⟨ESPI_IOWIN i, 15, 0⟩
def ESPI_MBX (i j : Nat) : Nat := 0x140040 + 0x10 * i + 0x4 * j
def ESPI_MBX_BYTES (i j : Nat) : Fld := ⟨ESPI_MBX i j, 31, 0⟩
def ESPI_OOBTX (i : Nat) : Nat := 0x140100 + 0x4 * i
def ESPI_OOBTX_WORD (i : Nat) : Fld := ⟨ESPI_OOBTX i, 31, 0⟩
def ESPI_OOBRX (i : Nat) : Nat := 0x140140 + 0x4 * i
def ESPI_OOBRX_WORD (i : Nat) : Fld := ⟨ESPI_OOBRX i, 31, 0⟩
def FSPI_CTL : Nat := 0x150000
def FSPI_CTL_EN : Fld := ⟨FSPI_CTL, 31, 31⟩
def FSPI_CTL_ADDR4 : Fld := ⟨FSPI_CTL, 30, 30⟩
def FSPI_CTL_POLLOP : Fld := ⟨FSPI_CTL, 23, 16⟩
def FSPI_CTL_DIV : Fld := ⟨FSPI_CTL, 15, 0⟩
def FSPI_CMD : Nat := 0x150004
def FSPI_CMD_GO : Fld := ⟨FSPI_CMD, 31, 31⟩
def FSPI_CMD_KIND : Fld := ⟨FSPI_CMD, 30, 29⟩
def FSPI_CMD_LANES : Fld := ⟨FSPI_CMD, 28, 27⟩
def FSPI_CMD_HASADDR : Fld := ⟨FSPI_CMD, 26, 26⟩
def FSPI_CMD_DUMMY : Fld := ⟨FSPI_CMD, 25, 21⟩
def FSPI_CMD_OPCODE : Fld := ⟨FSPI_CMD, 20, 13⟩
def FSPI_CMD_LEN : Fld := ⟨FSPI_CMD, 8, 0⟩
def FSPI_ADDR : Nat := 0x150008
def FSPI_ADDR_ADDR : Fld := ⟨FSPI_ADDR, 31, 0⟩
def FSPI_DATA : Nat := 0x15000C
def FSPI_DATA_WORD : Fld := ⟨FSPI_DATA, 31, 0⟩
def FSPI_STAT : Nat := 0x150010
def FSPI_STAT_BUSY : Fld := ⟨FSPI_STAT, 31, 31⟩
def FSPI_STAT_DONE : Fld := ⟨FSPI_STAT, 30, 30⟩
def FSPI_STAT_WPERR : Fld := ⟨FSPI_STAT, 29, 29⟩
def FSPI_STAT_PTMO : Fld := ⟨FSPI_STAT, 28, 28⟩
def FSPI_STAT_IEN : Fld := ⟨FSPI_STAT, 27, 27⟩
def FSPI_STAT_LVL : Fld := ⟨FSPI_STAT, 8, 0⟩
def FSPI_WP : Nat := 0x150014
def FSPI_WP_LOCK : Fld := ⟨FSPI_WP, 31, 31⟩
def FSPI_WP_EN : Fld := ⟨FSPI_WP, 30, 30⟩
def FSPI_WP_LAST : Fld := ⟨FSPI_WP, 29, 15⟩
def FSPI_WP_FIRST : Fld := ⟨FSPI_WP, 14, 0⟩
def PDM_CTL : Nat := 0x110000
def PDM_CTL_EN_EFF : Fld := ⟨PDM_CTL, 31, 31⟩
def PDM_CTL_EN_REQ : Fld := ⟨PDM_CTL, 30, 30⟩
def PDM_CTL_RATE : Fld := ⟨PDM_CTL, 9, 8⟩
def PDM_CTL_GAIN : Fld := ⟨PDM_CTL, 7, 4⟩
def PDM_CTL_MICEN : Fld := ⟨PDM_CTL, 3, 0⟩
def PDM_QCFG : Nat := 0x110004
def PDM_QCFG_FRAME : Fld := ⟨PDM_QCFG, 23, 16⟩
def PDM_QCFG_QUEUE : Fld := ⟨PDM_QCFG, 9, 0⟩
def PDM_VAD : Nat := 0x110008
def PDM_VAD_VEN : Fld := ⟨PDM_VAD, 31, 31⟩
def PDM_VAD_CNT : Fld := ⟨PDM_VAD, 19, 16⟩
def PDM_VAD_THR : Fld := ⟨PDM_VAD, 15, 0⟩
def PDM_IRQ : Nat := 0x11000C
def PDM_IRQ_IEN : Fld := ⟨PDM_IRQ, 17, 16⟩
def PDM_IRQ_ISTAT : Fld := ⟨PDM_IRQ, 1, 0⟩
def PDM_STAT : Nat := 0x110010
def PDM_STAT_SEQ : Fld := ⟨PDM_STAT, 31, 16⟩
def PDM_STAT_DROPS : Fld := ⟨PDM_STAT, 15, 0⟩
def GPIO_OUTSET (i : Nat) : Nat := 0x120008 + 0x4 * i
def GPIO_OUTSET_OUT (i : Nat) : Fld := ⟨GPIO_OUTSET i, 31, 0⟩
def GPIO_OUTCLR (i : Nat) : Nat := 0x120010 + 0x4 * i
def GPIO_OUTCLR_OUT (i : Nat) : Fld := ⟨GPIO_OUTCLR i, 31, 0⟩
def GPIO_IN (i : Nat) : Nat := 0x120020 + 0x4 * i
def GPIO_IN_IN (i : Nat) : Fld := ⟨GPIO_IN i, 31, 0⟩
def GPIO_STORM (i : Nat) : Nat := 0x120040 + 0x4 * i
def GPIO_STORM_MASK (i : Nat) : Fld := ⟨GPIO_STORM i, 31, 0⟩
def GPIO_STUCK (i : Nat) : Nat := 0x120050 + 0x4 * i
def GPIO_STUCK_MASK (i : Nat) : Fld := ⟨GPIO_STUCK i, 31, 0⟩
def GPIO_PIN (i : Nat) : Nat := 0x120100 + 0x4 * i
def GPIO_PIN_DIR (i : Nat) : Fld := ⟨GPIO_PIN i, 31, 30⟩
def GPIO_PIN_PULL (i : Nat) : Fld := ⟨GPIO_PIN i, 29, 28⟩
def GPIO_PIN_DRV (i : Nat) : Fld := ⟨GPIO_PIN i, 27, 27⟩
def GPIO_PIN_INV (i : Nat) : Fld := ⟨GPIO_PIN i, 26, 26⟩
def GPIO_PIN_GRP (i : Nat) : Fld := ⟨GPIO_PIN i, 25, 25⟩
def GPIO_PIN_FILT (i : Nat) : Fld := ⟨GPIO_PIN i, 22, 15⟩
def GPIO_PIN_STORMN (i : Nat) : Fld := ⟨GPIO_PIN i, 14, 8⟩
def GPIO_PIN_STUCK (i : Nat) : Fld := ⟨GPIO_PIN i, 7, 0⟩
def GPIO_KBDCTL : Nat := 0x120280
def GPIO_KBDCTL_EN : Fld := ⟨GPIO_KBDCTL, 31, 31⟩
def GPIO_KBDCTL_PERIOD : Fld := ⟨GPIO_KBDCTL, 23, 16⟩
def GPIO_KBDCTL_SETTLE : Fld := ⟨GPIO_KBDCTL, 15, 8⟩
def GPIO_KBDCTL_DEB : Fld := ⟨GPIO_KBDCTL, 3, 0⟩
def GPIO_KBD (i : Nat) : Nat := 0x120290 + 0x4 * i
def GPIO_KBD_KEYS (i : Nat) : Fld := ⟨GPIO_KBD i, 31, 0⟩
def GPIO_FAN (i : Nat) : Nat := 0x120300 + 0x8 * i
def GPIO_FAN_EN (i : Nat) : Fld := ⟨GPIO_FAN i, 31, 31⟩
def GPIO_FAN_DUTY (i : Nat) : Fld := ⟨GPIO_FAN i, 23, 16⟩
def GPIO_FAN_FREQ (i : Nat) : Fld := ⟨GPIO_FAN i, 9, 0⟩
def GPIO_TACH (i : Nat) : Nat := 0x120304 + 0x8 * i
def GPIO_TACH_MIN (i : Nat) : Fld := ⟨GPIO_TACH i, 31, 16⟩
def GPIO_TACH_COUNT (i : Nat) : Fld := ⟨GPIO_TACH i, 15, 0⟩
def PAD_HOLDREL : Nat := 0xF0000
def PAD_HOLDREL_HELD : Fld := ⟨PAD_HOLDREL, 31, 31⟩
def PAD_HOLDREL_CURF : Fld := ⟨PAD_HOLDREL, 30, 30⟩
def PAD_HOLDREL_REL : Fld := ⟨PAD_HOLDREL, 0, 0⟩
def PAD_GCFG (i : Nat) : Nat := 0xF0010 + 0x4 * i
def PAD_GCFG_SHEN (i : Nat) : Fld := ⟨PAD_GCFG i, 31, 31⟩
def PAD_GCFG_OPEN (i : Nat) : Fld := ⟨PAD_GCFG i, 30, 30⟩
def PAD_GCFG_REVDET (i : Nat) : Fld := ⟨PAD_GCFG i, 29, 29⟩
def PAD_GCFG_AUTOSWAP (i : Nat) : Fld := ⟨PAD_GCFG i, 28, 28⟩
def PAD_GCFG_OPER (i : Nat) : Fld := ⟨PAD_GCFG i, 15, 0⟩
def PAD_GSTAT (i : Nat) : Nat := 0xF0030 + 0x4 * i
def PAD_GSTAT_SHORT (i : Nat) : Fld := ⟨PAD_GSTAT i, 31, 31⟩
def PAD_GSTAT_OPEN (i : Nat) : Fld := ⟨PAD_GSTAT i, 30, 30⟩
def PAD_GSTAT_REV (i : Nat) : Fld := ⟨PAD_GSTAT i, 29, 29⟩
def PAD_GSTAT_SWAP (i : Nat) : Fld := ⟨PAD_GSTAT i, 28, 28⟩
def PAD_GSTAT_KIND (i : Nat) : Fld := ⟨PAD_GSTAT i, 23, 22⟩
def PAD_GSTAT_PIN (i : Nat) : Fld := ⟨PAD_GSTAT i, 20, 16⟩
def PAD_GSTAT_COUNT (i : Nat) : Fld := ⟨PAD_GSTAT i, 7, 0⟩
def PAD_BAT : Nat := 0xF0050
def PAD_BAT_ROUTE : Fld := ⟨PAD_BAT, 31, 31⟩
def PAD_BAT_PADDR : Fld := ⟨PAD_BAT, 6, 0⟩
def PAD_IRQ : Nat := 0xF0060
def PAD_IRQ_IEN : Fld := ⟨PAD_IRQ, 21, 16⟩
def PAD_IRQ_ISTAT : Fld := ⟨PAD_IRQ, 5, 0⟩
def DBG_CTL : Nat := 0xE0000
def DBG_CTL_LEVEL : Fld := ⟨DBG_CTL, 31, 30⟩
def DBG_CTL_EMUSLEEP : Fld := ⟨DBG_CTL, 3, 3⟩
def DBG_CTL_STEPIE : Fld := ⟨DBG_CTL, 2, 2⟩
def DBG_CTL_RSTHALT : Fld := ⟨DBG_CTL, 1, 1⟩
def DBG_CTL_BKHALT : Fld := ⟨DBG_CTL, 0, 0⟩
def DBG_RCTL : Nat := 0xE0004
def DBG_RCTL_CMD : Fld := ⟨DBG_RCTL, 31, 30⟩
def DBG_RCTL_TARGET : Fld := ⟨DBG_RCTL, 6, 0⟩
def DBG_FEEDST : Nat := 0xE0020
def DBG_FEEDST_STATE : Fld := ⟨DBG_FEEDST, 31, 30⟩
def DBG_FEEDST_ERR : Fld := ⟨DBG_FEEDST, 27, 24⟩
def DBG_FEEDST_CAUSE : Fld := ⟨DBG_FEEDST, 23, 16⟩
def DBG_FEEDST_DETAIL : Fld := ⟨DBG_FEEDST, 15, 8⟩
def DBG_FEEDST_TARGET : Fld := ⟨DBG_FEEDST, 6, 0⟩
def DBG_FEED : Nat := 0xE0024
def DBG_FEED_WORD : Fld := ⟨DBG_FEED, 31, 0⟩
def DBG_DXFER : Nat := 0xE0028
def DBG_DXFER_VALUE : Fld := ⟨DBG_DXFER, 31, 0⟩
def DBG_HPC : Nat := 0xE002C
def DBG_HPC_ADDR : Fld := ⟨DBG_HPC, 31, 2⟩
def DBG_TRCTL : Nat := 0xE0040
def DBG_TRCTL_EN : Fld := ⟨DBG_TRCTL, 31, 31⟩
def DBG_TRCTL_STOP : Fld := ⟨DBG_TRCTL, 30, 30⟩
def DBG_TRCTL_STREAM : Fld := ⟨DBG_TRCTL, 29, 29⟩
def DBG_TRCTL_IEN : Fld := ⟨DBG_TRCTL, 28, 28⟩
def DBG_TRCTL_SYNC : Fld := ⟨DBG_TRCTL, 23, 16⟩
def DBG_TRCTL_WM : Fld := ⟨DBG_TRCTL, 13, 0⟩
def DBG_TRSTAT : Nat := 0xE0044
def DBG_TRSTAT_WRAP : Fld := ⟨DBG_TRSTAT, 31, 31⟩
def DBG_TRSTAT_WMH : Fld := ⟨DBG_TRSTAT, 30, 30⟩
def DBG_TRSTAT_WP : Fld := ⟨DBG_TRSTAT, 28, 16⟩
def DBG_TRSTAT_SLOST : Fld := ⟨DBG_TRSTAT, 15, 8⟩
def DBG_TRSTAT_LOST : Fld := ⟨DBG_TRSTAT, 7, 0⟩
def DBG_TRRP : Nat := 0xE0048
def DBG_TRRP_PTR : Fld := ⟨DBG_TRRP, 12, 0⟩
def DBG_TRHBASEL : Nat := 0xE0060
def DBG_TRHBASEL_ADDR : Fld := ⟨DBG_TRHBASEL, 31, 12⟩
def DBG_TRHBASEL_SIZE : Fld := ⟨DBG_TRHBASEL, 3, 0⟩
def DBG_TRHBASEH : Nat := 0xE0064
def DBG_TRHBASEH_ADDR : Fld := ⟨DBG_TRHBASEH, 19, 0⟩
def DBG_HALTED (i : Nat) : Nat := 0xE0008 + 0x4 * i
def DBG_HALTED_HALT (i : Nat) : Fld := ⟨DBG_HALTED i, 31, 0⟩
def DBG_TRDATA (i : Nat) : Nat := 0xE0050 + 0x4 * i
def DBG_TRDATA_WORD (i : Nat) : Fld := ⟨DBG_TRDATA i, 31, 0⟩
def DBG_STIMEN (i : Nat) : Nat := 0xE0070 + 0x4 * i
def DBG_STIMEN_EN (i : Nat) : Fld := ⟨DBG_STIMEN i, 31, 0⟩
def DBG_STIM (i : Nat) : Nat := 0xE0100 + 0x4 * i
def DBG_STIM_VALUE (i : Nat) : Fld := ⟨DBG_STIM i, 31, 0⟩
def DBG_CMP_ADDR (i j : Nat) : Nat := 0xE1000 + 0x20 * i + 0x8 * j
def DBG_CMP_ADDR_ADDR (i j : Nat) : Fld := ⟨DBG_CMP_ADDR i j, 31, 0⟩
def DBG_CMPC_ADDR (i : Nat) : Nat := 0xE1800 + 0x8 * i
def DBG_CMPC_ADDR_ADDR (i : Nat) : Fld := ⟨DBG_CMPC_ADDR i, 31, 0⟩
def DBG_CMP_CTL (i j : Nat) : Nat := 0xE1004 + 0x20 * i + 0x8 * j
def DBG_CMP_CTL_ACTION (i j : Nat) : Fld := ⟨DBG_CMP_CTL i j, 31, 30⟩
def DBG_CMP_CTL_KIND (i j : Nat) : Fld := ⟨DBG_CMP_CTL i j, 11, 10⟩
def DBG_CMP_CTL_MASK (i j : Nat) : Fld := ⟨DBG_CMP_CTL i j, 4, 0⟩
def DBG_CMPC_CTL (i : Nat) : Nat := 0xE1804 + 0x8 * i
def DBG_CMPC_CTL_ACTION (i : Nat) : Fld := ⟨DBG_CMPC_CTL i, 31, 30⟩
def DBG_CMPC_CTL_KIND (i : Nat) : Fld := ⟨DBG_CMPC_CTL i, 11, 10⟩
def DBG_CMPC_CTL_MASK (i : Nat) : Fld := ⟨DBG_CMPC_CTL i, 4, 0⟩
def SYS_ID : Nat := 0x0
def SYS_ID_PART : Fld := ⟨SYS_ID, 31, 16⟩
def SYS_ID_REV : Fld := ⟨SYS_ID, 15, 8⟩
def SYS_BOOT : Nat := 0x4
def SYS_BOOT_STAGE : Fld := ⟨SYS_BOOT, 31, 28⟩
def SYS_BOOT_ERR : Fld := ⟨SYS_BOOT, 27, 24⟩
def SYS_BOOT_SLOT : Fld := ⟨SYS_BOOT, 23, 22⟩
def SYS_BOOT_VERSION : Fld := ⟨SYS_BOOT, 21, 16⟩
def SYS_BOOT_BOOTSEL : Fld := ⟨SYS_BOOT, 2, 0⟩
def SYS_RSTCAUSE : Nat := 0x8
def SYS_RSTCAUSE_FABRIC : Fld := ⟨SYS_RSTCAUSE, 7, 7⟩
def SYS_RSTCAUSE_LCT : Fld := ⟨SYS_RSTCAUSE, 6, 6⟩
def SYS_RSTCAUSE_TAMPER : Fld := ⟨SYS_RSTCAUSE, 5, 5⟩
def SYS_RSTCAUSE_WDP : Fld := ⟨SYS_RSTCAUSE, 4, 4⟩
def SYS_RSTCAUSE_CURSAFE : Fld := ⟨SYS_RSTCAUSE, 3, 3⟩
def SYS_RSTCAUSE_CMD : Fld := ⟨SYS_RSTCAUSE, 2, 2⟩
def SYS_RSTCAUSE_PIN : Fld := ⟨SYS_RSTCAUSE, 1, 1⟩
def SYS_RSTCAUSE_POWERON : Fld := ⟨SYS_RSTCAUSE, 0, 0⟩
def SYS_RSTCMD : Nat := 0xC
def SYS_RSTCMD_CODE : Fld := ⟨SYS_RSTCMD, 31, 16⟩
def SYS_RSTCMD_KIND : Fld := ⟨SYS_RSTCMD, 1, 0⟩
def SYS_PLTRST : Nat := 0x10
def SYS_PLTRST_OE : Fld := ⟨SYS_PLTRST, 1, 1⟩
def SYS_PLTRST_ASSERT : Fld := ⟨SYS_PLTRST, 0, 0⟩
def SEC_LC : Nat := 0xD0000
def SEC_LC_TRANS : Fld := ⟨SEC_LC, 31, 31⟩
def SEC_LC_DBGKEY : Fld := ⟨SEC_LC, 17, 17⟩
def SEC_LC_BOOTKEY : Fld := ⟨SEC_LC, 16, 16⟩
def SEC_LC_STATE : Fld := ⟨SEC_LC, 2, 0⟩
def SEC_LCREQ : Nat := 0xD0004
def SEC_LCREQ_CODE : Fld := ⟨SEC_LCREQ, 31, 16⟩
def SEC_LCREQ_TARGET : Fld := ⟨SEC_LCREQ, 2, 0⟩
def SEC_TCTL : Nat := 0xD0008
def SEC_TCTL_EN : Fld := ⟨SEC_TCTL, 31, 31⟩
def SEC_TCTL_RST : Fld := ⟨SEC_TCTL, 0, 0⟩
def SEC_IRQ : Nat := 0xD000C
def SEC_IRQ_IEN : Fld := ⟨SEC_IRQ, 19, 16⟩
def SEC_IRQ_ISTAT : Fld := ⟨SEC_IRQ, 3, 0⟩
def SEC_TCNT : Nat := 0xD0010
def SEC_TCNT_COUNT : Fld := ⟨SEC_TCNT, 15, 0⟩
def SEC_VER : Nat := 0xD0014
def SEC_VER_CODE : Fld := ⟨SEC_VER, 31, 16⟩
def SEC_VER_BUSY : Fld := ⟨SEC_VER, 15, 15⟩
def SEC_VER_NEWMIN : Fld := ⟨SEC_VER, 13, 8⟩
def SEC_VER_MIN : Fld := ⟨SEC_VER, 5, 0⟩
def PRV_CTL : Nat := 0xC0000
def PRV_CTL_IEN : Fld := ⟨PRV_CTL, 31, 31⟩
def PRV_CTL_WM : Fld := ⟨PRV_CTL, 11, 0⟩
def PRV_STAT : Nat := 0xC0004
def PRV_STAT_UNREAD : Fld := ⟨PRV_STAT, 27, 16⟩
def PRV_STAT_RP : Fld := ⟨PRV_STAT, 10, 0⟩
def PRV_ACK : Nat := 0xC0008
def PRV_ACK_N : Fld := ⟨PRV_ACK, 11, 0⟩
def PRV_OVF : Nat := 0xC000C
def PRV_OVF_COUNT : Fld := ⟨PRV_OVF, 31, 0⟩
def PRV_ENT (i : Nat) : Nat := 0xC0020 + 0x4 * i
def PRV_ENT_WORD (i : Nat) : Fld := ⟨PRV_ENT i, 31, 0⟩

end Sys2Proof.Machine.Reg
end

