-- ==== Sys2Proof/Machine/Chip.lean ====
section
/-! DEFINITION. Machine/Chip.lean: everything the device holds, as plain data, but for the queue of waiting commands
(Machine/State.lean puts that beside it). Registers of bank 0x04 live in ONE sparse map, `Dev.regs`; what the manual gives
a unit beside its registers (stacks, FIFOs, tables, latches, work in progress) is the unit's own structure here. -/

namespace Sys2Proof.Machine

/-- An index of a core: 0 to 63 are the engines E0 to E63, 64 is the curator (R4, R338). -/
abbrev CoreId := Fin 65

/-- One protection entry (R79): REGIONn.BASE, LIMIT and ATTR. -/
structure Region where
  base : Word
  limit : Word
  attr : Word
  deriving DecidableEq, Repr

/-- The registers whose writes stand in a write shadow (R64). -/
inductive ShadowReg where
  | db | cb | mode
  deriving DecidableEq, Repr

/-- A write waiting in its shadow: it becomes effective once `left` more instructions have run (R64, R67). -/
structure Shadow where
  reg : ShadowReg
  val : BitVec 8
  left : Nat
  deriving DecidableEq, Repr

/-- How far a retired store has come (R140, R141, R289): not sent yet; sent and held by the host port under this number; performed; or
answered with an error. -/
inductive SbWay where
  | waiting
  | held (id : Nat)
  | done
  | failed
  deriving DecidableEq, Repr

/-- A retired store awaiting its acknowledgement (R140, R141): address, bytes and data, and how far it has come. Acknowledgements
arrive in order (R142), so a store that is done stays until every older one is. -/
structure SbEntry where
  addr : Word
  size : Nat
  data : Word
  way : SbWay
  deriving DecidableEq, Repr

/-- What a core waits for, if anything. -/
inductive Wait where
  /-- It does not wait. -/
  | none
  /-- WFE, waiting for an event (R116). -/
  | wfe
  /-- WAITT rd with its time T (R118). -/
  | waitt (rd : GReg) (t : BitVec 64)
  /-- An access waiting until older stores are acknowledged (R140, R142, R145), with the instruction, the word that follows it, and
  in the midst of a REPN (R110) the iterations still to run. -/
  | overlap (op : Op) (body : Word) (rep : Option Nat)
  /-- A far data access held under WAKE_HOLD or waiting at level 4 (R283, R291, R293), with the same and the number of its entry in
  the port's list. -/
  | held (op : Op) (body : Word) (rep : Option Nat) (id : Nat)
  /-- The fetch of an instruction that the port holds in the same way. -/
  | fetch (op : Op) (body : Word) (id : Nat)
  /-- The fetch of the vector slot of an exception entry or tail chain (R74 step 5, R78 step 4) that the port holds. -/
  | slot (id : Nat)
  deriving DecidableEq, Repr

/-- A Kosvel core: an engine or the curator main (02_engine_programming_model.md, 04_engine_pipeline.md). -/
structure Core where
  /-- General registers g0 to g31 (R51). -/
  g : Vector Word 32
  /-- CB, DB and MODE as they are effective (R60, R64). -/
  cb : BitVec 8
  db : BitVec 8
  mode : BitVec 3
  /-- The 24-bit fetch offset (R55). -/
  off : BitVec 24
  /-- The fields of STATUS. -/
  df : Bool
  rx : Bool
  pri : BitVec 5
  ie : Bool
  km : Bool
  epc : Word
  ecause : Word
  eval : Word
  vbase : Word
  rc : BitVec 17
  splim : Word
  regions : Vector Region 8
  /-- The latch of timebase bits [63:32] an MFS of TBL leaves (R63). -/
  tbh : Word
  /-- The last instruction was an MFS of TBL (R63). -/
  tblPair : Bool
  /-- Writes waiting in their shadows, oldest first (R64, R67). -/
  shadows : List Shadow
  /-- The reservation's 64-byte granule (R107). -/
  resv : Option Nat
  /-- The store buffer, oldest first (R140); always empty on the curator (R338). -/
  sb : List SbEntry
  /-- Error replies to retired stores on their way to the engine, in the order they arrive: access addresses (R72). -/
  sbErr : List Word
  /-- Error replies that have arrived and wait for an instruction boundary (R72). -/
  impErr : List Word
  /-- Data-cache lines: line number (device address / 64) and its 64 bytes (R187, R188). -/
  dcache : List (Nat × List Byte)
  /-- Instruction-cache lines, in the same form (R129, R131). -/
  icache : List (Nat × List Byte)
  wait : Wait
  /-- Released from reset (ESTAT.RUN, R496). -/
  run : Bool
  /-- Halted by a debugger (R479). -/
  halted : Bool
  /-- The engine's copy of PRESENT (R292, R293). -/
  present : Bool
  /-- A debugger has just resumed it: a fetch comparator does not halt it again before its next instruction (R483, R487). -/
  resumed : Bool
  deriving DecidableEq, Repr

/-- The arrays of 05_onchip_memory.md: bytes by device address in bank 0x01, 0x02 or 0x03 form (an unlisted byte is 0, R204),
and inverted bits by 64-bit word (address / 8): bits 0 to 63 data, 64 to 71 check bits (R190, R194; unlisted: none). -/
structure Mem where
  cells : List (Nat × Byte)
  flips : List (Nat × BitVec 72)
  /-- Lines (address / 64) a loan-role burst owns, each with the tick of the burst's last beat (R181, R182, R184); every other line is in
  the home role. -/
  owned : List (Nat × Nat)
  deriving DecidableEq, Repr

/-- An entry of the provenance log (R508). -/
structure PrvEnt where
  tb : BitVec 64
  addr : Word
  old : Word
  req : Word
  stored : Word
  origin : Byte
  flags : Byte
  seq : Word
  deriving DecidableEq, Repr

/-- The log beside its registers (R510): its unread entries oldest first, the index of RP and the next SEQ. -/
structure Prv where
  unread : List PrvEnt
  rp : Nat
  seq : Word
  deriving DecidableEq, Repr

/-- The interrupt controller beside its registers (R359 to R367): input lines, pending (edge) or soft (level) bits, active
sources, the stacks (priority, source), the level sources whose message to the host is not to be repeated (R367), and
outstanding pulses of clocked-island and battery-port lines (R379, R539). -/
structure Itc where
  line : BitVec 256
  pend : BitVec 256
  active : BitVec 256
  running : Vector (List (Nat × Nat)) 65
  sent : BitVec 256
  pulse : BitVec 256
  deriving DecidableEq, Repr

/-- The state of a far-cache line; an absent line is Invalid. Under PCIe every line is shared, that is, clean (R286). -/
inductive LineState where
  | modified | exclusive | shared
  deriving DecidableEq, Repr

/-- A far-cache line (R286): host line (host address / 64), the device line it was reached by, state and 64 bytes. -/
structure FarLine where
  host : Nat
  dev : Nat
  st : LineState
  data : List Byte
  deriving DecidableEq, Repr

/-- Who waits at the port with a far access. -/
inductive HeldWho where
  /-- A core whose instruction waits (Wait.held, Wait.fetch, Wait.slot). -/
  | core (e : CoreId)
  /-- A posted store of an engine (R293). -/
  | post (e : CoreId) (st : SbEntry)
  /-- A load or fetch that a core has discarded: its reply will be sunk (R164, R294). -/
  | sunk (e : CoreId)
  deriving DecidableEq, Repr

/-- A far access the port holds (R294): its number, its requester, its device address, the timebase at its arrival and the ticks of
HOLDMAX then, and whether it is held under WAKE_HOLD (else it waits at level 4 for a seam or a slot, R283, R291 and R294). -/
structure Held where
  id : Nat
  who : HeldWho
  addr : Nat
  since : BitVec 64
  limit : Nat
  wake : Bool
  deriving DecidableEq, Repr

/-- An MSI-X table entry (R278, R328). -/
structure MsixEnt where
  addr : BitVec 64
  data : Word
  mask : Bool
  deriving DecidableEq, Repr

/-- The host port beside its registers (08_host_port.md). -/
structure Hpt where
  /-- PERST_N is high. -/
  perst : Bool
  fc : List FarLine
  held : List Held
  nextId : Nat
  /-- The address of the held access the port is sending just now: an access already admitted meets no wait at level 4. Between
  commands there is none. -/
  sending : Option Nat
  /-- Device addresses of writes acknowledged to their requesters but not yet delivered (R292), oldest first. -/
  flight : List Nat
  /-- Configuration space by dword offset; an unlisted dword holds its reset value (R278). -/
  cfg : List (Nat × Word)
  /-- The CXL component registers the host has written, by dword (R280). -/
  cxl : List (Nat × Word)
  msix : Vector MsixEnt 64
  /-- The pending-bit array (R328). -/
  pba : BitVec 64
  /-- DPADDR and DPCTL.INC (R296). -/
  dpaddr : Word
  dpinc : Bool
  /-- The completion of the next non-posted request to the host will not come in time (R278). -/
  noReply : Bool
  /-- VPHY and VPHYH are within their limits (R519, R521). -/
  vphy : Bool
  deriving DecidableEq, Repr

/-- The causes of R69 that an instruction can raise; ACCESS carries its DETAIL. -/
inductive Cause where
  | illegal | customEmpty | misalign | access (detail : Nat) | farAbsent | offline | busError | eccUncorr | determinism
  | trap | brk | stack
  deriving DecidableEq, Repr

/-- A sealed depot item (R215 to R217): its cells by index, how many of them are already freed, TAG, LEN, and whether it is a
launch record of the registrar (R248). -/
structure DItem where
  cells : List Nat
  freed : Nat
  tag : Nat
  len : Nat
  launch : Bool
  deriving DecidableEq, Repr

/-- A place in a queue (R223): item number, and word position in it: 0 is its header, i its i-th data word. -/
structure DPos where
  item : Nat
  word : Nat
  deriving DecidableEq, Repr

/-- A depot queue (R223 to R236): its sealed items oldest first, cursor, mark, the cells whose link word has been read
(R212), the cell whose link broke, none once that cell has been released (R234), cells lost behind a broken link, the registrar's
reserved cells (the standing launch cell of R246 and the completion cells of R258), and the staged cell with its fifteen data words, or the
error replies, as the depot read them (R236, R538). -/
structure DQueue where
  items : List DItem
  cursor : DPos
  mark : DPos
  known : List Nat
  broke : Option (Option Nat)
  lost : Nat
  standing : Option Nat
  compl : List Nat
  staged : Option (Nat × List (Word ⊕ Cause))
  deriving DecidableEq, Repr

/-- An entry of the open-item table (R218, R231). -/
structure OpenItem where
  uid : Nat
  q : Nat
  broken : Bool
  tag : Nat
  len : Nat
  words : List Word
  cells : List Nat
  deriving DecidableEq, Repr

/-- A master's depot status slot (R222). -/
structure DSlot where
  code : Nat
  queue : Nat
  dropped : Nat
  deriving DecidableEq, Repr

/-- The depot beside its registers (06_depot_queues.md): queues by number and slots by unit ID in canonical maps, the
open-item table oldest first, the pointer that walks the pool and the free list (R213). -/
structure Dpt where
  queues : List (Nat × DQueue)
  opens : List OpenItem
  slots : List (Nat × DSlot)
  walk : Nat
  free : List Nat
  deriving DecidableEq, Repr

/-- A watchdog's count (R396, R397): ticks left, whether its expiry has taken effect, and for WDP whether its warning has been
given since the last load (R399). -/
structure Wd where
  left : Nat
  spent : Bool
  warned : Bool
  deriving DecidableEq, Repr

/-- An alarm beside its registers (R391): the committed compare value and NEXT. -/
structure Alarm where
  cmp : BitVec 64
  next : BitVec 64
  deriving DecidableEq, Repr

/-- The TBS block beside its registers (12_crossings_timebase.md): alarms, watchdogs, the TBH latch of each master by unit ID
and its NEXTH latch of each alarm by unit ID × 4 + a (R390), whether HFOSC is powered, whether F counts (R388), whether it has held at
999 for a fine cycle (R387), and the tick at which a running PLTRST_N pulse of WDP ends (R399). -/
structure Tbs where
  alarms : Vector Alarm 4
  wde : List (Nat × Wd)
  wdp : Wd
  wdc : Wd
  tblLatch : List (Nat × Word)
  nextLatch : List (Nat × Word)
  hfosc : Bool
  fine : Bool
  late : Bool
  pulse : Option Nat
  deriving DecidableEq, Repr

/-- What a wing rail is asked for (R439): its output off, its output on, the retention voltage of 0.40 V (R403), or a point. -/
inductive RailAsk where
  | off | on | retain | point (i : Fin 16)
  deriving DecidableEq, Repr

/-- Who asks (R439). -/
inductive RailFrom where
  | registrar | power | firmware
  deriving DecidableEq, Repr

/-- A request waiting at the rail sequencer (R439, R440). -/
structure RailReq where
  wing : Fin 2
  ask : RailAsk
  src : RailFrom
  deriving DecidableEq, Repr

/-- A wing rail: its output on; the voltage last set in mV; while it still rises, the voltage it rises from and the tick of the
change (R33: the lower end governs the pace); the tick of its last change; and the condition of R418. -/
structure Rail where
  on : Bool
  mv : Nat
  lower : Nat
  since : Nat
  bad : Bool
  deriving DecidableEq, Repr

/-- Where a request to the registrar comes from and where its record goes: a depot queue, or a ring's RUN descriptor (R258). -/
inductive PromiseSrc where
  | queue (uid q : Nat)
  | ring (sq slot : Nat)
  deriving DecidableEq, Repr

/-- A request as submitted (R251, R318): profile, tag, deadline, input, output and argument block. -/
structure Request where
  src : PromiseSrc
  prof : Nat
  tag : Word
  deadline : Nat
  bufs : List (Word × Word)
  args : List Word
  /-- A buffer address of a ring request is host-physical (R256 check 3). -/
  hostBuf : Bool
  deriving DecidableEq, Repr

/-- An outstanding promise (R254 to R260): its costs M and G, engine, order of admission, admission time, start time once its
record is written, its result word, its needs and the conditions that fell on it (R259, R262). -/
structure Promise where
  pid : Nat
  req : Request
  entry : Word
  m : Nat
  g : Nat
  eng : Nat
  order : Nat
  admAt : Nat
  start : Option Nat
  result : Word
  cross : Bool
  therm : Bool
  railf : Bool
  deriving DecidableEq, Repr

/-- The registrar beside its registers (07_registrar_admission.md): outstanding promises, the input stage and the requests held
back at level 4 (R253), the staging words and the last result of each submitter by unit ID (R251, R252), engines whose stub is
not ready after a reset (R261), the next promise ID and order, rail raises that wait RAILLAT with their tick (R259), and profile
commit checks in progress (R245). -/
structure Adm where
  proms : List Promise
  stage : List Request
  waiting : List Request
  staged : List (Nat × List (Nat × Word))
  results : List (Nat × Word)
  unready : BitVec 64
  nextPid : Nat
  nextOrder : Nat
  defer : List (Fin 2 × Nat)
  checks : List Nat
  deriving DecidableEq, Repr

/-- What an in-flight descriptor waits for (R314): its dispatch, its executor, or the writing of its record. -/
inductive DescSt where
  /-- Fetched, not yet admitted. -/
  | fetched
  /-- A QPUSH whose data is read or being read into the staging buffer (R322). -/
  | staging (words : List Word)
  /-- Handed to the registrar (R318). -/
  | promised
  /-- Queued on a mover, with its admission time (R319). -/
  | queued (mover admAt : Nat)
  /-- The mover runs it: its admission time, the fault reason so far, 0 for none, the offset reached or that of the failing line, and the line
  transfers not yet performed, by offset and length (R319, R321). -/
  | moving (mover admAt reason : Nat) (result : Word) (rest : List (Nat × Nat))
  /-- A FENCE that waits, with its admission time (R324). -/
  | fencing (admAt : Nat)
  /-- Its record is complete and waits to be written (R329): the 28 bytes of R325 and IMM. -/
  | held (record : List Byte) (imm : Bool)
  deriving DecidableEq, Repr

/-- An entry of the in-flight table (R311): its slot number, ring, completion ring, descriptor and state. -/
structure Desc where
  slot : Nat
  sq : Nat
  cq : Nat
  body : BitVec 512
  st : DescSt
  deriving DecidableEq, Repr

/-- A completion ring beside its registers (R326, R327): SEQ of the next record, records since the last message, and the tick
of the first of them. -/
structure CqState where
  seq : Nat
  count : Nat
  since : Option Nat
  deriving DecidableEq, Repr

/-- The ring engine and the movers beside their registers (09_rings_doorbells.md): the in-flight table in the order of fetch,
the COPYs queued on the movers in the order they were queued, by mover and slot (R319), completion rings by number, records held back in
the order they completed (by slot), the ring of each priority served last (R312), and the next slot number. -/
structure Rng where
  infl : List Desc
  movq : List (Nat × Nat)
  cqs : List (Nat × CqState)
  heldRecs : List Nat
  lastHigh : Nat
  lastNormal : Nat
  nextSlot : Nat
  deriving DecidableEq, Repr

/-- The power controller beside its registers (13_power_states.md): waiting for ON_N after power-on (R498), fabric hold (R406),
latched wake conditions by WAKEEN bit, 11 ON, 12 WDP and 13 for ALM1 to ALM3 beside 4 for ALM0 (R419, R420), units that have answered ACK and those in DELAY (R408), the
tick of the query, the sampled GAL.RET (R205), whether the exit has made its rail requests, the rail repeats made in this exit for each wing (R418), requests still to be
repeated, and the pins it watches: WAKE0 to WAKE3 low, CLKREQ_N asserted by the host. -/
structure Pwr where
  parked : Bool
  hold : Bool
  wake : BitVec 14
  acks : List Nat
  delays : List Nat
  asked : Nat
  ret : Word
  railsUp : Bool
  tries : Vector Nat 2
  retry : List RailReq
  wakePins : BitVec 4
  clkreq : Bool
  deriving DecidableEq, Repr

/-- A controller transfer that runs on a serial port (R436): its command, the bytes it has taken from the TX FIFO, and for a read
whose RX FIFO is full the bytes still to come, the clock being stopped. -/
structure SpXfer where
  rd : Bool
  stop : Bool
  hdr : Bool
  addr : BitVec 7
  len : Nat
  sent : List Byte
  more : List Byte
  deriving DecidableEq, Repr

/-- A serial port beside its registers (R436, R437): FIFOs oldest first, the controller transfer, whether the bus is held for a
repeated START, and a target read that holds SCL low: bytes still asked for and the tick since when. -/
structure Sp where
  tx : List Byte
  rx : List Byte
  xfer : Option SpXfer
  bus : Bool
  stretch : Option (Nat × Nat)
  deriving DecidableEq, Repr

/-- The eSPI target beside its registers (R443 to R447): ESPI_RST_N, the fields of CTL as they took effect at its last rise, the
I/O mode and the channels the host chose, an OOB packet deferred and the length of one offered. -/
structure Espi where
  rstn : Bool
  ctl : Word
  ioMode : Nat
  chans : BitVec 3
  defer : Option (List Byte)
  offer : Option Nat
  deriving DecidableEq, Repr

/-- The boot flash controller beside its registers (R448, R449): the DATA FIFO, and of a command that polls the tick since when. -/
structure Fspi where
  fifo : List Byte
  since : Option Nat
  deriving DecidableEq, Repr

/-- A filtered input's counters (R455): its 10 ms window's start and edges, and the tick at which its line was last asserted. -/
structure GpioIn where
  start : Nat
  edges : Nat
  since : Nat
  deriving DecidableEq, Repr

/-- What waits at a crossing into the serial or PDM island while its clock is stopped (R383): a register write or read by a core, or by the
debugger (none); or the new level of a filtered input (R454), whose filter runs on that clock (R375). -/
inductive Crossing where
  | write (who : Option CoreId) (a : Nat) (v : Word)
  | read (who : Option CoreId) (a : Nat)
  | level (i : Fin 68) (v : Bool)
  deriving DecidableEq, Repr

/-- The GPIO block beside its registers: counters of inputs, and of each key the consecutive scans that differ from KBD (R456). -/
structure Gpio where
  ins : List (Nat × GpioIn)
  keys : List (Nat × Nat)
  deriving DecidableEq, Repr

/-- The pads and the line guard beside their registers (R425, R458 to R461): the register words of the owning units as they stood
when the pads were latched, guarded pins (group × 32 + pin) switched off, those that mismatched at the last sample, those
released and low with the tick since when, a reversal probe that is due, and VIO33 within its limits (R519). -/
structure Pad where
  latched : List (Nat × Word)
  shorted : List Nat
  differ : List Nat
  low : List (Nat × Nat)
  probe : Bool
  vio33 : Bool
  deriving DecidableEq, Repr

/-- The platform ports beside their registers (14_platform_ports.md). -/
structure Ports where
  sp : Vector Sp 8
  espi : Espi
  fspi : Fspi
  gpio : Gpio
  pad : Pad
  deriving DecidableEq, Repr

/-- The fuses that change in the field (R502, R506): the three copies of each of the states 1 to 4, and VER.MIN. -/
structure Fuse where
  lc : Vector (BitVec 3) 4
  verMin : Nat
  deriving DecidableEq, Repr

/-- The conservator beside its registers (R195, R196): the tick of the last line, or of the rise of EN, and the STEP in force for the
next one. -/
structure Scrub where
  since : Nat
  step : Nat
  deriving DecidableEq, Repr

/-- SEC beside its registers (R503 to R506): the fuses, the target of the transition that runs, a tamper event whose steps 3 and 4
are still to come, the trigger of the running wipe in the codes of VLT.STAT.CAUSE, a wipe whose read-back failed (R201), the
minimum being programmed, and the vault's key (R198), none where it has been discarded and none is drawn yet (R202). -/
structure Sec where
  fuses : Fuse
  target : Option Nat
  tamper : Bool
  wipe : Nat
  wipeFailed : Bool
  newMin : Option Nat
  key : Option (BitVec 64)
  deriving DecidableEq, Repr

/-- Why the curator's cores are stopped: a fault whose SAFE.RST was HALT (R350), a tamper event (R504), a life-cycle transition
(R503), or they run. -/
inductive CurStop where
  | none | fault | tamper | trans
  deriving DecidableEq, Repr

/-- The channels of the main's interface (10_curator_lockstep.md): five for output tokens, by their numbers, and five for input tokens. -/
inductive Chan where
  | ireq | dreq | iack | sys | dbg
  | irsp | drsp | iofr | evt | dbgi
  deriving DecidableEq, Repr

/-- What a token asks or says. -/
inductive TokKind where
  | fetch | load | store | ll | sc | inval | flush
  | atomic (f : AmoFn)
  | accept | sev | wfe | wfeEnd | waitt | waittEnd | fedDone | halted
  | ok | error | offer | event | timeout | sysValue | halt | feed | resume
  deriving DecidableEq, Repr

/-- A token (R343): its channel, and of its content the kind, the address, the data words, the byte enables and the attributes: DET, secure,
kernel. -/
structure Token where
  chan : Chan
  kind : TokKind
  addr : Word
  data : List Word
  be : Nat
  det : Bool
  sec : Bool
  km : Bool
  deriving DecidableEq, Repr

/-- An entry of the delay registers (R343, R347): the token's number in the sequence, the token, a parity bit for each of its words, and the
main's registers as the instruction of the token began: where the checker stands until it passes the token. -/
structure DelayEntry where
  seq : Word
  tok : Token
  par : List Bool
  core : Core
  deriving DecidableEq, Repr

/-- The curator pair beside its registers (R343 to R351): why it is stopped; whether the boot ROM's own flow runs on it (R498); whether it
drives WAKE_N low (R351); the number of the main's next token; the delay registers' entries, oldest first, an input token until the checker has
taken it, an output token until it has been compared; the input token the checker took last; the 64-byte line in the line buffer (R167, R338);
the tick of the main's last token and of a release that stands (R344); the comparator's test bit and the tick of its last exercise (R348). -/
structure Cur where
  stop : CurStop
  boot : Bool
  wakeN : Bool
  seq : Word
  held : List DelayEntry
  took : Option DelayEntry
  line : Option Nat
  last : Nat
  release : Option Nat
  testBit : Nat
  exercised : Nat
  deriving DecidableEq, Repr

/-- How a system access ended (R467, R477): a word, or a FAULT reason of PSTAT.FREASON; LOCKED is not an outcome of one. -/
inductive SysEnd where
  | ok (v : Word)
  | fault (reason : Nat)
  deriving DecidableEq, Repr

/-- The system access of the debug port (R468): what was asked, its outcome once it has completed, that it was aborted, and that a line reset
dropped it (R469). -/
structure SysAccess where
  write : Bool
  addr : Word
  data : Word
  done : Option SysEnd
  aborted : Bool
  dropped : Bool
  deriving DecidableEq, Repr

/-- A trace packet (R490): its four words. -/
structure Packet where
  w0 : Word
  w1 : Word
  w2 : Word
  w3 : Word
  deriving DecidableEq, Repr

/-- The debug island beside block DBG (R465 to R491): the port registers by their fields, the system access, METHOD and LEVEL under
verification, the tick at which a withholding time ends (0 while none runs), a fed instruction that waits (R481), engines and the curator asked to halt but not yet halted, the trace
buffer by index, that it is full, packets lost since then, packets recorded since EN rose, and the tick of the last SYNC. -/
structure Dbg where
  dormant : Bool
  level : Nat
  adly : Nat
  freason : Nat
  resets : Nat
  crcErr : Nat
  access : Option SysAccess
  authState : Nat
  failCnt : Nat
  chal : Vector Word 8
  resp : Vector Word 16
  verify : Option (Nat × Nat)
  withheld : Nat
  feeding : Option Word
  haltReq : BitVec 65
  trace : List (Nat × Packet)
  full : Bool
  lost : Nat
  count : Nat
  deriving DecidableEq, Repr

/-- What leaves the device, newest first in `Dev.out`: the model's own record of it, not state of the device. -/
inductive Out where
  /-- Bytes written to host memory: a posted write, WOWrInv or a line written back (R285, R289, R326). -/
  | hostWrite (addr : Nat) (data : List Byte)
  /-- A read of host memory by the ring engine or a mover: a Memory Read or RdCurr, by address and length (R312, R320). -/
  | hostRead (addr len : Nat)
  /-- An MSI-X message: its address and data (R328, R367). -/
  | msix (vec : Nat) (addr : BitVec 64) (data : Word)
  /-- A successful completion with its data (R281, R297), or the bytes an eSPI host or a debug probe reads. -/
  | reply (data : List Byte)
  /-- Completer Abort, Unsupported Request (R281) and Configuration Request Retry Status (R276). -/
  | abort | unsupported | retry
  /-- The answer to a host snoop: whether the line is left valid, was dirty, and its data where data is returned (R286). -/
  | snoop (hit valid dirty : Bool) (data : List Byte)
  /-- Bytes a serial port drives on its bus (R436, R437). -/
  | serial (port : Nat) (addr : BitVec 7) (data : List Byte)
  /-- A command sent to the boot flash: its opcode, address and data (R448). -/
  | flash (op addr : Nat) (data : List Byte)
  /-- The listener of a serial port answers an address: ACK or NACK (R423). -/
  | listener (port : Nat) (ack : Bool)
  /-- An eSPI virtual-wire change or OOB packet sent to the host (R445, R446), and an unsuccessful completion (R443). -/
  | wires (w : Word) | oob (data : List Byte) | unsuccessful
  /-- The answer of the debug port: ACK, with RDATA and the CRC-8 over it where a read is answered OK (R465), or nothing driven (R467). -/
  | hdw (ack : Nat) (data : Option (Word × BitVec 8)) | silent
  deriving DecidableEq, Repr

/-- A consequence of a step that the step itself still has to carry out once its own access is done (Machine/Settle.lean);
between steps there is none. -/
inductive Todo where
  /-- A curator fault drives the safe state (R349): code and hint. -/
  | safeState (code hint : Nat)
  /-- Held far accesses are to be sent (R294). -/
  | rise
  /-- The ring engine has written host memory: reservations on the granule go (R107). -/
  | hostLine (line : Nat)
  /-- A per-engine reset, and who asks for it (R493). -/
  | engineReset (e : Fin 64) (uid : Nat)
  /-- The end of a ring's RUN descriptor with its completion fields (R263): ring, table slot, status, reason, engine, admAt and
  finish time, result word. -/
  | ringEnd (sq slot status reason eng admAt finish : Nat) (result : Word)
  /-- A system reset with its bit of SYS.RSTCAUSE (R493, R512). -/
  | sysReset (bit : Nat)
  /-- A fabric reset (R493). -/
  | fabReset
  /-- The curator reset of R350. -/
  | curReset
  /-- The debug island is reset (R471, R503). -/
  | dbgReset
  /-- A word written to DBG.FEED is executed on the feed target (R481). -/
  | feed (w : Word)
  /-- A STEP of a core (R483). -/
  | step (e : CoreId)
  deriving DecidableEq, Repr

/-- The device outside its cores and arrays. -/
structure Dev where
  /-- Registers of bank 0x04 by offset; an unlisted one holds its reset value (R7). -/
  regs : List (Nat × Word)
  prv : Prv
  itc : Itc
  hpt : Hpt
  dpt : Dpt
  tbs : Tbs
  rails : Vector Rail 2
  /-- Requests waiting at the rail sequencer, oldest first (R440). -/
  rseq : List RailReq
  adm : Adm
  pwr : Pwr
  rng : Rng
  ports : Ports
  scrub : Scrub
  sec : Sec
  cur : Cur
  dbg : Dbg
  /-- Slots (8 × cabinet + slot) whose commit check runs (R125). -/
  cx : List Nat
  /-- Consequences the running step still has to carry out. -/
  todo : List Todo
  /-- What has left the device, newest first (the model's own field). -/
  out : List Out
  /-- Event latches: bit n of engine En, bit 64 of the curator (R115, R371). -/
  latch : BitVec 65
  /-- The timebase 1,000 × C + F (R386). -/
  tbC : BitVec 64
  tbF : Nat
  /-- How many free values have been taken: the argument of the opaque constants of Config (the model's own field). -/
  fresh : Nat
  /-- What waits for the clock of an island, oldest first (R383). -/
  crossing : List Crossing
  deriving DecidableEq, Repr

/-- Everything the device holds but the commands that wait for it. -/
structure Chip where
  cores : Vector Core 65
  mem : Mem
  dev : Dev
  deriving DecidableEq, Repr

end Sys2Proof.Machine
end

