-- ==== Sys2Proof/Machine/Regs.lean ====
section
/-! DEFINITION. Machine/Regs.lean: reading and writing the fields of stored registers. Hardware updates go through `put`;
a master's access goes through Machine/Bus.lean. -/

namespace Sys2Proof.Machine

/-- The word a register stores (R7: its reset value until something changes it). -/
def Dev.word (d : Dev) (a : Nat) : Word := amapGet (resetWord a) d.regs a

/-- A register with another stored word. -/
def Dev.setWord (d : Dev) (a : Nat) (w : Word) : Dev := { d with regs := amapSet (resetWord a) a w d.regs }

/-- The stored registers are in canonical form: offsets rising, none listed with its reset value. -/
def Dev.regsWf (d : Dev) : Bool := amapWf resetWord d.regs

/-- The value of a field. -/
def Dev.get (d : Dev) (f : Fld) : Nat := bits (d.word f.addr) f.hi f.lo

/-- A field is not 0. -/
def Dev.flag (d : Dev) (f : Fld) : Bool := d.get f != 0

/-- A word with bits [hi:lo] replaced by v, taken modulo the field's width. -/
def setBits (w : Word) (hi lo v : Nat) : Word :=
  BitVec.ofNat 32 (w.toNat / 2 ^ (hi + 1) * 2 ^ (hi + 1) + v % 2 ^ (hi - lo + 1) * 2 ^ lo + w.toNat % 2 ^ lo)

/-- A field with another value, by hardware. -/
def Dev.put (d : Dev) (f : Fld) (v : Nat) : Dev := d.setWord f.addr (setBits (d.word f.addr) f.hi f.lo v)

/-- A field set to 1. -/
def Dev.on (d : Dev) (f : Fld) : Dev := d.put f 1

/-- A field set to 0. -/
def Dev.off (d : Dev) (f : Fld) : Dev := d.put f 0

/-- A field raised by n, holding at max (a saturating count). -/
def Dev.bumpSat (d : Dev) (f : Fld) (n max : Nat) : Dev := d.put f (min max (d.get f + n))

/-- A field raised by n modulo its width. -/
def Dev.bump (d : Dev) (f : Fld) (n : Nat) : Dev := d.put f (d.get f + n)

/-- Bit b of a field. -/
def Dev.bit (d : Dev) (f : Fld) (b : Nat) : Bool := d.get f / 2 ^ b % 2 == 1

/-- Bit b of a field set or cleared. -/
def Dev.putBit (d : Dev) (f : Fld) (b : Nat) (v : Bool) : Dev :=
  d.put ⟨f.addr, f.lo + b, f.lo + b⟩ (if v then 1 else 0)

/-- One more free value taken. -/
def Dev.tick1 (d : Dev) : Dev := { d with fresh := d.fresh + 1 }

/-- The registers of [lo, hi) at their reset values. -/
def Dev.resetRange (d : Dev) (lo hi : Nat) : Dev := { d with regs := amapDrop lo hi d.regs }

/-- The registers of a block at their reset values. -/
def Dev.resetBlock (d : Dev) (blk : Nat) : Dev := d.resetRange (0x10000 * blk) (0x10000 * (blk + 1))

end Sys2Proof.Machine
end

