-- ==== Sys2Proof/Machine/Log.lean ====
section
/-! DEFINITION. Machine/Log.lean: the timebase value (R386) and the provenance log (R507 to R511). -/

namespace Sys2Proof.Machine

open Reg

/-- The timebase (R386). -/
def Dev.now (d : Dev) : BitVec 64 := BitVec.ofNat 64 (1000 * d.tbC.toNat + d.tbF)

/-- Flags of a log entry (R508). -/
def prvClamped : Nat := 1
def prvIgnored : Nat := 2
def prvRefused : Nat := 4
def prvHw : Nat := 8
def prvReset : Nat := 16

/-- The device address of a bank 0x04 offset. -/
def regAddr (off : Nat) : Word := BitVec.ofNat 32 (0x4000000 + off)

/-- An entry is recorded (R508 to R510): CLAMPED is set whenever the requested and stored values differ; with 2,048 entries
unread the oldest unread one is overwritten and OVF counts. -/
def Dev.log (d : Dev) (off : Nat) (old req stored : Word) (origin flags : Nat) : Dev :=
  let e : PrvEnt :=
    { tb := d.now, addr := regAddr off, old := old, req := req, stored := stored
      origin := BitVec.ofNat 8 origin
      flags := BitVec.ofNat 8 (flags + if req = stored then 0 else prvClamped), seq := d.prv.seq }
  let p := d.prv
  if p.unread.length < 2048 then
    { d with prv := { p with unread := p.unread ++ [e], seq := p.seq + 1 } }
  else
    ({ d with prv := { unread := p.unread.drop 1 ++ [e], rp := (p.rp + 1) % 2048, seq := p.seq + 1 } }).bump PRV_OVF_COUNT 1

/-- A change the hardware made on its own to a register is recorded with origin 0x00 (R5, R507): old is the word before. -/
def Dev.logHw (d : Dev) (off : Nat) (old : Word) : Dev :=
  d.log off old (d.word off) (d.word off) 0 prvHw

/-- PRV.ACK consumes up to n unread entries (R511). -/
def Dev.prvAck (d : Dev) (n : Nat) : Dev :=
  let k := min n d.prv.unread.length
  { d with prv := { d.prv with unread := d.prv.unread.drop k, rp := (d.prv.rp + k) % 2048 } }

/-- The eight words of the entry at RP, or zeros (R508, R511). -/
def Dev.prvWord (d : Dev) (i : Nat) : Word :=
  match d.prv.unread with
  | [] => 0
  | e :: _ =>
    match i with
    | 0 => e.tb.extractLsb' 0 32
    | 1 => e.tb.extractLsb' 32 32
    | 2 => e.addr
    | 3 => e.old
    | 4 => e.req
    | 5 => e.stored
    | 6 => 0#16 ++ e.flags ++ e.origin
    | _ => e.seq

end Sys2Proof.Machine
end

