-- ==== Sys2Proof/Machine/Itc.lean ====
section
/-! DEFINITION. Machine/Itc.lean: the interrupt controller and the event network (11_interrupts_events.md). -/

namespace Sys2Proof.Machine

open Reg

/-- A source that R358 reserves. -/
def srcReserved (s : Nat) : Bool := (120 ≤ s && s < 128) || (149 ≤ s && s < 160)

/-- A source that receives pulses, not a lasting line (R539). -/
def srcPulse (s : Nat) : Bool := s == 136 || s == 137 || s == 146 || s == 147

/-- A source in level mode (R357, ITC.SRC.LVL); pulse sources behave as edge in either mode (R539). -/
def Dev.srcLevel (d : Dev) (s : Nat) : Bool := d.flag (ITC_SRC_LVL s) && !srcPulse s

/-- The pending bit of a source as R359 gives it: in edge mode the latch; in level mode the line or the soft bit while the
source is not active, and for a host-routed source only until its message is sent for this assertion (R367). -/
def Dev.pending (d : Dev) (s : Nat) : Bool :=
  if d.srcLevel s then
    !d.itc.active.getLsbD s && ((d.itc.line.getLsbD s && !d.itc.sent.getLsbD s) || d.itc.pend.getLsbD s)
  else d.itc.pend.getLsbD s

/-- The enable bit of a source (R360). -/
def Dev.srcEnabled (d : Dev) (s : Nat) : Bool := d.bit (ITC_ENSET_EN (s / 32)) (s % 32)

/-- The running priority of a target: the top of its stack, or 16 (R361). -/
def Dev.runPri (d : Dev) (t : CoreId) : Nat :=
  match d.itc.running[t] with
  | [] => 16
  | (p, _) :: _ => p

/-- ADM.OWN EFF of engine n (R246). -/
def Dev.owned (d : Dev) (n : Nat) : Bool := d.bit (ADM_OWN_OWN_EFF (n / 8)) (n % 8)

/-- A source names a target (ITC.SRC: 0 ENGINE, 1 CURATOR, 2 HOST). -/
def Dev.srcNames (d : Dev) (s : Nat) (t : CoreId) : Bool :=
  if t.val == 64 then d.get (ITC_SRC_TKIND s) == 1
  else d.get (ITC_SRC_TKIND s) == 0 && d.get (ITC_SRC_ENG s) == t.val

/-- A source is eligible for a target (R361). -/
def Dev.eligible (d : Dev) (t : CoreId) (s : Nat) : Bool :=
  d.srcEnabled s && d.pending s && d.srcNames s t && d.get (ITC_SRC_PRI s) < d.runPri t
    && (t.val == 64 || !d.owned t.val || d.flag (ITC_SRC_FC s))

/-- The better of two (priority, source) choices: the lower priority number, then the lower source number (R361). -/
def bestOf (a : Option (Nat × Nat)) (b : Nat × Nat) : Option (Nat × Nat) :=
  match a with
  | none => some b
  | some a => if b.1 < a.1 then some b else some a

/-- The sources for which a predicate holds, the best by priority and number. -/
def Dev.bestSource (d : Dev) (ok : Nat → Bool) : Option (Nat × Nat) :=
  (List.range 256).foldl (fun a s => if ok s then bestOf a (d.get (ITC_SRC_PRI s), s) else a) none

/-- The source R361 would offer a target, whether or not it is asked for: its priority and number. -/
def Dev.wouldOffer (d : Dev) (t : CoreId) : Option (Nat × Nat) :=
  if d.flag ITC_CTL_EN then d.bestSource (d.eligible t) else none

/-- Acceptance of a source by a target (R362). -/
def Dev.accept (d : Dev) (t : CoreId) (p s : Nat) : Dev :=
  { d with itc := { d.itc with
      pend := d.itc.pend &&& ~~~(1#256 <<< s)
      active := d.itc.active ||| (1#256 <<< s)
      running := d.itc.running.set t ((p, s) :: d.itc.running[t]) } }

/-- EOI by a target (R365, R366); uid is the writer's unit ID. -/
def Dev.eoi (d : Dev) (t : CoreId) (uid : Nat) : Dev :=
  match d.itc.running[t] with
  | [] => (d.on ITC_ERR_EOIEMPTY).put ITC_ERR_UID uid
  | (_, s) :: rest =>
    { d with itc := { d.itc with
        active := d.itc.active &&& ~~~(1#256 <<< s)
        running := d.itc.running.set t rest } }

/-- Every source of a stack stops being active and the stack empties (R368). -/
def Dev.emptyStack (d : Dev) (t : CoreId) : Dev :=
  { d with itc := { d.itc with
      active := d.itc.running[t].foldl (fun a e => a &&& ~~~(1#256 <<< e.2)) d.itc.active
      running := d.itc.running.set t [] } }

/-- A write of 1 to PENDSET for a source: the pending bit in edge mode, the soft bit in level mode (R359); reserved sources
cannot be set (R358). -/
def Dev.pendSet (d : Dev) (s : Nat) : Dev :=
  if srcReserved s then d else { d with itc := { d.itc with pend := d.itc.pend ||| (1#256 <<< s) } }

/-- A write of 1 to PENDCLR for a source (R359). -/
def Dev.pendClr (d : Dev) (s : Nat) : Dev :=
  { d with itc := { d.itc with pend := d.itc.pend &&& ~~~(1#256 <<< s) } }

/-- A source's input line asserts: a rising edge sets the pending bit in edge mode (R359). -/
def Dev.lineUp (d : Dev) (s : Nat) : Dev :=
  let rise := !d.itc.line.getLsbD s
  let d := { d with itc := { d.itc with line := d.itc.line ||| (1#256 <<< s) } }
  if rise && !d.srcLevel s then d.pendSet s else d

/-- A source's input line de-asserts; a level source that has sent its message may be pending again (R359, R367). -/
def Dev.lineDown (d : Dev) (s : Nat) : Dev :=
  { d with itc := { d.itc with line := d.itc.line &&& ~~~(1#256 <<< s), sent := d.itc.sent &&& ~~~(1#256 <<< s) } }

/-- A unit sends a pulse toward the ITC; it merges with one under way (R379, R539). -/
def Dev.sendPulse (d : Dev) (s : Nat) : Dev := { d with itc := { d.itc with pulse := d.itc.pulse ||| (1#256 <<< s) } }

/-- A pulse under way is discarded: its sender is reset (R384). -/
def Dev.dropPulse (d : Dev) (s : Nat) : Dev := { d with itc := { d.itc with pulse := d.itc.pulse &&& ~~~(1#256 <<< s) } }

/-- A pulse under way arrives and sets the pending bit (R539). -/
def Dev.takePulse (d : Dev) (s : Nat) : Dev :=
  ({ d with itc := { d.itc with pulse := d.itc.pulse &&& ~~~(1#256 <<< s) } }).pendSet s

/-- An event sets the latch of core t; one that finds it set merges and is counted (R115, R371). -/
def Dev.event (d : Dev) (t : Nat) : Dev :=
  if d.latch.getLsbD t then d.bumpSat EVN_MERGE_COUNT 1 0xFFFFFFFF
  else { d with latch := d.latch ||| (1#65 <<< t) }

/-- A core's latch is cleared. -/
def Dev.clearLatch (d : Dev) (t : Nat) : Dev := { d with latch := d.latch &&& ~~~(1#65 <<< t) }

/-- An event to each of n cores from core lo upward. -/
def Dev.eventRange (d : Dev) (lo n : Nat) : Dev := (List.range n).foldl (fun d i => d.event (lo + i)) d

/-- An event by its scope and target (R117); scope 0 is the sender's own latch. -/
def Dev.sendEvent (d : Dev) (self scope target : Nat) : Dev :=
  match scope with
  | 0 => d.event self
  | 1 => d.event (target % 64)
  | 2 => d.eventRange (8 * (target % 8)) 8
  | 3 => d.eventRange (32 * (target % 2)) 32
  | _ => d.eventRange 0 64

/-- The words of a 256-bit set that a register array shows. -/
def word256 (v : BitVec 256) (w : Nat) : Word := v.extractLsb' (32 * w) 32

/-- The pending bits a register of the array shows (R359). -/
def Dev.pendWord (d : Dev) (w : Nat) : Word :=
  BitVec.ofNat 32 ((List.range 32).foldl (fun n i => if d.pending (32 * w + i) then n + 2 ^ i else n) 0)

end Sys2Proof.Machine
end

