-- ==== Sys2Proof/Machine/Memory.lean ====
section
/-! DEFINITION. Machine/Memory.lean: the on-chip arrays of 05_onchip_memory.md: their error protection (R190 to R194), the
power of the gallery halves (R207), the vault (R197 to R201), line ownership (R181 to R184) and the reservations a write
clears (R107). An array address here is the canonical one: bank 0x01, 0x02 or 0x03 form. -/

namespace Sys2Proof.Machine

open Reg

/-- The code of a cause (R69). -/
def Cause.code : Cause → Nat
  | .illegal => 0x01 | .customEmpty => 0x02 | .misalign => 0x03 | .access _ => 0x04 | .farAbsent => 0x05
  | .offline => 0x06 | .busError => 0x07 | .eccUncorr => 0x08 | .determinism => 0x09 | .trap => 0x0A
  | .brk => 0x0B | .stack => 0x0C

/-- The DETAIL of a cause: 0 but for ACCESS (R69). -/
def Cause.detail : Cause → Nat
  | .access d => d
  | _ => 0

/-- What an access is answered with: a value (0 for a write), one cause (R70), or nothing yet, the access being held
(R293). -/
inductive Reply where
  | ok (v : Word)
  | err (c : Cause)
  | held
  deriving DecidableEq, Repr

/-- A function of the device outside its cores and arrays, on the whole. -/
def Chip.onDev (s : Chip) (f : Dev → Dev) : Chip := { s with dev := f s.dev }

/-- The array byte at an address (R204: an unlisted byte is 0). -/
def Mem.byte (m : Mem) (a : Nat) : Byte := amapGet 0 m.cells a

/-- The array with one byte changed. -/
def Mem.setByte (m : Mem) (a : Nat) (b : Byte) : Mem := { m with cells := amapSet 0 a b m.cells }

/-- n bytes from an address upward, little-endian (R86). -/
def Mem.bytesLE (m : Mem) (a : Nat) : Nat → Nat
  | 0 => 0
  | n + 1 => (m.byte a).toNat + 256 * m.bytesLE (a + 1) n

/-- n bytes of a value stored from an address upward, little-endian. -/
def Mem.setBytes (m : Mem) (a : Nat) (n v : Nat) : Mem :=
  match n with
  | 0 => m
  | n + 1 => (m.setByte a (BitVec.ofNat 8 v)).setBytes (a + 1) n (v / 256)

/-- The inverted bits of the 64-bit word at address / 8. -/
def Mem.flip (m : Mem) (a : Nat) : BitVec 72 := amapGet 0 m.flips (a / 8)

/-- The inverted bits of a word set. -/
def Mem.setFlip (m : Mem) (a : Nat) (f : BitVec 72) : Mem := { m with flips := amapSet 0 (a / 8) f m.flips }

/-- The canonical form of the arrays: bytes and inverted bits in canonical maps. -/
def Mem.wf (m : Mem) : Bool := amapWf (fun _ => (0 : Byte)) m.cells && amapWf (fun _ => (0 : BitVec 72)) m.flips

/-- The number of 1 bits among the low n. -/
def onesFrom (f : BitVec 72) : Nat → Nat
  | 0 => 0
  | n + 1 => (if f.getLsbD n then 1 else 0) + onesFrom f n

/-- An address in the vault. -/
def inVault (a : Nat) : Bool := 0x3000000 ≤ a && a < 0x3080000

/-- An address in the boot ROM (R341). -/
def inRom (a : Nat) : Bool := 0x3080000 ≤ a && a < 0x3090000

/-- A corrected error is counted (R190). -/
def Dev.countCe (d : Dev) (a : Nat) : Dev :=
  d.bumpSat (if inVault a then VLT_CECNT_COUNT else GAL_CECNT_COUNT) 1 0xFFFFFFFF

/-- An uncorrectable error is counted and recorded (R192). -/
def Dev.countUe (d : Dev) (a : Nat) : Dev :=
  if inVault a then
    if d.flag VLT_ESTAT_UEV then d.on VLT_ESTAT_UEOVF
    else (d.on VLT_ESTAT_UEV).put VLT_UEADDR_ADDR (a / 8)
  else
    let d := d.bumpSat GAL_UECNT_COUNT 1 0xFFFFFFFF
    if d.flag GAL_ESTAT_UEV then d.on GAL_ESTAT_UEOVF
    else (d.on GAL_ESTAT_UEV).put GAL_UEADDR_ADDR (a / 8)

/-- Where an array byte is stored: a vault line lies where the key's permutation of address bits [18:6] puts it (R198). -/
def Dev.place (d : Dev) (a : Nat) : Nat :=
  if inVault a then
    match d.sec.key with
    | some k => 0x3000000 + 64 * (Config.vaultPlace k (Fin.ofNat 8192 (a / 64))).val + a % 64
    | none => a
  else a

/-- A read of the 64-bit word that holds an address (R190, R192): the bank corrects a single inverted bit in place; false
where the code reports an uncorrectable error. -/
def Chip.fetch64 (s : Chip) (a : Nat) : Chip × Bool :=
  let p := s.dev.place a
  let f := s.mem.flip p
  let w := p / 8 * 8
  match onesFrom f 72 with
  | 0 => (s, true)
  | 1 => ({ s with mem := s.mem.setFlip p 0, dev := s.dev.countCe a }, true)
  | 2 => (s.onDev (·.countUe a), false)
  | _ =>
    let k := s.dev.fresh
    let s := s.onDev Dev.tick1
    let raw := (s.mem.bytesLE w 8) ^^^ (f.extractLsb' 0 64).toNat
    match Config.eccOutcome k with
    | 0 => (s.onDev (·.countUe a), false)
    | 1 =>
      let b := Config.eccBit k % 72
      let v := if b < 64 then raw ^^^ 2 ^ b else raw
      ({ s with mem := (s.mem.setBytes w 8 v).setFlip p 0, dev := s.dev.countCe a }, true)
    | _ => ({ s with mem := (s.mem.setBytes w 8 raw).setFlip p 0 }, true)

/-- The gallery half of an address (R177). -/
def halfOf (a : Nat) : Nat := a / 0x100000 % 16

/-- The gallery bank or scratch of an address lies in a wing that R418 counts below the running range. -/
def Dev.wingLost (d : Dev) (a : Nat) : Bool :=
  if a / 0x1000000 == 1 then (if a % 0x1000000 < 0x800000 then d.rails[(0 : Fin 2)].bad else d.rails[(1 : Fin 2)].bad)
  else if a / 0x1000000 == 2 then (if a % 0x1000000 < 0x100000 then d.rails[(0 : Fin 2)].bad else d.rails[(1 : Fin 2)].bad)
  else false

/-- A gallery half that is off refuses every access with OFFLINE (R207); so do the arrays of a wing whose rail failed (R418). -/
def Dev.galleryOff (d : Dev) (a : Nat) : Bool :=
  (a / 0x1000000 == 1 && d.bit GAL_PGATE_GH_EFF (halfOf a)) || d.wingLost a

/-- The vault refuses every access while a wipe runs or after a failed one (R200, R201). -/
def Dev.vaultShut (d : Dev) (a : Nat) : Bool := inVault a && !d.flag VLT_STAT_READY

/-- A read of up to eight bytes inside one 64-bit word of an array, as the array answers it. -/
def Chip.memRead (s : Chip) (a size : Nat) : Chip × Reply :=
  if inRom a then
    (s, .ok (BitVec.ofNat 32 ((List.range size).foldr (fun i v => (Config.bootRom (a - 0x3080000 + i)).toNat + 256 * v) 0)))
  else if s.dev.galleryOff a then (s, .err .offline)
  else if s.dev.vaultShut a then (s, .err .busError)
  else
    let (s, good) := s.fetch64 a
    if good then (s, .ok (BitVec.ofNat 32 (s.mem.bytesLE (s.dev.place a) size))) else (s, .err .eccUncorr)

/-- The 64-byte granule or line of an address. -/
def lineOf (a : Nat) : Nat := a / 64

/-- Every reservation on a granule is cleared (R107). -/
def Chip.clearResv (s : Chip) (line : Nat) : Chip :=
  { s with cores := s.cores.map fun c => if c.resv = some line then { c with resv := none } else c }

/-- The mask an armed injection inverts (R194). -/
def Dev.injectMask (d : Dev) : BitVec 72 :=
  (1#72 <<< d.get GAL_EINJ_BIT0) ||| (if d.flag GAL_EINJ_DOUBLE then 1#72 <<< d.get GAL_EINJ_BIT1 else 0)

/-- A curator write that has stored a scratch or gallery word takes an armed injection (R194); old is the error the word
held before the write. -/
def Chip.inject (s : Chip) (cur : Bool) (a : Nat) (old : BitVec 72) : Chip :=
  if cur && a < 0x3000000 && s.dev.flag GAL_EINJ_ARM then
    { s with mem := s.mem.setFlip a (old ^^^ s.dev.injectMask), dev := s.dev.off GAL_EINJ_ARM }
  else s

/-- The master and the port of an array access: its unit ID (R5, R186), the curator, and the home role (R181). -/
structure Port where
  uid : Nat
  home : Bool
  deriving DecidableEq, Repr

/-- n requests of a master to a gallery bank while conflicts are counted (R186). How many of them wait at least one beat for another
master's beat or for ownership is a matter of timing, which this model does not show: it is a free value. -/
def Dev.conflict (d : Dev) (uid a n : Nat) : Dev :=
  if a / 0x1000000 == 1 && uid < 0x80 && d.flag GAL_CCTL_EN then
    (d.bumpSat (GAL_CONF_COUNT (a / 0x200000 % 8) uid) (Config.timedEvents d.fresh % (n + 1)) 0xFFFFFFFF).tick1
  else d

/-- Requests of a master to an array. -/
def Chip.asks (s : Chip) (uid a : Nat) (n : Nat := 1) : Chip := s.onDev (·.conflict uid a n)

/-- A line goes back to the home role (R182 to R184). -/
def Mem.disown (m : Mem) (line : Nat) : Mem := { m with owned := m.owned.filter (·.1 != line) }

/-- A home-role write takes its line back from a burst that owns it (R183). -/
def Chip.takeLine (s : Chip) (p : Port) (a : Nat) : Chip := if p.home then { s with mem := s.mem.disown (lineOf a) } else s

/-- A loan-role burst has written [a, a + n) of a two-port array: every whole 64-byte line of it is the burst's until its release
(R182). -/
def Chip.burst (s : Chip) (a n : Nat) : Chip :=
  if a < 0x1000000 ∨ 0x3000000 ≤ a then s
  else
    let first := (a + 63) / 64
    let lines := (List.range ((a + n) / 64 - first)).map (first + ·)
    { s with mem := { s.mem with
        owned := lines.map (·, s.dev.now.toNat) ++ s.mem.owned.filter fun l => !lines.contains l.1 } }

/-- A write to a protected vault region or to the boot ROM receives an error reply (R199, R341). -/
def Dev.writeShut (d : Dev) (a : Nat) : Bool :=
  inRom a || (inVault a && d.bit VLT_WPROT_WP (a % 0x80000 / 0x8000))

/-- A write of fewer than 64 bits inside one word of an array (R191). -/
def Chip.memWrite (s : Chip) (p : Port) (a size : Nat) (v : Word) : Chip × Reply :=
  if s.dev.writeShut a then (s, .err .busError)
  else if s.dev.galleryOff a then (s, .err .offline)
  else if s.dev.vaultShut a then (s, .err .busError)
  else
    let old := s.mem.flip (s.dev.place a)
    let (s, good) := s.fetch64 a
    if good then
      let s := (s.takeLine p a).clearResv (lineOf a)
      let s := { s with mem := s.mem.setBytes (s.dev.place a) size v.toNat }
      (s.inject (p.uid == 0x18) a (if onesFrom old 72 = 1 then old else 0), .ok 0)
    else (s, .err .busError)

/-- An atomic on a word: the bank reads, modifies and writes it in one beat (R106, R176). -/
def Chip.memAtomic (s : Chip) (p : Port) (a : Nat) (f : Word → Word) : Chip × Reply :=
  if s.dev.writeShut a then (s, .err .busError)
  else if s.dev.galleryOff a then (s, .err .offline)
  else if s.dev.vaultShut a then (s, .err .busError)
  else
    let old := s.mem.flip (s.dev.place a)
    let (s, good) := s.fetch64 a
    if good then
      let t := BitVec.ofNat 32 (s.mem.bytesLE (s.dev.place a) 4)
      let s := (s.takeLine p a).clearResv (lineOf a)
      let s := { s with mem := s.mem.setBytes (s.dev.place a) 4 (f t).toNat }
      (s.inject (p.uid == 0x18) a (if onesFrom old 72 = 1 then old else 0), .ok t)
    else (s, .err .eccUncorr)

/-- A write of whole 64-bit words: it stores new check bits without reading the word (R191). -/
def Chip.memWrite64 (s : Chip) (a : Nat) (v : Nat) : Chip × Reply :=
  if s.dev.writeShut a then (s, .err .busError)
  else if s.dev.galleryOff a then (s, .err .offline)
  else
    let s := s.clearResv (lineOf a)
    let p := s.dev.place a
    ({ s with mem := (s.mem.setBytes (p / 8 * 8) 8 v).setFlip p 0 }, .ok 0)

/-- n bytes of an array read from an address upward; the first error ends it. -/
def Chip.bulkRead (s : Chip) (a : Nat) : Nat → Chip × (List Byte ⊕ Cause)
  | 0 => (s, .inl [])
  | n + 1 =>
    match s.memRead a 1 with
    | (s, .ok v) =>
      match s.bulkRead (a + 1) n with
      | (s, .inl bs) => (s, .inl (v.extractLsb' 0 8 :: bs))
      | r => r
    | (s, .err c) => (s, .inr c)
    | (s, .held) => (s, .inr .busError)

/-- Bytes written to an array from an address upward by a loan-role master: whole 64-bit words without reading them, other
bytes by read-merge-write (R191); the first error ends it. -/
def Chip.bulkWrite (s : Chip) (uid : Nat) (a : Nat) : Nat → List Byte → Chip × Option Cause
  | 0, _ => (s, none)
  | _, [] => (s, none)
  | fuel + 1, b :: bs =>
    if a % 8 = 0 ∧ 8 ≤ (b :: bs).length then
      let v := ((b :: bs).take 8).foldr (fun x n => x.toNat + 256 * n) 0
      match s.memWrite64 a v with
      | (s, .ok _) => s.bulkWrite uid (a + 8) fuel ((b :: bs).drop 8)
      | (s, .err c) => (s, some c)
      | (s, .held) => (s, some .busError)
    else
      match s.memWrite { uid := uid, home := false } a 1 (b.zeroExtend 32) with
      | (s, .ok _) => s.bulkWrite uid (a + 1) fuel bs
      | (s, .err c) => (s, some c)
      | (s, .held) => (s, some .busError)

/-- An array address that exists (R57, R58): gallery, scratches, vault or boot ROM. -/
def arrayAddr (a : Nat) : Bool :=
  (0x1000000 ≤ a && a < 0x2000000) || (0x2000000 ≤ a && a < 0x2200000) || (0x3000000 ≤ a && a < 0x3090000)

/-- Every word of [lo, hi) written to zero with correct check bits (R204, R206). -/
def Mem.clear (m : Mem) (lo hi : Nat) : Mem :=
  { m with cells := amapDrop lo hi m.cells, flips := amapDrop (lo / 8) (hi / 8) m.flips }

end Sys2Proof.Machine
end

