-- ==== Sys2Proof/Machine/Depot.lean ====
section
/-! DEFINITION. Machine/Depot.lean: the depot (06_depot_queues.md): the cell pool, items, the push and consumer windows,
flush, thresholds, link errors and the staged cell. The cells' words live in the gallery; the lists of cells are the
depot's own. -/

namespace Sys2Proof.Machine

open Reg

/-- The status codes of R221. -/
inductive DStatus where
  | ok | empty | full | broken | noItem | notOwner | disabled | position | badHead | linkErr
  deriving DecidableEq, Repr

/-- The number of a status (R221). -/
def DStatus.code : DStatus → Nat
  | .ok => 0 | .empty => 1 | .full => 2 | .broken => 3 | .noItem => 4 | .notOwner => 5 | .disabled => 6
  | .position => 7 | .badHead => 8 | .linkErr => 9

/-- A queue with nothing in it: cursor and mark at the first header position. -/
def DQueue.empty : DQueue :=
  { items := [], cursor := ⟨0, 0⟩, mark := ⟨0, 0⟩, known := [], broke := none, lost := 0, standing := none, compl := []
    staged := none }

/-- An empty status slot. -/
def DSlot.empty : DSlot := ⟨0, 0, 0⟩

/-- The depot with every queue empty and every cell free. -/
def Dpt.empty : Dpt := { queues := [], opens := [], slots := [], walk := 0, free := [] }

/-- Queue q. -/
def Dev.queue (d : Dev) (q : Nat) : DQueue := amapGet DQueue.empty d.dpt.queues q

/-- Queue q changed. -/
def Dev.setQueue (d : Dev) (q : Nat) (x : DQueue) : Dev :=
  { d with dpt := { d.dpt with queues := amapSet DQueue.empty q x d.dpt.queues } }

/-- The cells of the effective pool (R211). -/
def Dev.poolCells (d : Dev) : Nat := d.get DPT_POOL_SIZE_EFF * 4096

/-- The device address of cell i (R211). -/
def Dev.cellAddr (d : Dev) (i : Nat) : Nat := 0x1000000 + 0x40000 * d.get DPT_POOL_BASE_EFF + 64 * i

/-- The cells held by no queue (DPT.FREE). -/
def Dev.freeCells (d : Dev) : Nat :=
  if d.flag DPT_CTL_EN_EFF then (d.poolCells - d.dpt.walk) + d.dpt.free.length else 0

/-- The cells of an item not yet freed. -/
def DItem.live (x : DItem) : List Nat := x.cells.drop x.freed

/-- What an item is, whatever its cells: how many of them are freed, TAG, LEN, and whether it is a launch record. -/
def DItem.kind (x : DItem) : Nat × Nat × Nat × Bool := (x.freed, x.tag, x.len, x.launch)

/-- The cells a queue's sealed items still hold, in order. -/
def DQueue.cells (x : DQueue) : List Nat := (x.items.map DItem.live).flatten

/-- The open items of a queue. -/
def Dev.opensOf (d : Dev) (q : Nat) : List OpenItem := d.dpt.opens.filter fun o => o.q == q && !o.broken

/-- The cells a queue holds (R225). -/
def Dev.held (d : Dev) (q : Nat) : Nat :=
  let x := d.queue q
  x.cells.length + ((d.opensOf q).map fun o => o.cells.length).foldl (· + ·) 0 + x.lost
    + (if x.standing.isSome then 1 else 0) + x.compl.length

/-- The depth of a queue: sealed items whose header lies at or after the cursor (R223). -/
def DQueue.depth (x : DQueue) : Nat :=
  x.items.length - (if x.cursor.word = 0 then x.cursor.item else x.cursor.item + 1)

/-- Free cells a queue must leave (R214). -/
def cellReserve (q : Nat) : Nat := if q < 16 then 0 else 64

/-- Whether the depot and a queue take new items (R215). -/
def Dev.queueOn (d : Dev) (q : Nat) : Bool :=
  d.flag DPT_CTL_EN_REQ && d.flag DPT_CTL_EN_EFF && d.flag (DPT_QCFG_EN_REQ q) && d.flag (DPT_QCFG_EN_EFF q)

/-- QCFG.FULL (R227). -/
def Dev.queueFull (d : Dev) (q : Nat) : Bool :=
  d.flag DPT_CTL_EN_EFF && (d.get (DPT_QLIM_QUOTA q) ≤ d.held q || d.freeCells < cellReserve q + 1)

/-- The threshold condition of a queue (R232); on Q0 to Q79 an item counts once its first cell is staged (R236). -/
def Dev.threshold (d : Dev) (q : Nat) : Bool :=
  if d.flag (DPT_QTHR_KIND q) then d.held q + d.get (DPT_QTHR_LEVEL q) ≤ d.get (DPT_QLIM_QUOTA q)
  else
    let x := d.queue q
    let n := if q < 80 && x.cursor.word == 0 && x.staged.isNone then x.depth - 1 else x.depth
    d.get (DPT_QTHR_LEVEL q) ≤ n

/-- A change of the depot seen by a queue's threshold: one event where its condition becomes true (R232). -/
def Chip.withThr (s : Chip) (q : Nat) (f : Chip → Chip) : Chip :=
  let was := s.dev.threshold q
  let s := f s
  if !was && s.dev.threshold q && s.dev.flag (DPT_QTHR_EEN q) then s.onDev (·.event (s.dev.get (DPT_QTHR_ENG q)))
  else s

/-! ### Status slots -/

/-- A master's slot. -/
def Dev.slot (d : Dev) (uid : Nat) : DSlot := amapGet DSlot.empty d.dpt.slots uid

/-- A master's slot changed. -/
def Dev.setSlot (d : Dev) (uid : Nat) (x : DSlot) : Dev :=
  { d with dpt := { d.dpt with slots := amapSet DSlot.empty uid x d.dpt.slots } }

/-- An operation's outcome recorded in the caller's slot (R222): the first that is not OK; drop counts a word of HEAD, BODY or
LAST refused or dropped. -/
def Dev.record (d : Dev) (uid q : Nat) (st : DStatus) (drop : Bool) : Dev :=
  if st = .ok then d
  else
    let x := d.slot uid
    let x := if x.code = 0 then { x with code := st.code, queue := q } else x
    d.setSlot uid (if drop then { x with dropped := min 0xFFFF (x.dropped + 1) } else x)

/-- The word DSTAT returns (R222). -/
def DSlot.word (x : DSlot) : Word := BitVec.ofNat 32 (0x10000000 * x.code + 0x40000 * x.queue + x.dropped)

/-! ### Cells -/

/-- The lowest cell to hand out: a released one, else the next never used (R213). -/
def Dev.takeCell (d : Dev) : Dev × Nat :=
  match d.dpt.free with
  | c :: cs => ({ d with dpt := { d.dpt with free := cs } }, c)
  | [] => ({ d with dpt := { d.dpt with walk := d.dpt.walk + 1 } }, d.dpt.walk)

/-- n cells taken. -/
def Dev.takeCells (d : Dev) : Nat → Dev × List Nat
  | 0 => (d, [])
  | n + 1 =>
    let (d, c) := d.takeCell
    let (d, cs) := d.takeCells n
    (d, c :: cs)

/-- The port of a depot pool access: the loan port, unit ID 0x0A (R177, R211). -/
def dptPort : Port := { uid := 0x0A, home := false }

/-- A pool line write is lost to a half that is off: ISTAT.POOLOFF (R538). -/
def Chip.poolLost (s : Chip) (r : Reply) : Chip :=
  if r = .err .offline then s.onDev (·.on DPT_ISTAT_POOLOFF) else s

/-- The link word of a cell written (R212). -/
def Chip.writeLink (s : Chip) (c : Nat) (w : Word) : Chip :=
  let a := s.dev.cellAddr c + 60
  let (s, r) := (s.asks 0x0A a).memWrite dptPort a 4 w
  s.poolLost r

/-- The 64-bit words of a cell written as one line transfer (R176, R191, R212). -/
def Chip.writeWords (s : Chip) (a : Nat) : List Word → Chip
  | w0 :: w1 :: ws =>
    let (s, r) := s.memWrite64 a (w0.toNat + w1.toNat * 2 ^ 32)
    (s.poolLost r).writeWords (a + 8) ws
  | _ => s

/-- A released cell joins the free list, linked through its link word (R213). -/
def Chip.freeCell (s : Chip) (c : Nat) : Chip :=
  let w : Word := match s.dev.dpt.free with
    | [] => 0x80000000
    | n :: _ => BitVec.ofNat 32 n
  (s.writeLink c w).onDev fun d => { d with dpt := { d.dpt with free := c :: d.dpt.free } }

/-- Cells released. -/
def Chip.freeCellsOf (s : Chip) (cs : List Nat) : Chip := cs.foldl Chip.freeCell s

/-- The link word of a cell followed by cell n, or of a queue's last cell (R212). -/
def linkTo (n : Option Nat) : Word := match n with | some i => BitVec.ofNat 32 i | none => 0x80000000

/-- The sixteen words of cell j of an item whose words (header first) are ws and whose cells are cs. -/
def cellWords (ws : List Word) (cs : List Nat) (j : Nat) : List Word :=
  (List.range 15).map (fun i => ws.getD (15 * j + i) 0) ++ [linkTo cs[j + 1]?]

/-- Cells of an item written, by their places in it. -/
def Chip.writeCells (s : Chip) (ws : List Word) (cs js : List Nat) : Chip :=
  js.foldl (fun s j =>
    let a := s.dev.cellAddr (cs.getD j 0)
    ((s.asks 0x0A a).writeWords a (cellWords ws cs j)).burst a 64) s

/-- The stored header: the word POPH returns (R212, R221). -/
def headerWord (len tag : Nat) : Word := BitVec.ofNat 32 (0x80000000 + 0x10000 * len + tag)

/-- The cells an item of n data words needs (R215). -/
def cellsFor (n : Nat) : Nat := (n + 1 + 14) / 15

/-! ### The cursor -/

/-- The cell a queue's words come from at a position: its number, and the cell before it that the queue still holds. -/
def DQueue.cellAt (x : DQueue) (p : DPos) : Option (Nat × Option Nat) :=
  match x.items[p.item]? with
  | none => none
  | some it =>
    let j := p.word / 15
    match it.cells[j]? with
    | none => none
    | some c =>
      let before :=
        if 0 < j then (if it.freed < j then it.cells[j - 1]? else none)
        else if 0 < p.item then
          match x.items[p.item - 1]? with
          | some b => b.live.getLast?
          | none => none
        else none
      some (c, before)

/-- The pool's answer to a read of word i of a cell. -/
def Chip.poolRead (s : Chip) (c i : Nat) : Chip × Reply :=
  let a := s.dev.cellAddr c + 4 * i
  (s.asks 0x0A a).memRead a 4

/-- A link word read: the cell it names, none where it is broken (R212, R234). -/
def Chip.readLink (s : Chip) (c : Nat) : Chip × Option Nat :=
  match s.poolRead c 15 with
  | (s, .ok v) => (s, some (bits v 16 0))
  | (s, _) => (s, none)

/-- The cell at a position is the one a link names. -/
def DQueue.setCell (x : DQueue) (p : DPos) (c : Nat) : DQueue :=
  { x with items := x.items.modify p.item fun it => { it with cells := it.cells.set (p.word / 15) c } }

/-- The cursor enters the cell at a position: the link word of the cell before it is read the first time, and the list goes on where it
leads (R212); false where it is broken, which sets LERR (R234). Bit 31 of a link word that the depot knows to have a cell after it is not
looked at: the spec does not say what a changed one does (DESIGN CHOICE, notes/assumptions/94.md). -/
def Chip.enterCell (s : Chip) (q : Nat) (p : DPos) : Chip × Bool :=
  let x := s.dev.queue q
  match x.cellAt p with
  | some (_, some b) =>
    if x.known.contains b then (s, true)
    else
      match s.readLink b with
      | (s, some c) => (s.onDev fun d => d.setQueue q { (d.queue q).setCell p c with known := b :: (d.queue q).known }, true)
      | (s, none) =>
        (s.onDev fun d =>
          ((d.setQueue q { d.queue q with broke := some (some b) }).on (DPT_QCFG_LERR q)).on DPT_ISTAT_LERR, false)
  | _ => (s, true)

/-- A word of the pool as the depot reads it, or the error reply the read receives (R234, R538). -/
def Chip.poolWord (s : Chip) (c i : Nat) : Chip × (Word ⊕ Cause) :=
  match s.poolRead c i with
  | (s, .ok v) => (s, .inl v)
  | (s, .err e) => (s, .inr e)
  | (s, .held) => (s, .inl 0)

/-- Words of a cell read in turn. -/
def Chip.poolCell (s : Chip) (c : Nat) : List Nat → Chip × List (Word ⊕ Cause)
  | [] => (s, [])
  | i :: is =>
    let (s, w) := s.poolWord c i
    let (s, ws) := s.poolCell c is
    (s, w :: ws)

/-- The staged cell of Q0 to Q79 filled for the cursor with its data words (R236); its own link word is not read (R212). -/
def Chip.stage (s : Chip) (q : Nat) : Chip :=
  if 80 ≤ q then s
  else
    let x := s.dev.queue q
    match x.cellAt x.cursor with
    | none => s.onDev fun d => d.setQueue q { d.queue q with staged := none }
    | some (c, _) =>
      if (x.staged.map (·.1)) = some c then s
      else
        let (s, good) := s.enterCell q x.cursor
        if good then
          -- the link may have led to another cell
          let c := (((s.dev.queue q).cellAt x.cursor).map (·.1)).getD c
          let (s, ws) := s.poolCell c (List.range 15)
          s.onDev fun d => d.setQueue q { d.queue q with staged := some (c, ws) }
        else s.onDev fun d => d.setQueue q { d.queue q with staged := none }

/-- The staged cell read again, after a REWIND or a flush (R236). -/
def Chip.restage (s : Chip) (q : Nat) : Chip :=
  (s.onDev fun d => d.setQueue q { d.queue q with staged := none }).stage q

/-- A window operation that may wait at the pool's loan port (R237): whether it waits, and is counted, is a matter of timing, which is open
(notes/assumptions/14.md). -/
def Dev.slowWait (d : Dev) : Dev := (d.bumpSat DPT_SLOWCNT_COUNT (Config.timedEvents d.fresh % 2) 0xFFFFFFFF).tick1

/-- The word at a position: the staged copy where the cell is staged, else a read of the pool, which may wait (R237); the reply of an
error is that of the pool read (R234, R538). -/
def Chip.wordAt (s : Chip) (q : Nat) (p : DPos) : Chip × Reply :=
  let x := s.dev.queue q
  match x.cellAt p with
  | none => (s, .ok 0)
  | some (c, _) =>
    let live (s : Chip) : Chip × Reply := (s.onDev Dev.slowWait).poolRead c (p.word % 15)
    match x.staged with
    | some (c', ws) =>
      if c' = c then
        match ws.getD (p.word % 15) (.inl 0) with
        | .inl v => (s, .ok v)
        | .inr e => (s, .err e)
      else live s
    | none => live s

/-- The position after a word of the item at it: the next word, or the next header position. -/
def DQueue.after (x : DQueue) (p : DPos) : DPos :=
  match x.items[p.item]? with
  | some it => if p.word + 1 ≤ it.len then { p with word := p.word + 1 } else ⟨p.item + 1, 0⟩
  | none => p

/-- The cursor leaves a position for the next one: where that lies in a further cell, the link word is read (R212); false where it is
broken. -/
def Chip.enterNext (s : Chip) (q : Nat) (p : DPos) (move : Bool) : Chip × Bool :=
  if move then s.enterCell q ((s.dev.queue q).after p) else (s, true)

/-- The cursor moved, and the cell it enters staged. -/
def Chip.moveCursor (s : Chip) (q : Nat) (p : DPos) : Chip :=
  (s.onDev fun d => d.setQueue q { d.queue q with cursor := p }).stage q

/-- The status of a consumer operation before it acts: DISABLED, NOTOWNER, then LINKERR where it reads the list (R223, R234,
R240). -/
def Dev.consumerGate (d : Dev) (uid q : Nat) (list : Bool) : DStatus :=
  let cons := d.get (DPT_QCFG_CONS q)
  if !d.flag DPT_CTL_EN_EFF then .disabled
  else if cons ≠ 0xFF ∧ cons ≠ uid then .notOwner
  else if list && d.flag (DPT_QCFG_LERR q) then .linkErr
  else .ok

/-- A status word (R221). -/
def statusWord (st : DStatus) : Word := BitVec.ofNat 32 st.code

/-- POPH and PEEKH (R221, R223, R234). -/
def Chip.popHead (s : Chip) (uid q : Nat) (move : Bool) : Chip × Reply :=
  let fail (s : Chip) (st : DStatus) : Chip × Reply := (s.onDev (·.record uid q st false), .ok (statusWord st))
  match s.dev.consumerGate uid q true with
  | .ok =>
    let x := s.dev.queue q
    if x.cursor.word ≠ 0 then fail s .position
    else if x.items.length ≤ x.cursor.item then fail s .empty
    else
      let (s, good) := s.enterCell q x.cursor
      let (s, good) := if good then s.enterNext q x.cursor move else (s, good)
      if !good then fail s .linkErr
      else
        let (s, r) := s.wordAt q x.cursor
        (if move then s.moveCursor q (x.after x.cursor) else s, r)
  | st => fail s st

/-- POP and PEEK (R221, R223, R234): 0 where they cannot, the status recorded. -/
def Chip.popWord (s : Chip) (uid q : Nat) (move : Bool) : Chip × Reply :=
  let fail (s : Chip) (st : DStatus) : Chip × Reply := (s.onDev (·.record uid q st false), .ok 0)
  match s.dev.consumerGate uid q true with
  | .ok =>
    let x := s.dev.queue q
    if x.cursor.word = 0 then fail s .position
    else
      let (s, good) := s.enterCell q x.cursor
      let (s, good) := if good then s.enterNext q x.cursor move else (s, good)
      if !good then fail s .linkErr
      else
        let (s, r) := s.wordAt q x.cursor
        (if move then s.moveCursor q (x.after x.cursor) else s, r)
  | st => fail s st

/-- A read of DSTAT (R222); a debugger's read is quiet. -/
def Chip.readDstat (s : Chip) (uid : Nat) : Chip × Reply :=
  let x := s.dev.slot uid
  (if uid = 0x19 then s else s.onDev (·.setSlot uid DSlot.empty), .ok x.word)

/-- MARK (R224). -/
def Chip.markQ (s : Chip) (uid q : Nat) : Chip :=
  match s.dev.consumerGate uid q false with
  | .ok => s.onDev fun d => d.setQueue q { d.queue q with mark := (d.queue q).cursor }
  | st => s.onDev (·.record uid q st false)

/-- REWIND (R224, R236). -/
def Chip.rewindQ (s : Chip) (uid q : Nat) : Chip :=
  match s.dev.consumerGate uid q false with
  | .ok => s.withThr q fun s => (s.onDev fun d => d.setQueue q { d.queue q with cursor := (d.queue q).mark }).restage q
  | st => s.onDev (·.record uid q st false)

/-- The cells SKIP crosses, each entered in turn; false where a link is broken. -/
def Chip.enterCells (s : Chip) (q k : Nat) : List Nat → Chip × Bool
  | [] => (s, true)
  | j :: js =>
    match s.enterCell q ⟨k, 15 * j⟩ with
    | (s, true) => s.enterCells q k js
    | (s, false) => (s, false)

/-- SKIP (R224): the next header position, through the cells between (R212). -/
def Chip.skipQ (s : Chip) (uid q : Nat) : Chip :=
  match s.dev.consumerGate uid q true with
  | .ok =>
    let x := s.dev.queue q
    let p := x.cursor
    match x.items[p.item]? with
    | none => s
    | some it =>
      if p.word = 0 then s
      else
        let js := (List.range it.cells.length).filter fun j => p.word / 15 ≤ j
        let (s, good) := s.enterCells q p.item js
        let (s, good) := if good && p.item + 1 < x.items.length then s.enterCell q ⟨p.item + 1, 0⟩ else (s, good)
        if good then s.moveCursor q ⟨p.item + 1, 0⟩ else s.onDev (·.record uid q .linkErr false)
  | st => s.onDev (·.record uid q st false)

/-- The engine of a launch queue is registrar-owned (R226, R230). -/
def Dev.launchOwned (d : Dev) (q : Nat) : Bool := 16 ≤ q && q < 80 && d.owned (q - 16)

/-- The cells of an item given up: to the pool, but a launch record's cell on an owned engine's queue returns to the standing
reservation (R226, R230). -/
def Chip.giveUp (s : Chip) (q : Nat) (launch : Bool) (cs : List Nat) : Chip :=
  if launch && s.dev.launchOwned q then
    match cs with
    | [] => s
    | c :: rest => (s.onDev fun d => d.setQueue q { d.queue q with standing := some c }).freeCellsOf rest
  else s.freeCellsOf cs

/-- RELEASE (R226): every cell whose words all lie before the cursor is freed. -/
def Chip.releaseQ (s : Chip) (uid q : Nat) : Chip :=
  match s.dev.consumerGate uid q false with
  | .ok =>
    s.withThr q fun s =>
      let x := s.dev.queue q
      let k := x.cursor.item
      let done := x.items.take k
      let gone := x.cursor.word / 15
      let s := done.foldl (fun s it => s.giveUp q it.launch it.live) s
      let cur := x.items[k]?
      let s := match cur with
        | some it => s.giveUp q it.launch (it.cells.take gone |>.drop it.freed)
        | none => s
      let rest := match cur with
        | some it => { it with freed := max it.freed gone } :: x.items.drop (k + 1)
        | none => x.items.drop k
      let freedCells := (done.map DItem.live).flatten ++ (match cur with | some it => it.cells.take gone | none => [])
      let markGone := x.mark.item < k || (x.mark.item == k && x.mark.word / 15 < gone)
      let cur' : DPos := { x.cursor with item := 0 }
      s.onDev fun d => d.setQueue q { d.queue q with
        items := rest, cursor := cur'
        mark := if markGone then cur' else { x.mark with item := x.mark.item - k }
        known := x.known.filter fun c => !freedCells.contains c
        broke := x.broke.map fun b => if b.any freedCells.contains then none else b }
  | st => s.onDev (·.record uid q st false)

/-- The cells of a list that a flush can reach: those up to and including the one whose link is broken; none where that one has been
released, for then every cell left lies beyond it (R234). -/
def reachable (b : Option (Option Nat)) (cs : List Nat) : List Nat :=
  match b with
  | none => cs
  | some none => []
  | some (some c) => if cs.contains c then cs.takeWhile (· != c) ++ [c] else []

/-- A flush of a queue (R230, R231, R234): the cells it can reach are freed, open items are marked broken and hold none. -/
def Chip.flush (s : Chip) (q : Nat) : Chip :=
  s.withThr q fun s =>
    let x := s.dev.queue q
    let all := x.cells
    let reach := reachable x.broke all
    let launches := (x.items.filter (·.launch)).map DItem.live |>.flatten
    let s := (reach.filter launches.contains).foldl (fun s c => s.giveUp q true [c]) s
    let s := s.freeCellsOf (reach.filter fun c => !launches.contains c)
    let s := s.freeCellsOf ((s.dev.opensOf q).map (·.cells)).flatten
    let s := s.onDev fun d =>
      { d with dpt := { d.dpt with
          opens := d.dpt.opens.map fun o => if o.q = q then { o with broken := true, cells := [], words := [] } else o } }
    (s.onDev fun d => (d.setQueue q { d.queue q with
        items := [], cursor := ⟨0, 0⟩, mark := ⟨0, 0⟩, known := [], broke := none
        lost := x.lost + (all.length - reach.length) }).off (DPT_QCFG_LERR q)).restage q

/-- FLUSH through the consumer page (R219, R230). -/
def Chip.flushQ (s : Chip) (uid q : Nat) : Chip :=
  match s.dev.consumerGate uid q false with
  | .ok => s.flush q
  | st => s.onDev (·.record uid q st false)

/-! ### Producers -/

/-- The open item of a producer on a queue. -/
def Dev.openOf (d : Dev) (uid q : Nat) : Option OpenItem := d.dpt.opens.find? fun o => o.uid == uid && o.q == q

/-- The open-item table without a producer's entry on a queue. -/
def Dev.dropOpen (d : Dev) (uid q : Nat) : Dev :=
  { d with dpt := { d.dpt with opens := d.dpt.opens.filter fun o => !(o.uid == uid && o.q == q) } }

/-- An open item abandoned: its cells return, it is counted (R218); a broken entry is only dropped (R231). -/
def Chip.abandon (s : Chip) (o : OpenItem) : Chip :=
  let s := (s.freeCellsOf o.cells).onDev (·.dropOpen o.uid o.q)
  if o.broken then s else s.onDev fun d => (d.bumpSat DPT_ABNCNT_COUNT 1 0xFFFFFFFF).on DPT_ISTAT_ABANDON

/-- The table without its oldest broken entry. -/
def dropBroken : List OpenItem → List OpenItem
  | [] => []
  | o :: os => if o.broken then os else o :: dropBroken os

/-- The checks of a HEAD in their order (R215). -/
def Dev.headCheck (d : Dev) (q len : Nat) : DStatus :=
  if !d.queueOn q then .disabled
  else if d.flag (DPT_QCFG_LERR q) then .linkErr
  else if 959 < len then .badHead
  else if d.get (DPT_QLIM_QUOTA q) < d.held q + cellsFor len then .full
  else if d.freeCells < cellsFor len + cellReserve q then .full
  else if 64 ≤ d.dpt.opens.length && !d.dpt.opens.any (·.broken) then .full
  else .ok

/-- An item sealed (R216, R217), whose first done cells have been written with a header that shows len words: unused cells return, the other
cells are written with their links, the first again where the stored header changes, the queue's last cell is linked to the first, and the
staged cell is filled where the cursor stood at the end (R236). -/
def Chip.sealFrom (s : Chip) (q tag len : Nat) (words : List Word) (cells : List Nat) (launch : Bool) (done : Nat) : Chip :=
  let n := cellsFor words.length
  let used := cells.take n
  let s := s.freeCellsOf (cells.drop n)
  let again : List Nat := if 0 < done && len != words.length then [0] else []
  let s := s.writeCells (headerWord words.length tag :: words) used (again ++ (List.range n).drop done)
  let s := match (s.dev.queue q).cells.getLast?, used.head? with
    | some c, some f => s.writeLink c (linkTo (some f))
    | _, _ => s
  let it : DItem := { cells := used, freed := 0, tag := tag, len := words.length, launch := launch }
  (s.onDev fun d => d.setQueue q { d.queue q with items := (d.queue q).items ++ [it] }).stage q

/-- An item sealed none of whose cells has been written. -/
def Chip.seal (s : Chip) (q tag : Nat) (words : List Word) (cells : List Nat) (launch : Bool) : Chip :=
  s.sealFrom q tag words.length words cells launch 0

/-- A HEAD that finds the open-item table full reclaims the oldest broken entry (R231). -/
def Dev.reclaimOpen (d : Dev) : Dev :=
  if d.dpt.opens.length < 64 then d else { d with dpt := { d.dpt with opens := dropBroken d.dpt.opens } }

/-- HEAD (R215, R218, R231): an earlier open item of the producer on the queue is abandoned first. -/
def Chip.head (s : Chip) (uid q : Nat) (v : Word) : Chip :=
  s.withThr q fun s =>
    let tag := bits v 31 16
    let len := bits v 9 0
    if !s.dev.flag DPT_CTL_EN_EFF then s.onDev (·.record uid q .disabled true)
    else
      let s := match s.dev.openOf uid q with
        | some o => s.abandon o
        | none => s
      match s.dev.headCheck q len with
      | .ok =>
        let (d, cs) := s.dev.reclaimOpen.takeCells (cellsFor len)
        let s := { s with dev := d }
        if len = 0 then s.seal q tag [] cs false
        else
          s.onDev fun d =>
            { d with dpt := { d.dpt with opens := d.dpt.opens ++
                [{ uid := uid, q := q, broken := false, tag := tag, len := len, words := [], cells := cs }] } }
      | st =>
        let s := s.onDev (·.record uid q st true)
        if st = .full then s.onDev fun d => (d.bumpSat DPT_FULLCNT_COUNT 1 0xFFFFFFFF).on DPT_ISTAT_FULL else s

/-- BODY, and LAST where last is set (R216, R231): a cell the word completes is written as its line; a word that opens a new cell may wait
for the line before (R237). -/
def Chip.push (s : Chip) (uid q : Nat) (v : Word) (last : Bool) : Chip :=
  s.withThr q fun s =>
    if !s.dev.flag DPT_CTL_EN_EFF then s.onDev (·.record uid q .disabled true)
    else match s.dev.openOf uid q with
      | none => s.onDev (·.record uid q .noItem true)
      | some o =>
        if o.broken then s.onDev (·.record uid q .broken true)
        else
          let ws := o.words ++ [v]
          let s := if (o.words.length + 1) % 15 = 0 then s.onDev Dev.slowWait else s
          if last || o.len ≤ ws.length then
            (s.onDev (·.dropOpen uid q)).sealFrom q o.tag o.len ws o.cells false ((o.words.length + 1) / 15)
          else
            let s := s.onDev fun d =>
              { d with dpt := { d.dpt with
                  opens := d.dpt.opens.map fun x => if x.uid = uid ∧ x.q = q then { x with words := ws } else x } }
            let full := ws.length + 1
            if full % 15 = 0 then s.writeCells (headerWord o.len o.tag :: ws) o.cells [full / 15 - 1] else s

/-! ### The windows -/

/-- The operations of a page (R219). -/
inductive WinOp where
  | head | body | last | poph | peekh | pop | peek | mark | rewind | release | flush | skip | dstat
  deriving DecidableEq, Repr

/-- The window operation and queue an address names (R219, R220): none where the access is refused. -/
def winOp (a : Nat) (write : Bool) : Option (WinOp × Nat) :=
  let b := a / 0x1000000
  let off := a % 0x1000000
  if 0x10000 ≤ off then none
  else
    let q := off / 64
    match b, off % 64, write with
    | 8, 0x00, true => some (.head, q)
    | 8, 0x04, true => some (.body, q)
    | 8, 0x08, true => some (.last, q)
    | 9, 0x00, false => some (.poph, q)
    | 9, 0x04, false => some (.peekh, q)
    | 9, 0x08, false => some (.pop, q)
    | 9, 0x0C, false => some (.peek, q)
    | 9, 0x10, true => some (.mark, q)
    | 9, 0x14, true => some (.rewind, q)
    | 9, 0x18, true => some (.release, q)
    | 9, 0x1C, true => some (.flush, q)
    | 9, 0x20, true => some (.skip, q)
    | 8, 0x3C, false => some (.dstat, q)
    | 9, 0x3C, false => some (.dstat, q)
    | _, _, _ => none

/-- A window operation by a master (R219 to R224): a debugger's POPH and POP are performed as the matching peeks. -/
def Chip.window (s : Chip) (uid : Nat) (op : WinOp) (q : Nat) (v : Word) : Chip × Reply :=
  match op with
  | .head => (s.head uid q v, .ok 0)
  | .body => (s.push uid q v false, .ok 0)
  | .last => (s.push uid q v true, .ok 0)
  | .poph => s.popHead uid q (uid != 0x19)
  | .peekh => s.popHead uid q false
  | .pop => s.popWord uid q (uid != 0x19)
  | .peek => s.popWord uid q false
  | .mark => (s.markQ uid q, .ok 0)
  | .rewind => (s.rewindQ uid q, .ok 0)
  | .release => (s.releaseQ uid q, .ok 0)
  | .flush => (s.flushQ uid q, .ok 0)
  | .skip => (s.skipQ uid q, .ok 0)
  | .dstat => s.readDstat uid

/-- The address of a window operation (R219). -/
def winAddr (op : WinOp) (q : Nat) : Nat :=
  let push := 0x8000000 + 64 * q
  let cons := 0x9000000 + 64 * q
  match op with
  | .head => push | .body => push + 4 | .last => push + 8
  | .poph => cons | .peekh => cons + 4 | .pop => cons + 8 | .peek => cons + 0xC | .mark => cons + 0x10
  | .rewind => cons + 0x14 | .release => cons + 0x18 | .flush => cons + 0x1C | .skip => cons + 0x20
  | .dstat => cons + 0x3C

/-! ### Enabling, disabling, reset -/

/-- Every open item of a unit abandoned (R218). -/
def Chip.abandonAll (s : Chip) (uid : Nat) : Chip :=
  (s.dev.dpt.opens.filter (·.uid == uid)).foldl
    (fun s o => s.withThr o.q fun s => s.abandon o) s

/-- The depot's EN_EFF rises: POOL_EFF takes POOL_REQ, unless the pool would pass the gallery's end (R240). -/
def Dev.depotRise (d : Dev) : Dev :=
  if d.get DPT_POOL_BASE_REQ + d.get DPT_POOL_SIZE_REQ ≤ 64 then
    ((((d.put DPT_POOL_SIZE_EFF (d.get DPT_POOL_SIZE_REQ)).put DPT_POOL_BASE_EFF (d.get DPT_POOL_BASE_REQ)).put
      DPT_CTL_ERR 0).on DPT_CTL_EN_EFF)
  else (d.put DPT_CTL_ERR 1).on DPT_ISTAT_POOLERR

/-- No cell is reserved through the registrar's depot port (R240). -/
def Dev.noReserved (d : Dev) : Bool := d.dpt.queues.all fun p => p.2.standing.isNone && p.2.compl.isEmpty

/-- The depot's EN_EFF falls: every item is discarded, every cell free, every LERR clear (R240). -/
def Dev.depotFall (d : Dev) : Dev :=
  let d := (List.range 1024).foldl (fun d q => d.off (DPT_QCFG_LERR q)) d
  ({ d with dpt := { d.dpt with queues := [], opens := [], walk := 0, free := [] } }).off DPT_CTL_EN_EFF

/-- A change of the depot seen by the thresholds of every queue (R232). -/
def Chip.withAllThr (s : Chip) (f : Chip → Chip) : Chip :=
  let t := f s
  (List.range 1024).foldl (fun t q =>
    if !s.dev.threshold q && t.dev.threshold q && t.dev.flag (DPT_QTHR_EEN q) then t.onDev (·.event (t.dev.get (DPT_QTHR_ENG q)))
    else t) t

/-- The depot has nothing to wait for (R240): no open item, and no cell the registrar has reserved. -/
def Dev.depotIdle (d : Dev) : Bool := d.dpt.opens.all (·.broken) && d.noReserved

/-- The depot's disable seam (R240). -/
def Chip.depotSeam (s : Chip) : Chip :=
  if !s.dev.flag DPT_CTL_EN_REQ && s.dev.flag DPT_CTL_EN_EFF && s.dev.depotIdle then s.withAllThr (·.onDev Dev.depotFall) else s

/-- A queue's disable seam (R240): no open item on it. -/
def Dev.queueSeam (d : Dev) (q : Nat) : Dev :=
  if !d.flag (DPT_QCFG_EN_REQ q) && d.flag (DPT_QCFG_EN_EFF q) && (d.opensOf q).isEmpty then d.off (DPT_QCFG_EN_EFF q) else d

/-- The depot's status registers as they read (DPT.FREE, OPEN, QCFG.FULL, QSTAT). -/
def Dev.qstatWord (d : Dev) (q : Nat) : Word :=
  if d.flag DPT_CTL_EN_EFF then BitVec.ofNat 32 (0x40000 * min 16383 (d.queue q).depth + d.held q) else 0

end Sys2Proof.Machine
end

