-- ==== Sys2Proof/Machine/Tbs.lean ====
section
/-! DEFINITION. Machine/Tbs.lean: the timebase, the alarms and the watchdogs (12_crossings_timebase.md). -/

namespace Sys2Proof.Machine

open Reg

/-- The timebase as a number (R386). -/
def Dev.tb (d : Dev) : Nat := d.now.toNat

/-- Sleep, Deep Sleep or Off (R403). -/
def Dev.asleep (d : Dev) : Bool := 2 ≤ d.get PWR_STAT_STATE

/-- The power controller keeps wake conditions: an entry or an exit runs, the device is below Idle, or it waits for ON_N after
power-on (R420, R421, R498). -/
def Dev.watching (d : Dev) : Bool := d.flag PWR_STAT_BUSY || d.asleep || d.pwr.parked

/-- A wake condition arises: it is kept in its latch (R420). Bits 0 to 10 are those of WAKEEN, 11 is ON_N, 12
WDP, and 13 stands for ALM1 to ALM3 where 4 stands for ALM0. -/
def Dev.wakeUp (d : Dev) (b : Nat) : Dev :=
  if d.watching then { d with pwr := { d.pwr with wake := d.pwr.wake ||| (1#14 <<< b) } } else d

/-! ### Alarms -/

/-- The event of an alarm (R392 step 2, EVN.ALMRT). -/
def Dev.almEvent (d : Dev) (a : Nat) : Dev :=
  if d.flag (EVN_ALMRT_EN a) then
    match d.get (EVN_ALMRT_KIND a) with
    | 0 => d.sendEvent 0 1 (d.get (EVN_ALMRT_TARGET a))
    | 1 => d.sendEvent 0 2 (d.get (EVN_ALMRT_TARGET a))
    | 2 => d.sendEvent 0 3 (d.get (EVN_ALMRT_TARGET a))
    | 3 => d.sendEvent 0 4 0
    | _ => d.event 64
  else d

/-- An alarm's compare and next values changed. -/
def Dev.setAlarm (d : Dev) (a : Fin 4) (x : Alarm) : Dev := { d with tbs := { d.tbs with alarms := d.tbs.alarms.set a x } }

/-- An alarm is armed, enabled, and the timebase at or above NEXT (R392). -/
def Dev.almDue (d : Dev) (a : Fin 4) : Bool :=
  d.flag (TBS_ALM_CTL_EN a) && d.flag (TBS_ALM_CTL_ARMED a) && d.tbs.alarms[a].next ≤ d.now

/-- NEXT after a firing of a periodic alarm, and the periods skipped (R392 step 4). -/
def almNext (next now per : Nat) : Nat × Nat :=
  let k := (now - next) / per
  (next + (k + 1) * per, k)

/-- An alarm that is due fires (R392). -/
def Dev.almFire (d : Dev) (a : Fin 4) : Dev :=
  if d.almDue a then
    let d := (d.putBit TBS_ISTAT_ALM a true).almEvent a
    let d := if d.flag (TBS_ALM_CTL_WAKE a) then d.wakeUp (if a = 0 then 4 else 13) else d
    let per := d.get (TBS_ALM_PER_TICKS a)
    if per = 0 then d.off (TBS_ALM_CTL_ARMED a)
    else
      let x := d.tbs.alarms[a]
      let (n, miss) := almNext x.next.toNat d.tb per
      (d.setAlarm a { x with next := BitVec.ofNat 64 n }).bumpSat (TBS_ALM_CTL_MISS a) miss 0xFFFF
  else d

/-- A write of CMPH commits both halves (R391); one that lies in the past fires at once (R393). -/
def Dev.almCommit (d : Dev) (a : Fin 4) : Dev :=
  let v : BitVec 64 := d.word (TBS_ALM_CMPH a) ++ d.word (TBS_ALM_CMPL a)
  let d := (d.setAlarm a ⟨v, v⟩).put (TBS_ALM_CTL_MISS a) 0
  (if d.flag (TBS_ALM_CTL_EN a) then d.on (TBS_ALM_CTL_ARMED a) else d).almFire a

/-- A write of CTL whose EN was as given (R391). -/
def Dev.almCtl (d : Dev) (a : Fin 4) (wasEn : Bool) : Dev :=
  if !d.flag (TBS_ALM_CTL_EN a) then d.off (TBS_ALM_CTL_ARMED a)
  else if wasEn then d
  else
    let x := d.tbs.alarms[a]
    ((d.setAlarm a { x with next := x.cmp }).on (TBS_ALM_CTL_ARMED a)).almFire a

/-! ### Reads of the timebase -/

/-- A read of TBL by a master: the value and its latch (R390). -/
def Dev.readTbl (d : Dev) (uid : Nat) : Dev × Word :=
  ({ d with tbs := { d.tbs with tblLatch := amapSet 0 uid (d.now.extractLsb' 32 32) d.tbs.tblLatch } },
    d.now.extractLsb' 0 32)

/-- A master's latch of TBH: 0 where it has never read TBL (R390). -/
def Dev.readTbh (d : Dev) (uid : Nat) : Word := amapGet 0 d.tbs.tblLatch uid

/-- A read of an alarm's NEXTL by a master: the value and its latch. -/
def Dev.readNextl (d : Dev) (uid : Nat) (a : Fin 4) : Dev × Word :=
  let n := d.tbs.alarms[a].next
  ({ d with tbs := { d.tbs with nextLatch := amapSet 0 (4 * uid + a) (n.extractLsb' 32 32) d.tbs.nextLatch } },
    n.extractLsb' 0 32)

/-- A master's latch of an alarm's NEXTH. -/
def Dev.readNexth (d : Dev) (uid a : Nat) : Word := amapGet 0 d.tbs.nextLatch (4 * uid + a)

/-! ### Watchdogs -/

/-- A watchdog that has never been loaded. -/
def Wd.idle : Wd := ⟨0, false, false⟩

/-- A watchdog loaded with a count (R397). -/
def Wd.load (t : Nat) : Wd := ⟨t, false, false⟩

/-- A watchdog n ticks on; at 0 it stays (R397). -/
def Wd.run (w : Wd) (n : Nat) : Wd := { w with left := w.left - n }

/-- The watchdog of engine n. -/
def Dev.wde (d : Dev) (n : Nat) : Wd := amapGet Wd.idle d.tbs.wde n

/-- The watchdog of engine n changed. -/
def Dev.setWde (d : Dev) (n : Nat) (w : Wd) : Dev := { d with tbs := { d.tbs with wde := amapSet Wd.idle n w d.tbs.wde } }

/-- WDEn is loaded with PERIOD (R397). -/
def Dev.wdeLoad (d : Dev) (n : Nat) : Dev := d.setWde n (.load (d.get (TBS_WDE_CTL_PERIOD n) * 1024))

/-- WDEn is reloaded if it counts: a kick or a reset (R397, R401). -/
def Dev.wdeReload (d : Dev) (n : Nat) : Dev := if d.flag (TBS_WDE_CTL_EN n) then d.wdeLoad n else d

/-- A write of WDE[n].CTL whose EN was as given (R397). -/
def Dev.wdeCtl (d : Dev) (n : Nat) (wasEn : Bool) : Dev :=
  if !d.flag (TBS_WDE_CTL_EN n) then d.setWde n .idle
  else if wasEn then d
  else d.wdeLoad n

/-- An engine is released from a debugger's halt (R398): its watchdog resumes from the larger of its value and GRACE; an expired one stays
at 0 (R397). -/
def Dev.wdeGrace (d : Dev) (n : Nat) : Dev :=
  let w := d.wde n
  if d.flag (TBS_WDE_CTL_EN n) && !w.spent then d.setWde n { w with left := max w.left (d.get TBS_GRACE_UNITS * 1024) } else d

/-- The ticks of a millisecond (R396). -/
def msTicks : Nat := 32768

/-- WDP's remaining count stands at or below its warning level, for the first time since its load (R399). -/
def Dev.wdpWarnDue (d : Dev) : Bool :=
  d.flag TBS_WDPCTL_EN && d.flag TBS_WDPWARN_MS && !d.tbs.wdp.warned && d.tbs.wdp.left ≤ d.get TBS_WDPWARN_MS * msTicks

/-- WDP's warning is given (R399). -/
def Dev.wdpWarn (d : Dev) : Dev :=
  if d.wdpWarnDue then
    ({ d with tbs := { d.tbs with wdp := { d.tbs.wdp with warned := true } } }).on TBS_ISTAT_WDPW
  else d

/-- WDP is loaded with PERIOD; a count loaded at or below the warning level warns at once (R397, R399). -/
def Dev.wdpLoad (d : Dev) : Dev :=
  ({ d with tbs := { d.tbs with wdp := .load (d.get TBS_WDPCTL_PERIOD * msTicks) } }).wdpWarn

/-- WDP is reloaded by a kick, if it counts (R397). -/
def Dev.wdpReload (d : Dev) : Dev := if d.flag TBS_WDPCTL_EN then d.wdpLoad else d

/-- WDC is loaded with PERIOD (R354, R397). -/
def Dev.wdcLoad (d : Dev) : Dev := { d with tbs := { d.tbs with wdc := .load (d.get CUR_WDCTL_PERIOD * msTicks) } }

/-- WDC is reloaded by a kick, if it counts (R354, R397). -/
def Dev.wdcReload (d : Dev) : Dev := if d.flag CUR_WDCTL_EN then d.wdcLoad else d

/-- Whole milliseconds left on a watchdog that counts. -/
def wdMs (en : Bool) (w : Wd) : Nat := if en then w.left / msTicks else 0

/-! ### Time passing -/

/-- An edge of the 32 kHz reference: C increases by one and F becomes 0 (R387); with HFOSC locked F counts from then on (R388). -/
def Dev.refEdge (d : Dev) : Dev :=
  { d with tbC := d.tbC + 1, tbF := 0
           tbs := { d.tbs with fine := d.tbs.hfosc && d.flag TBS_STAT_LOCK, late := false } }

/-- The edge comes one fine cycle off the exact one: early where F stands at 998, late where it stands at 999. A locked FLL keeps F within one
count of exact, and which of the three an edge is, is free (R387). -/
def Dev.edgeOff (d : Dev) : Bool := (Config.free d.fresh).getLsbD 0

/-- One fine-clock cycle, or one 32 kHz edge while F does not count (R387, R388): the device and the ticks the timebase passed. -/
def Dev.clockTick (d : Dev) : Dev × Nat :=
  if d.tbs.fine then
    if d.tbF < 998 then ({ d with tbF := d.tbF + 1 }, 1)
    else if d.tbF = 998 then
      if d.edgeOff then (d.tick1.refEdge, 2) else ({ d.tick1 with tbF := 999 }, 1)
    else if d.tbs.late || !d.edgeOff then (d.tick1.refEdge, 1)
    else ({ d.tick1 with tbs := { d.tbs with late := true } }, 0)
  else (d.refEdge, 1000)

/-- The watchdogs n ticks on (R396, R398, R400): halted names the engines a debugger has halted, wdcStop that WDC is paused by
a halt of the curator. -/
def Dev.wdRun (d : Dev) (n : Nat) (halted : Nat → Bool) (wdcStop : Bool) : Dev :=
  let asleep := d.asleep
  let off := d.pwr.parked || d.get PWR_STAT_STATE == 4
  let wde := if asleep then d.tbs.wde else
    d.tbs.wde.map fun p => if d.flag (TBS_WDE_CTL_EN p.1) && !halted p.1 then (p.1, p.2.run n) else p
  let wdc := if asleep || wdcStop || !d.flag CUR_WDCTL_EN then d.tbs.wdc else d.tbs.wdc.run n
  let wdp := if off || !d.flag TBS_WDPCTL_EN || (asleep && !d.flag TBS_WDPCTL_SLEEP) then d.tbs.wdp else d.tbs.wdp.run n
  { d with tbs := { d.tbs with wde := wde.filter fun p => p.2 != Wd.idle, wdc := wdc, wdp := wdp } }

/-- HFOSC is switched off: F holds until the next edge, and the derived clocks stop (R376, R388). -/
def Dev.hfoscStop (d : Dev) : Dev :=
  ({ d with tbs := { d.tbs with hfosc := false, fine := false, late := false } }).off TBS_STAT_LOCK

/-- HFOSC is switched on; it runs unlocked until the FLL locks (R376). -/
def Dev.hfoscStart (d : Dev) : Dev := { d with tbs := { d.tbs with hfosc := true } }

/-- The serial, fine and PDM clocks run: HFOSC is locked (R376). -/
def Dev.clocksOn (d : Dev) : Bool := d.tbs.hfosc && d.flag TBS_STAT_LOCK

/-- A register lies in an island of the serial or the PDM clock (SP, PDM, GPIO, FSPI) and that clock is stopped (R375, R383). -/
def Dev.islandShut (d : Dev) (a : Nat) : Bool := [0x10, 0x11, 0x12, 0x15].contains (a / 0x10000) && !d.clocksOn

/-- Something waits at a crossing until the island's clock returns (R383). -/
def Dev.cross (d : Dev) (x : Crossing) : Dev := { d with crossing := d.crossing ++ [x] }

/-- The FLL locks HFOSC (R376). -/
def Dev.hfoscLock (d : Dev) : Dev := if d.tbs.hfosc then d.on TBS_STAT_LOCK else d

/-- Four LFRC periods without an XOSC edge: the reference switches to LFRC (R377). -/
def Dev.xtalFail (d : Dev) : Dev :=
  if d.get TBS_STAT_SRC = 0 then ((d.put TBS_STAT_SRC 1).put TBS_STAT_XTALOK 0).on TBS_ISTAT_XTALF else d

/-- 32,768 qualifying XOSC edges: the reference returns to XOSC (R377). -/
def Dev.xtalGood (d : Dev) : Dev :=
  if d.get TBS_STAT_SRC = 1 then (d.put TBS_STAT_SRC 0).put TBS_STAT_XTALOK 1 else d

/-! ### Resets -/

/-- The registers and state of ALM0, its NEXTH latches among them (R395); nothing of the other alarms' latches is kept. -/
def Dev.keepAlm0 (d old : Dev) : Dev :=
  let d := (List.range 4).foldl (fun (x : Dev) i => x.setWord (TBS_ALM_CMPL 0 + 4 * i) (old.word (TBS_ALM_CMPL 0 + 4 * i))) d
  { d.setAlarm 0 old.tbs.alarms[0] with
    tbs := { (d.setAlarm 0 old.tbs.alarms[0]).tbs with nextLatch := old.tbs.nextLatch.filter (·.1 % 4 == 0) } }

/-- TBS with every alarm and watchdog at rest. -/
def Tbs.rest : Tbs :=
  { alarms := Vector.replicate 4 ⟨0, 0⟩, wde := [], wdp := .idle, wdc := .idle, tblLatch := [], nextLatch := []
    hfosc := false, fine := false, late := false, pulse := none }

/-- A system or power-on reset of TBS: everything but the timebase, STAT and ALM0 (R395, R401). -/
def Dev.tbsReset (d : Dev) : Dev :=
  let stat := d.word TBS_STAT
  let r := { d with tbs := { Tbs.rest with hfosc := d.tbs.hfosc, fine := d.tbs.fine, late := d.tbs.late } }
  ((r.resetBlock 2).setWord TBS_STAT stat).keepAlm0 d

/-- A fabric reset reloads every engine watchdog that counts (R401). -/
def Dev.tbsFabricReset (d : Dev) : Dev := (List.range 64).foldl Dev.wdeReload d

end Sys2Proof.Machine
end

