-- ==== Sys2Proof/Machine/Rails.lean ====
section
/-! DEFINITION. Machine/Rails.lean: the wing rails as the device asks for them: the pace table (R26 to R30), the rails as they
stand (R31 to R33, R412, R418), the canaries (R23 to R25) and the rail sequencer of SP0 (R439 to R442). -/

namespace Sys2Proof.Machine

open Reg

/-- The worst pace a point may have (R26). -/
def paceLimit (i : Nat) : Nat :=
  [6820, 5300, 4120, 3480, 2940, 2490, 2100, 1780, 1500, 1390, 1250, 1140, 1020, 930, 860, 800].getD i 0

/-- The voltage of a table point in mV (R26, ADM.PTAB). -/
def Dev.pointMv (d : Dev) (w i : Nat) : Nat := d.get (ADM_PTAB_MV w i)

/-- The usable points of a wing, rising (R27, R29). -/
def Dev.usable (d : Dev) (w : Nat) : List Nat := (List.range 16).filter fun i => d.flag (ADM_PTAB_USABLE w i)

/-- The pace of a point (R27). -/
def Dev.ptabPace (d : Dev) (w i : Nat) : Nat := d.get (ADM_PTAB_PACE w i)

/-- The usable point nearest to a named one; of two equally near ones the lower (R29). -/
def nearestPoint (us : List Nat) (p : Nat) : Option Nat :=
  us.foldl (fun a u => match a with
    | none => some u
    | some b => if (max u p - min u p) < (max b p - min b p) then some u else some b) none

/-- The point used for a ceiling that a register names (R29): none where the wing has no usable point. -/
def Dev.ceilPoint (d : Dev) (w p : Nat) : Option Nat :=
  let us := d.usable w
  match (us.filter (· ≤ p)).getLast? with
  | some u => some u
  | none => nearestPoint us p

/-- The point used for a floor or an exit point that a register names (R29). -/
def Dev.floorPoint (d : Dev) (w p : Nat) : Option Nat :=
  let us := d.usable w
  match (us.filter (p ≤ ·)).head? with
  | some u => some u
  | none => nearestPoint us p

/-- Microseconds in ticks, rounded up (R255). -/
def usTicks (us : Nat) : Nat := (us * 32768 + 999) / 1000

/-- ADM.RAILLAT in ticks (R255). -/
def Dev.railLat (d : Dev) : Nat := usTicks (d.get ADM_RAILLAT_US)

/-- The wing numbers. -/
def wings : List (Fin 2) := [0, 1]

/-- The voltage a wing rail stands at in mV: while it rises, the lower end (R33). -/
def Dev.railMv (d : Dev) (w : Fin 2) : Nat :=
  let r := d.rails[w]
  if !r.on then 0
  else if d.tb < r.since + d.railLat then min r.lower r.mv
  else r.mv

/-- Engines of a wing can make progress: its rail is in the running range, and R418 does not count it below (R31, R418). -/
def Dev.wingRuns (d : Dev) (w : Fin 2) : Bool := 420 ≤ d.railMv w && !d.rails[w].bad

/-- The highest usable point at or below the rail's voltage (R30). -/
def Dev.railPoint (d : Dev) (w : Fin 2) : Option Nat :=
  ((d.usable w).filter fun i => d.pointMv w i ≤ d.railMv w).getLast?

/-- The tick of a rail's last change: when a rise has settled, its end (R255). -/
def Dev.railChanged (d : Dev) (w : Fin 2) : Nat :=
  let r := d.rails[w]
  if r.lower < r.mv && r.since + d.railLat ≤ d.tb then r.since + d.railLat else r.since

/-- A wing rail changed. -/
def Dev.setRail (d : Dev) (w : Fin 2) (r : Rail) : Dev := { d with rails := d.rails.set w r }

/-- The cabinets of a wing. -/
def cabsOf (w : Nat) : List Nat := (List.range 4).map (4 * w + ·)

/-- Every canary of a wing clears VALID and stops (R24). -/
def Dev.canaryStop (d : Dev) (w : Nat) : Dev := (cabsOf w).foldl (fun d k => d.off (CAB_PACE_VALID k)) d

/-- A canary reading of a cabinet (R24): SEQ counts, PACE saturates. -/
def Dev.canaryRead (d : Dev) (k ps : Nat) : Dev :=
  ((d.put (CAB_PACE_PACE k) (min ps 0xFFFF)).bump (CAB_PACE_SEQ k) 1).on (CAB_PACE_VALID k)

/-- The live pace of a wing, while every one of its cabinets shows VALID (R25, R265). -/
def Dev.livePace (d : Dev) (w : Nat) : Option Nat :=
  if (cabsOf w).all fun k => d.flag (CAB_PACE_VALID k) then
    some ((cabsOf w).foldl (fun m k => max m (d.get (CAB_PACE_PACE k))) 0)
  else none

/-! ### The rail sequencer -/

/-- The code sent for a voltage (R442). -/
def Dev.railCode (d : Dev) (mv : Nat) : Nat :=
  let base := d.get SP_RSEQMAP_BASE
  let q := d.get SP_RSEQMAP_STEPQ
  if mv ≤ base then 0 else min 255 (((mv - base) * 4 + q - 1) / q)

/-- A request takes the rail below 0.42 V or off (R24). -/
def RailAsk.lowers : RailAsk → Bool
  | .off => true
  | .retain => true
  | _ => false

/-- A request sets the voltage register, not the enable register (R439). -/
def RailAsk.isVolt : RailAsk → Bool
  | .retain => true
  | .point _ => true
  | _ => false

/-- RSEQST.KIND of a request. -/
def RailAsk.kind : RailAsk → Nat
  | .on => 1
  | .off => 2
  | _ => 0

/-- The voltage a request sets, in mV (R403, R439). -/
def Dev.askMv (d : Dev) (w : Fin 2) : RailAsk → Nat
  | .retain => 400
  | .point i => d.pointMv w i
  | _ => 0

/-- RSEQST shows a request as the last one made, and ADM.STAT the point last requested. -/
def Dev.showAsk (d : Dev) (r : RailReq) : Dev :=
  let d := (d.put SP_RSEQST_WING r.wing).put SP_RSEQST_KIND r.ask.kind
  match r.ask with
  | .point i => (d.put SP_RSEQST_POINT i).put (if r.wing = 0 then ADM_STAT_RAIL_W0 else ADM_STAT_RAIL_W1) i
  | _ => d

/-- RSEQST.BUSY follows the queue. -/
def Dev.showBusy (d : Dev) : Dev := d.put SP_RSEQST_BUSY (if d.rseq.isEmpty then 0 else 1)

/-- A request reaches the sequencer (R439, R441): it replaces a waiting one of its wing and register; while RSEQCTL.EN is 0 it
fails at once, and no write is sent. True where it failed. -/
def Dev.askRail (d : Dev) (r : RailReq) : Dev × Bool :=
  let d := d.showAsk r
  if !d.flag SP_RSEQCTL_EN then (d.on SP_RSEQST_FAIL, true)
  else
    let d := if r.ask.lowers then d.canaryStop r.wing else d
    let same (x : RailReq) : Bool := x.wing == r.wing && x.ask.isVolt == r.ask.isVolt
    let q := if d.rseq.any same then d.rseq.map fun x => if same x then r else x else d.rseq ++ [r]
    (({ d with rseq := q }).showBusy, false)

/-- The data byte of a request (R439, R442). -/
def Dev.askByte (d : Dev) (r : RailReq) : Nat :=
  match r.ask with
  | .on => d.get (SP_RSEQW_ENON r.wing)
  | .off => d.get (SP_RSEQW_ENOFF r.wing)
  | a => d.railCode (d.askMv r.wing a)

/-- The PMIC has taken a request: the rail changes (R31, R33, R411, R412), and a condition of R418 on the wing ends. A rail that
comes up counts from 0.42 V. -/
def Dev.railTaken (d : Dev) (r : RailReq) : Dev :=
  let x := d.rails[r.wing]
  let now := d.railMv r.wing
  let x := { x with bad := false }
  match r.ask with
  | .off => d.setRail r.wing { x with on := false, since := d.tb }
  | .on => if x.on then d.setRail r.wing x else d.setRail r.wing { x with on := true, lower := 420, since := d.tb }
  | a =>
    let mv := d.askMv r.wing a
    if x.on then d.setRail r.wing { x with mv := mv, lower := max now 420, since := d.tb }
    else d.setRail r.wing { x with mv := mv }

/-- The oldest waiting request is written to the PMIC (R440, R441): acked tells whether every byte was acknowledged, status is
the byte read from STATREG. The answer names the request and whether it failed. -/
def Dev.railWrite (d : Dev) (acked : Bool) (status : BitVec 8) : Dev × Option (RailReq × Bool) :=
  match d.rseq with
  | [] => (d, none)
  | r :: rest =>
    let d := (({ d with rseq := rest }).put SP_RSEQST_CODE (d.askByte r)).showBusy
    let fail := !acked || (d.flag SP_RSEQCTL_CHK && status.toNat &&& d.get SP_RSEQCTL_FMASK != 0)
    if fail then (d.on SP_RSEQST_FAIL, some (r, true)) else (d.railTaken r, some (r, false))

end Sys2Proof.Machine
end

