-- ==== Sys2Proof/Machine/Adm.lean ====
section
/-! DEFINITION. Machine/Adm.lean: the registrar (07_registrar_admission.md). Times are ticks. -/

namespace Sys2Proof.Machine

open Reg

/-- The registrar's part of the device changed. -/
def Dev.onAdm (d : Dev) (f : Adm → Adm) : Dev := { d with adm := f d.adm }

/-- The registrar at reset (R271). -/
def Adm.rest : Adm :=
  { proms := [], stage := [], waiting := [], staged := [], results := [], unready := 0, nextPid := 0, nextOrder := 0
    defer := [], checks := [] }

/-- The committed point of a wing (ADM.STAT). -/
def cmtFld (w : Fin 2) : Fld := if w = 0 then ADM_STAT_CMT_W0 else ADM_STAT_CMT_W1
/-- The point last requested for a wing. -/
def railFld (w : Fin 2) : Fld := if w = 0 then ADM_STAT_RAIL_W0 else ADM_STAT_RAIL_W1
/-- ISTAT.RAILF of a wing. -/
def railfFld (w : Fin 2) : Fld := if w = 0 then ADM_ISTAT_RAILF_W0 else ADM_ISTAT_RAILF_W1
/-- ISTAT.PACEV of a wing. -/
def pacevFld (w : Fin 2) : Fld := if w = 0 then ADM_ISTAT_PACEV_W0 else ADM_ISTAT_PACEV_W1

/-- The other wing. -/
def other (w : Fin 2) : Fin 2 := if w = 0 then 1 else 0

/-- The wing of engine n. -/
def engWing (n : Nat) : Fin 2 := if n < 32 then 0 else 1

/-- A wing whose rail has failed or whose pace was violated: no admission, no reclaim (R268). -/
def Dev.wingBad (d : Dev) (w : Fin 2) : Bool := d.flag (railfFld w) || d.flag (pacevFld w)

/-- OWN_REQ of engine n. -/
def Dev.ownReq (d : Dev) (n : Nat) : Bool := d.bit (ADM_OWN_OWN_REQ (n / 8)) (n % 8)

/-- OWN_EFF of engine n set or cleared. -/
def Dev.setOwned (d : Dev) (n : Nat) (v : Bool) : Dev := d.putBit (ADM_OWN_OWN_EFF (n / 8)) (n % 8) v

/-- STAT.OUT follows the outstanding promises. -/
def Dev.showOut (d : Dev) : Dev := d.put ADM_STAT_OUT d.adm.proms.length

/-! ### Costs and timelines -/

/-- The cost of a promise in ticks at a pace (R254): ceil((M × PACE × G / 100 + 1,500,000) / 30,517.578125), in integers. -/
def launchCost (m g pace : Nat) : Nat := ((m * pace * g + 150000000) * 16 + 48828124) / 48828125

/-- A waiting launch put in its place: earliest deadline first, ties by admission (R255). -/
def insertLaunch (x : Promise) : List Promise → List Promise
  | [] => [x]
  | y :: ys =>
    if x.req.deadline < y.req.deadline || (x.req.deadline == y.req.deadline && x.order < y.order) then x :: y :: ys
    else y :: insertLaunch x ys

/-- The timeline of a list of an engine's promises: the running launch, then the waiting ones (R255). -/
def timelineOf (ps : List Promise) : List Promise :=
  ps.filter (·.start.isSome) ++ (ps.filter (·.start.isNone)).foldr insertLaunch []

/-- The timeline of engine n. -/
def Dev.timeline (d : Dev) (n : Nat) : List Promise := timelineOf (d.adm.proms.filter (·.eng == n))

/-- What a timeline is tested under (R255): the time T, the pace of the point under test, the pace in force with the tick it
holds from, and T + RL where the rail stands below the point. -/
structure TestAt where
  t : Nat
  pace : Nat
  inForce : Option (Nat × Nat)
  rl : Option Nat

/-- The finish bound of the running launch (R255). -/
def TestAt.running (k : TestAt) (x : Promise) (s : Nat) : Nat :=
  let b2 := k.rl.getD k.t + launchCost x.m x.g k.pace
  match k.inForce with
  | some (pace, chg) => min (max s chg + launchCost x.m x.g pace) b2
  | none => b2

/-- The finish bound of a launch that starts at s (R255). -/
def TestAt.later (k : TestAt) (x : Promise) (s : Nat) : Nat :=
  match k.rl with
  | some t1 =>
    if s < t1 then
      let b2 := t1 + launchCost x.m x.g k.pace
      match k.inForce with
      | some (pace, _) => min (s + launchCost x.m x.g pace) b2
      | none => b2
    else s + launchCost x.m x.g k.pace
  | none => s + launchCost x.m x.g k.pace

/-- The launches of a timeline with their finish bounds; s is when the next one may start (R255). -/
def TestAt.finishes (k : TestAt) (s : Nat) : List Promise → List (Promise × Nat)
  | [] => []
  | x :: xs =>
    let f := match x.start with
      | some b => k.running x b
      | none => k.later x s
    (x, f) :: k.finishes f xs

/-- The completion margin of 2 µs (R255). -/
def margin : Nat := 66

/-- A launch with its finish bound is in time, with a delay added (R255, R265). -/
def inTime (delay : Nat) (x : Promise × Nat) : Bool := x.2 + delay + margin ≤ x.1.req.deadline

/-- A timeline fits (R255). -/
def TestAt.fits (k : TestAt) (tl : List Promise) : Bool := (k.finishes k.t tl).all (inTime 0)

/-- The pace in force on a wing and the tick of its last rail change (R255). -/
def Dev.inForce (d : Dev) (w : Fin 2) : Option (Nat × Nat) :=
  (d.railPoint w).map fun r => (d.ptabPace w r, d.railChanged w)

/-- The test at point i of a wing at time t; mult is 2 where the other wing is raised first (R255, R259). -/
def Dev.testAt (d : Dev) (w : Fin 2) (i t mult : Nat) : TestAt :=
  { t := t, pace := d.ptabPace w i, inForce := d.inForce w
    rl := if d.railMv w < d.pointMv w i then some (t + mult * d.railLat) else none }

/-- The engines of a wing. -/
def wingEngines (w : Fin 2) : List Nat := (List.range 32).map (32 * w.val + ·)

/-- The engines of a wing that hold promises. -/
def Dev.busyEngines (d : Dev) (w : Fin 2) : List Nat :=
  (wingEngines w).filter fun n => d.adm.proms.any (·.eng == n)

/-- Every timeline of a wing fits (R264). -/
def Dev.wingFits (d : Dev) (w : Fin 2) (k : TestAt) : Bool := (d.busyEngines w).all fun n => k.fits (d.timeline n)

/-! ### Rail requests -/

/-- The registrar requests a usable point (R29) while EN_EFF is 1; one that fails at once is reported by RAILF alone (R264, R268, R441). -/
def Dev.admAsk (d : Dev) (w : Fin 2) (i : Nat) : Dev :=
  if d.flag ADM_CTL_EN_EFF && d.flag (ADM_PTAB_USABLE w i) then
    let (d, failed) := d.askRail ⟨w, .point (Fin.ofNat 16 i), .registrar⟩
    if failed then
      (d.on (railfFld w)).onAdm fun a =>
        { a with proms := a.proms.map fun x => if engWing x.eng = w then { x with railf := true } else x }
    else d
  else d

/-- The wing's effective ceiling as R29 takes it. -/
def Dev.effCeil (d : Dev) (w : Fin 2) : Option Nat := d.ceilPoint w (d.get (ADM_VCEIL_VCEIL_EFF w))

/-- The admission ceiling as R29 takes it (R266). -/
def Dev.admCeil (d : Dev) (w : Fin 2) : Option Nat :=
  d.ceilPoint w (min (d.get (ADM_VCEIL_VCEIL_REQ w)) (d.get (ADM_VCEIL_VCEIL_EFF w)))

/-- A rail failure or a pace violation on a wing, with the bit it sets (R268): promises are marked, VCEIL_EFF is requested. -/
def Dev.railTrouble (d : Dev) (w : Fin 2) (f : Fld) : Dev :=
  let d := (d.on f).onAdm fun a =>
    { a with proms := a.proms.map fun x => if engWing x.eng = w then { x with railf := true } else x }
  match d.effCeil w with
  | some i => d.admAsk w i
  | none => d

/-- A raise of wing w for which its other wing goes first: w follows RAILLAT later (R259). -/
def Dev.raisePair (d : Dev) (w : Fin 2) : Dev :=
  let v := other w
  let k := d.get (cmtFld v)
  let d := if d.get (railFld v) < k then d.admAsk v k else d
  d.onAdm fun a => { a with defer := (a.defer.filter (·.1 != w)) ++ [(w, d.tb + d.railLat)] }

/-- Raises whose RAILLAT has passed are requested (R259). -/
def Dev.runDefer (d : Dev) : Dev :=
  let due := d.adm.defer.filter (·.2 ≤ d.tb)
  due.foldl (fun d x => if d.get (cmtFld x.1) = d.get (railFld x.1) then d else d.admAsk x.1 (d.get (cmtFld x.1)))
    (d.onAdm fun a => { a with defer := a.defer.filter (fun x => !(x.2 ≤ d.tb)) })

/-! ### Committed points -/

/-- A promise of the wing needs the cross-wing floor (R259). -/
def Dev.crossOn (d : Dev) (w : Fin 2) : Bool := d.adm.proms.any fun x => x.cross && engWing x.eng == w

/-- The committed point of a wing before cross-wing floors (R264). A point at which its promises need the other wing raised is tested with
twice RAILLAT, and that wing's ceiling must allow it (R259). -/
def Dev.wantPoint (d : Dev) (w : Fin 2) : Nat :=
  match d.effCeil w with
  | none => d.get (cmtFld w)
  | some ce =>
    let fl := min ((d.floorPoint w (d.get (ADM_VFLOOR_POINT w))).getD 0) ce
    let pts := (d.usable w).filter fun i => fl ≤ i && i ≤ ce
    let v := other w
    let raise (i : Nat) : Bool := d.crossOn w && d.get (cmtFld v) < i
    let may (i : Nat) : Bool := !raise i || (d.usable v).any fun u => i ≤ u && u ≤ (d.effCeil v).getD 15
    match pts.find? fun i => may i && d.wingFits w (d.testAt w i d.tb (if raise i then 2 else 1)) with
    | some i => i
    | none => pts.getLast?.getD ce

/-- The point a wing is held at for the other wing's promises (R259). -/
def Dev.floored (d : Dev) (w : Fin 2) (mine others : Nat) : Nat :=
  if d.crossOn (other w) && mine < others then
    match ((d.usable w).filter fun u => others ≤ u && u ≤ (d.effCeil w).getD 15).head? with
    | some u => u
    | none => mine
  else mine

/-- A wing moves to its committed point: while its rail is in trouble it is not lowered (R268). -/
def Dev.moveTo (d : Dev) (w : Fin 2) (i : Nat) : Dev :=
  let rail := d.get (railFld w)
  let d := d.put (cmtFld w) i
  if i = rail || (d.wingBad w && i < rail) then d
  else d.admAsk w i

/-- VCEIL_EFF falls to VCEIL_REQ once the committed point allows (R266). -/
def Dev.ceilSeam (d : Dev) (w : Fin 2) : Dev :=
  let req := d.get (ADM_VCEIL_VCEIL_REQ w)
  if req < d.get (ADM_VCEIL_VCEIL_EFF w) && d.get (cmtFld w) ≤ req then d.put (ADM_VCEIL_VCEIL_EFF w) req else d

/-- The committed points are recomputed (R264, R266). Where a raise needs the other wing raised too, that wing goes first; where both fall,
the wing whose promises hold the other one up falls first (R259). -/
def Dev.recompute (d : Dev) : Dev :=
  let a := d.wantPoint 0
  let b := d.wantPoint 1
  let a' := d.floored 0 a b
  let b' := d.floored 1 b a
  let up0 := d.get (cmtFld 0) < a' && b' != b && d.get (railFld 1) < b'
  let up1 := d.get (cmtFld 1) < b' && a' != a && d.get (railFld 0) < a'
  let d :=
    if d.crossOn 0 && up0 then ((d.put (cmtFld 0) a').put (cmtFld 1) b').raisePair 0
    else if d.crossOn 1 && up1 then ((d.put (cmtFld 0) a').put (cmtFld 1) b').raisePair 1
    else if d.crossOn 1 then (d.moveTo 1 b').moveTo 0 a'
    else (d.moveTo 0 a').moveTo 1 b'
  (d.ceilSeam 0).ceilSeam 1

/-- The lowest point R265 lets a wing be held at, if reclaim may act on it: conditions 1 and 2 of R265, and the floors of
R264. -/
def Dev.reclaimPoint (d : Dev) (w : Fin 2) : Option Nat :=
  match d.livePace w, d.railPoint w with
  | some l, some r =>
    let k := d.get (cmtFld w)
    let fl := (d.floorPoint w (d.get (ADM_VFLOOR_POINT w))).getD 0
    let crossFl := if d.crossOn (other w) then d.get (cmtFld (other w)) else 0
    let late := d.railLat + usTicks 10
    let two := (d.busyEngines w).all fun n =>
      let t : TestAt := { t := d.tb, pace := d.ptabPace w k, inForce := d.inForce w, rl := none }
      (t.finishes d.tb (d.timeline n)).all (inTime late)
    if two then
      (d.usable w).find? fun j =>
        fl ≤ j && crossFl ≤ j && j ≤ k &&
          (d.busyEngines w).all fun n =>
            let pace := (d.ptabPace w j * l + d.ptabPace w r - 1) / d.ptabPace w r
            let t : TestAt := { d.testAt w j d.tb 1 with pace := pace, inForce := some (pace, d.railChanged w) }
            t.fits (d.timeline n)
    else some k
  | _, _ => none

/-- Slack reclaim of a wing (R265): with CTL.RECLAIM, the rail goes to the lowest point that meets both conditions, K_w at
worst. -/
def Dev.reclaim (d : Dev) (w : Fin 2) : Dev :=
  if d.flag ADM_CTL_RECLAIM && d.flag ADM_CTL_EN_EFF && !d.wingBad w && !(d.adm.defer.any (·.1 == w)) then
    let j := (d.reclaimPoint w).getD (d.get (cmtFld w))
    if j = d.get (railFld w) then d else d.admAsk w j
  else d

/-! ### Requests -/

/-- A request enters the input stage, or is held back while it is full (R253). -/
def Dev.submit (d : Dev) (r : Request) : Dev :=
  d.onAdm fun a =>
    if a.stage.length < 4 && a.waiting.isEmpty then { a with stage := a.stage ++ [r] }
    else { a with waiting := a.waiting ++ [r] }

/-- A submitter's result word (R252). -/
def Dev.subResult (d : Dev) (uid : Nat) : Word := amapGet 0 d.adm.results uid

/-- A submitter's result word set. -/
def Dev.setResult (d : Dev) (uid : Nat) (w : Word) : Dev := d.onAdm fun a => { a with results := amapSet 0 uid w a.results }

/-- The staged words of a submitter (R251), by word number from SUB_PROF on. -/
def Dev.stagedWords (d : Dev) (uid : Nat) : List (Nat × Word) := amapGet [] d.adm.staged uid

/-- A staged word. -/
def Dev.stagedWord (d : Dev) (uid i : Nat) : Word := amapGet 0 (d.stagedWords uid) i

/-- The request a submitter has staged, with its completion queue (R251). -/
def Dev.stagedRequest (d : Dev) (uid q : Nat) : Request :=
  let w := d.stagedWord uid
  { src := .queue uid q, prof := bits (w 0) 7 0, tag := w 1, deadline := (w 2).toNat + (w 3).toNat * 2 ^ 32
    bufs := [(w 4, w 5), (w 6, w 7)], args := (List.range 6).map fun i => w (8 + i), hostBuf := false }

/-- PEND of a result word (R252). -/
def subPend : Word := 0x40000000

/-- A write to the SUBMIT page at word i (R251, R252): ignored while PEND is 1. -/
def Dev.subWrite (d : Dev) (uid i : Nat) (v : Word) : Dev :=
  if (d.subResult uid).getLsbD 30 || 14 < i then d
  else if i = 14 then ((d.submit (d.stagedRequest uid (bits v 9 0))).setResult uid subPend)
  else d.onAdm fun a => { a with staged := amapSet [] uid (amapSet 0 i v (d.stagedWords uid)) a.staged }

/-- A read of SUB_RES: a final result is cleared (R252); a quiet read leaves it. -/
def Dev.subRead (d : Dev) (uid : Nat) : Dev × Word :=
  let w := d.subResult uid
  (if w.getLsbD 31 then d.setResult uid 0 else d, w)

/-! ### The admission test -/

/-- The engines a request may run on (R256 check 1). -/
def Dev.eligEngines (d : Dev) (p : Nat) : List Nat :=
  (List.range 64).filter fun n =>
    d.bit (ADM_CAT_SET_CABS p) (n / 8) && d.ownReq n && d.owned n && !(d.usable (engWing n)).isEmpty && !d.wingBad (engWing n)

/-- A buffer is placed as check 3 of R256 asks. -/
def Dev.placed (d : Dev) (b : Word × Word) : Bool :=
  let a := b.1.toNat
  let n := b.2.toNat
  if n = 0 then true
  else if a / 0x1000000 == 1 then
    a % 0x1000000 + n ≤ 0x1000000 &&
      (List.range 16).all fun h =>
        !((a % 0x1000000) / 0x100000 ≤ h && h ≤ (a % 0x1000000 + n - 1) / 0x100000)
          || !(d.bit GAL_PGATE_GH_REQ h || d.bit GAL_PGATE_GH_EFF h)
  else a / 0x1000000 == 2 && a % 0x1000000 + n ≤ 0x200000

/-- The wing of an array address in bank 0x01 or 0x02 (R4). -/
def addrWing (a : Nat) : Fin 2 :=
  if a / 0x1000000 == 1 then engWing (8 * (a / 0x200000 % 8)) else engWing (a % 0x200000 / 0x8000)

/-- A promise of a profile on a wing needs a cross-wing floor (R259). -/
def Dev.needsCross (d : Dev) (r : Request) (w : Fin 2) : Bool :=
  d.get (ADM_CAT_SET_GACC r.prof) != 0
    || r.bufs.any fun b => b.2 != 0 && (addrWing b.1.toNat != w || addrWing (b.1.toNat + b.2.toNat - 1) != w)

/-- A cell can be reserved on a queue through the registrar's port, under R215 and R214 (R246, R258). -/
def Dev.canReserve (d : Dev) (q : Nat) : Bool :=
  q < 1024 && d.queueOn q && !d.flag (DPT_QCFG_LERR q) && d.held q + 1 ≤ d.get (DPT_QLIM_QUOTA q)
    && 1 + cellReserve q ≤ d.freeCells

/-- The promise a request would become on engine n. -/
def Dev.newPromise (d : Dev) (r : Request) (n : Nat) : Promise :=
  { pid := d.adm.nextPid, req := r, entry := d.word (ADM_CAT_ENTRY r.prof), m := d.get (ADM_CAT_MARKS_MARKS r.prof) + d.get ADM_STUB_MARKS
    g := d.get ADM_GUARD_PCT, eng := n, order := d.adm.nextOrder, admAt := d.tb, start := none, result := 0
    cross := d.needsCross r (engWing n), therm := d.flag ADM_THERM_ACTIVE, railf := false }

/-- The finish of the new launch on engine n at a test, if that engine's timeline fits with it. -/
def Dev.tryOn (d : Dev) (r : Request) (k : TestAt) (n : Nat) : Option Nat :=
  let x := d.newPromise r n
  let fs := k.finishes k.t (timelineOf (d.adm.proms.filter (·.eng == n) ++ [x]))
  if fs.all (inTime 0) then (fs.find? fun f => f.1.order == x.order).map (·.2) else none

/-- The earlier finish; ties go to the lower engine (R257). -/
def betterFit (a : Option (Nat × Nat)) (b : Nat × Nat) : Option (Nat × Nat) :=
  match a with
  | none => some b
  | some a => if b.1 < a.1 || (b.1 == a.1 && b.2 < a.2) then some b else some a

/-- The best of a list of engines at a test: finish and engine. -/
def Dev.bestOn (d : Dev) (r : Request) (k : TestAt) (ns : List Nat) : Option (Nat × Nat) :=
  ns.foldl (fun a n => match d.tryOn r k n with | some f => betterFit a (f, n) | none => a) none

/-- The stage-1 point of a wing (R257). -/
def Dev.stagePoint (d : Dev) (w : Fin 2) : Option Nat :=
  match d.admCeil w with
  | none => none
  | some ce =>
    let k := d.get (cmtFld w)
    if k ≤ ce then some k else ((d.usable w).filter (· ≤ ce)).getLast?

/-- What a fit at a point brings: finish, engine, the wing's point, 16 where it keeps the one it has, and the other wing's where that wing is
raised too. -/
structure Fit where
  finish : Nat
  eng : Nat
  point : Nat
  also : Option Nat

/-- Stage 1 of the search on a wing (R257): the best engine at the stage-1 point. A promise whose cross-wing floor the other wing is below
is tested with twice RAILLAT, and raises that wing (R259). -/
def Dev.stageOne (d : Dev) (r : Request) (elig : List Nat) (w : Fin 2) : Option Fit :=
  match d.stagePoint w with
  | none => none
  | some s =>
    let v := other w
    let raise := d.needsCross r w && d.get (cmtFld v) < d.get (cmtFld w)
    let j := ((d.usable v).filter (d.get (cmtFld w) ≤ ·)).head?
    if raise && j.isNone then none
    else
      (d.bestOn r (d.testAt w s d.tb (if raise then 2 else 1)) (elig.filter fun n => engWing n == w)).map fun b =>
        { finish := b.1, eng := b.2, point := 16, also := if raise then j else none }

/-- Stage 2 at one point of one wing (R257, R259): the best engine of a wing all of whose timelines fit. -/
def Dev.stageTwo (d : Dev) (r : Request) (elig : List Nat) (w : Fin 2) (i : Nat) : Option Fit :=
  let v := other w
  let cross := d.needsCross r w || d.crossOn w
  let raise := cross && d.get (cmtFld v) < i
  let j := ((d.usable v).filter (i ≤ ·)).head?
  if raise && j.isNone then none
  else
    let k := d.testAt w i d.tb (if raise then 2 else 1)
    let bad := (d.busyEngines w).filter fun n => !k.fits (d.timeline n)
    let ns := elig.filter fun n => engWing n == w && bad.all (· == n)
    match d.bestOn r k ns with
    | some (f, n) => some { finish := f, eng := n, point := i, also := if raise then j else none }
    | none => none

/-- A fit lies within the admission ceilings (R257, R259); a wing that keeps its point does. -/
def Dev.underCeil (d : Dev) (f : Fit) : Bool :=
  let w := engWing f.eng
  (f.point == 16 || f.point ≤ (d.admCeil w).getD 0)
    && match f.also with
      | some j => j ≤ (d.admCeil (other w)).getD 0
      | none => true

/-- The better fit of two at one voltage (R257). -/
def bestFit (a : Option Fit) (b : Fit) : Option Fit :=
  match a with
  | none => some b
  | some a => if b.finish < a.finish || (b.finish == a.finish && b.eng < a.eng) then some b else some a

/-- The fits of stage 2 at point i, on the wings for which it lies above the stage-1 point. -/
def Dev.fitsAt (d : Dev) (r : Request) (elig : List Nat) (i : Nat) : List Fit :=
  wings.filterMap fun (w : Fin 2) =>
    if d.flag (ADM_PTAB_USABLE w i) && (match d.stagePoint w with | some s => s < i | none => true)
    then d.stageTwo r elig w i else none

/-- The search of R257: an engine with the points it raises, or a refusal code. -/
def Dev.searchFit (d : Dev) (r : Request) (elig : List Nat) : Fit ⊕ Nat :=
  let here := wings.filterMap fun w => d.stageOne r elig w
  match (here.filter d.underCeil).foldl bestFit none with
  | some f => .inl f
  | none =>
    let all := (List.range 16).map (d.fitsAt r elig)
    match all.findSome? fun fs => (fs.filter d.underCeil).foldl bestFit none with
    | some f => .inl f
    | none => .inr (if !here.isEmpty || all.any (fun fs => !fs.isEmpty) then 2 else 1)

/-- The checks of R256 in their order: a fit, or the refusal code of R263. -/
def Dev.admTest (d : Dev) (r : Request) : Fit ⊕ Nat :=
  let p := r.prof
  let elig := d.eligEngines p
  let quotaOk := match r.src with
    | .queue _ q => d.canReserve q
    | .ring _ _ => true
  if !(d.flag ADM_CTL_EN_REQ && d.flag ADM_CTL_EN_EFF) || d.flag ADM_STAT_ENTRY || elig.isEmpty then .inr 6
  else if !(d.flag (ADM_CAT_CTL_STATE_REQ p) && d.flag (ADM_CAT_CTL_STATE_EFF p)) then .inr 3
  else if r.hostBuf || !r.bufs.all d.placed then .inr 4
  else if 4096 ≤ d.adm.proms.length || !quotaOk then .inr 7
  else
    let early := elig.any fun n =>
      let w := engWing n
      let x := d.newPromise r n
      d.tb + launchCost x.m x.g (d.ptabPace w ((d.usable w).getLast?.getD 15)) + margin ≤ r.deadline
    if !early then .inr 5 else d.searchFit r elig

/-! ### Launch records and completions -/

/-- A queue's reserved launch cell taken back from its record: the record is withdrawn (R261, R271). -/
def Chip.withdraw (s : Chip) (n : Nat) : Chip :=
  let q := 16 + n
  let x := s.dev.queue q
  match (x.items.filter (·.launch)).map DItem.live |>.flatten with
  | [] => s
  | c :: rest =>
    (s.withThr q fun s => s.onDev fun d => d.setQueue q
      { x with items := x.items.filter (!·.launch), cursor := ⟨0, 0⟩, mark := ⟨0, 0⟩, known := [], staged := none
               standing := some c }).freeCellsOf rest

/-- The words of a launch record (R248). -/
def launchWords (x : Promise) : List Word :=
  let b (i : Nat) : Word × Word := x.req.bufs.getD i (0, 0)
  [BitVec.ofNat 32 x.pid, x.entry, (b 0).1, (b 0).2, (b 1).1, (b 1).2] ++ x.req.args

/-- The next launch of an owned engine starts: its record is sealed into the reserved cell (R246, R248). -/
def Chip.dispatch (s : Chip) (n : Nat) : Chip :=
  if s.dev.owned n && !s.dev.adm.unready.getLsbD n then
    match s.dev.timeline n, (s.dev.queue (16 + n)).standing with
    | x :: _, some c =>
      if x.start.isSome then s
      else
        let q := 16 + n
        let s := s.onDev fun d => d.onAdm fun a =>
          { a with proms := a.proms.map fun y => if y.order = x.order then { y with start := some d.tb } else y }
        s.withThr q fun s =>
          (s.onDev fun d => d.setQueue q { d.queue q with standing := none }).seal q x.req.prof (launchWords x) [c] true
    | _, _ => s
  else s

/-- The words of a completion item (R263). -/
def completionWords (x : Promise) (status reason finish : Nat) (result : Word) : List Word :=
  [x.req.tag, BitVec.ofNat 32 (status + reason * 256 + 0x10000 * x.eng + 0x1000000 * (x.eng / 8)),
   BitVec.ofNat 32 x.admAt, BitVec.ofNat 32 (x.admAt / 2 ^ 32), BitVec.ofNat 32 finish, BitVec.ofNat 32 (finish / 2 ^ 32),
   result, BitVec.ofNat 32 x.pid]

/-- A promise's completion record is written: into its reserved cell, or handed to the ring engine (R260, R263). -/
def Chip.complete (s : Chip) (x : Promise) (status reason : Nat) (result : Word) : Chip :=
  match x.req.src with
  | .queue _ q =>
    match (s.dev.queue q).compl with
    | c :: rest =>
      s.withThr q fun s =>
        (s.onDev fun d => d.setQueue q { d.queue q with compl := rest }).seal q x.req.prof
          (completionWords x status reason s.dev.tb result) [c] false
    | [] => s
  | .ring sq slot =>
    s.onDev fun d => { d with todo := d.todo ++ [.ringEnd sq slot status reason x.eng x.admAt d.tb result] }

/-- The seam of a profile's unload (R245). -/
def Dev.profSeam (d : Dev) (p : Nat) : Dev :=
  if !d.flag (ADM_CAT_CTL_STATE_REQ p) && !d.adm.proms.any (·.req.prof == p) then d.off (ADM_CAT_CTL_STATE_EFF p) else d

/-- ADM.CTL.EN_EFF falls when no promise is outstanding. -/
def Dev.admSeam (d : Dev) : Dev :=
  if !d.flag ADM_CTL_EN_REQ && d.adm.proms.isEmpty then d.off ADM_CTL_EN_EFF else d

/-- Ownership of an engine ends: a record still there is withdrawn and the standing cell returns to the pool (R246, R271). -/
def Chip.disown (s : Chip) (n : Nat) : Chip :=
  let s := s.withdraw n
  let s := s.withThr (16 + n) fun s =>
    match (s.dev.queue (16 + n)).standing with
    | some c => (s.onDev fun d => d.setQueue (16 + n) { d.queue (16 + n) with standing := none }).freeCell c
    | none => s
  s.onDev (·.setOwned n false)

/-- The 1-to-0 seam of ownership: an empty timeline (R246). -/
def Chip.ownSeam (s : Chip) (n : Nat) : Chip :=
  if s.dev.owned n && !s.dev.ownReq n && (s.dev.timeline n).isEmpty then s.disown n else s

/-- A promise ends: it leaves its timeline, its record is written, and what waited on it moves on (R245, R246, R264). -/
def Chip.retire (s : Chip) (x : Promise) (status reason : Nat) (result : Word) : Chip :=
  let s := s.onDev fun d => (d.onAdm fun a => { a with proms := a.proms.filter (·.order != x.order) }).showOut
  let s := s.complete x status reason result
  (s.ownSeam x.eng).onDev fun d => ((d.profSeam x.req.prof).admSeam)

/-- After a retirement the committed points are recomputed, reclaim acts, and the next launch starts (R248, R264, R265). -/
def Chip.afterEnd (s : Chip) (n : Nat) : Chip :=
  (s.onDev fun d => (d.recompute).reclaim (engWing n)).dispatch n

/-- A breach is recorded (R260 to R263). -/
def Chip.breach (s : Chip) (x : Promise) (reason : Nat) : Chip :=
  let s := s.onDev fun d =>
    ((((d.on ADM_ISTAT_BREACH).put ADM_LASTB_REASON reason).put ADM_LASTB_ENG x.eng).put ADM_LASTB_PID x.pid).bumpSat
      (ADM_CNT_COUNT 9) 1 0xFFFFFFFF
  s.retire x 2 reason 0

/-- Breaches of a list of promises. -/
def Chip.breachAll (s : Chip) (xs : List Promise) (reason : Nat) : Chip := xs.foldl (fun s x => s.breach x reason) s

/-- The reason of an overrun breach (R262). -/
def Promise.overReason (x : Promise) : Nat := if x.therm then 4 else if x.railf then 3 else 1

/-- A launch that has not written DONE by its deadline less 66 ticks (R261). -/
def Dev.overdue (d : Dev) (x : Promise) : Bool := x.req.deadline ≤ d.tb + margin

/-- A deadline breach (R261, R262): a running launch's engine is reset. -/
def Chip.deadlineBreach (s : Chip) (x : Promise) : Chip :=
  let run := x.start.isSome
  let s := s.breach x x.overReason
  if run then
    s.onDev fun d => { d with todo := d.todo ++ [.engineReset (Fin.ofNat 64 x.eng) 0x0B], adm := { d.adm with unready := d.adm.unready ||| (1#64 <<< x.eng) } }
  else s.afterEnd x.eng

/-- The running launch of engine n. -/
def Dev.running (d : Dev) (n : Nat) : Option Promise := d.adm.proms.find? fun x => x.eng == n && x.start.isSome

/-- The running engine sets FRF or WDX (R261): its launch is breached, and the registrar resets it. -/
def Chip.engineFault (s : Chip) (n : Nat) : Chip :=
  match s.dev.running n with
  | some x =>
    if s.dev.owned n then
      (s.breach x 2).onDev fun d =>
        { d with todo := d.todo ++ [.engineReset (Fin.ofNat 64 n) 0x0B], adm := { d.adm with unready := d.adm.unready ||| (1#64 <<< n) } }
    else s
  | none => s

/-- What the registrar does at a per-engine reset (R246, R261): the 0-to-1 seam; a running launch is breached; a sealed record is
withdrawn, and the stub is not ready. -/
def Chip.admEngineReset (s : Chip) (n : Nat) : Chip :=
  let s :=
    if s.dev.ownReq n && !s.dev.owned n then
      if s.dev.canReserve (16 + n) then
        let (d, c) := s.dev.takeCell
        { s with dev := (d.setQueue (16 + n) { d.queue (16 + n) with standing := some c }).setOwned n true }
      else s.onDev (·.on ADM_ISTAT_OWNERR)
    else s
  let s := match s.dev.running n with
    | some x => s.breach x 2
    | none => s
  if s.dev.owned n then
    (s.withdraw n).onDev fun d => (d.onAdm fun a => { a with unready := a.unready ||| (1#64 <<< n) }).recompute
  else s

/-- The stub is ready again (R261): launches that no longer fit are breached, and the next one starts. -/
def Chip.stubReady (s : Chip) (n : Nat) : Chip :=
  if s.dev.adm.unready.getLsbD n then
    let s := s.onDev (·.onAdm fun a => { a with unready := a.unready &&& ~~~(1#64 <<< n) })
    let w := engWing n
    let k := s.dev.testAt w (s.dev.get (cmtFld w)) s.dev.tb 1
    let late := ((k.finishes k.t (s.dev.timeline n)).filter (!inTime 0 ·)).map (·.1)
    (s.breachAll late 2).afterEnd n
  else s

/-- A write of RESULT by a master (R250). -/
def Dev.admResult (d : Dev) (uid : Nat) (v : Word) : Dev :=
  let n := uid - 0x40
  if 0x40 ≤ uid && uid < 0x80 && d.owned n then
    d.onAdm fun a => { a with proms := a.proms.map fun x => if x.eng = n ∧ x.start.isSome then { x with result := v } else x }
  else d

/-- A write of DONE by a master (R250, R260, R263). -/
def Chip.admDone (s : Chip) (uid : Nat) (v : Word) : Chip :=
  let n := uid - 0x40
  if 0x40 ≤ uid && uid < 0x80 && s.dev.owned n then
    match s.dev.running n with
    | some x =>
      if bits v 11 0 = x.pid then
        let f := v.getLsbD 31
        let cause := min (bits v 23 16) 0x1F
        let s := s.onDev (·.bumpSat (ADM_CNT_COUNT (if f then 10 else 8)) 1 0xFFFFFFFF)
        (s.retire x (if f then 3 else 0) (if f then cause else 0) (if f then 0 else x.result)).afterEnd n
      else s
    | none => s
  else s

/-- The lowest promise ID at or after a number that no outstanding promise bears (fuel: the number of promises). -/
def freePid (used : List Nat) : Nat → Nat → Nat
  | 0, p => p
  | n + 1, p => if used.contains p then freePid used n ((p + 1) % 4096) else p

/-- A request's result is given to its source (R252, R256): a refusal of a ring request is its completion. -/
def Dev.decided (d : Dev) (r : Request) (reason : Nat) (x : Option Promise) : Dev :=
  match r.src with
  | .queue uid _ =>
    d.setResult uid (BitVec.ofNat 32 (match x with
      | some p => 0x80000000 + 0x10000 * p.eng + p.pid
      | none => 0x80000000 + 0x1000000 * reason))
  | .ring sq slot =>
    match x with
    | some _ => d
    | none => { d with todo := d.todo ++ [.ringEnd sq slot 1 reason 0 d.tb d.tb 0] }

/-- An admitted request: the promise, its reservation, the points it raises (R257 to R259), and its launch if the engine is
idle (R248). -/
def Chip.grant (s : Chip) (r : Request) (f : Fit) : Chip :=
  let s := match r.src with
    | .queue _ q =>
      let (d, c) := s.dev.takeCell
      { s with dev := d.setQueue q { d.queue q with compl := (d.queue q).compl ++ [c] } }
    | .ring _ _ => s
  let d := s.dev
  let pid := freePid (d.adm.proms.map (·.pid)) d.adm.proms.length d.adm.nextPid
  let x := { d.newPromise r f.eng with pid := pid }
  let d := (d.onAdm fun a =>
    { a with proms := a.proms ++ [x], nextPid := (pid + 1) % 4096, nextOrder := a.nextOrder + 1 }).showOut
  let d := (d.bumpSat (ADM_CNT_COUNT 0) 1 0xFFFFFFFF).decided r 0 (some x)
  let w := engWing f.eng
  let d :=
    let d := if f.point = 16 then d else d.put (cmtFld w) f.point
    match f.also with
    | some j => (d.put (cmtFld (other w)) j).raisePair w
    | none => if f.point = 16 then d else d.admAsk w f.point
  ({ s with dev := d }).dispatch f.eng

/-- The registrar decides the first request of its input stage (R253, R256). -/
def Chip.decide (s : Chip) : Chip :=
  match s.dev.adm.stage with
  | [] => s
  | r :: rest =>
    let s := s.onDev (·.onAdm fun a => { a with stage := rest ++ a.waiting.take 1, waiting := a.waiting.drop 1 })
    match s.dev.admTest r with
    | .inl f => s.grant r f
    | .inr reason => s.onDev fun d => (d.bumpSat (ADM_CNT_COUNT reason) 1 0xFFFFFFFF).decided r reason none

/-! ### Profiles, ownership, ceilings, thermal emergency -/

/-- A write of CAT[p].CTL whose STATE_REQ was as given (R245, R46). -/
def Dev.profWrite (d : Dev) (p : Nat) (wasReq : Bool) : Dev :=
  let req := d.flag (ADM_CAT_CTL_STATE_REQ p)
  if req && !wasReq then d.onAdm fun a => { a with checks := a.checks.filter (· != p) ++ [p] }
  else if !req && wasReq then (d.onAdm fun a => { a with checks := a.checks.filter (· != p) }).profSeam p
  else d

/-- The result of a profile's commit check (R245): 0 NONE, 1 PLACE, 2 CABS. -/
def Dev.profErr (d : Dev) (p : Nat) : Nat :=
  let b := (d.word (ADM_CAT_ENTRY p)).toNat / 0x1000000
  if 2 < b then 1 else if d.get (ADM_CAT_SET_CABS p) = 0 then 2 else 0

/-- A profile's commit check completes (R245). -/
def Dev.profCheck (d : Dev) (p : Nat) : Dev :=
  if d.adm.checks.contains p then
    let e := d.profErr p
    let d := (d.onAdm fun a => { a with checks := a.checks.filter (· != p) }).put (ADM_CAT_CTL_ERR p) e
    if e = 0 then d.on (ADM_CAT_CTL_STATE_EFF p) else d
  else d

/-- A write of ADM.OWN[c]: engines whose 1-to-0 seam is reached at once (R246). -/
def Chip.ownWrite (s : Chip) (c : Nat) : Chip := ((List.range 8).map (8 * c + ·)).foldl Chip.ownSeam s

/-- Without CTL.RECLAIM a rail does not stay below its committed point (R265). -/
def Dev.unreclaim (d : Dev) (w : Fin 2) : Dev :=
  if !d.flag ADM_CTL_RECLAIM && d.get (railFld w) < d.get (cmtFld w) && !(d.adm.defer.any (·.1 == w)) then
    d.admAsk w (d.get (cmtFld w))
  else d

/-- A write of ADM.CTL (EN_EFF rises at once; falls when no promise is outstanding). -/
def Dev.admCtl (d : Dev) : Dev :=
  if d.flag ADM_CTL_EN_REQ then
    if d.flag ADM_CTL_EN_EFF then (d.unreclaim 0).unreclaim 1 else (d.on ADM_CTL_EN_EFF).recompute
  else ((d.unreclaim 0).unreclaim 1).admSeam

/-- A write of VCEIL of a wing (R266); the override of a thermal emergency holds a raise back (R50, R267). -/
def Dev.ceilWrite (d : Dev) (w : Fin 2) : Dev :=
  let req := d.get (ADM_VCEIL_VCEIL_REQ w)
  let cap := if d.flag ADM_THERM_ACTIVE then d.get ADM_VTHERM_POINT else 15
  let d := if d.get (ADM_VCEIL_VCEIL_EFF w) < min req cap then d.put (ADM_VCEIL_VCEIL_EFF w) (min req cap) else d
  d.recompute

/-- The waiting launches of a timeline that must go for the rest of the waiting ones to fit: of those that fail, the one of latest deadline
first (R261, R267 step 4); fuel: the length of the timeline. -/
def TestAt.shed (k : TestAt) : Nat → List Promise → List Promise
  | 0, _ => []
  | n + 1, tl =>
    match ((k.finishes k.t tl).filter fun f => f.1.start.isNone && !inTime 0 f).getLast? with
    | some x => x.1 :: k.shed n (tl.filter (·.order != x.1.order))
    | none => []

/-- A wing at the start of a thermal emergency (R267 steps 1, 2 and 4). -/
def Chip.thermWing (s : Chip) (w : Fin 2) : Chip :=
  let d := s.dev
  let d := d.put (ADM_VCEIL_VCEIL_EFF w) (min (d.get (ADM_VCEIL_VCEIL_EFF w)) (d.get ADM_VTHERM_POINT))
  match d.effCeil w with
  | none => { s with dev := d }
  | some lim =>
    let down := lim < d.get (cmtFld w) || lim < d.get (railFld w)
    let k : TestAt :=
      if down then { t := d.tb, pace := d.ptabPace w lim, inForce := some (d.ptabPace w lim, d.tb), rl := none }
      else d.testAt w (d.get (cmtFld w)) d.tb 1
    let d := if down then (d.put (cmtFld w) (min lim (d.get (cmtFld w)))).admAsk w lim else d
    (d.busyEngines w).foldl (fun s n =>
      let tl := s.dev.timeline n
      s.breachAll (k.shed tl.length tl) 4) { s with dev := d }

/-- A thermal emergency starts (R267). -/
def Chip.thermStart (s : Chip) : Chip :=
  let s := s.onDev fun d =>
    ((d.on ADM_THERM_ACTIVE).on ADM_STAT_THERM).on ADM_ISTAT_THERM
      |>.onAdm fun a => { a with proms := a.proms.map fun x => { x with therm := true } }
  ((s.thermWing 0).thermWing 1).onDev Dev.recompute

/-- A thermal emergency ends: VCEIL_EFF returns as if VCEIL_REQ had just been written (R267). -/
def Dev.thermEnd (d : Dev) : Dev := (((d.off ADM_THERM_ACTIVE).off ADM_STAT_THERM).ceilWrite 0).ceilWrite 1

/-- The thermal inputs are looked at (R267). -/
def Chip.thermEval (s : Chip) : Chip :=
  let d := s.dev
  let want := (d.flag ADM_THERM_PIN && d.flag ADM_THERM_PINEN) || (d.flag ADM_THERM_HOST && d.flag ADM_THERM_HOSTEN)
  if want && !d.flag ADM_THERM_ACTIVE then s.thermStart
  else if !want && d.flag ADM_THERM_ACTIVE then s.onDev Dev.thermEnd
  else s

/-- A canary reading of cabinet k seen by the registrar: a pace violation RAILLAT after the last rail change (R268), and slack
reclaim (R265). -/
def Dev.canarySeen (d : Dev) (k : Nat) : Dev :=
  let w := engWing (8 * k)
  let d := match d.railPoint w with
    | some r =>
      if d.rails[w].since + d.railLat ≤ d.tb && d.ptabPace w r < d.get (CAB_PACE_PACE k)
      then d.railTrouble w (pacevFld w) else d
    | none => d
  d.reclaim w

/-- A fabric reset (R271): every promise is breached, ownership is cleared, and every launch cell is given up. -/
def Chip.admFabricReset (s : Chip) : Chip :=
  let s := s.breachAll s.dev.adm.proms 5
  let owned := (List.range 64).filter s.dev.owned
  let s := owned.foldl Chip.disown s
  s.onDev fun d =>
    ((List.range 8).foldl (fun d c => (d.put (ADM_OWN_OWN_REQ c) 0).put (ADM_OWN_OWN_EFF c) 0) d).onAdm
      (fun a => { a with unready := 0 }) |>.recompute

/-- A system or power-on reset of the registrar: no promise survives (R271); the pace table is kept (R28). -/
def Dev.admReset (d : Dev) : Dev :=
  { (d.resetRange 0x50000 0x50400).resetRange 0x50480 0x60000 with adm := Adm.rest }

end Sys2Proof.Machine
end

