-- ==== Sys2Proof/Machine/Alu.lean ====
section
/-! DEFINITION. Machine/Alu.lean: what the register operations compute (R95 to R97), and the micro-operations of the custom
slots (R122, R123). -/

namespace Sys2Proof.Machine

/-- 1 or 0. -/
def flagWord (b : Bool) : Word := if b then 1 else 0

/-- Leading zeros of the n bits n - 1 to 0. -/
def clzFrom (w : Word) : Nat → Nat
  | 0 => 0
  | n + 1 => if w.getLsbD n then 0 else 1 + clzFrom w n

/-- Trailing zeros, from bit 32 - n upward. -/
def ctzFrom (w : Word) : Nat → Nat
  | 0 => 0
  | n + 1 => if w.getLsbD (31 - n) then 0 else 1 + ctzFrom w n

/-- The number of 1 bits among the low n. -/
def popcFrom (w : Word) : Nat → Nat
  | 0 => 0
  | n + 1 => (if w.getLsbD n then 1 else 0) + popcFrom w n

/-- A word with its four bytes reversed. -/
def byteSwap (w : Word) : Word :=
  w.extractLsb' 0 8 ++ w.extractLsb' 8 8 ++ w.extractLsb' 16 8 ++ w.extractLsb' 24 8

/-- Signed byte i of a 64-bit pair (R84 notation). -/
def s8 (p : BitVec 64) (i : Nat) : Int := (p.extractLsb' (8 * i) 8).toInt
/-- Unsigned byte i of a pair. -/
def u8 (p : BitVec 64) (i : Nat) : Int := (p.extractLsb' (8 * i) 8).toNat
/-- Signed halfword i of a pair. -/
def s16 (p : BitVec 64) (i : Nat) : Int := (p.extractLsb' (16 * i) 16).toInt

/-- The sum of f 0 to f (n - 1). -/
def sumTo (n : Nat) (f : Nat → Int) : Int := ((List.range n).map f).foldl (· + ·) 0

/-- DIV (R95, R96). -/
def divS (a b : Word) : Word := if b = 0 then 0xFFFFFFFF else BitVec.ofInt 32 (a.toInt.tdiv b.toInt)
/-- REM (R95, R96). -/
def remS (a b : Word) : Word := if b = 0 then a else BitVec.ofInt 32 (a.toInt.tmod b.toInt)
/-- DIVU (R95, R96). -/
def divU (a b : Word) : Word := if b = 0 then 0xFFFFFFFF else a / b
/-- REMU (R95, R96). -/
def remU (a b : Word) : Word := if b = 0 then a else a % b

/-- The result of a class 000 operation (R95, R96): a and b are ra and rb, d is rd, pa and pb are the pairs of ra and rb. -/
def AluFn.eval (f : AluFn) (d a b : Word) (pa pb : BitVec 64) : Word :=
  match f with
  | .add => a + b
  | .sub => a - b
  | .and => a &&& b
  | .or => a ||| b
  | .xor => a ^^^ b
  | .andn => a &&& ~~~b
  | .shl => a <<< (b.toNat % 32)
  | .shr => a >>> (b.toNat % 32)
  | .sra => a.sshiftRight (b.toNat % 32)
  | .ror => a.rotateRight (b.toNat % 32)
  | .slt => flagWord (a.slt b)
  | .sltu => flagWord (a.ult b)
  | .min => if a.slt b then a else b
  | .max => if a.slt b then b else a
  | .minu => if a.ult b then a else b
  | .maxu => if a.ult b then b else a
  | .sextb => (a.extractLsb' 0 8).signExtend 32
  | .sexth => (a.extractLsb' 0 16).signExtend 32
  | .zexth => (a.extractLsb' 0 16).zeroExtend 32
  | .clz => BitVec.ofNat 32 (clzFrom a 32)
  | .ctz => BitVec.ofNat 32 (ctzFrom a 32)
  | .popc => BitVec.ofNat 32 (popcFrom a 32)
  | .bswap => byteSwap a
  | .mul => a * b
  | .mulh => BitVec.ofInt 32 (a.toInt * b.toInt / 2 ^ 32)
  | .mulhu => BitVec.ofNat 32 (a.toNat * b.toNat / 2 ^ 32)
  | .macc => d + a * b
  | .div => divS a b
  | .divu => divU a b
  | .rem => remS a b
  | .remu => remU a b
  | .dot8 => d + BitVec.ofInt 32 (sumTo 8 fun i => s8 pa i * s8 pb i)
  | .dot8u => d + BitVec.ofInt 32 (sumTo 8 fun i => u8 pa i * s8 pb i)
  | .dot16 => d + BitVec.ofInt 32 (sumTo 4 fun i => s16 pa i * s16 pb i)

/-- The result of a class 001 operation, op 0 to 6 (R97). -/
def ImmFn.eval (f : ImmFn) (a : Word) (i : BitVec 16) : Word :=
  match f with
  | .addi => a + i.signExtend 32
  | .andi => a &&& i.zeroExtend 32
  | .ori => a ||| i.zeroExtend 32
  | .xori => a ^^^ i.zeroExtend 32
  | .slti => flagWord (a.slt (i.signExtend 32))
  | .sltiu => flagWord (a.ult (i.signExtend 32))
  | .addhi => a + (i ++ 0#16)

/-- The result of a class 001 shift (R97). -/
def ShiftFn.eval (f : ShiftFn) (a : Word) (n : BitVec 5) : Word :=
  match f with
  | .shl => a <<< n.toNat
  | .shr => a >>> n.toNat
  | .sra => a.sshiftRight n.toNat
  | .ror => a.rotateRight n.toNat

/-- A two-register branch condition (R101). -/
def Cond.eval (c : Cond) (a b : Word) : Bool :=
  match c with
  | .eq => a == b
  | .ne => a != b
  | .lt => a.slt b
  | .ge => !a.slt b
  | .ltu => a.ult b
  | .geu => !a.ult b

/-- The condition of an immediate branch, cond 8 to 11 (R101). -/
def condI (c : Fin 4) : Cond :=
  match c with
  | 0 => .eq
  | 1 => .ne
  | 2 => .lt
  | 3 => .ge

/-- The bytes a load reads (R98). -/
def LdFn.size : LdFn → Nat
  | .w => 4 | .h => 2 | .hu => 2 | .b => 1 | .bu => 1

/-- The bytes a store writes (R98). -/
def StFn.size : StFn → Nat
  | .w => 4 | .h => 2 | .b => 1

/-- A loaded value extended to 32 bits (R86). -/
def LdFn.extend (f : LdFn) (v : Word) : Word :=
  match f with
  | .w => v
  | .h => (v.extractLsb' 0 16).signExtend 32
  | .hu => (v.extractLsb' 0 16).zeroExtend 32
  | .b => (v.extractLsb' 0 8).signExtend 32
  | .bu => (v.extractLsb' 0 8).zeroExtend 32

/-- What an atomic stores for the old word t (R99). -/
def AmoFn.eval (f : AmoFn) (t b : Word) : Word :=
  match f with
  | .swap => b
  | .add => t + b
  | .and => t &&& b
  | .or => t ||| b
  | .min => if t.slt b then t else b
  | .max => if t.slt b then b else t

/-- The marks of a micro-operation code, none where R123 assigns none. -/
def uopMarks (c : Nat) : Option Nat :=
  if c ≤ 0x18 then some 1 else if 0x20 ≤ c ∧ c ≤ 0x25 then some 3 else none

/-- The micro-operations that use s2 (R123: all but CLZ, POPC and BSWAP). -/
def uopUsesS2 (c : Nat) : Bool := c != 0x14 && c != 0x15 && c != 0x16

/-- A signed value clamped to [lo, hi]. -/
def clampI (lo hi v : Int) : Int := if v < lo then lo else if hi < v then hi else v

/-- A word as the low half of a pair. -/
def asPair (w : Word) : BitVec 64 := w.zeroExtend 64

/-- Byte s2[1:0] of s1. -/
def byteAt (s1 s2 : Word) : BitVec 8 := s1.extractLsb' (8 * (s2.toNat % 4)) 8

/-- d with byte n[1:0] replaced by v[7:0]. -/
def insByte (d v n : Word) : Word :=
  let k := 8 * (n.toNat % 4)
  (d &&& ~~~(0xFF#32 <<< k)) ||| ((v &&& 0xFF#32) <<< k)

/-- The result of a micro-operation (R123); codes R123 does not assign never run (R125). -/
def uopEval (c : Nat) (d s1 s2 : Word) : Word :=
  match c with
  | 0x00 => s1 + s2
  | 0x01 => s1 - s2
  | 0x02 => s1 &&& s2
  | 0x03 => s1 ||| s2
  | 0x04 => s1 ^^^ s2
  | 0x05 => s1 &&& ~~~s2
  | 0x06 => s1 <<< (s2.toNat % 32)
  | 0x07 => s1 >>> (s2.toNat % 32)
  | 0x08 => s1.sshiftRight (s2.toNat % 32)
  | 0x09 => s1.rotateRight (s2.toNat % 32)
  | 0x0A => flagWord (s1.slt s2)
  | 0x0B => flagWord (s1.ult s2)
  | 0x0C => if s1.slt s2 then s1 else s2
  | 0x0D => if s1.slt s2 then s2 else s1
  | 0x0E => if s1.ult s2 then s1 else s2
  | 0x0F => if s1.ult s2 then s2 else s1
  | 0x10 => if d ≠ 0 then s1 else s2
  | 0x11 => (byteAt s1 s2).zeroExtend 32
  | 0x12 => (byteAt s1 s2).signExtend 32
  | 0x13 => insByte d s1 s2
  | 0x14 => BitVec.ofNat 32 (clzFrom s1 32)
  | 0x15 => BitVec.ofNat 32 (popcFrom s1 32)
  | 0x16 => byteSwap s1
  | 0x17 => BitVec.ofInt 32 (clampI (-(2 ^ (s2.toNat % 32))) (2 ^ (s2.toNat % 32) - 1) s1.toInt)
  | 0x18 => BitVec.ofInt 32 (clampI 0 (2 ^ (s2.toNat % 32 + 1) - 1) s1.toInt)
  | 0x20 => s1 * s2
  | 0x21 => BitVec.ofInt 32 (s1.toInt * s2.toInt / 2 ^ 32)
  | 0x22 => d + s1 * s2
  | 0x23 => d + BitVec.ofInt 32 (sumTo 4 fun i => s8 (asPair s1) i * s8 (asPair s2) i)
  | 0x24 => d + BitVec.ofInt 32 (sumTo 4 fun i => u8 (asPair s1) i * s8 (asPair s2) i)
  | _ => d + BitVec.ofInt 32 (sumTo 2 fun i => s16 (asPair s1) i * s16 (asPair s2) i)

/-- The values a custom instruction's micro-operations read and write (R122): T0 to T7, RD and RD1 as a list of ten words,
and the sources fixed at the start. -/
structure CxEnv where
  t : List Word
  ra : Word
  ra1 : Word
  rb : Word
  rb1 : Word
  imm : Word

/-- A source operand (R122). -/
def CxEnv.src (x : CxEnv) (ui : Word) (c : Nat) : Word :=
  if c < 10 then x.t.getD c 0
  else match c with
    | 10 => x.ra
    | 11 => x.ra1
    | 12 => x.rb
    | 13 => x.rb1
    | 14 => x.imm
    | 15 => ui
    | _ => 0

/-- One micro-operation (R122, R123). -/
def CxEnv.run1 (x : CxEnv) (w : Word) : CxEnv :=
  let ui := (w.extractLsb' 0 11).signExtend 32
  let d := bits w 25 21
  let v := uopEval (bits w 31 26) (x.src ui d) (x.src ui (bits w 20 16)) (x.src ui (bits w 15 11))
  if d < 10 then { x with t := x.t.set d v } else x

/-- The micro-operations of a slot, in order (R123). -/
def CxEnv.run (x : CxEnv) (ws : List Word) : CxEnv := ws.foldl CxEnv.run1 x

end Sys2Proof.Machine
end

