-- ==== Sys2Proof/Machine/Far.lean ====
section
/-! DEFINITION. Machine/Far.lean: far windows and the far cache (R282 to R290), the presence of far memory (R291 to R295). -/

namespace Sys2Proof.Machine

open Reg

/-- Far memory is present (LSTAT.PRESENT). -/
def Dev.present (d : Dev) : Bool := d.flag HPT_LSTAT_PRESENT

/-- The link has trained as CXL (LSTAT.MODE 2). -/
def Dev.isCxl (d : Dev) : Bool := d.get HPT_LSTAT_MODE == 2

/-- The host address of a device address in a far window (R282). -/
def Dev.hostAddr (d : Dev) (a : Nat) : Nat :=
  (0x1000000 * d.get (HPT_FWT_BASE_HPA (a / 0x1000000)) + a % 0x1000000) % 2 ^ 52

/-- n free bytes of host memory (outside the device); the read takes one free value. -/
def hostBytes (k a n : Nat) : List Byte := (List.range n).map fun i => Config.hostByte k (a + i)

/-- The number n little-endian bytes spell. -/
def leNat : List Byte → Nat
  | [] => 0
  | b :: bs => b.toNat + 256 * leNat bs

/-- The n little-endian bytes of a value. -/
def leBytes (n v : Nat) : List Byte := (List.range n).map fun i => BitVec.ofNat 8 (v / 256 ^ i)

/-- A record of something leaving the device. -/
def Dev.emit (d : Dev) (o : Out) : Dev := { d with out := o :: d.out }

/-- A write sent to the host for a requester that has its acknowledgement: a posted Memory Write, or a WOWrInv after GO (R285, R289). It
is on its way, and not delivered, until the next idle tick (DESIGN CHOICE, notes/assumptions/87.md); a is the address LOSTA would
show. -/
def Dev.hostPost (d : Dev) (a h : Nat) (data : List Byte) : Dev :=
  let d := d.emit (.hostWrite h data)
  { d with hpt := { d.hpt with flight := d.hpt.flight ++ [a] } }

/-- A non-posted request to the host fails: an error answer (R286), or no completion in time (R278). -/
def Dev.hostBad (d : Dev) : Bool := d.hpt.noReply || Config.hostFails d.fresh

/-- A non-posted request to the host has been made. -/
def Dev.hostAsked (d : Dev) : Dev := { d.tick1 with hpt := { d.hpt with noReply := false } }

/-- The far-cache line of a host address. -/
def Dev.farFind (d : Dev) (h : Nat) : Option FarLine := d.hpt.fc.find? fun l => l.host == h / 64

/-- The far cache without a host line. -/
def Dev.farRemove (d : Dev) (line : Nat) : Dev :=
  { d with hpt := { d.hpt with fc := d.hpt.fc.filter fun l => l.host != line } }

/-- A dirty line written to host memory (DirtyEvict). -/
def Dev.farWriteBack (d : Dev) (l : FarLine) : Dev :=
  if l.st = .modified then d.emit (.hostWrite (l.host * 64) l.data) else d

/-- A line allocated in its set of 16 ways; a full set first gives up the line a free choice names, written back if dirty
(R286). -/
def Dev.farAlloc (d : Dev) (l : FarLine) : Dev :=
  let d := d.farRemove l.host
  let set := d.hpt.fc.filter fun x => x.host % 1024 == l.host % 1024
  let d :=
    if set.length < 16 then d
    else match set[Config.farVictim d.fresh % 16]? with
      | some v => ((d.farWriteBack v).farRemove v.host).tick1
      | none => d
  { d with hpt := { d.hpt with fc := l :: d.hpt.fc } }

/-- A far line as an access needs it: the line the cache holds, or one read from the host (RdShared, RdOwn or a 64-byte
Memory Read, R285); none where the host answers with an error (R286). -/
def Dev.farLine (d : Dev) (a : Nat) (own : Bool) : Dev × Option FarLine :=
  let h := d.hostAddr a
  match d.farFind h with
  | some l =>
    if own && l.st = .shared then
      -- RdOwn on a shared line
      (d.hostAsked, if d.hostBad then none else some { l with st := .exclusive })
    else (d, some l)
  | none =>
    let k := d.fresh
    -- the host may answer RdShared with GO-E (R286): which state it grants is open
    let st : LineState := if own || (d.isCxl && Config.hostGrantsE k) then .exclusive else .shared
    (d.hostAsked, if d.hostBad then none
      else some { host := h / 64, dev := a / 64, st := st, data := hostBytes k (h / 64 * 64) 64 })

/-- n bytes of a line from an offset. -/
def lineGet (data : List Byte) (o n : Nat) : Nat := leNat ((data.drop o).take n)

/-- A line with n bytes of a value at an offset. -/
def lineSet (data : List Byte) (o n v : Nat) : List Byte := data.take o ++ leBytes n v ++ data.drop (o + n)

/-- The accesses held under WAKE_HOLD: each occupies a transaction slot of the port (R294). -/
def Dev.slots (d : Dev) : Nat := (d.hpt.held.filter (·.wake)).length

/-- The host's memory is being withdrawn: new accesses wait at level 4 (R291). -/
def Dev.hostShut (d : Dev) : Bool := !d.flag HPT_HMEM_AVAIL_REQ && d.flag HPT_HMEM_AVAIL_EFF

/-- Whether a new far access through a window waits at level 4: the window is being disabled, or the host's memory is being
withdrawn (R283, R291). An access the port holds already is new no longer. -/
def Dev.farWaits (d : Dev) (a : Nat) : Bool :=
  d.hpt.sending != some a
    && (!d.flag (HPT_FWT_ATTR_EN_REQ (a / 0x1000000)) || d.hostShut)

/-- What meets a far access before it is performed: a disabled window's error reply, a wait at level 4, or its window's
absent policy (R282, R283, R291, R293). -/
inductive FarGate where
  | pass | error | absent | wait | wakeHold
  deriving DecidableEq, Repr

/-- The gate of a far access to a device address. With all 256 slots of the port taken by held accesses, a further one waits at level 4
(R294). -/
def Dev.farGate (d : Dev) (a : Nat) : FarGate :=
  let b := a / 0x1000000
  if !d.flag (HPT_FWT_ATTR_EN_EFF b) then .error
  else if d.farWaits a then .wait
  else if d.present then .pass
  else if d.get (HPT_FWT_ATTR_POL b) == 1 then (if 256 ≤ d.slots && d.hpt.sending != some a then .wait else .wakeHold)
  else .absent

/-- A load or fetch performed at the port (R285): one access inside a 64-byte line. -/
def Dev.farLoad (d : Dev) (a size : Nat) : Dev × Reply :=
  let b := a / 0x1000000
  let h := d.hostAddr a
  if d.flag (HPT_FWT_ATTR_CACHE b) then
    match d.farLine a false with
    | (d, none) => (d, .err .busError)
    | (d, some l) =>
      ((if (d.farFind h).isSome then d else d.farAlloc l), .ok (BitVec.ofNat 32 (lineGet l.data (h % 64) size)))
  else
    let k := d.fresh
    (d.hostAsked, if d.hostBad then .err .busError else .ok (BitVec.ofNat 32 (leNat (hostBytes k h size))))

/-- A store performed at the port (R285, R289): under CXL in the far cache, or as a WOWrInv that the host may answer with GO-Err (R286);
under PCIe as a posted Memory Write, which updates a line its cacheable window hits. -/
def Dev.farStore (d : Dev) (a size : Nat) (v : Word) : Dev × Reply :=
  let b := a / 0x1000000
  let h := d.hostAddr a
  if d.flag (HPT_FWT_ATTR_RDONLY b) then (d, .err .busError)
  else if d.flag (HPT_FWT_ATTR_CACHE b) && d.isCxl then
    match d.farLine a true with
    | (d, none) => (d, .err .busError)
    | (d, some l) => (d.farAlloc { l with st := .modified, data := lineSet l.data (h % 64) size v.toNat }, .ok 0)
  else if d.isCxl then
    if d.hostBad then (d.hostAsked, .err .busError) else (d.hostAsked.hostPost a h (leBytes size v.toNat), .ok 0)
  else
    let d :=
      match d.farFind h with
      | some l => if d.flag (HPT_FWT_ATTR_CACHE b) then d.farAlloc { l with data := lineSet l.data (h % 64) size v.toNat } else d
      | none => d
    (d.hostPost a h (leBytes size v.toNat), .ok 0)

/-- An atomic performed at the far cache, with the line in Modified state; an error reply elsewhere (R285, R287). -/
def Dev.farAtomic (d : Dev) (a : Nat) (f : Word → Word) : Dev × Reply :=
  let b := a / 0x1000000
  let h := d.hostAddr a
  if d.flag (HPT_FWT_ATTR_RDONLY b) then (d, .err .busError)
  else if d.flag (HPT_FWT_ATTR_CACHE b) && d.isCxl then
    match d.farLine a true with
    | (d, none) => (d, .err .busError)
    | (d, some l) =>
      let t : Word := BitVec.ofNat 32 (lineGet l.data (h % 64) 4)
      (d.farAlloc { l with st := .modified, data := lineSet l.data (h % 64) 4 (f t).toNat }, .ok t)
  else (d, .err .busError)

/-- The far cache holds the line of a device address, and it is dirty. -/
def Dev.farDirty (d : Dev) (a : Nat) : Bool := (d.farFind (d.hostAddr a)).any fun l => l.st == .modified

/-- INVAL or FLUSH at the far cache: a dirty line is written to host memory, then invalidated (R120). -/
def Dev.farClean (d : Dev) (a : Nat) : Dev :=
  match d.farFind (d.hostAddr a) with
  | some l => (d.farWriteBack l).farRemove l.host
  | none => d

/-- The wake request of R294: WAKE_N is asserted while an access is held under WAKE_HOLD. -/
def Dev.wakeShow (d : Dev) : Dev :=
  let n := d.slots
  (d.put HPT_HOLD_COUNT n).put HPT_HOLD_WAKE (if n = 0 then 0 else 1)

/-- CLKREQ_N as the port drives it: asserted while an access is held under WAKE_HOLD and the link is in L1.x (R273, R294). -/
def Dev.clkreqDriven (d : Dev) : Bool := 0 < d.slots && 3 ≤ d.get HPT_LSTAT_STATE && d.get HPT_LSTAT_STATE ≤ 5

/-- Ticks of HOLDMAX (R294). -/
def Dev.holdTicks (d : Dev) : Nat := d.get HPT_HOLDMAX_MS * msTicks

/-- An access joins the port's list of waiting accesses (R294); its hold is timed from its arrival by HOLDMAX as it then is. -/
def Dev.hold (d : Dev) (who : HeldWho) (a : Nat) (wake : Bool) : Dev :=
  ({ d with hpt := { d.hpt with
      held := d.hpt.held ++ [({ id := d.hpt.nextId, who := who, addr := a, since := d.now, limit := d.holdTicks, wake := wake } : Held)]
      nextId := d.hpt.nextId + 1 } }).wakeShow

/-- An entry of the port's list changed. -/
def Dev.onHeld (d : Dev) (p : Held → Bool) (f : Held → Held) : Dev :=
  ({ d with hpt := { d.hpt with held := d.hpt.held.map fun x => if p x then f x else x } }).wakeShow

/-- An access that waited at level 4 is admitted and held from now on (R294); one that is held already stays as it is. -/
def Dev.admitted (d : Dev) (x : Held) : Held := if x.wake then x else { x with wake := true, since := d.now, limit := d.holdTicks }

/-- Entries of the port's list leave it. -/
def Dev.dropHeld (d : Dev) (p : Held → Bool) : Dev :=
  ({ d with hpt := { d.hpt with held := d.hpt.held.filter fun x => !p x } }).wakeShow

/-- A waiting access of a core leaves the port's list. -/
def Dev.forget (d : Dev) (e : CoreId) : Dev := d.dropHeld fun x => x.who == .core e

/-- A core discards its waiting load or fetch (R164, R480): one the port holds stays there, its reply to be sunk; one that waited at level 4
was never the port's. -/
def Dev.discard (d : Dev) (e : CoreId) : Dev :=
  (d.dropHeld fun x => x.who == .core e && !x.wake).onHeld (·.who == .core e) fun x => { x with who := .sunk e }

/-- A lost store or dirty line (R292): counted, the first address recorded. -/
def Dev.loseWrite (d : Dev) (a : Nat) : Dev :=
  let d := if d.flag HPT_LOSTW_VALID then d else (d.on HPT_LOSTW_VALID).put HPT_LOSTA_ADDR a
  (d.bumpSat HPT_LOSTW_COUNT 1 0xFFFF).on HPT_ISTAT_LOSTW

/-- The key under which a granule's reservations and writes meet: arrays by canonical address, far memory by host address
(R106, R107). -/
def Dev.granule (d : Dev) (a : Nat) : Nat :=
  if a < 0x10000000 then lineOf a else lineOf (2 ^ 52 + d.hostAddr a)

end Sys2Proof.Machine
end

