-- ==== Sys2Proof/Machine/Lockstep.lean ====
section
/-! DEFINITION. Machine/Lockstep.lean: the tokens of the curator pair, the delay registers and the comparator's two copies (R343 to R348). The
main executes; where the checker stands follows from the tokens it has not passed yet. -/

namespace Sys2Proof.Machine

open Reg

/-! ### Tokens -/

/-- The number of a channel: 0 to 4 as CUR.FAULT.CHAN shows an output channel; the input channels follow. -/
def Chan.code : Chan → Nat
  | .ireq => 0 | .dreq => 1 | .iack => 2 | .sys => 3 | .dbg => 4
  | .irsp => 5 | .drsp => 6 | .iofr => 7 | .evt => 8 | .dbgi => 9

/-- An input channel. -/
def Chan.isInput (c : Chan) : Bool := 5 ≤ c.code

/-- A channel whose tokens have an address (CUR.FADDR). -/
def Chan.hasAddr (c : Chan) : Bool := c == .ireq || c == .dreq

/-- The number of a kind. -/
def TokKind.code : TokKind → Nat
  | .fetch => 0 | .load => 1 | .store => 2 | .ll => 3 | .sc => 4 | .inval => 5 | .flush => 6
  | .atomic f => 0x40 + f.code
  | .accept => 16 | .sev => 17 | .wfe => 18 | .wfeEnd => 19 | .waitt => 20 | .waittEnd => 21 | .fedDone => 22 | .halted => 23
  | .ok => 24 | .error => 25 | .offer => 26 | .event => 27 | .timeout => 28 | .sysValue => 29 | .halt => 30 | .feed => 31 | .resume => 32

/-- The words of a token, as the delay registers hold them and the comparator compares them: channel, kind, byte enables and attributes;
the address; the data (R345). -/
def Token.words (t : Token) : List Word :=
  BitVec.ofNat 32 (t.chan.code + 0x10 * t.kind.code + 0x10000 * t.be + 0x10000000 * t.det.toNat + 0x20000000 * t.sec.toNat + 0x40000000 * t.km.toNat)
    :: t.addr :: t.data

/-- A parity bit per word (R347). -/
def parityBits (ws : List Word) : List Bool := ws.map fun w => (List.range 32).foldl (fun p i => p != w.getLsbD i) false

/-- A fault of a delay register entry: bit 0 to 31 of one of its words flips, or with bit 32 the word's parity bit. -/
structure Flip where
  word : Nat
  bit : Fin 33
  deriving DecidableEq, Repr

/-- The words and parity bits of an entry as they are read back, with a fault or without. -/
def DelayEntry.read (x : DelayEntry) : Option Flip → List Word × List Bool
  | none => (x.tok.words, x.par)
  | some f =>
    if f.bit.val < 32 then (x.tok.words.modify f.word (· ^^^ (1#32 <<< f.bit.val)), x.par) else (x.tok.words, x.par.modify f.word (!·))

/-- An entry read back fails its parity (R347). -/
def DelayEntry.bad (x : DelayEntry) (f : Option Flip) : Bool := parityBits (x.read f).1 != (x.read f).2

/-! ### The delay registers -/

/-- The curator pair with no token passed and nothing held: after a reset at tick t (R350). -/
def Cur.fresh (t : Nat) (stop : CurStop) (boot wakeN : Bool) : Cur :=
  { stop := stop, boot := boot, wakeN := wakeN, seq := 0, held := [], took := none, line := none, last := t, release := none, testBit := 0
    exercised := t }

/-- The pair's own state changed. -/
def Dev.onCur (d : Dev) (f : Cur → Cur) : Dev := { d with cur := f d.cur }

/-- The newest input entry of a list, or else the one given. -/
def lastInput (xs : List DelayEntry) (old : Option DelayEntry) : Option DelayEntry :=
  ((xs.filter fun x => x.tok.chan.isInput).getLast?).or old

/-- How many entries the main's next token leaves behind it: after a release none, else two, which the checker then still trails (R343,
R344). The checker has passed the others: of those no command has spoken, their output tokens were found equal. -/
def Cur.stay (c : Cur) : Nat := if c.release.isSome then 0 else 2

/-- The main passes a token (R343): it takes the next number and is held until the checker has passed it. -/
def Cur.pass (c : Cur) (t : Token) (main : Core) (now : Nat) : Cur :=
  let gone := c.held.take (c.held.length - c.stay)
  { c with
    seq := c.seq + 1
    held := c.held.drop (c.held.length - c.stay) ++ [⟨c.seq, t, parityBits t.words, main⟩]
    took := lastInput gone c.took, last := now, release := none }

/-- The main passes a token. -/
def Dev.pass (d : Dev) (t : Token) (main : Core) : Dev := d.onCur fun c => c.pass t main d.now.toNat

/-- The entries offered to the checker, oldest first: those at least two tokens older than the newest, and after a release all (R343, R344). -/
def Cur.offered (c : Cur) : List DelayEntry := if c.release.isSome then c.held else c.held.take (c.held.length - 2)

/-- The checker has passed the n oldest entries; after a release input tokens with no output token behind them are taken at once. -/
def Cur.drop (c : Cur) (n : Nat) : Cur :=
  let rest := c.held.drop n
  let took := lastInput (c.held.take n) c.took
  if c.release.isSome && rest.all (·.tok.chan.isInput) then { c with held := [], took := lastInput rest took }
  else { c with held := rest, took := took }

/-- The tokens the checker trails the main by (R344, CUR.STAT.LAG). -/
def Dev.lag (d : Dev) : Nat := min 2 d.cur.held.length

/-- The main's registers as the checker stands: at the oldest token it has not passed, or where the main stands (R344). -/
def Chip.checker (s : Chip) (main : Core) : Core := match s.dev.cur.held with | x :: _ => x.core | [] => main

/-! ### The comparator -/

/-- The two copies of the comparator, in complementary logic (R348): one signals "equal" on a 1, the other on a 0. -/
def copyTrue (a b : List Word) : Bool := a == b
def copyComp (a b : List Word) : Bool := a != b

end Sys2Proof.Machine
end

