-- ==== Sys2Proof/Machine/Ops.lean ====
section
/-! DEFINITION. Machine/Ops.lean: the named operations over a core's registers and the arrays it reaches: registers, address
forms, the address map, protection, array accesses by pieces, the write shadow, taking an exception (R74) and returning from
one (R77, R78, R105). -/

namespace Sys2Proof.Machine

open Reg

/-- A core with a function of it applied. -/
def Chip.onCore (s : Chip) (e : CoreId) (f : Core → Core) : Chip := { s with cores := s.cores.set e (f s.cores[e]) }

/-- A read of a general register: g0 reads zero (R51). -/
def Core.rd (c : Core) (r : GReg) : Word := if r = 0 then 0 else c.g[r]

/-- A write of a general register: a write to g0 is discarded (R51). -/
def Core.wr (c : Core) (r : GReg) (v : Word) : Core := if r = 0 then c else { c with g := c.g.set r v }

/-- The register after r in a pair (R87). -/
def nextReg (r : GReg) : GReg := greg (r.val + 1)

/-- A register pair: r holds its low word, the next register its high word; the pair of g0 is 0 and g1 (R87). -/
def Core.pair (c : Core) (r : GReg) : BitVec 64 := c.rd (nextReg r) ++ c.rd r

/-- The curator (R338). -/
def isCur (e : CoreId) : Bool := e.val == 64

/-- A core's unit ID (R5). -/
def uidOf (e : CoreId) : Nat := if isCur e then 0x18 else 0x40 + e.val

/-- A core's cabinet and its engine number there (R4). -/
def cabOf (e : CoreId) : Nat := e.val / 8
def slotOf (e : CoreId) : Nat := e.val % 8
/-- A core's wing (R4). -/
def wingOf (e : CoreId) : Nat := e.val / 32

/-- The stack pointer, g31. -/
def Core.sp (c : Core) : Word := c.rd 31

/-- A device address from a bank and an offset taken modulo 2^24. -/
def devAddr (bank : BitVec 8) (off : Nat) : Nat := 0x1000000 * bank.toNat + off % 0x1000000

/-- SPLIM.BANK, LIMIT (as an offset) and EN. -/
def Core.spBank (c : Core) : BitVec 8 := c.splim.extractLsb' 24 8
def Core.spLimit (c : Core) : Nat := bits c.splim 23 6 * 64
def Core.spCheck (c : Core) : Bool := c.splim.getLsbD 0

/-- The device address of the instruction a core is at (R55). -/
def Core.pc (c : Core) : Nat := devAddr c.cb c.off.toNat

/-- The short address form (R54): bank SPLIM.BANK for base g29 or g31, else DB; offset low24 of base + x. -/
def Core.short (c : Core) (base : GReg) (x : Word) : Nat :=
  devAddr (if base = 29 ∨ base = 31 then c.spBank else c.db) (c.rd base + x).toNat

/-- STATUS as a word (R60). -/
def Core.status (c : Core) : Word :=
  (if c.df then 0x80000000 else 0) ||| (if c.rx then 0x40000000 else 0) ||| (c.pri.zeroExtend 32 <<< 16)
    ||| (if c.ie then 2 else 0) ||| (if c.km then 1 else 0)

/-- DET as effective (R162, R165); the curator is always deterministic (R338). -/
def Core.det (c : Core) : Bool := c.mode.getLsbD 0

/-- The size of a bank as a core sees it (R58): 0 for a reserved bank. -/
def bankEnd (e : CoreId) (b : Nat) : Nat :=
  if b = 0 then (if isCur e then 0 else 0x8000)
  else if b = 1 then 0x1000000
  else if b = 2 then 0x200000
  else if b = 3 then 0x90000
  else if b = 4 then 0x280000
  else if b < 8 then 0
  else 0x1000000

/-- Every byte of an access lies at an implemented offset of its bank (R57, R149). -/
def implemented (e : CoreId) (a size : Nat) : Bool := a % 0x1000000 + size ≤ bankEnd e (a / 0x1000000)

/-- The kinds protection tells apart (R79, R80). -/
inductive Kind where
  | read | write | fetch
  deriving DecidableEq, Repr

/-- The DETAIL a denied access reports (R69). -/
def Kind.detail : Kind → Nat
  | .read => 0 | .write => 1 | .fetch => 2

/-- The deciding protection entry of an address: the lowest-numbered match (R79). -/
def Core.regionAt (c : Core) (a : Nat) : Option Region :=
  c.regions.toList.find? fun r =>
    r.attr.getLsbD 31 && r.base.toNat / 64 ≤ a / 64 && a / 64 ≤ r.limit.toNat / 64

/-- One byte's access is allowed (R79, R80). -/
def Core.allowed1 (c : Core) (km : Bool) (k : Kind) (a : Nat) : Bool :=
  match c.regionAt a with
  | none => km
  | some r =>
    let b := match k with | .read => 0 | .write => 1 | .fetch => 2
    if km then !r.attr.getLsbD 7 || r.attr.getLsbD (4 + b) else r.attr.getLsbD b

/-- An access is allowed: its first and its last byte are (R79). -/
def Core.allowed (c : Core) (km : Bool) (k : Kind) (a size : Nat) : Bool :=
  c.allowed1 km k a && c.allowed1 km k (a + size - 1)

/-- The canonical array address of an address as a core issues it: the own scratch of bank 0x00 lies in bank 0x02 (R58). -/
def canon (e : CoreId) (a : Nat) : Nat := if a < 0x1000000 then 0x2000000 + 0x8000 * e.val + a else a

/-- The port a core's array access uses (R177): the private port for bank 0x00, the home port of the own cabinet's bank. -/
def portOf (e : CoreId) (a : Nat) : Port :=
  { uid := uidOf e
    home := a < 0x1000000 || (a / 0x1000000 == 1 && !isCur e && a / 0x200000 % 8 == cabOf e) }

/-- The pieces of an access: split at the 4-byte boundary it crosses (R147). An unaligned access inside one word crosses none: it is one
piece, and counts no SPLIT (DESIGN CHOICE, notes/assumptions/88.md: R147 names no second piece for it). -/
def pieces (a size : Nat) : List (Nat × Nat) :=
  if a % 4 + size ≤ 4 then [(a, size)] else [(a, 4 - a % 4), (a + (4 - a % 4), size - (4 - a % 4))]

/-- An array access is split (R147). -/
def isSplit (a size : Nat) : Bool := a % 4 + size > 4

/-- The pieces of a read, joined little-endian; the first error is the reply (R150). -/
def Chip.readPieces (s : Chip) (e : CoreId) : List (Nat × Nat) → Chip × Reply
  | [] => (s, .ok 0)
  | (a, n) :: ps =>
    match s.memRead (canon e a) n with
    | (s, .ok v) =>
      match s.readPieces e ps with
      | (s, .ok u) => (s, .ok (v ||| (u <<< (8 * n))))
      | r => r
    | r => r

/-- A read of an array by a core. -/
def Chip.arrRead (s : Chip) (e : CoreId) (a size : Nat) : Chip × Reply := s.readPieces e (pieces a size)

/-- The data-cache line of an address (R187). -/
def Core.dcLine (c : Core) (a : Nat) : Option (List Byte) := amapFind (a / 64) c.dcache

/-- A store that hits updates the cached line (R188). -/
def Core.dcStore (c : Core) (a n v : Nat) : Core :=
  { c with dcache := c.dcache.map fun l => if l.1 = a / 64 then (l.1, lineSet l.2 (a % 64) n v) else l }

/-- A line is dropped from the data cache. -/
def Core.dcDrop (c : Core) (a : Nat) : Core := { c with dcache := c.dcache.filter fun l => l.1 != a / 64 }

/-- The instruction-cache line of an address (R131). -/
def Core.icLine (c : Core) (a : Nat) : Option (List Byte) := amapFind (a / 64) c.icache

/-- A line a cache lookup finds, unless a parity error makes the lookup a miss: then the line is invalidated (R189). Whether one does is
open. -/
def Chip.parityOk (s : Chip) (e : CoreId) (a : Nat) (line : Option (List Byte)) (drop : Core → Nat → Core) :
    Chip × Option (List Byte) :=
  match line with
  | none => (s, none)
  | some bs =>
    let k := s.dev.fresh
    let s := s.onDev Dev.tick1
    if Config.parityFails k then (s.onCore e (drop · a), none) else (s, some bs)

/-- A line is dropped from the instruction cache. -/
def Core.icDrop (c : Core) (a : Nat) : Core := { c with icache := c.icache.filter fun l => l.1 != a / 64 }

/-- A line allocated in a cache of `sets` sets and `ways` ways; of a full set the way a free choice names goes (R129). -/
def cacheAlloc (sets ways pick : Nat) (cache : List (Nat × List Byte)) (line : Nat) (data : List Byte) : List (Nat × List Byte) :=
  let set := cache.filter fun l => l.1 % sets == line % sets
  let keep :=
    if set.length < ways then cache
    else match set[pick % ways]? with
      | some v => cache.filter fun l => l.1 != v.1
      | none => cache
  (line, data) :: keep

/-- The 64 bytes of a far line read for an engine's cache (R285), through the far cache where the window has the attribute; none
where the host answers with an error. -/
def Dev.farFill (d : Dev) (a : Nat) : Dev × Option (List Byte) :=
  if d.flag (HPT_FWT_ATTR_CACHE (a / 0x1000000)) then
    match d.farLine a false with
    | (d', none) => (d', none)
    | (d', some l) => (if (d.farFind (d.hostAddr a)).isSome then d' else d'.farAlloc l, some l.data)
  else
    let k := d.fresh
    (d.hostAsked, if d.hostBad then none else some (hostBytes k (d.hostAddr a / 64 * 64) 64))

/-- The 64 bytes of an array line read for an engine's cache; none where a word of it cannot be read. -/
def Chip.arrFill (s : Chip) (e : CoreId) (a : Nat) : Chip × Option (List Byte) :=
  match s.bulkRead (canon e a / 64 * 64) 64 with
  | (s, .inl bs) => (s, some bs)
  | (s, .inr _) => (s, none)

/-- The pieces of a write; each is performed, and the first error is the reply (R150). A store that hits a line the data cache still holds
updates it, while the cache is bypassed too (DESIGN CHOICE, notes/assumptions/88.md: R165 says only that the contents remain). -/
def Chip.writePieces (s : Chip) (e : CoreId) (v : Nat) : List (Nat × Nat) → Chip × Reply
  | [] => (s, .ok 0)
  | (a, n) :: ps =>
    let (s, r) := (s.asks (uidOf e) (canon e a)).memWrite (portOf e a) (canon e a) n (BitVec.ofNat 32 (v % 256 ^ n))
    let s := match r with
      | .ok _ => s.onCore e (·.dcStore a n v)
      | _ => s
    let (s, r') := s.writePieces e (v / 256 ^ n) ps
    (s, match r with | .ok _ => r' | _ => r)

/-- A write of an array by a core, written through its data cache. -/
def Chip.arrWrite (s : Chip) (e : CoreId) (a size : Nat) (v : Word) : Chip × Reply :=
  s.writePieces e v.toNat (pieces a size)

/-- Secure state (R340): kernel mode, the instruction fetched from bank 0x03. -/
def Core.secure (c : Core) (e : CoreId) : Bool := isCur e && c.km && c.cb == 3

/-! ### Performance counters -/

/-- Counter c of an engine's group counts n events of a code if it is enabled, selects it and its filter passes (R172,
R173). -/
def Dev.pmCount1 (d : Dev) (k j : Nat) (km : Bool) (ev n c : Nat) : Dev :=
  let filt := d.get (CAB_PMCTL_FILT k j)
  let sel := bits (d.word (CAB_PMSEL k j)) (8 * c + 7) (8 * c)
  if d.bit (CAB_PMCTL_EN k j) c && sel == ev && (filt == 0 || filt == (if km then 2 else 1)) then
    let f : Fld := ⟨CAB_PMCNT k j c, 31, 0⟩
    let v := d.get f + n
    let d := d.put f v
    if v < 2 ^ 32 then d else d.putBit (CAB_PMCTL_OVF k j) c true
  else d

/-- An engine's counters see n events of a code that belong to an instruction in a mode (R172); the curator has none (R338). -/
def Chip.countIn (s : Chip) (e : CoreId) (km : Bool) (ev n : Nat) : Chip :=
  if isCur e || s.cores[e].halted || n == 0 then s
  else s.onDev fun d => (List.range 4).foldl (fun d c => d.pmCount1 (cabOf e) (slotOf e) km ev n c) d

/-- An engine's counters see n events of a code in its mode. -/
def Chip.count (s : Chip) (e : CoreId) (ev n : Nat) : Chip := s.countIn e s.cores[e].km ev n

/-! ### The store buffer -/

/-- The outcome of a store the port or an array has answered. -/
def Reply.way : Reply → SbWay
  | .ok _ => .done
  | .err _ => .failed
  | .held => .waiting

/-- A store performed at the port (R285, R289), which the engine's own cached line follows (R188). -/
def Chip.farPerform (s : Chip) (e : CoreId) (st : SbEntry) : Chip × Reply :=
  let a := st.addr.toNat
  let (d, r) := s.dev.farStore a st.size st.data
  let s := { s with dev := d }
  match r with
  | .ok _ => ((s.clearResv (s.dev.granule a)).onCore e (·.dcStore a st.size st.data.toNat), r)
  | _ => (s, r)

/-- A posted store dropped at the port (R293): counted as lost. The engine's cached line has its own store all the same (R157). -/
def Chip.dropPost (s : Chip) (e : CoreId) (st : SbEntry) : Chip :=
  (s.onDev (·.loseWrite st.addr.toNat)).onCore e (·.dcStore st.addr.toNat st.size st.data.toNat)

/-- A store sent to its target, as a store-buffer entry names it, and how far it comes. A store answered with an error leaves a cached line
as it is (DESIGN CHOICE, notes/assumptions/88.md: R157 and R188 do not say). -/
def Chip.perform (s : Chip) (e : CoreId) (st : SbEntry) : Chip × SbWay :=
  let a := st.addr.toNat
  if a < 0x10000000 then
    let (s, r) := s.arrWrite e a st.size st.data
    (s, r.way)
  else
    match s.dev.farGate a with
    | .error => (s, .failed)
    | .wait => (s, .waiting)
    | .wakeHold => (s.onDev (·.hold (.post e st) a true), .held s.dev.hpt.nextId)
    | .absent => (s.dropPost e st, .done)
    | .pass =>
      let (s, r) := s.farPerform e st
      (s, r.way)

/-- How far a store of the buffer has come, by its place. -/
def Core.sbMark (c : Core) (i : Nat) (w : SbWay) : Core := { c with sb := c.sb.modify i fun st => { st with way := w } }

/-- The acknowledged stores at the head of a buffer leave it, in order (R140, R142): what is left, and the addresses of those that were
answered with an error. -/
def sbAck : List SbEntry → List SbEntry × List Word
  | [] => ([], [])
  | st :: rest =>
    match st.way with
    | .done => sbAck rest
    | .failed => ((sbAck rest).1, st.addr :: (sbAck rest).2)
    | _ => (st :: rest, [])

/-- Acknowledgements reach the buffer; error replies set out toward the engine (R72). -/
def Core.sbAcked (c : Core) : Core := { c with sb := (sbAck c.sb).1, sbErr := c.sbErr ++ (sbAck c.sb).2 }

/-- The store at a place of the buffer is sent, if it has not been. -/
def Chip.sendStore (s : Chip) (e : CoreId) (i : Nat) : Chip :=
  match s.cores[e].sb[i]? with
  | some st =>
    if st.way = .waiting then
      let (s, w) := s.perform e st
      s.onCore e (·.sbMark i w)
    else s
  | none => s

/-- The oldest store of the buffer that has not been sent is sent (R141), and acknowledgements are taken in. A store that waits at level 4
stays, and those behind it wait too. Stores become visible in program order, to different target units too (DESIGN CHOICE,
notes/assumptions/88.md: R141 allows either order there). -/
def Chip.drain1 (s : Chip) (e : CoreId) : Chip :=
  match s.cores[e].sb.findIdx? (·.way == .waiting) with
  | some i => (s.sendStore e i).onCore e Core.sbAcked
  | none => s

/-- n stores sent. -/
def Chip.drainN (s : Chip) (e : CoreId) : Nat → Chip
  | 0 => s
  | n + 1 => (s.drain1 e).drainN e n

/-- Every store of the buffer sent, and the replies taken in (R158); stores that wait at level 4, that the port holds, or that are behind
one of these, stay. -/
def Chip.drainAll (s : Chip) (e : CoreId) : Chip :=
  let s := s.drainN e s.cores[e].sb.length
  s.onCore e fun c => { c with impErr := c.impErr ++ c.sbErr, sbErr := [] }

/-- The target unit of a byte as stores are ordered by it (R141): the host port, a scratch, or a gallery bank. -/
def unitOf (e : CoreId) (a : Nat) : Nat :=
  if 0x10000000 ≤ a then 0
  else if canon e a / 0x1000000 = 2 then 0x100 + canon e a / 0x8000
  else 0x10000 + canon e a / 0x200000

/-- A store goes to the target unit of one of the addresses. -/
def SbEntry.meets (e : CoreId) (st : SbEntry) (as : List Nat) : Bool :=
  as.any fun a => unitOf e a == unitOf e st.addr.toNat || unitOf e a == unitOf e (st.addr.toNat + st.size - 1)

/-- How many of the oldest stores of a buffer come before accesses to some addresses at their common target unit (R141). -/
def Core.sbBefore (c : Core) (e : CoreId) (as : List Nat) : Nat :=
  (c.sb.mapIdx fun i st => if st.meets e as then i + 1 else 0).foldl max 0

/-- The device addresses of the five words a frame at offset o may have. -/
def Core.frameAddrs (c : Core) (o : Nat) : List Nat := (List.range 5).map fun i => devAddr c.spBank (o + 4 * i)

/-- What the stores already retired have come to when the frame at offset o is accessed (R163): those before it at the same target unit
are done (R141), further ones may be; how many is open, and the rest keep draining. No reply is taken in (R72). -/
def Chip.sendOlder (s : Chip) (e : CoreId) (o : Nat) : Chip :=
  let c := s.cores[e]
  if c.sb.isEmpty then s
  else
    let m := c.sbBefore e (c.frameAddrs o)
    let more := (Config.free s.dev.fresh).toNat % (c.sb.length - m + 1)
    ((List.range (m + more)).foldl (fun s i => s.sendStore e i) (s.onDev Dev.tick1)).onCore e Core.sbAcked

/-! ### The write shadow -/

/-- A shadowed value takes effect. -/
def Core.applyShadow (c : Core) (w : Shadow) : Core :=
  match w.reg with
  | .db => { c with db := w.val }
  | .cb => { c with cb := w.val }
  | .mode => { c with mode := w.val.extractLsb' 0 3 }

/-- One more instruction has run: each waiting write comes one nearer, and those whose shadow is over take effect (R64,
R67). -/
def Core.shadowStep (c : Core) : Core :=
  let ws := c.shadows.map fun w => { w with left := w.left - 1 }
  let c := (ws.filter fun w => w.left == 0).foldl Core.applyShadow c
  { c with shadows := ws.filter fun w => w.left != 0 }

/-- Every waiting write takes effect at once (R66). -/
def Core.shadowFlush (c : Core) : Core := { c.shadows.foldl Core.applyShadow c with shadows := [] }

/-! ### Fetch -/

/-- What an engine or the curator finds itself about a fetch (R57, R58, R79, R131, R165, R338, R341), in the order of R70. -/
def fetchOwn (e : CoreId) (c : Core) (a : Nat) : Option Cause :=
  let b := a / 0x1000000
  if !implemented e a 4 then some (.access 3)
  else if b = 3 && !(isCur e && c.km) then some (.access 6)
  else if b = 4 || (8 ≤ b && b < 16) then some (.access 2)
  else if isCur e && b != 1 && b != 3 then some (.access 2)
  else if !c.allowed c.km .fetch a 4 then some (.access 2)
  else if 16 ≤ b && c.det then some .determinism
  else none

/-- ICOFF and DET bypass the instruction cache; scratch is never cached, and the curator has no cache (R131, R165, R338). -/
def fetchCached (e : CoreId) (c : Core) (a : Nat) : Bool :=
  !isCur e && (a / 0x1000000 == 1 || 0x10000000 ≤ a) && !c.mode.getLsbD 1 && !c.det

/-- A word of a fetched line. -/
def lineWord (data : List Byte) (a : Nat) : Word := BitVec.ofNat 32 (lineGet data (a % 64) 4)

/-- A fetched line is kept in the instruction cache. -/
def Chip.icKeep (s : Chip) (e : CoreId) (a : Nat) (data : List Byte) : Chip :=
  let k := s.dev.fresh
  (s.onCore e fun c => { c with icache := cacheAlloc 64 2 (Config.icVictim k) c.icache (a / 64) data }).onDev Dev.tick1

/-- The far window's answer to a fetch. -/
def Chip.farFetch (s : Chip) (e : CoreId) (a : Nat) : Chip × Reply :=
  match s.dev.farGate a with
  | .error => (s, .err .busError)
  | .absent => (s, .err .farAbsent)
  | .wait => (s, .held)
  | .wakeHold => (s, .held)
  | .pass =>
    let s := s.count e 28 1
    if fetchCached e s.cores[e] a then
      match s.dev.farFill a with
      | (d, none) => ({ s with dev := d }, .err .busError)
      | (d, some bs) => (({ s with dev := d } : Chip).icKeep e a bs, .ok (lineWord bs a))
    else let (d, r) := s.dev.farLoad a 4; ({ s with dev := d }, r)

/-- The counters' name for the port an array access uses (R172): home, loan or second scratch port; none for the private port and bank
0x03. -/
def portEvent (e : CoreId) (a : Nat) : Option Nat :=
  if a / 0x1000000 == 1 then (if (portOf e a).home then some 25 else some 26)
  else if a / 0x1000000 == 2 then some 27 else none

/-- An array access counts at its port. -/
def Chip.countPort (s : Chip) (e : CoreId) (a : Nat) : Chip :=
  match portEvent e a with | some ev => s.count e ev 1 | none => s

/-- A core's read, fetch or atomic at an array's port. -/
def Chip.atPort (s : Chip) (e : CoreId) (a : Nat) : Chip := (s.countPort e a).asks (uidOf e) (canon e a)

/-- The arrays' answer to a fetch. -/
def Chip.arrFetch (s : Chip) (e : CoreId) (a : Nat) : Chip × Reply :=
  match (s.atPort e a).memRead (canon e a) 4 with
  | (s, .ok v) =>
    if fetchCached e s.cores[e] a then
      match s.arrFill e a with
      | (s, some bs) => (s.icKeep e a bs, .ok v)
      | (s, none) => (s, .ok v)
    else (s, .ok v)
  | r => r

/-- The main passes tokens (R343); an engine has none. -/
def Chip.tokens (s : Chip) (e : CoreId) (ts : List Token) : Chip :=
  if isCur e then s.onDev fun d => ts.foldl (fun d t => d.pass t s.cores[e]) d else s

/-- A token with the attributes of the main's own instruction: its mode and its secure state (R340). -/
def Core.token (c : Core) (chan : Chan) (kind : TokKind) (addr : Word) (data : List Word) : Token :=
  ⟨chan, kind, addr, data, 0, true, c.secure 64, c.km⟩

/-- An output token of the main on SYS: SEV, and entry into WFE and WAITT. -/
def Chip.sysToken (s : Chip) (e : CoreId) (k : TokKind) (data : List Word) : Chip := s.tokens e [s.cores[e].token .sys k 0 data]

/-- The end of the main's WFE or WAITT: the event or the timeout comes in, and the exit goes out. -/
def Chip.leaveToken (s : Chip) (e : CoreId) (by' k : TokKind) (data : List Word) : Chip :=
  s.tokens e [s.cores[e].token .evt by' 0 [], s.cores[e].token .sys k 0 data]

/-- The main leaves a WFE or WAITT for an exception or a halt: the exit goes out. -/
def Chip.unwait (s : Chip) (e : CoreId) : Chip :=
  match s.cores[e].wait with
  | .wfe => s.sysToken e .wfeEnd []
  | .waitt .. => s.sysToken e .waittEnd []
  | _ => s

/-- The words of a 64-byte line as they stand, but for those that cannot be read. -/
def Chip.lineWords (s : Chip) (line : Nat) : List Word :=
  (List.range 16).filterMap fun i => match (s.memRead (64 * line + 4 * i) 4).2 with | .ok w => some w | _ => none

/-- The main's fetch moves to another 64-byte line than the one in its line buffer (R167, R338): it asks for the line and is answered. -/
def Chip.enterLine (s : Chip) (e : CoreId) (a : Nat) (ok : Bool) : Chip :=
  if isCur e && s.dev.cur.line != some (a / 64) then
    let c := s.cores[e]
    (s.tokens e [c.token .ireq .fetch (BitVec.ofNat 32 (a / 64 * 64)) [],
      c.token .irsp (if ok then .ok else .error) 0 (if ok then s.lineWords (a / 64) else [])]).onDev
      (·.onCur fun c => { c with line := if ok then some (a / 64) else none })
  else s

/-- A fetch: the word at an address as the core reads it (R55, R57, R131). Only an instruction that is executed is fetched here; that
fetches and loads which are discarded leave no line in a cache is the model's choice (DESIGN CHOICE, notes/assumptions/88.md: R136 lets them). -/
def Chip.fetch (s : Chip) (e : CoreId) (a : Nat) : Chip × Reply :=
  let c := s.cores[e]
  match fetchOwn e c a with
  | some x => (s, .err x)
  | none =>
    match s.parityOk e a (if fetchCached e c a then c.icLine a else none) Core.icDrop with
    | (s, some bs) => (s, .ok (lineWord bs a))
    | (s, none) =>
      match if a < 0x10000000 then s.arrFetch e a else s.farFetch e a with
      | (s, .held) => (s, .held)
      | (s, .err x) => ((if fetchCached e c a then s.count e 6 1 else s).enterLine e a false, .err x)
      | (s, .ok w) => ((if fetchCached e c a then s.count e 6 1 else s).enterLine e a true, .ok w)

/-! ### Taking an exception and returning from one -/

/-- The checks of a frame access in bank SPLIM.BANK (R74 step 2, R105): the bank rule, implemented offsets, secure state on
the curator (R340), and protection in kernel mode; none where all pass. -/
def frameCause (e : CoreId) (c : Core) (sec : Bool) (k : Kind) (a : Nat) : Option Cause :=
  let b := a / 0x1000000
  if !(if isCur e then 1 ≤ b && b ≤ 3 else b ≤ 2) || !implemented e a 4 then some (.access 3)
  else if b = 3 && !sec then some (.access 6)
  else if !c.allowed true k a 4 then some (.access k.detail)
  else none

/-- The device address of frame word i above offset o of the stack bank. -/
def frameAddr (c : Core) (o i : Nat) : Nat := devAddr c.spBank (o + 4 * i)

/-- A frame fault (R76): the core stops with DF set; on the curator it drives the safe state with code FRAME (R338). -/
def Chip.frameFault (s : Chip) (e : CoreId) : Chip :=
  let s := s.onCore e fun c => { c with df := true }
  if isCur e then s.onDev fun d => { d with todo := d.todo ++ [.safeState 5 0] } else s

/-- The tokens of a frame access of the main: the access, and the answer's word or an error. -/
def Chip.frameTokens (s : Chip) (e : CoreId) (k : TokKind) (a : Nat) (data : List Word) (answer : Option Word) : Chip :=
  let c := s.cores[e]
  s.tokens e [{ c.token .dreq k (BitVec.ofNat 32 a) data with be := 15 },
    c.token .drsp (if answer.isSome then .ok else .error) 0 (answer.toList)]

/-- The frame words written upward from offset o, each counted at its port; true where every store was acknowledged (R74 step 3). The order,
EPC first and RC last, and that none follows a store answered with an error, are the model's choice (DESIGN CHOICE,
notes/assumptions/89.md: step 3 gives no order). -/
def Chip.pushFrame (s : Chip) (e : CoreId) (o : Nat) : Nat → List Word → Chip × Bool
  | _, [] => (s, true)
  | i, w :: ws =>
    match (s.countPort e (frameAddr s.cores[e] o i)).arrWrite e (frameAddr s.cores[e] o i) 4 w with
    | (s, .ok _) => (s.frameTokens e .store (frameAddr s.cores[e] o i) [w] (some 0)).pushFrame e o (i + 1) ws
    | (s, _) => (s.frameTokens e .store (frameAddr s.cores[e] o i) [w] none, false)

/-- What an exception enters with: its cause word, its return address, its EVAL, the priority of an interrupt, and whether
the instruction it belongs to executes in secure state (R69, R74, R340). -/
structure Entry where
  ecause : Word
  epc : Word
  eval : Word
  pri : Option (BitVec 5)
  sec : Bool

/-- The slot an entry fetches from (R74 step 5). -/
def vectorOff (c : Core) (code : Nat) : BitVec 24 := c.vbase.extractLsb' 0 24 + BitVec.ofNat 24 (4 * code)

/-- A core waits at the port with an access to a (R294). -/
def Chip.holdCore (s : Chip) (e : CoreId) (w : Nat → Wait) (a : Nat) (wake : Bool) : Chip :=
  let id := s.dev.hpt.nextId
  (s.onDev (·.hold (.core e) a wake)).onCore e fun c => { c with wait := w id }

/-- A fetch that the port does not answer yet: it is held under WAKE_HOLD, or waits at level 4. -/
def Dev.fetchWakes (d : Dev) (a : Nat) : Bool := d.farGate a == .wakeHold

/-- The fetch at the slot: a failure is a frame fault (R74 step 5, R76); one that the port holds goes on waiting there. -/
def Chip.slotFetch (s : Chip) (e : CoreId) : Chip :=
  match s.fetch e s.cores[e].pc with
  | (s, .err _) => s.frameFault e
  | (s, .held) => s.holdCore e .slot s.cores[e].pc (s.dev.fetchWakes s.cores[e].pc)
  | (s, _) => s

/-- CB and the fetch offset go to the vector slot, which is fetched (R74 step 5, R78 step 4). That a slot fetch which fails in a tail chain is
a frame fault too is the model's choice (DESIGN CHOICE, notes/assumptions/89.md: R76 and R105 name only the entry's fetch and the frame
reads). -/
def Chip.vector (s : Chip) (e : CoreId) (code : Nat) : Chip :=
  (s.onCore e fun c => { c with cb := c.vbase.extractLsb' 24 8, off := vectorOff c code }).slotFetch e

/-- The offset of the frame an entry pushes: F bytes below sp (R74 step 2). -/
def Core.frameOff (c : Core) : Nat := (c.sp - (if c.rx then 20 else 16)).toNat % 0x1000000

/-- The words of the frame from its lowest address (R74 step 3, R75). -/
def Core.frameWords (c : Core) : List Word :=
  [c.epc, c.status, c.ecause, c.eval] ++ (if c.rx then [c.rc.zeroExtend 32] else [])

/-- The checks of step 2 of R74: bank, offsets and protection of every word, and the stack limit with the 64-byte margin (R81), which a
frame that wraps at the top of its bank meets word by word. -/
def frameOk (e : CoreId) (c : Core) (sec : Bool) : Bool :=
  (List.range c.frameWords.length).all fun i =>
    (frameCause e c sec .write (frameAddr c c.frameOff i)).isNone
      && (!c.spCheck || c.spLimit ≤ (c.frameOff + 4 * i) % 0x1000000 + 64)

/-- Taking an exception (R74): the frame is checked and pushed; the registers take the new cause; fetch goes to the vector slot. The
reservation is cleared (R107). Stores already retired keep draining (R163), those to the frame's own unit being done first. EXC counts the
entry before its checks, so one that ends in a frame fault counts too (DESIGN CHOICE, notes/assumptions/89.md: R172 says only
"exception entries"). -/
def Chip.enter (s : Chip) (e : CoreId) (x : Entry) : Chip :=
  let s := s.sendOlder e s.cores[e].frameOff
  let s := s.onCore e fun c => { c with resv := none, wait := .none, tblPair := false }
  let s := s.count e 21 1
  let c := s.cores[e]
  let load (s : Chip) : Chip := s.onCore e fun c => { c with epc := x.epc, ecause := x.ecause, eval := x.eval }
  if frameOk e c x.sec then
    match s.pushFrame e c.frameOff 0 c.frameWords with
    | (s, false) => (load s).frameFault e
    | (s, true) =>
      let s := (load s).onCore e fun c =>
        { c.wr 31 (c.sp - (if c.rx then 20 else 16)) with
            km := true, ie := false, rx := false, rc := 0, pri := x.pri.getD c.pri }
      s.vector e (x.ecause.toNat % 256)
  else (load s).frameFault e

/-- ECAUSE for a cause (R60, R69): IMP, SHW, DETAIL and CODE. -/
def causeWord (imp shw : Bool) (c : Cause) : Word :=
  (if imp then 0x80000000 else 0) ||| (if shw then 0x40000000 else 0) ||| BitVec.ofNat 32 (c.detail * 256 + c.code)

/-- A synchronous exception (R69, R74) whose return address has the given offset: inside a write shadow the waiting values
take effect first, SHW is set, and EPC.BANK is the CB so reached (R66). -/
def Chip.raise (s : Chip) (e : CoreId) (c : Cause) (off : BitVec 24) (eval : Word) (sec : Bool) : Chip :=
  let shw := !s.cores[e].shadows.isEmpty
  let s := s.onCore e Core.shadowFlush
  s.enter e { ecause := causeWord false shw c, epc := s.cores[e].cb ++ (off &&& ~~~3#24), eval := eval, pri := none, sec := sec }

/-- The imprecise report of the oldest arrived error reply (R72): EPC is the next instruction not executed. -/
def Chip.raiseImprecise (s : Chip) (e : CoreId) : Chip :=
  match s.cores[e].impErr with
  | [] => s
  | a :: rest =>
    let s := s.onCore e fun c => { c with impErr := rest }
    let c := s.cores[e]
    s.enter e { ecause := causeWord true false .busError, epc := c.cb ++ c.off, eval := a, pri := none, sec := c.secure e }

/-- The tokens of an interrupt the main accepts: its offer and its acceptance. That the offer's token is placed with its acceptance is the
model's choice (DESIGN CHOICE, notes/assumptions/96.md). -/
def Chip.acceptTokens (s : Chip) (e : CoreId) (p n : Nat) : Chip :=
  let c := s.cores[e]
  let ws : List Word := [BitVec.ofNat 32 n, BitVec.ofNat 32 p]
  s.tokens e [c.token .iofr .offer 0 ws, c.token .iack .accept 0 ws]

/-- An interrupt of priority p and source n is accepted (R73, R362) and entered; EPC is the next instruction not executed
(R69). -/
def Chip.enterInterrupt (s : Chip) (e : CoreId) (p n : Nat) : Chip :=
  let s := ((s.onDev (·.accept e p n)).acceptTokens e p n).count e 22 1
  let c := s.cores[e]
  s.enter e { ecause := BitVec.ofNat 32 (0x10 + p), epc := c.cb ++ c.off, eval := BitVec.ofNat 32 n
              pri := some (BitVec.ofNat 5 p), sec := c.secure e }

/-- A frame word read (R105): its checks, then the array's answer, counted at its port. -/
def Chip.frameRead (s : Chip) (e : CoreId) (sec : Bool) (i : Nat) : Chip × Reply :=
  let c := s.cores[e]
  let a := frameAddr c (c.sp.toNat % 0x1000000) i
  match frameCause e c sec .read a with
  | some x => (s, .err x)
  | none =>
    match (s.atPort e a).arrRead e a 4 with
    | (s, .ok w) => (s.frameTokens e .load a [] (some w), .ok w)
    | (s, r) => (s.frameTokens e .load a [] none, r)

/-- A failed frame read of RFE (R105): EPC is the RFE, ECAUSE and EVAL the failed read; a frame fault. -/
def Chip.rfeFault (s : Chip) (e : CoreId) (x : Cause) (i : Nat) : Chip :=
  let c := s.cores[e]
  let a := frameAddr c (c.sp.toNat % 0x1000000) i
  (s.onCore e fun c =>
    { c with epc := c.cb ++ c.off, ecause := causeWord false false x, eval := BitVec.ofNat 32 a }).frameFault e

/-- The words of the frame read upward from word i, or the first failure with its place. -/
def Chip.popFrame (s : Chip) (e : CoreId) (sec : Bool) : List Nat → Chip × (List Word ⊕ (Cause × Nat))
  | [] => (s, .inl [])
  | i :: is =>
    match s.frameRead e sec i with
    | (s, .ok w) =>
      match s.popFrame e sec is with
      | (s, .inl ws) => (s, .inl (w :: ws))
      | r => r
    | (s, .err x) => (s, .inr (x, i))
    | (s, .held) => (s, .inr (.busError, i))

/-- A word as ECAUSE stores it: reserved bits zero, CODE at most 0x1F (R60, R62). -/
def ecauseStore (w : Word) : Word := (w &&& 0xC000FF00) ||| BitVec.ofNat 32 (min (bits w 7 0) 0x1F)

/-- PRI as STATUS stores it: 0 to 16 (R60, R62). -/
def clampPri (v : Nat) : BitVec 5 := BitVec.ofNat 5 (min v 16)

/-- A count as RC stores it: 0 to 65,536 (R60, R62). -/
def clampRc (v : Nat) : BitVec 17 := BitVec.ofNat 17 (min (v % 2 ^ 17) 65536)

/-- The frame is restored (R77): fetch resumes at the old EPC; EPC, ECAUSE and EVAL come from the frame; from its STATUS
word KM, IE, PRI and RX. -/
def Core.restore (c : Core) (epc st ecause eval : Word) (rc : Option Word) : Core :=
  { c.wr 31 (c.sp + (if rc.isSome then 20 else 16)) with
      cb := c.epc.extractLsb' 24 8, off := c.epc.extractLsb' 0 24 &&& ~~~3#24
      epc := epc &&& 0xFFFFFFFC, ecause := ecauseStore ecause, eval := eval
      km := st.getLsbD 0, ie := st.getLsbD 1, pri := clampPri (bits st 20 16), rx := st.getLsbD 30
      rc := match rc with | some v => clampRc v.toNat | none => c.rc }

/-- The tail-chaining test of R78 for a frame's STATUS word: an offer to the core below that word's PRI. -/
def Dev.tailOffer (d : Dev) (e : CoreId) (st : Word) : Option (Nat × Nat) :=
  match d.wouldOffer e with
  | some (p, n) => if st.getLsbD 1 && p < (clampPri (bits st 20 16)).toNat then some (p, n) else none
  | none => none

/-- Return from exception (R77), or the tail chain of R78; sec is the RFE's own secure state (R340). The frame is read as the stores before it
at its target unit have left it (R154). -/
def Chip.rfe (s : Chip) (e : CoreId) (sec : Bool) : Chip :=
  let s := s.sendOlder e (s.cores[e].sp.toNat % 0x1000000)
  let s := s.onCore e fun c => { c with resv := none }
  match s.frameRead e sec 1 with
  | (s, .err x) => s.rfeFault e x 1
  | (s, .held) => s
  | (s, .ok st) =>
    match s.dev.tailOffer e st with
    | some (p, n) =>
      let s := (((s.onDev (·.accept e p n)).acceptTokens e p n).count e 21 1).count e 22 1
      let s := s.onCore e fun c =>
        { c with ecause := BitVec.ofNat 32 (0x10 + p), eval := BitVec.ofNat 32 n, pri := BitVec.ofNat 5 p, km := true, ie := false }
      s.vector e (0x10 + p)
    | none =>
      match s.popFrame e sec ([0, 2, 3] ++ (if st.getLsbD 30 then [4] else [])) with
      | (s, .inr (x, i)) => s.rfeFault e x i
      | (s, .inl ws) =>
        s.onCore e fun c => c.restore (ws.getD 0 0) st (ws.getD 1 0) (ws.getD 2 0) (ws[3]?)

end Sys2Proof.Machine
end

