-- ==== Sys2Proof/Machine/Cab.lean ====
section
/-! DEFINITION. Machine/Cab.lean: the cabinets: canary readings (R23 to R25), the custom slots of the decode tables (R124 to
R128), and calibration of the pace table (R27). -/

namespace Sys2Proof.Machine

open Reg

/-! ### Canaries -/

/-- A wing's cabinets take canary readings: its rail stands at 0.42 V or above, and no request waits that takes it below
(R24). -/
def Dev.canaryRuns (d : Dev) (w : Fin 2) : Bool := 420 ≤ d.railMv w && !d.rseq.any fun r => r.wing == w && r.ask.lowers

/-- Cabinet k takes a reading (R24), which the registrar sees (R265, R268). -/
def Dev.canary (d : Dev) (k ps : Nat) : Dev :=
  if d.canaryRuns (engWing (8 * k)) then (d.canaryRead k ps).canarySeen k else d

/-! ### Slots -/

/-- The pending-check key of slot s of cabinet k. -/
def slotKey (k s : Nat) : Nat := 8 * k + s

/-- A word of a slot's image: 0 the header, j + 1 micro-operation j. -/
def Dev.slotWord (d : Dev) (k s j : Nat) : Word := d.word (CAB_CXTAB k s j)

/-- N and DECL of a slot's header. -/
def Dev.slotN (d : Dev) (k s : Nat) : Nat := bits (d.slotWord k s 0) 21 16
def Dev.slotDecl (d : Dev) (k s : Nat) : Nat := bits (d.slotWord k s 0) 9 0

/-- The micro-operation words of a slot. -/
def Dev.slotOps (d : Dev) (k s : Nat) : List Word := (List.range (d.slotN k s)).map fun j => d.slotWord k s (j + 1)

/-- A slot is loaded (R121). -/
def Dev.slotLoaded (d : Dev) (k s : Nat) : Bool := d.flag (CAB_CXCTL_STATE_EFF k s)

/-- A slot's image may be written (R124). -/
def Dev.slotOpen (d : Dev) (k s : Nat) : Bool :=
  !d.flag (CAB_CXCTL_LOCK k s) && !d.flag (CAB_CXCTL_STATE_REQ k s) && !d.flag (CAB_CXCTL_STATE_EFF k s)

/-- The failure of one micro-operation: 2 OPCODE, 3 OPERAND, 0 none (R123, R125). -/
def uopErr (w : Word) : Nat :=
  let c := bits w 31 26
  let d := bits w 25 21
  let s1 := bits w 20 16
  let s2 := bits w 15 11
  if (uopMarks c).isNone then 2
  else if !(d ≤ 9 || d == 16) || 16 < s1 || 16 < s2 || (!uopUsesS2 c && s2 != 16) then 3
  else 0

/-- The first failing micro-operation of a list with its index and code, and the marks of those before it; j is the index of the
first. -/
def scanUops (j marks : Nat) : List Word → Option (Nat × Nat) × Nat
  | [] => (none, marks)
  | w :: ws => if uopErr w = 0 then scanUops (j + 1) (marks + (uopMarks (bits w 31 26)).getD 0) ws else (some (j, uopErr w), marks)

/-- The commit check of R125: ERR, ERRIDX and COMP. -/
def Dev.slotCheck (d : Dev) (k s : Nat) : Nat × Nat × Nat :=
  let h := d.slotWord k s 0
  let n := d.slotN k s
  if bits h 31 22 ≠ 0 ∨ bits h 15 10 ≠ 0 then (5, 0, 0)
  else if n < 1 || 32 < n then (1, 0, 0)
  else
    match scanUops 0 0 (d.slotOps k s) with
    | (some (j, e), m) => (e, j, 2 + m)
    | (none, m) =>
      let decl := d.slotDecl k s
      if decl = 0 || decl < 2 + m then (4, 0, 2 + m) else (0, 0, 2 + m)

/-- A slot's unload seam (R126). -/
def Dev.slotSeam (d : Dev) (k s : Nat) : Dev :=
  if !d.flag (CAB_CXCTL_STATE_REQ k s) then d.off (CAB_CXCTL_STATE_EFF k s) else d

/-- A core waits in WFE or WAITT. -/
def Core.waiting (c : Core) : Bool :=
  match c.wait with
  | .wfe => true
  | .waitt _ _ => true
  | _ => false

/-- An engine makes nothing happen: it waits, is halted, in reset, or stopped by a frame fault (R407). -/
def Core.quiet (c : Core) : Bool := c.waiting || c.halted || !c.run || c.df

/-- Engine n as a core. -/
def eng (n : Fin 64) : CoreId := ⟨n.val, Nat.lt_trans n.isLt (by decide)⟩

/-- The engines of cabinet k. -/
def Chip.cabCores (s : Chip) (k : Nat) : List Core := (List.range 8).map fun j => s.cores[eng (Fin.ofNat 64 (8 * k + j))]

/-- A write of CXCTL[s] whose STATE_REQ was as given: a rise starts the check, a fall cancels one that runs (R125, R126). -/
def Dev.cxctl (d : Dev) (k s : Nat) (wasReq : Bool) : Dev :=
  let req := d.flag (CAB_CXCTL_STATE_REQ k s)
  if req = wasReq then d
  else
    let rest := d.cx.filter (· != slotKey k s)
    { d with cx := if req then rest ++ [slotKey k s] else rest }

/-- A slot's commit check completes (R125). -/
def Dev.cxDone (d : Dev) (k s : Nat) : Dev :=
  if d.cx.contains (slotKey k s) then
    let (e, j, c) := d.slotCheck k s
    let d := (({ d with cx := d.cx.filter (· != slotKey k s) }.put (CAB_CXCTL_ERR k s) e).put (CAB_CXCTL_ERRIDX k s) j).put
      (CAB_CXCTL_COMP k s) c
    if e = 0 then d.on (CAB_CXCTL_STATE_EFF k s) else d
  else d


/-- The cabinets. -/
def cabs : List Nat := List.range 8

/-- A fabric or wider reset clears the decode tables and CXCTL (R127). -/
def Dev.cabTablesReset (d : Dev) : Dev :=
  cabs.foldl (fun (d : Dev) k => (d.resetRange (CAB_CXCTL k 0) (CAB_CXCTL k 8)).resetRange (CAB_CXTAB k 0 0) (CAB_CXTAB k 8 0))
    { d with cx := [] }

/-- The decode tables were not retained in Deep Sleep (R128): images of zeros, every slot empty; CXCTL keeps the rest. -/
def Dev.cabTablesLost (d : Dev) : Dev :=
  cabs.foldl (fun (d : Dev) k =>
    (List.range 8).foldl (fun d s => d.off (CAB_CXCTL_STATE_EFF k s)) (d.resetRange (CAB_CXTAB k 0 0) (CAB_CXTAB k 8 0)))
    { d with cx := [] }

/-! ### Calibration -/

/-- A live pace scaled by TC[i] to 105 °C, rounded up to the next ps (R27 step 4). -/
def scaledPace (i live : Nat) : Nat := (live * Config.tcNum i + Config.tcDen i) / (Config.tcDen i + 1)

/-- A point calibrated (R27 steps 4 to 6): live is the largest of its 32 readings. -/
def Dev.calPoint (d : Dev) (w i live : Nat) : Dev :=
  let fuse := Config.fusePace i
  let scaled := scaledPace i live
  let pace := max fuse scaled
  ((d.put (ADM_PTAB_PACE w i) (min pace 0xFFFF)).put (ADM_PTAB_SRC w i) (if fuse < scaled then 1 else 0)).put
    (ADM_PTAB_USABLE w i) (if pace ≤ paceLimit i then 1 else 0)

/-- A request of the boot ROM that the PMIC takes, and the wait for the rail to settle (R27). -/
def Dev.bootRail (d : Dev) (w : Fin 2) (i : Fin 16) : Dev :=
  let (d, failed) := d.askRail ⟨w, .point i, .firmware⟩
  if failed then d
  else
    let d := (d.railWrite true 0).1
    d.setRail w { d.rails[w] with lower := d.rails[w].mv }

/-- The points the boot ROM requests in turn: 0.85 V, then every point from 15 down to 0, then 0.60 V (R27 steps 1, 3 and 7). -/
def calRails : List (Fin 16) := (15 :: (List.range 16).reverse ++ [8]).map (Fin.ofNat 16)

/-- Calibration of both wings (R27): live 16 w + i is the largest reading of wing w at point i; eight readings of each cabinet at
each of 16 points, each requested on both rails, and at its end 0.60 V. How many readings the canaries take in all, and the last of them, depend
on time: SEQ and PACE are free values. -/
def Dev.calibrate (d : Dev) (live : List Nat) : Dev :=
  let d := wings.foldl (fun (d : Dev) (w : Fin 2) =>
    (List.range 16).foldl (fun d i => d.calPoint w i (live.getD (16 * w.val + i) 0)) d) d
  let d := calRails.foldl (fun d i => (d.bootRail 0 i).bootRail 1 i) d
  cabs.foldl (fun d k =>
    ((d.put (CAB_PACE_SEQ k) (Config.free d.fresh).toNat).canaryRead k (bits (Config.free d.fresh) 31 16)).tick1) d

end Sys2Proof.Machine
end

