-- ==== Sys2Proof/Machine/Hpt.lean ====
section
/-! DEFINITION. Machine/Hpt.lean: the host port (08_host_port.md): the link, configuration space, the presence of far memory,
the far cache under flushes and snoops, the data port and MSI-X. -/

namespace Sys2Proof.Machine

open Reg

/-- The host port's part of the device changed. -/
def Dev.onHpt (d : Dev) (f : Hpt → Hpt) : Dev := { d with hpt := f d.hpt }

/-- The MSI-X table at reset: every vector masked. -/
def msixReset : Vector MsixEnt 64 := Vector.replicate 64 { addr := 0, data := 0, mask := true }

/-! ### Configuration space -/

/-- What R278 fixes of the capabilities: a dword's offset, the bits it fixes, and their values. The values are the manual's; their places
in the capabilities are those of the PCIe and CXL specifications (PRESUMED, notes/assumptions/90.md). -/
def capFields : List (Nat × Word × Word) :=
  -- D1 and D2 absent, PME from D3hot and D3cold; D0 at reset
  [(Config.pmCap, 0xFE0000FF, 0xC0000001), (Config.pmCap + 4, 0x00000003, 0),
   -- 64 vectors, the table at BAR4 offset 0x0000 and the pending-bit array at 0x1000
   (Config.msixCap, 0xFFFF00FF, 0x003F0011), (Config.msixCap + 4, 0xFFFFFFFF, 0x00000004), (Config.msixCap + 8, 0xFFFFFFFF, 0x00001004),
   -- an endpoint with payloads of up to 512 bytes, 8-bit tags and completion timeout ranges A to D
   (Config.pcieCap, 0x00F000FF, 0x00000010), (Config.pcieCap + 4, 0x00000027, 0x00000022), (Config.pcieCap + 0x24, 0x0000000F, 0x0000000F),
   -- AER, its status clear; L1 PM Substates; the serial number
   (Config.aerCap, 0x0000FFFF, 0x00000001), (Config.aerCap + 4, 0xFFFFFFFF, 0), (Config.l1Cap, 0x0000FFFF, 0x0000001E),
   (Config.dsnCap, 0x0000FFFF, 0x00000003), (Config.dsnCap + 4, 0xFFFFFFFF, Config.fuseSerial 0), (Config.dsnCap + 8, 0xFFFFFFFF, Config.fuseSerial 1)]
  ++
  -- the DVSECs of vendor 0x1E98: Cache_Capable 1, IO_Capable 1, Mem_Capable 0, HDM count 0, cache size 1 MiB; component registers at BAR0
  -- offset 0xF_0000
  [(Config.cxlDvsec, 0x0000FFFF, 0x00000023), (Config.cxlDvsec + 4, 0x0000FFFF, 0x00001E98), (Config.cxlDvsec + 8, 0x0037FFFF, 0x00030000),
   (Config.cxlDvsec + 0x14, 0xFF0F0000, 0x01020000),
   (Config.portDvsec, 0x0000FFFF, 0x00000023), (Config.portDvsec + 4, 0x0000FFFF, 0x00001E98), (Config.portDvsec + 8, 0x0000FFFF, 0x00000007),
   (Config.locDvsec, 0x0000FFFF, 0x00000023), (Config.locDvsec + 4, 0x0000FFFF, 0x00001E98), (Config.locDvsec + 8, 0x0000FFFF, 0x00000008),
   (Config.locDvsec + 0xC, 0xFFFFFF07, 0x000F0100), (Config.locDvsec + 0x10, 0xFFFFFFFF, 0)]

/-- A dword with the bits that R278 fixes. -/
def capWord (off : Nat) (w : Word) : Word :=
  capFields.foldl (fun w f => if f.1 = off then (w &&& ~~~f.2.1) ||| f.2.2 else w) w

/-- The reset value of a configuration dword (R278, R279): identity, class, BAR types and capabilities as the manual gives them. -/
def Dev.cfgReset (d : Dev) (off : Nat) : Word :=
  match off with
  | 0x00 => 0x64181FC4
  | 0x04 => 0
  | 0x08 => 0x0B400011
  | 0x0C => 0
  | 0x10 => 4 | 0x14 => 0 | 0x18 => 4 | 0x1C => 0 | 0x20 => 4 | 0x24 => 0
  | 0x2C => d.word HPT_SUBID
  | _ => if off < 0x40 then Config.cfgWord off else capWord off (Config.cfgWord off)

/-- A configuration dword. -/
def Dev.cfgRead (d : Dev) (off : Nat) : Word := (amapFind off d.hpt.cfg).getD (d.cfgReset off)

/-- The bits of a configuration dword that the host may write: memory space and Bus Master Enable, the BARs by their sizes
(R279), MSI-X enable and function mask, the power state and PME enable, payload size and extended tags, the completion timeout, and the L1
substates. -/
def cfgMask (off : Nat) : Word :=
  if off = 0x04 then 6
  else if off = 0x10 then 0xFFF00000
  else if off = 0x18 then 0xFFFF0000
  else if off = 0x20 then 0xFFFFE000
  else if off = 0x14 ∨ off = 0x1C ∨ off = 0x24 then 0xFFFFFFFF
  else if off = Config.msixCap then 0xC0000000
  else if off = Config.pmCap + 4 then 0x103
  else if off = Config.pcieCap + 8 then 0x1E0
  else if off = Config.pcieCap + 0x28 then 0xF
  else if off = Config.l1Cap + 8 then 0xF
  else 0

/-- The status bits of a configuration dword that a 1 of the host clears: Completer Abort and Unsupported Request of AER (R278, R281). -/
def cfgClears (off : Nat) : Word := if off = Config.aerCap + 4 then 0x108000 else 0

/-- A configuration dword set. -/
def Dev.cfgSet (d : Dev) (off : Nat) (w : Word) : Dev := d.onHpt fun h => { h with cfg := (off, w) :: h.cfg.filter (·.1 != off) }

/-- A configuration dword written. -/
def Dev.cfgPut (d : Dev) (off : Nat) (v : Word) : Dev :=
  let m := cfgMask off
  d.cfgSet off (((d.cfgRead off &&& ~~~m) ||| (v &&& m)) &&& ~~~(v &&& cfgClears off))

/-- A posted write of the host is dropped: as Completer Abort (ca) or as Unsupported Request, which AER shows (R281). -/
def Dev.drops (d : Dev) (ca : Bool) : Dev :=
  let a := Config.aerCap + 4
  (d.cfgSet a (d.cfgRead a ||| (if ca then 0x8000 else 0x100000))).emit (if ca then .abort else .unsupported)

/-- MSI-X Enable and Function Mask, the host's (R328). -/
def Dev.msixOn (d : Dev) : Bool := (d.cfgRead Config.msixCap).getLsbD 31
def Dev.msixFnMask (d : Dev) : Bool := (d.cfgRead Config.msixCap).getLsbD 30

/-! ### Messages -/

/-- The port can send a message: the link is up, Bus Master Enable is 1, the function is in D0 and MSI-X is enabled (R279,
R367). -/
def Dev.canSend (d : Dev) : Bool :=
  d.flag HPT_LSTAT_BME && d.flag HPT_LSTAT_D0 && d.msixOn && 2 ≤ d.get HPT_LSTAT_STATE && d.get HPT_LSTAT_STATE ≤ 5

/-- A vector's message is taken by the port: sent, or kept in the pending-bit array while it is masked (R328). -/
def Dev.msix (d : Dev) (v : Nat) : Dev :=
  match d.hpt.msix[v]? with
  | none => d
  | some e =>
    if e.mask || d.msixFnMask || !d.msixOn then d.onHpt fun h => { h with pba := h.pba ||| (1#64 <<< v) }
    else d.emit (.msix v e.addr e.data)

/-- Pending vectors that are no longer masked are sent (R328). -/
def Dev.msixFlush (d : Dev) : Dev :=
  (List.range 64).foldl (fun d v =>
    match d.hpt.msix[v]? with
    | some e =>
      if d.hpt.pba.getLsbD v && !e.mask && !d.msixFnMask && d.canSend then
        (d.onHpt fun h => { h with pba := h.pba &&& ~~~(1#64 <<< v) }).emit (.msix v e.addr e.data)
      else d
    | none => d) d

/-- The host writes an entry of the MSI-X table (R276, R328): one that it unmasks sends its pending message. -/
def Dev.msixWrite (d : Dev) (v : Fin 64) (addr : BitVec 64) (data : Word) (mask : Bool) : Dev :=
  if d.flag HPT_CTL_CFGRDY then
    (d.onHpt fun h => { h with msix := h.msix.set v { addr := addr, data := data, mask := mask } }).msixFlush
  else d.drops false

/-! ### Presence -/

/-- The link is in L0 or an L1 state (R291). -/
def Dev.linkLive (d : Dev) : Bool := 2 ≤ d.get HPT_LSTAT_STATE && d.get HPT_LSTAT_STATE ≤ 5

/-- The conditions of presence (08_host_port.md, "Far memory that goes away"). -/
def Dev.wantPresent (d : Dev) : Bool :=
  d.linkLive && d.flag HPT_LSTAT_BME && d.flag HPT_LSTAT_D0 && d.flag HPT_HMEM_AVAIL_EFF

/-- The device may send requests: the link is up, Bus Master Enable is 1 and the function is in D0 (R279). -/
def Dev.mayRequest (d : Dev) : Bool := d.linkLive && d.flag HPT_LSTAT_BME && d.flag HPT_LSTAT_D0

/-- Every write on its way has been delivered. -/
def Dev.delivered (d : Dev) : Dev := d.onHpt fun h => { h with flight := [] }

/-- Of the writes on their way when presence falls, some first ones have been delivered; which is open. The others are lost (R292). -/
def Dev.loseFlight (d : Dev) : Dev :=
  if d.hpt.flight.isEmpty then d
  else
    let n := (Config.free d.fresh).toNat % (d.hpt.flight.length + 1)
    ((d.hpt.flight.drop n).foldl Dev.loseWrite d.tick1).delivered

/-- The dirty lines are lost, and every line is invalidated (R292). -/
def Dev.loseCache (d : Dev) : Dev :=
  let d := (d.hpt.fc.reverse.filter (·.st == .modified)).foldl (fun d l => d.loseWrite (l.dev * 64)) d
  d.onHpt fun h => { h with fc := [] }

/-- PRESENT follows its conditions (R292, R294, R329): a fall sets ABSENT, loses writes on their way and the far cache, and pauses the
rings; a rise sends the held accesses. Every engine's copy follows (R292). -/
def Chip.presence (s : Chip) : Chip :=
  let want := s.dev.wantPresent
  if want && !s.dev.present then
    { s with cores := s.cores.map fun c => { c with present := true }
             dev := { s.dev.on HPT_LSTAT_PRESENT with todo := s.dev.todo ++ [.rise] } }
  else if !want && s.dev.present then
    { s with cores := s.cores.map fun c => { c with present := false }
             dev := (((((s.dev.off HPT_LSTAT_PRESENT).on HPT_ISTAT_ABSENT).loseFlight).loseCache).on RNG_STAT_PAUSED).on RNG_ISTAT_PAUSE }
  else s

/-- HPT.FCSTAT.DIRTY. -/
def Dev.fcDirty (d : Dev) : Nat := (d.hpt.fc.filter (·.st == .modified)).length

/-- Every line written back and invalidated (R290, R291). -/
def Dev.fcFlush (d : Dev) (which : FarLine → Bool) : Dev :=
  let d := (d.hpt.fc.reverse.filter which).foldl Dev.farWriteBack d
  d.onHpt fun h => { h with fc := h.fc.filter (!which ·) }

/-- A write of HMEM (R291): AVAIL_REQ raised is effective at once; lowered, the write-back begins. -/
def Chip.hmem (s : Chip) : Chip :=
  if s.dev.flag HPT_HMEM_AVAIL_REQ then
    let s := (s.onDev fun d => (d.on HPT_HMEM_AVAIL_EFF).off HPT_FCSTAT_BUSY).presence
    -- accesses that waited at level 4 go on
    s.onDev fun d => if d.hpt.held.isEmpty then d else { d with todo := d.todo ++ [.rise] }
  else if s.dev.flag HPT_HMEM_AVAIL_EFF then s.onDev (·.on HPT_FCSTAT_BUSY)
  else s

/-- The seam of a lowered AVAIL_REQ (R291), reached when the port holds no far access: the lines go home and every write is delivered,
AVAIL_EFF falls. -/
def Chip.availSeam (s : Chip) : Chip :=
  if !s.dev.flag HPT_HMEM_AVAIL_REQ && s.dev.flag HPT_HMEM_AVAIL_EFF && s.dev.slots == 0 then
    let s := (s.onDev fun d => (((d.fcFlush fun _ => true).delivered).off HPT_FCSTAT_BUSY).off HPT_HMEM_AVAIL_EFF).presence
    s.onDev fun d => if d.hpt.held.isEmpty then d else { d with todo := d.todo ++ [.rise] }
  else s

/-- The seam of a window's disabling (R283), reached when the port holds no access through it: its lines go home; accesses that waited
are answered with an error. -/
def Dev.windowSeam (d : Dev) (b : Nat) : Dev :=
  if !d.flag (HPT_FWT_ATTR_EN_REQ b) && d.flag (HPT_FWT_ATTR_EN_EFF b)
      && !d.hpt.held.any (fun x => x.wake && x.addr / 0x1000000 == b) then
    let d := (d.fcFlush fun l => l.dev * 64 / 0x1000000 == b).off (HPT_FWT_ATTR_EN_EFF b)
    if d.hpt.held.isEmpty then d else { d with todo := d.todo ++ [.rise] }
  else d

/-- FCCMD.FLUSH (R290): every line goes home and is invalid; BUSY until the flush is done. -/
def Dev.fcCmd (d : Dev) : Dev := (d.fcFlush fun _ => true).on HPT_FCSTAT_BUSY

/-- A flush is done (R290). -/
def Dev.fcDone (d : Dev) : Dev :=
  if d.flag HPT_FCSTAT_BUSY && (d.flag HPT_HMEM_AVAIL_REQ || !d.flag HPT_HMEM_AVAIL_EFF) then d.off HPT_FCSTAT_BUSY else d

/-! ### The link -/

/-- Training may start (R274, R521). -/
def Dev.mayTrain (d : Dev) : Bool := d.hpt.perst && d.flag HPT_CTL_LTEN && d.hpt.vphy

/-- LSTAT with the link's outcome fields cleared and a state. -/
def Dev.linkState (d : Dev) (st : Nat) : Dev :=
  let d := d.put HPT_LSTAT_STATE st
  if st < 2 then
    ((((((d.put HPT_LSTAT_MODE 0).put HPT_LSTAT_CXLVER 0).put HPT_LSTAT_RATE 0).put HPT_LSTAT_WIDTH 0).put HPT_LSTAT_REV 0).put
      HPT_LSTAT_POL 0)
  else d

/-- The port enters training where it may: LINKCFG reaches its seam (R275). -/
def Dev.train (d : Dev) : Dev :=
  if d.mayTrain then
    ((((d.put HPT_LINKCFG_RATE_EFF (d.get HPT_LINKCFG_RATE_REQ)).put HPT_LINKCFG_WIDTH_EFF (d.get HPT_LINKCFG_WIDTH_REQ)).put
      HPT_LINKCFG_CXLEN_EFF (d.get HPT_LINKCFG_CXLEN_REQ)).linkState 1)
  else d.linkState 0

/-- What the host negotiates at training (R273, R274). -/
structure LinkUp where
  /-- The host accepts CXL, and in which version (1 CXL 1.1, 2 CXL 2.0, 3 CXL 3.1). -/
  cxl : Bool
  ver : Nat
  rate : Nat
  width : Nat
  rev : Bool
  pol : BitVec 4
  deriving DecidableEq, Repr

/-- Training completes with the link in L0 (R274): CXL only where the port offers it, at 8 GT/s or above; never above RATE_EFF or
WIDTH_EFF. -/
def Chip.linkUp (s : Chip) (u : LinkUp) : Chip :=
  if s.dev.get HPT_LSTAT_STATE = 1 then
    (s.onDev fun d =>
      let rate := min u.rate (d.get HPT_LINKCFG_RATE_EFF)
      let cxl := u.cxl && d.flag HPT_LINKCFG_CXLEN_EFF && 2 ≤ rate
      ((((((((d.put HPT_LSTAT_MODE (if cxl then 2 else 1)).put HPT_LSTAT_CXLVER (if cxl then min 3 (max 1 u.ver) else 0)).put HPT_LSTAT_RATE
        rate).put HPT_LSTAT_WIDTH (min u.width (d.get HPT_LINKCFG_WIDTH_EFF))).put HPT_LSTAT_REV (if u.rev then 1 else 0)).put
        HPT_LSTAT_POL u.pol.toNat).put HPT_LSTAT_D0 (if bits (d.cfgRead (Config.pmCap + 4)) 1 0 = 0 then 1 else 0)).put HPT_LSTAT_STATE 2).on
        HPT_ISTAT_LINKUP).presence
  else s

/-- The link leaves L0 and L1 (R275, R292): LINKDOWN, and back to training where the port may. -/
def Chip.linkLost (s : Chip) : Chip :=
  (s.onDev fun d => ((if d.linkLive then d.on HPT_ISTAT_LINKDOWN else d).train)).presence

/-- PERST_N low: a link reset (R277). -/
def Chip.perstLow (s : Chip) : Chip :=
  (s.onDev fun d =>
    let d := if d.linkLive then d.on HPT_ISTAT_LINKDOWN else d
    let d := d.onHpt fun h => { h with perst := false, cfg := [], msix := msixReset, pba := 0 }
    (((d.linkState 0).put HPT_LSTAT_BME 0).put HPT_LSTAT_D0 0)).presence

/-- PERST_N high: training may begin (R275), and a wake condition (R419). -/
def Chip.perstHigh (s : Chip) : Chip :=
  if s.dev.hpt.perst then s
  else s.onDev fun d => ((d.onHpt fun h => { h with perst := true }).wakeUp 5).train

/-- A write of HPT.CTL that raised LTEN starts training (R275). -/
def Chip.lten (s : Chip) (was : Bool) : Chip :=
  if s.dev.flag HPT_CTL_LTEN && !was then s.linkLost else s

/-- The host moves the link between its power states (R273): 2 L0, 3 L1, 4 L1.1, 5 L1.2, 6 L2; clkreq is CLKREQ_N asserted by
the host, a wake condition (R419). 7 is RECOVERY, which is neither L0 nor an L1 state: LINKDOWN is set and far memory is not present until
the link is back (DEDUCED, notes/assumptions/91.md). -/
def Chip.linkPower (s : Chip) (st : Nat) (clkreq : Bool) : Chip :=
  let s := s.onDev fun d =>
    let d := { d with pwr := { d.pwr with clkreq := clkreq } }
    if clkreq then d.wakeUp 5 else d
  if (s.dev.linkLive || s.dev.get HPT_LSTAT_STATE == 7) && 2 ≤ st && st ≤ 7 then
    (s.onDev fun d => (if st = 7 then d.on HPT_ISTAT_LINKDOWN else d).put HPT_LSTAT_STATE st).presence
  else s

/-- Bus Master Enable set or cleared by the host (R276, R292). -/
def Chip.setBme (s : Chip) (v : Bool) : Chip :=
  if !s.dev.flag HPT_CTL_CFGRDY then s.onDev (·.emit .retry)
  else (s.onDev fun d =>
    (d.cfgPut 4 (if v then d.cfgRead 4 ||| 4 else d.cfgRead 4 &&& ~~~4#32)).put HPT_LSTAT_BME (if v then 1 else 0)).presence

/-- The function moved out of or into D0 (R276, R279, R292). -/
def Chip.setD0 (s : Chip) (v : Bool) : Chip :=
  if !s.dev.flag HPT_CTL_CFGRDY then s.onDev (·.emit .retry)
  else (s.onDev fun d =>
    let off := Config.pmCap + 4
    (d.cfgPut off ((d.cfgRead off &&& ~~~3#32) ||| (if v then 0 else 3))).put HPT_LSTAT_D0 (if v then 1 else 0)).presence

/-- A configuration request (R276, R278): retried until CFGRDY; a read is answered, a write takes effect. -/
def Chip.config (s : Chip) (write : Bool) (off : Nat) (v : Word) : Chip :=
  if !s.dev.flag HPT_CTL_CFGRDY then s.onDev (·.emit .retry)
  else if write then
    let s := s.onDev fun d => ((d.cfgPut off v).emit (.reply []))
    let s := s.onDev fun d =>
      let d := d.put HPT_LSTAT_BME (if (d.cfgRead 4).getLsbD 2 then 1 else 0)
      if off = Config.pmCap + 4 then d.put HPT_LSTAT_D0 (if bits (d.cfgRead off) 1 0 = 0 then 1 else 0) else d
    (s.presence).onDev Dev.msixFlush
  else s.onDev fun d => d.emit (.reply (leBytes 4 (d.cfgRead off).toNat))

/-! ### Snoops -/

/-- The three snoops of R286. -/
inductive Snoop where
  | data | inv | cur
  deriving DecidableEq, Repr

/-- A host snoop answered from the line's state (R286); an invalidation is a host write to come, so reservations on the line's
granule go (R107). Under PCIe there is none. -/
def Chip.snoop (s : Chip) (k : Snoop) (line : Nat) : Chip :=
  if !s.dev.isCxl then s
  else
    match s.dev.hpt.fc.find? (·.host == line) with
    | none =>
      let s := if k = .inv then s.clearResv (lineOf (2 ^ 52 + line * 64)) else s
      s.onDev (·.emit (.snoop false false false []))
    | some l =>
      let dirty := l.st == .modified
      match k with
      | .cur => s.onDev (·.emit (.snoop true true dirty l.data))
      | .data =>
        s.onDev fun d =>
          (d.onHpt fun h => { h with fc := h.fc.map fun x => if x.host = line then { x with st := .shared } else x }).emit
            (.snoop true true dirty (if dirty then l.data else []))
      | .inv =>
        (s.clearResv (lineOf (2 ^ 52 + line * 64))).onDev fun d =>
          (d.farRemove line).emit (.snoop true false dirty (if dirty then l.data else []))

/-! ### The fence list and the data port -/

/-- A byte range [a, a + n) touches fence entry i in a mode the access minds (R301). -/
def Dev.fenceHit (d : Dev) (write : Bool) (a n i : Nat) : Bool :=
  let mode := d.get (HPT_DPF_LIMIT_MODE i)
  let lo := 0x1000 * d.get (HPT_DPF_BASE_ADDR i)
  let hi := 0x1000 * (d.get (HPT_DPF_LIMIT_ADDR i) + 1)
  (mode == 2 || (mode == 1 && write)) && n != 0 && a < hi && lo < a + n && lo < hi

/-- A range is fenced (R301). -/
def Dev.fenced (d : Dev) (write : Bool) (a n : Nat) : Bool := (List.range 8).any (d.fenceHit write a n)

/-- A fence refusal is counted (R301). -/
def Dev.countFence (d : Dev) (a : Nat) : Dev :=
  let d := if d.flag HPT_DPERR_VALID then d else (d.on HPT_DPERR_VALID).put HPT_DPEA_ADDR a
  (d.bumpSat HPT_DPERR_COUNT 1 0xFFFF).on HPT_ISTAT_FENCE

/-- A byte range wholly in bank 0x01 or wholly in bank 0x02, at implemented offsets (R317). -/
def inArrays (a n : Nat) : Bool :=
  (0x1000000 ≤ a && a + n ≤ 0x2000000) || (0x2000000 ≤ a && a + n ≤ 0x2200000)

/-- A byte range in banks 0x01 and 0x02 at implemented offsets (R298); it may lie in both. -/
def inBanks (a n : Nat) : Bool := 0x1000000 ≤ a && a + n ≤ 0x2200000

/-- Why a host access to device memory is refused before it reaches it. -/
inductive DpRefusal where
  | unsupported | abort | fence
  deriving DecidableEq, Repr

/-- The device address of an aperture access (R297). -/
def Dev.dpTarget (d : Dev) (x : Nat) : Nat := if d.hpt.dpinc then d.hpt.dpaddr.toNat else d.hpt.dpaddr.toNat + x

/-- The checks of an aperture access (R276, R281, R298, R299, R301): an access before CFGRDY, of the wrong width or alignment at DPADDR or
DPCTL, in a reserved range or past the aperture's end, or with the port disabled. -/
def Dev.dpCheck (d : Dev) (write : Bool) (off n : Nat) : Option DpRefusal :=
  let a := d.dpTarget (off - 0x8000)
  if !d.flag HPT_CTL_CFGRDY then some .unsupported
  else if off < 8 then some .abort
  else if off < 0x8000 || 0x10000 < off + n then some .unsupported
  else if !d.flag HPT_CTL_DPEN || !inBanks a n then some .abort
  else if d.fenced write a n then some .fence
  else none

/-- DPADDR advances by the bytes of a served access (R297). -/
def Dev.dpAdvance (d : Dev) (n : Nat) : Dev :=
  if d.hpt.dpinc then d.onHpt fun h => { h with dpaddr := h.dpaddr + BitVec.ofNat 32 n &&& ~~~3#32 } else d

/-- A refusal answered to the host (R281, R301). -/
def Dev.dpRefuse (d : Dev) (write : Bool) (a : Nat) (r : DpRefusal) : Dev :=
  let d := if r = .fence then d.countFence a else d
  if write then d.drops (r != .unsupported) else d.emit (if r = .unsupported then .unsupported else .abort)

/-- The answer to a host access that device memory refuses (R281): OFFLINE of a read may return data. -/
def Dev.hostError (d : Dev) (c : Cause) (write : Bool) (n : Nat) : Dev :=
  if c = .offline && !write && d.flag HPT_CTL_ERRDATA then
    d.emit (.reply ((List.range n).map fun i => (BitVec.ofNat 32 0xBAD00FF0).extractLsb' (8 * (i % 4)) 8))
  else if write then d.drops true
  else d.emit .abort

/-- A write of [a, a + n) by a loan-role master is not refused: its halves are on, and the words it writes only in part can be read
(R191, R207, R298). -/
def Chip.bulkMay (s : Chip) (a n : Nat) : Chip × Option Cause :=
  let b := a + n - 1
  if n = 0 then (s, none)
  else if s.dev.galleryOff a || s.dev.galleryOff b then (s, some .offline)
  else
    match if a % 8 = 0 ∧ 8 ≤ n then (s, true) else s.fetch64 a with
    | (s, false) => (s, some .busError)
    | (s, true) =>
      match if b % 8 = 7 ∧ 8 ≤ n then (s, true) else s.fetch64 b with
      | (s, false) => (s, some .busError)
      | (s, true) => (s, none)

/-- A host write in BAR2 (R296 to R301): DPADDR, DPCTL, or the aperture. -/
def Chip.dpWrite (s : Chip) (off : Nat) (data : List Byte) : Chip :=
  let v : Word := BitVec.ofNat 32 (leNat (data.take 4))
  if !s.dev.flag HPT_CTL_CFGRDY then s.onDev (·.drops false)
  else if off = 0 ∧ data.length = 4 then s.onDev (·.onHpt fun h => { h with dpaddr := v &&& ~~~3#32 })
  else if off = 4 ∧ data.length = 4 then s.onDev (·.onHpt fun h => { h with dpinc := v.getLsbD 0 })
  else
    let a := s.dev.dpTarget (off - 0x8000)
    match s.dev.dpCheck true off data.length with
    | some r => s.onDev (·.dpRefuse true a r)
    | none =>
      match (s.asks 0x0C a).bulkMay a data.length with
      | (s, some c) => s.onDev (·.hostError c true data.length)
      | (s, none) =>
        (((s.bulkWrite 0x0C a data.length data).1).burst a data.length).onDev (·.dpAdvance data.length)

/-- A host read in BAR2. -/
def Chip.dpRead (s : Chip) (off n : Nat) : Chip :=
  if !s.dev.flag HPT_CTL_CFGRDY then s.onDev (·.emit .unsupported)
  else if off = 0 ∧ n = 4 then s.onDev fun d => d.emit (.reply (leBytes 4 d.hpt.dpaddr.toNat))
  else if off = 4 ∧ n = 4 then s.onDev fun d => d.emit (.reply (leBytes 4 (if d.hpt.dpinc then 1 else 0)))
  else
    let a := s.dev.dpTarget (off - 0x8000)
    match s.dev.dpCheck false off n with
    | some r => s.onDev (·.dpRefuse false a r)
    | none =>
      match (s.asks 0x0C a).bulkRead a n with
      | (s, .inl bs) => s.onDev fun d => (d.emit (.reply bs)).dpAdvance n
      | (s, .inr c) => s.onDev (·.hostError c false n)

/-! ### MSI-X for interrupt sources -/

/-- The host-routed source whose message is sent next: enabled, pending, the best by priority and number (R367). -/
def Dev.hostSource (d : Dev) : Option (Nat × Nat) :=
  if d.flag ITC_CTL_EN then
    d.bestSource fun s => d.srcEnabled s && d.pending s && d.get (ITC_SRC_TKIND s) == 2
  else none

/-- The port takes a host-routed source's message (R367): its pending bit is cleared; a level source is not pending again until
its line has been seen de-asserted. -/
def Dev.msixSend (d : Dev) : Dev :=
  if d.canSend then
    match d.hostSource with
    | some (_, n) =>
      let d := { d with itc := { d.itc with
        pend := d.itc.pend &&& ~~~(1#256 <<< n)
        sent := if d.srcLevel n && d.itc.line.getLsbD n then d.itc.sent ||| (1#256 <<< n) else d.itc.sent } }
      d.msix (d.get (ITC_SRC_VEC n))
    | none => d
  else d

/-- A system or power-on reset of the port's registers: the far cache is empty, nothing is held. -/
def Dev.hptReset (d : Dev) : Dev :=
  (d.resetBlock 9).onHpt fun h => { h with fc := [], held := [], nextId := h.nextId, sending := none, flight := [], cfg := [], cxl := [], msix := msixReset, pba := 0
                                           dpaddr := 0, dpinc := false, noReply := false }

end Sys2Proof.Machine
end

