-- ==== Sys2Proof/Machine/Serial.lean ====
section
/-! DEFINITION. Machine/Serial.lean: the serial ports, the eSPI target and the boot flash controller (14_platform_ports.md, R431
to R449). -/

namespace Sys2Proof.Machine

open Reg

/-- The ports' part of the device changed. -/
def Dev.onPorts (d : Dev) (f : Ports → Ports) : Dev := { d with ports := f d.ports }

/-- A serial port at rest. -/
def Sp.rest : Sp := { tx := [], rx := [], xfer := none, bus := false, stretch := none }

/-! ### Serial ports -/

/-- An event of a port sets its IRQ bit. -/
def Dev.spEvent (d : Dev) (k : Fin 8) (b : Nat) : Dev := d.putBit (SP_IRQ_ISTAT k) b true

/-- A port changed: its levels follow, and TXLOW and RXHIGH mark the crossing of 16 and 48 bytes (14_platform_ports.md, SPk.STAT
and SPk.IRQ). -/
def Dev.setSp (d : Dev) (k : Fin 8) (x : Sp) : Dev :=
  let old := d.ports.sp[k]
  let d := d.onPorts fun p => { p with sp := p.sp.set k x }
  let d := (d.put (SP_STAT_TXLVL k) x.tx.length).put (SP_STAT_RXLVL k) x.rx.length
  let d := (d.put (SP_STAT_BUSY k) (if x.xfer.isSome then 1 else 0)).put (SP_STAT_TACT k) (if x.stretch.isSome then 1 else 0)
  let d := if 16 < old.tx.length && x.tx.length ≤ 16 then d.spEvent k 4 else d
  if old.rx.length < 48 && 48 ≤ x.rx.length then d.spEvent k 5 else d

/-- Bytes as they fit in a FIFO of n, and those that do not. -/
def fifoFit (n : Nat) (q bs : List Byte) : List Byte × List Byte := (q ++ bs.take (n - q.length), bs.drop (n - q.length))

/-- A port has no transfer and holds no bus (R435). -/
def Sp.idle (x : Sp) : Bool := x.xfer.isNone && !x.bus && x.stretch.isNone

/-- A port is enabled and its change is not requested. -/
def Dev.spOn (d : Dev) (k : Fin 8) : Bool := d.flag (SP_CTL_EN_REQ k) && d.flag (SP_CTL_EN_EFF k)

/-- A write of SPk.CMD (R436, R440). -/
def Dev.spCmd (d : Dev) (k : Fin 8) (v : Word) : Dev :=
  let x := d.ports.sp[k]
  let len := bits v 11 0
  if x.xfer.isSome || (k = 0 && d.flag SP_RSEQCTL_EN && 2 < len) then d.spEvent k 10
  else if v.getLsbD 31 && d.spOn k && (!d.flag (SP_CTL_ROLE k) || d.get (SP_CTL_MODE k) == 4) then
    let rd := v.getLsbD 29
    let c : SpXfer :=
      { rd := rd, stop := v.getLsbD 30, hdr := v.getLsbD 28, addr := v.extractLsb' 16 7, len := len
        sent := if rd then [] else x.tx.take len, more := [] }
    d.setSp k { x with xfer := some c, tx := if rd then x.tx else x.tx.drop len }
  else d

/-- How a controller transfer ends on its bus: by STOP, by a NACK or by lost arbitration, each after n bytes (R436). -/
inductive SpEnd where
  | stop
  | nack (n : Nat)
  | arbLost (n : Nat)
  deriving DecidableEq, Repr

/-- A transfer is over: DONE, and the bus held where STOP was 0 and nothing ended it early (R436). -/
def Dev.spDone (d : Dev) (k : Fin 8) (x : Sp) (hold : Bool) : Dev := (d.setSp k { x with xfer := none, bus := hold }).spEvent k 0

/-- A write transfer ends (R436): UNDER where the FIFO ran empty before LEN bytes; bytes not sent stay in the FIFO. -/
def Dev.spWrote (d : Dev) (k : Fin 8) (x : Sp) (c : SpXfer) (how : SpEnd) : Dev :=
  match how with
  | .stop =>
    let d := d.emit (.serial k c.addr c.sent)
    if c.sent.length < c.len then (d.spDone k x false).spEvent k 7 else d.spDone k x (!c.stop)
  | .nack n =>
    ((d.emit (.serial k c.addr (c.sent.take n))).spDone k { x with tx := (c.sent.drop n ++ x.tx).take 64 } false).spEvent k 1
  | .arbLost n =>
    ((d.emit (.serial k c.addr (c.sent.take n))).spDone k { x with tx := (c.sent.drop n ++ x.tx).take 64 } false).spEvent k 2

/-- A read transfer's bytes reach the RX FIFO (R436): with the FIFO full an I3C controller ends the read with OVR, any other
stops its clock. -/
def Dev.spGot (d : Dev) (k : Fin 8) (x : Sp) (c : SpXfer) (bs : List Byte) : Dev :=
  let (rx, rest) := fifoFit 64 x.rx bs
  let x := { x with rx := rx }
  if rest.isEmpty then d.spDone k x (!c.stop)
  else if d.get (SP_CTL_MODE k) = 2 then (d.spDone k x false).spEvent k 6
  else d.setSp k { x with xfer := some { c with more := rest } }

/-- A controller transfer ends (R436): how, the bytes read from the bus, and whether a checked PEC was wrong. -/
def Dev.spEnd (d : Dev) (k : Fin 8) (how : SpEnd) (bs : List Byte) (pec : Bool) : Dev :=
  let x := d.ports.sp[k]
  match x.xfer with
  | some c =>
    if !d.clocksOn || !c.more.isEmpty then d
    else
      let d := if pec && d.get (SP_CTL_MODE k) == 1 && d.flag (SP_CFG_PEC k) then d.spEvent k 8 else d
      if !c.rd then d.spWrote k x c how
      else
        match how with
        | .stop => d.spGot k x c (bs.take c.len)
        | .nack _ => (d.spDone k x false).spEvent k 1
        | .arbLost _ => (d.spDone k x false).spEvent k 2
  | none => d

/-- A byte written to SPk.DATA (R436): to the TX FIFO, or at once to a write transfer or a stretched target read that waits for
it; OVR where the FIFO is full. -/
def Dev.spPush (d : Dev) (k : Fin 8) (b : Byte) : Dev :=
  let x := d.ports.sp[k]
  match x.xfer, x.stretch with
  | some c, _ =>
    if !c.rd && c.sent.length < c.len then d.setSp k { x with xfer := some { c with sent := c.sent ++ [b] } }
    else if x.tx.length < 64 then d.setSp k { x with tx := x.tx ++ [b] }
    else d.spEvent k 6
  | none, some (n, _) =>
    (d.emit (.serial k 0 [b])).setSp k { x with stretch := if n ≤ 1 then none else some (n - 1, d.tb) }
  | none, none => if x.tx.length < 64 then d.setSp k { x with tx := x.tx ++ [b] } else d.spEvent k 6

/-- A read of SPk.DATA pops the RX FIFO (R436); a controller that had stopped its clock takes its next byte. -/
def Dev.spPop (d : Dev) (k : Fin 8) : Dev × Word :=
  let x := d.ports.sp[k]
  match x.rx with
  | [] => (d.tick1, (Config.fifoEmpty d.fresh).zeroExtend 32)
  | b :: rest =>
    let x := { x with rx := rest }
    let d := match x.xfer with
      | some c => if c.more.isEmpty then d.setSp k x else (d.setSp k x).spGot k x { c with more := [] } c.more
      | none => d.setSp k x
    (d, 0x100 ||| b.zeroExtend 32)

/-- An illegal combination of a port (R435). -/
def Dev.spIllegal (d : Dev) (k : Fin 8) : Bool :=
  let m := d.get (SP_CTL_MODE k)
  (m == 3 && d.flag (SP_CTL_ROLE k) && k.val < 6) || (k.val == 7 && d.flag PAD_BAT_ROUTE && 2 ≤ m)

/-- The seam of a port's disabling (R435). -/
def Dev.spSeam (d : Dev) (k : Fin 8) : Dev :=
  if !d.flag (SP_CTL_EN_REQ k) && d.flag (SP_CTL_EN_EFF k) && d.ports.sp[k].idle then d.off (SP_CTL_EN_EFF k) else d

/-- A write of SPk.CTL whose EN_REQ was as given (R435). -/
def Dev.spCtl (d : Dev) (k : Fin 8) (was : Bool) : Dev :=
  let req := d.flag (SP_CTL_EN_REQ k)
  if req && !was then
    if d.spIllegal k then d.put (SP_STAT_ERR k) 1 else (d.put (SP_STAT_ERR k) 0).on (SP_CTL_EN_EFF k)
  else if !req then d.spSeam k
  else d

/-- A bus controller addresses a port in target role (R437): the address, whether it reads, how many bytes it asks for, the
bytes it writes, and a dynamic address it assigns. -/
structure SpCall where
  addr : BitVec 7
  rd : Bool
  len : Nat
  data : List Byte
  dyn : Option (BitVec 7)
  deriving DecidableEq, Repr

/-- The port answers at an address (R437). -/
def Dev.spMine (d : Dev) (k : Fin 8) (c : SpCall) : Bool :=
  let m := d.get (SP_CTL_MODE k)
  m == 3 || (m == 2 && c.dyn.isSome) || d.get (SP_TADDR_SADDR k) == c.addr.toNat
    || (m == 2 && d.get (SP_TADDR_DYN k) != 0 && d.get (SP_TADDR_DYN k) == c.addr.toNat)

/-- A port in target role is addressed on its bus (R437). -/
def Dev.spAddressed (d : Dev) (k : Fin 8) (c : SpCall) : Dev :=
  let x := d.ports.sp[k]
  let m := d.get (SP_CTL_MODE k)
  if d.spOn k && d.clocksOn && d.flag (SP_CTL_ROLE k) && m != 4 && x.idle && d.spMine k c then
    let d := d.spEvent k 3
    let d := match c.dyn with
      | some a => if m = 2 then d.put (SP_TADDR_DYN k) a.toNat else d
      | none => d
    if c.rd then
      let out := x.tx.take c.len
      let d := d.emit (.serial k c.addr out)
      let short := c.len - out.length
      d.setSp k { x with tx := x.tx.drop c.len, stretch := if short = 0 || 2 ≤ m then none else some (short, d.tb) }
    else
      let (rx, rest) := fifoFit 64 x.rx c.data
      let d := d.setSp k { x with rx := rx }
      if rest.isEmpty then d else d.spEvent k 6
  else d

/-- Ticks of 25 ms (R437). -/
def stretchTicks : Nat := 25 * msTicks

/-- A target read has held SCL low for 25 ms (R437): SCL is released and 0xFF sent. -/
def Dev.spTimeout (d : Dev) (k : Fin 8) : Dev :=
  let x := d.ports.sp[k]
  match x.stretch with
  | some (n, t) =>
    if t + stretchTicks ≤ d.tb then
      ((d.emit (.serial k 0 [0xFF])).setSp k { x with stretch := if n ≤ 1 then none else some (n - 1, d.tb) }).spEvent k 12
    else d
  | none => d

/-- A UART receives a character (R432): stored if there is room, else OVR; FRAME marks a wrong stop bit or parity. -/
def Dev.uartReceive (d : Dev) (k : Fin 8) (b : Byte) (bad : Bool) : Dev :=
  let x := d.ports.sp[k]
  if d.spOn k && d.clocksOn && d.get (SP_CTL_MODE k) == 4 then
    let d := if bad then d.spEvent k 9 else d
    if x.rx.length < 64 then d.setSp k { x with rx := x.rx ++ [b] } else d.spEvent k 6
  else d

/-- An I3C controller takes an in-band interrupt (R432). -/
def Dev.spIbi (d : Dev) (k : Fin 8) : Dev :=
  if d.spOn k && d.clocksOn && d.get (SP_CTL_MODE k) == 2 && !d.flag (SP_CTL_ROLE k) then d.spEvent k 11 else d

/-- SPk.IRQ as it reads: RXNE follows the FIFO. -/
def Dev.spIrqWord (d : Dev) (k : Fin 8) : Word :=
  d.word (SP_IRQ k) ||| (if d.ports.sp[k].rx.isEmpty then 0 else 0x2000)

/-! ### eSPI target -/

/-- The eSPI target changed. -/
def Dev.onEspi (d : Dev) (f : Espi → Espi) : Dev := d.onPorts fun p => { p with espi := f p.espi }

/-- The eSPI target at rest; the level of ESPI_RST_N is the host's. -/
def Espi.rest (rstn : Bool) : Espi := { rstn := rstn, ctl := 0x8, ioMode := 0, chans := 0, defer := none, offer := none }

/-- An ISTAT bit becomes 1: an enabled one sends an edge to source 137. -/
def Dev.espiEvent (d : Dev) (b : Nat) : Dev :=
  if d.bit ESPI_IRQ_ISTAT b then d
  else
    let d := d.putBit ESPI_IRQ_ISTAT b true
    if d.bit ESPI_IRQ_IEN b then d.sendPulse 137 else d

/-- The target takes part in a channel: 0 peripheral, 1 virtual wire, 2 OOB. -/
def Dev.espiReady (d : Dev) (ch : Nat) : Bool := d.flag ESPI_CTL_EN && d.ports.espi.rstn && d.bit ESPI_STAT_RDY ch

/-- The host selects the target (ESPI_CS_N), a wake condition (R419). -/
def Dev.espiSelect (d : Dev) : Dev := d.wakeUp 6

/-- The window an I/O cycle of n bytes is served by (R444). -/
def Dev.espiWindow (d : Dev) (port n : Nat) : Option Nat :=
  [0, 1, 2, 3].find? fun i =>
    let b := d.get (ESPI_IOWIN_BASE i)
    d.flag (ESPI_IOWIN_EN i) && b ≤ port && port + n ≤ b + d.get (ESPI_IOWIN_SIZE i)

/-- Byte o of a window's mailbox, read and written (R444). -/
def Dev.mbxByte (d : Dev) (i o : Nat) : Byte := (d.word (ESPI_MBX i (o / 4))).extractLsb' (8 * (o % 4)) 8
def Dev.setMbx (d : Dev) (i o : Nat) : List Byte → Dev
  | [] => d
  | b :: bs => (d.put ⟨ESPI_MBX i (o / 4), 8 * (o % 4) + 7, 8 * (o % 4)⟩ b.toNat).setMbx i (o + 1) bs

/-- An I/O write cycle (R444). -/
def Dev.espiIoWrite (d : Dev) (port : Nat) (data : List Byte) : Dev :=
  let d := d.espiSelect
  if !d.espiReady 0 then d
  else if d.ports.espi.ctl.getLsbD 29 && port == 0x80 then
    ((d.put ESPI_P80_VALUE (data.headD 0).toNat).on ESPI_P80_VALID).espiEvent 4
  else
    match d.espiWindow port data.length with
    | some i => (d.setMbx i (port - d.get (ESPI_IOWIN_BASE i)) data).espiEvent i
    | none => d

/-- An I/O read cycle of n bytes (R444). -/
def Dev.espiIoRead (d : Dev) (port n : Nat) : Dev :=
  let d := d.espiSelect
  if !d.espiReady 0 then d
  else
    match d.espiWindow port n with
    | some i =>
      let o := port - d.get (ESPI_IOWIN_BASE i)
      d.emit (.reply ((List.range n).map fun j => d.mbxByte i (o + j)))
    | none => d.emit (.reply (List.replicate n 0xFF))

/-- A memory cycle is answered with an unsuccessful completion (R443). -/
def Dev.espiMemory (d : Dev) : Dev :=
  let d := d.espiSelect
  if d.espiReady 0 then d.emit .unsuccessful else d

/-- The host's SET_CONFIGURATION (R443): frequency code, I/O mode and channels, within what is advertised. -/
def Dev.espiConfig (d : Dev) (freq mode : Nat) (chans : BitVec 3) : Dev :=
  let d := d.espiSelect
  if d.flag ESPI_CTL_EN && d.ports.espi.rstn then
    ((d.put ESPI_STAT_FREQ (min freq 4)).put ESPI_STAT_RDY chans.toNat).onEspi fun e =>
      { e with ioMode := min mode (bits e.ctl 3 2), chans := chans }
  else d

/-- Device wires are sent at the next opportunity, with Alert (R445). -/
def Dev.espiWires (d : Dev) : Dev := if d.espiReady 1 then d.emit (.wires (d.word ESPI_VWOUT)) else d

/-- A hardware wire of VWOUT changes (R445): 0 CURFAULT, 1 FARWAKE. -/
def Dev.espiHwWire (d : Dev) (b : Nat) (v : Bool) : Dev :=
  if d.bit ESPI_VWOUT_HWW b = v then d else (d.putBit ESPI_VWOUT_HWW b v).espiWires

/-- A host OOB packet enters the RX buffer (R446). -/
def Dev.oobStore (d : Dev) (data : List Byte) : Dev :=
  let bs := data.take 64
  let d := (List.range 16).foldl (fun d i => d.setWord (ESPI_OOBRX i) (BitVec.ofNat 32 (leNat ((bs.drop (4 * i)).take 4)))) d
  ((d.put ESPI_OOBCTL_RXLEN bs.length).on ESPI_OOBCTL_RXV).espiEvent 6

/-- A host OOB packet (R446): stored, or deferred while RXV is 1. -/
def Dev.oobPacket (d : Dev) (data : List Byte) : Dev :=
  let d := d.espiSelect
  if !d.espiReady 2 then d
  else if d.flag ESPI_OOBCTL_RXV then d.onEspi fun e => { e with defer := some (e.defer.getD data) }
  else d.oobStore data

/-- A write of OOBCTL (R446): a packet offered to the host; a deferred one enters once RXV is 0. -/
def Dev.oobCtl (d : Dev) (v : Word) : Dev :=
  let d := if v.getLsbD 31 then d.onEspi fun e => { e with offer := some (min 64 (max 1 (bits v 6 0))) } else d
  match d.ports.espi.defer with
  | some p => if d.flag ESPI_OOBCTL_RXV then d else (d.onEspi fun e => { e with defer := none }).oobStore p
  | none => d

/-- The host takes the offered packet (R446). -/
def Dev.oobTaken (d : Dev) : Dev :=
  let d := d.espiSelect
  match d.ports.espi.offer with
  | some n =>
    if d.espiReady 2 then
      let bs := ((List.range 16).map fun i => leBytes 4 (d.word (ESPI_OOBTX i)).toNat).flatten.take n
      ((d.emit (.oob bs)).onEspi fun e => { e with offer := none }).espiEvent 7
    else d
  | none => d

/-- ESPI_RST_N low (R447). -/
def Dev.espiReset (d : Dev) : Dev :=
  let d := ((d.put ESPI_STAT_RSTN 0).put ESPI_STAT_FREQ 0).put ESPI_STAT_RDY 0
  let d := ((d.put ESPI_VWOUT_SYS 0).put ESPI_VWOUT_FW 0).resetRange (ESPI_OOBTX 0) (ESPI_OOBRX 16)
  let d := (d.off ESPI_OOBCTL_RXV).put ESPI_OOBCTL_RXLEN 0
  (d.onEspi fun e => { Espi.rest false with ctl := e.ctl }).espiEvent 8

/-- ESPI_RST_N rises (14_platform_ports.md, ESPI.CTL; R419). -/
def Dev.espiRise (d : Dev) : Dev :=
  if d.ports.espi.rstn then d
  else ((d.put ESPI_STAT_RSTN 1).onEspi fun e => { e with rstn := true, ctl := d.word ESPI_CTL }).wakeUp 6

/-! ### Boot flash -/

/-- The flash controller changed; STAT.LVL follows its FIFO. -/
def Dev.setFspi (d : Dev) (x : Fspi) : Dev :=
  let d := d.onPorts fun p => { p with fspi := x }
  d.put FSPI_STAT_LVL x.fifo.length

/-- The flash address of a command (R448). -/
def Dev.flashAddr (d : Dev) (hasAddr : Bool) : Nat :=
  if !hasAddr then 0 else if d.flag FSPI_CTL_ADDR4 then d.get FSPI_ADDR_ADDR else d.get FSPI_ADDR_ADDR % 0x1000000

/-- A flash range touches the protected granules (R449). -/
def Dev.flashProtected (d : Dev) (a n : Nat) : Bool :=
  d.flag FSPI_WP_EN && n != 0 && a / 4096 ≤ d.get FSPI_WP_LAST && d.get FSPI_WP_FIRST ≤ (a + n - 1) / 4096

/-- Bytes read from the flash: free values (the flash lies outside the device). -/
def flashBytes (k a n : Nat) : List Byte := (List.range n).map fun i => Config.flashByte k (a + i)

/-- Data bytes come from the flash into the FIFO, and the command is done. -/
def Dev.flashIn (d : Dev) (a n : Nat) : Dev :=
  let x := d.ports.fspi
  (d.tick1.setFspi { x with fifo := (fifoFit 256 x.fifo (flashBytes d.fresh a n)).1 }).on FSPI_STAT_DONE

/-- Data bytes go from the FIFO to the flash. -/
def Dev.flashOut (d : Dev) (op a n : Nat) : Dev :=
  let x := d.ports.fspi
  (d.emit (.flash op a (x.fifo.take n))).setFspi { x with fifo := x.fifo.drop n }

/-- A write of FSPI.CMD (R448, R449). -/
def Dev.flashCmd (d : Dev) (v : Word) : Dev :=
  if d.flag FSPI_STAT_BUSY || !v.getLsbD 31 || !d.flag FSPI_CTL_EN then d
  else
    let op := bits v 20 13
    let n := min 256 (bits v 8 0)
    let a := d.flashAddr (v.getLsbD 26)
    let poll (d : Dev) : Dev := (d.setFspi { d.ports.fspi with since := some d.tb }).on FSPI_STAT_BUSY
    match bits v 30 29 with
    | 0 => (d.emit (.flash op a [])).flashIn a n
    | 1 => if d.flashProtected a n then d.on FSPI_STAT_WPERR else poll (d.flashOut op a n)
    | 2 =>
      if d.flashProtected a (Config.eraseSize (BitVec.ofNat 8 op)) then d.on FSPI_STAT_WPERR else poll (d.emit (.flash op a []))
    | _ =>
      if Config.flashSends (BitVec.ofNat 8 op) then (d.flashOut op a n).on FSPI_STAT_DONE
      else (d.emit (.flash op a [])).flashIn a n

/-- A poll of the flash's status, 16 µs apart (R449): bit 0 at 0 ends the command. -/
def Dev.flashPoll (d : Dev) (status : Byte) : Dev :=
  match d.ports.fspi.since with
  | some _ =>
    if status.getLsbD 0 || !d.clocksOn then d
    else ((d.setFspi { d.ports.fspi with since := none }).on FSPI_STAT_DONE).off FSPI_STAT_BUSY
  | none => d

/-- Polling has lasted 8 s (R449). -/
def Dev.flashTimeout (d : Dev) : Dev :=
  match d.ports.fspi.since with
  | some t =>
    if t + 8000 * msTicks ≤ d.tb then
      ((d.setFspi { d.ports.fspi with since := none }).on FSPI_STAT_PTMO).off FSPI_STAT_BUSY
    else d
  | none => d

/-- A write of FSPI.DATA pushes four bytes (R448). -/
def Dev.flashPush (d : Dev) (v : Word) : Dev :=
  let x := d.ports.fspi
  d.setFspi { x with fifo := (fifoFit 256 x.fifo (leBytes 4 v.toNat)).1 }

/-- A read of FSPI.DATA pops four bytes (R448); missing ones are free values. -/
def Dev.flashPop (d : Dev) : Dev × Word :=
  let x := d.ports.fspi
  let k := d.fresh
  let bs := x.fifo.take 4
  let d := (if bs.length < 4 then d.tick1 else d).setFspi { x with fifo := x.fifo.drop 4 }
  (d, BitVec.ofNat 32 (leNat (bs ++ List.replicate (4 - bs.length) (Config.fifoEmpty k))))

end Sys2Proof.Machine
end

