-- ==== Sys2Proof/Machine/Pins.lean ====
section
/-! DEFINITION. Machine/Pins.lean: microphones, GPIO and the other inputs, pad hold and the line guard (14_platform_ports.md, R450
to R463; R425, R519). -/

namespace Sys2Proof.Machine

open Reg

/-! ### Microphones -/

/-- An ISTAT bit of PDM becomes 1: an enabled one sends an edge to source 136. -/
def Dev.pdmEvent (d : Dev) (b : Nat) : Dev :=
  if d.bit PDM_IRQ_ISTAT b then d
  else
    let d := d.putBit PDM_IRQ_ISTAT b true
    if d.bit PDM_IRQ_IEN b then d.sendPulse 136 else d

/-- A decimated sample shifted left by GAIN with saturation (R450). -/
def pdmGain (g : Nat) (x : BitVec 16) : BitVec 16 :=
  let v := x.toInt * 2 ^ g
  BitVec.ofInt 16 (if v < -32768 then -32768 else if 32767 < v then 32767 else v)

/-- Two samples a word, the earlier in the low half (R450). -/
def packSamples : List (BitVec 16) → List Word
  | [] => []
  | [a] => [a.zeroExtend 32]
  | a :: b :: rest => (b ++ a) :: packSamples rest

/-- The enabled microphones. -/
def Dev.mics (d : Dev) : Nat := ((List.range 4).filter (d.bit PDM_CTL_MICEN)).length

/-- The depot's status slot of a unit as a code, taken and cleared. -/
def Dev.takeSlot (d : Dev) (uid : Nat) : Dev × Nat := (d.setSlot uid .empty, (d.slot uid).code)

/-- The data words of an item pushed one by one, the last as LAST (R216). -/
def Chip.pushWords (s : Chip) (uid q : Nat) : List Word → Chip
  | [] => s
  | [w] => s.push uid q w true
  | w :: ws => (s.push uid q w false).pushWords uid q ws

/-- An item pushed whole by a unit of the device; with the depot's status code, 0 for OK. -/
def Chip.pushItem (s : Chip) (uid q tag : Nat) (ws : List Word) : Chip × Nat :=
  let s := s.head uid q (BitVec.ofNat 32 (0x10000 * tag + ws.length))
  let s := if (s.dev.slot uid).code = 0 then s.pushWords uid q ws else s
  let (d, code) := s.dev.takeSlot uid
  ({ s with dev := d }, code)

/-- A frame of microphone samples, interleaved by microphone number (R450): one item, or a dropped frame. -/
def Chip.pdmFrame (s : Chip) (samples : List (BitVec 16)) : Chip :=
  let d := s.dev
  if d.flag PDM_CTL_EN_EFF && d.clocksOn then
    let n := d.mics * d.get PDM_QCFG_FRAME
    let ws := packSamples ((List.range n).map fun i => pdmGain (d.get PDM_CTL_GAIN) (samples.getD i 0))
    let (s, code) := s.pushItem 0x1C (d.get PDM_QCFG_QUEUE) (d.get PDM_STAT_SEQ) ws
    let s := s.onDev (·.bump PDM_STAT_SEQ 1)
    if code = 0 then s else s.onDev fun d => (d.bumpSat PDM_STAT_DROPS 1 0xFFFF).pdmEvent 0
  else s

/-- The seam of PDM.CTL.EN (R451). -/
def Dev.pdmSeam (d : Dev) : Dev :=
  let req := d.flag PDM_CTL_EN_REQ
  if req = d.flag PDM_CTL_EN_EFF then d
  else if req then ((d.on PDM_CTL_EN_EFF).put PDM_STAT_DROPS 0).put PDM_STAT_SEQ 0
  else d.off PDM_CTL_EN_EFF

/-- A write of PDM.CTL (R47, R451): with no frame in progress the change is effective at once. -/
def Dev.pdmWrite (d : Dev) : Dev := if d.flag PDM_CTL_EN_EFF && d.clocksOn then d else d.pdmSeam

/-- The voice-activity detector runs: on VAON in Sleep and Deep Sleep (R424), on the PDM path otherwise (R452). -/
def Dev.vadRuns (d : Dev) : Bool :=
  if d.asleep then d.flag PWR_WAKEEN_VAD && d.get PWR_STAT_STATE != 4
  else d.flag PDM_CTL_EN_EFF && d.bit PDM_CTL_MICEN 0 && d.clocksOn

/-- The voice-activity detector fires (R424, R452). -/
def Dev.vadFire (d : Dev) : Dev :=
  if d.vadRuns then
    let d := if d.flag PDM_VAD_VEN then d.pdmEvent 1 else d
    d.wakeUp 9
  else d

/-! ### GPIO and other inputs -/

/-- The GPIO block changed. -/
def Dev.onGpio (d : Dev) (f : Gpio → Gpio) : Dev := d.onPorts fun p => { p with gpio := f p.gpio }

/-- An input's counters at rest. -/
def GpioIn.rest : GpioIn := ⟨0, 0, 0⟩

/-- A filtered input's counters. -/
def Dev.inCount (d : Dev) (i : Nat) : GpioIn := amapGet .rest d.ports.gpio.ins i

/-- A filtered input's counters changed. -/
def Dev.setInCount (d : Dev) (i : Nat) (x : GpioIn) : Dev := d.onGpio fun g => { g with ins := amapSet .rest i x g.ins }

/-- A filtered input is masked, STORM or STUCK (R455). -/
def Dev.inMasked (d : Dev) (i : Nat) : Bool :=
  d.bit (GPIO_STORM_MASK (i / 32)) (i % 32) || d.bit (GPIO_STUCK_MASK (i / 32)) (i % 32)

/-- The filtered level of an input. -/
def Dev.inLevel (d : Dev) (i : Nat) : Bool := d.bit (GPIO_IN_IN (i / 32)) (i % 32)

/-- The line of a filtered input (R453, R455). -/
def Dev.inLine (d : Dev) (i : Nat) : Bool := !d.inMasked i && (d.inLevel i != d.flag (GPIO_PIN_INV i))

/-- A group source's condition: a pin of GPIO8g to GPIO8g+7 with GRP has its line asserted (R453). -/
def Dev.groupLine (d : Dev) (g : Nat) : Bool :=
  (List.range 8).any fun j => d.flag (GPIO_PIN_GRP (8 * g + j)) && d.inLine (8 * g + j)

/-- What a change of an input's line brings about (R457, R461): LID_SENSE makes an edge, BAT_PRES calls for a probe. -/
def Dev.lineMoved (d : Dev) (i : Nat) (was : Bool) : Dev :=
  let now := d.inLine i
  if now = was then d
  else
    let d := if now then d.setInCount i { d.inCount i with since := d.tb } else d
    let d := if i = 64 then d.sendPulse 147 else d
    if i = 65 && now && d.flag (PAD_GCFG_REVDET 0) && d.flag PAD_BAT_ROUTE then
      d.onPorts fun p => { p with pad := { p.pad with probe := true } }
    else d

/-- Ticks of the 10 ms window of R455. -/
def stormTicks : Nat := 10 * msTicks

/-- A guarded input while VIO33 is out of its limits (R519). -/
def Dev.inDead (d : Dev) (i : Nat) : Bool := 64 ≤ i && !d.ports.pad.vio33

/-- A new level passes the glitch filter of an input (R454): an edge of its window, and its line follows. -/
def Dev.inTake (d : Dev) (i : Fin 68) (level : Bool) : Dev :=
  if d.inLevel i = level || d.inDead i then d
  else
    let was := d.inLine i
    let c := d.inCount i
    let c := if c.start + stormTicks ≤ d.tb then { c with start := d.tb, edges := 1 } else { c with edges := c.edges + 1 }
    let d := (d.setInCount i c).putBit (GPIO_IN_IN (i / 32)) (i % 32) level
    d.lineMoved i was

/-- A new level that the glitch filter of an input passes (R454). With the serial clock stopped the filter stands (R375): the input's latest level
waits for the clock. -/
def Dev.inChange (d : Dev) (i : Fin 68) (level : Bool) : Dev :=
  if d.clocksOn then d.inTake i level
  else
    { d with crossing := (d.crossing.filter fun x => match x with | .level j _ => j != i | _ => true) ++ [.level i level] }

/-- The group interrupt of a masked input, raised once (R455). -/
def Dev.maskInterrupt (d : Dev) (i : Nat) : Dev :=
  if i < 64 then d.sendPulse (138 + i / 8)
  else if i = 64 then d.sendPulse 147
  else if i = 65 then d.sendPulse 148
  else d.putBit PAD_IRQ_ISTAT 5 true

/-- An input is masked with a status (R455, R463): the log records the change. -/
def Dev.maskInput (d : Dev) (i : Nat) (f : Fld) : Dev :=
  let was := d.inLine i
  let old := d.word f.addr
  let d := (d.putBit f (i % 32) true).logHw f.addr old
  let d := if i = 64 && was then d.sendPulse 147 else d
  d.maskInterrupt i

/-- An input has passed more than STORMN edges within its window (R455). -/
def Dev.storm (d : Dev) (i : Fin 68) : Dev :=
  let n := d.get (GPIO_PIN_STORMN i)
  if n != 0 && n < (d.inCount i).edges && !d.inMasked i then d.maskInput i (GPIO_STORM_MASK (i / 32)) else d

/-- An input's line has stayed asserted for STUCK × 100 ms (R455). -/
def Dev.stuck (d : Dev) (i : Fin 68) : Dev :=
  let n := d.get (GPIO_PIN_STUCK i)
  if n != 0 && d.inLine i && (d.inCount i).since + n * 100 * msTicks ≤ d.tb then d.maskInput i (GPIO_STUCK_MASK (i / 32)) else d

/-- Inputs that a write unmasked restart their window and stuck timer (R455); olds are the mask words before. -/
def Dev.unmasked (d : Dev) (w : Nat) (storm stuck : Word) : Dev :=
  (List.range 32).foldl (fun d b =>
    let i := 32 * w + b
    if i < 68 && (storm.getLsbD b || stuck.getLsbD b) && !d.inMasked i then
      (d.setInCount i ⟨d.tb, 0, d.tb⟩).lineMoved i false
    else d) d

/-- The debounce count of a key. -/
def Dev.keyCount (d : Dev) (k : Nat) : Nat := amapGet 0 d.ports.gpio.keys k

/-- A scan's reading of one key (R456): it changes after DEB consecutive scans that differ from KBD; true where it changed. -/
def Dev.keySeen (d : Dev) (k : Nat) (v : Bool) : Dev × Bool :=
  let f := GPIO_KBD_KEYS (k / 32)
  if d.bit f (k % 32) = v then (d.onGpio fun g => { g with keys := amapSet 0 k 0 g.keys }, false)
  else
    let n := d.keyCount k + 1
    if d.get GPIO_KBDCTL_DEB ≤ n then
      ((d.putBit f (k % 32) v).onGpio fun g => { g with keys := amapSet 0 k 0 g.keys }, true)
    else (d.onGpio fun g => { g with keys := amapSet 0 k n g.keys }, false)

/-- One scan of the keyboard (R456): bit 8c + r of the reading is the key at KSOc, KSIr. -/
def Dev.kbdScan (d : Dev) (keys : BitVec 128) : Dev :=
  if d.flag GPIO_KBDCTL_EN && d.clocksOn then
    let keys := if d.ports.pad.vio33 then keys else BitVec.allOnes 128
    let (d, any) := (List.range 128).foldl (fun (x : Dev × Bool) k =>
      let (d, c) := x.1.keySeen k (keys.getLsbD k)
      (d, x.2 || c)) (d, false)
    if any then d.sendPulse 146 else d
  else d

/-- A tachometer's count of the last whole second (R457). -/
def Dev.tach1 (d : Dev) (f n : Nat) : Dev :=
  let min' := d.get (GPIO_TACH_MIN f)
  let was := d.get (GPIO_TACH_COUNT f)
  let n := min n 0xFFFF
  let d := d.put (GPIO_TACH_COUNT f) n
  if min' != 0 && min' ≤ was && n < min' then d.sendPulse 147 else d

/-- Both tachometers' counts (R457). -/
def Dev.tach (d : Dev) (n0 n1 : Nat) : Dev :=
  if !d.clocksOn then d
  else if d.ports.pad.vio33 then (d.tach1 0 n0).tach1 1 n1
  else (d.tach1 0 0).tach1 1 0

/-! ### Pad hold -/

/-- The pads changed. -/
def Dev.onPad (d : Dev) (f : Pad → Pad) : Dev := d.onPorts fun p => { p with pad := f p.pad }

/-- A register that sets the direction, output or pulls of pads that can be held (R425): those of SP1 to SP7, PDM, GPIO and FSPI, the
routing and exchange of SP7's pads (R461) and SYS.PLTRST. The pads of SP0 and of the eSPI port are never held. -/
def padReg (a : Nat) : Bool :=
  (0x101000 ≤ a && a < 0x108000) || (0x110000 ≤ a && a < 0x130000) || (0x150000 ≤ a && a < 0x160000)
    || a == PAD_BAT || a == PAD_GSTAT 0 || a == SYS_PLTRST

/-- Every pad that can be held is latched (R349, R425): the words of the registers that set it, as they stand; one that is not listed
stands at its reset value. Pads already held keep what they hold. -/
def Dev.padHold (d : Dev) (cur : Bool) : Dev :=
  if d.flag PAD_HOLDREL_HELD then d
  else
    let keep := d.regs.filter fun p => padReg p.1
    ((d.on PAD_HOLDREL_HELD).put PAD_HOLDREL_CURF (if cur then 1 else 0)).onPad fun p => { p with latched := keep }

/-- A write of HOLDREL.REL (R425). -/
def Dev.padRelease (d : Dev) : Dev := ((d.off PAD_HOLDREL_HELD).off PAD_HOLDREL_CURF).onPad fun p => { p with latched := [] }

/-- The word of a register by which its pads are driven (R425): while pads are held a unit's change to a pad has no effect on it. -/
def Dev.padWord (d : Dev) (a : Nat) : Word :=
  if d.flag PAD_HOLDREL_HELD then amapGet (resetWord a) d.ports.pad.latched a else d.word a

/-- The listener of SP1 (p = 0) or SP2 (p = 1) is armed (R423). -/
def Dev.listens (d : Dev) (p : Fin 2) : Bool :=
  let st := d.get PWR_STAT_STATE
  d.flag (PWR_LSN_EN p) && d.flag (if p = 0 then PWR_WAKEEN_LSN1 else PWR_WAKEEN_LSN2) && (st == 2 || st == 3)

/-- A field as its pads are driven. -/
def Dev.padField (d : Dev) (f : Fld) : Nat := bits (d.padWord f.addr) f.hi f.lo

/-- What a pad of a serial port carries (R433); in single SPI mode io0 is MOSI and io1 MISO. -/
inductive PadFn where
  | scl
  | sda
  | sck
  | csN
  | io (n : Fin 4)
  | txd
  | rxd
  | rtsN
  | ctsN
  deriving DecidableEq, Repr

/-- The function of pad SPk_Pn in a mode (R433): none is a pad held in high impedance. -/
def padFn (mode : Nat) (n : Fin 6) : Option PadFn :=
  match mode, n with
  | 3, 0 => some .sck
  | 3, 1 => some .csN
  | 3, 2 => some (.io 0)
  | 3, 3 => some (.io 1)
  | 3, 4 => some (.io 2)
  | 3, 5 => some (.io 3)
  | 4, 2 => some .txd
  | 4, 3 => some .rxd
  | 4, 4 => some .rtsN
  | 4, 5 => some .ctsN
  | 0, 0 => some .scl
  | 1, 0 => some .scl
  | 2, 0 => some .scl
  | 0, 1 => some .sda
  | 1, 1 => some .sda
  | 2, 1 => some .sda
  | _, _ => none

/-- SPk_Pn is a pad that a hold holds (R425): not one of SP0, nor SCL and SDA of SP1 and SP2 while their listener is armed. -/
def Dev.spHeld (d : Dev) (k : Fin 8) (n : Fin 6) : Bool :=
  d.flag PAD_HOLDREL_HELD && k != 0 && !(n.val < 2 && ((k == 1 && d.listens 0) || (k == 2 && d.listens 1)))

/-- A field of a port as it acts on pad SPk_Pn: as it stood when the pad was latched while the pad is held. -/
def Dev.spField (d : Dev) (k : Fin 8) (n : Fin 6) (f : Fld) : Nat := if d.spHeld k n then d.padField f else d.get f

/-- What pad SPk_Pn carries (R433, R461): the function its mode gives it; SP7's SCL and SDA leave their pads with PAD.BAT.ROUTE = 1.
none is high impedance. -/
def Dev.spPad (d : Dev) (k : Fin 8) (n : Fin 6) : Option PadFn :=
  if k = 7 && n.val < 2 && d.spField 7 n PAD_BAT_ROUTE = 1 then none else padFn (d.spField k n (SP_CTL_MODE k)) n

/-- What BAT_SCL (pin 0) and BAT_SDA (pin 1) carry (R459, R461): SP7's SCL and SDA under PAD.BAT.ROUTE, exchanged where GSTAT.SWAP
shows it; a pin that a short switched off, or one without VIO33 (R519), is in high impedance, whatever pad hold holds. -/
def Dev.batPad (d : Dev) (pin : Fin 2) : Option PadFn :=
  if d.padField PAD_BAT_ROUTE = 0 || !d.ports.pad.vio33 || d.ports.pad.shorted.contains pin.val then none
  else padFn (d.padField (SP_CTL_MODE 7)) (if (pin.val + d.padField (PAD_GSTAT_SWAP 0)) % 2 = 0 then 0 else 1)

/-- What GPIOn is driven to (R425, R453): a push-pull pin to its OUT bit, an open-drain pin low where that bit is 0. none is no
drive. -/
def Dev.gpioDrive (d : Dev) (n : Fin 64) : Option Bool :=
  let out := (d.padWord (GPIO_OUTSET (n / 32))).getLsbD (n % 32)
  match d.padField (GPIO_PIN_DIR n) with
  | 1 => some out
  | 2 => if out then none else some false
  | _ => none

/-! ### Line guard -/

/-- What a guarded pin's unit does with it when it is sampled (R459): a push-pull level, open-drain driven low or released, or
nothing. -/
inductive PadDrive where
  | push (v : Bool)
  | odLow
  | odFree
  | none
  deriving DecidableEq, Repr

/-- The short-tested pins of a guard group (R458): every BAT pin, KSO0 to KSO15, the FAN_PWM pins. -/
def shortPins (g : Nat) : Nat := match g with | 0 => 3 | 1 => 16 | 2 => 2 | _ => 0

/-- An open-tested pin of a guard group (R458): BAT_SCL and BAT_SDA, the FAN_TACH pins, LID_SENSE, EXT_SENSE. -/
def openPin (g pin : Nat) : Bool :=
  match g with
  | 0 => pin < 2
  | 2 => pin == 2 || pin == 3
  | 3 => pin == 0
  | 4 => pin < 2
  | _ => false

/-- The key of a guarded pin. -/
def padKey (g pin : Nat) : Nat := 32 * g + pin

/-- A guard finding is recorded (R459, R460, R463). -/
def Dev.padFound (d : Dev) (g pin : Nat) (f : Fld) : Dev :=
  let old := d.word (PAD_GSTAT g)
  let d := (((d.on f).put (PAD_GSTAT_PIN g) pin).bumpSat (PAD_GSTAT_COUNT g) 1 0xFF).logHw (PAD_GSTAT g) old
  d.putBit PAD_IRQ_ISTAT g true

/-- A short is found (R459): the pad goes to high impedance; kind is 0 PUSHPULL, 1 RAIL, 2 GROUND. -/
def Dev.padShort (d : Dev) (g pin kind : Nat) : Dev :=
  ((d.onPad fun p => { p with shorted := p.shorted ++ [padKey g pin] }).put (PAD_GSTAT_KIND g) kind).padFound g pin (PAD_GSTAT_SHORT g)

/-- Ticks of the 35 ms of R459. -/
def lowTicks : Nat := 35 * msTicks

/-- A pin's mismatch and low marks are dropped. -/
def Dev.padClean (d : Dev) (k : Nat) : Dev :=
  d.onPad fun p => { p with differ := p.differ.filter (· != k), low := p.low.filter (·.1 != k) }

/-- One sample of a driven pin against its read-back (R459). -/
def Dev.shortTest (d : Dev) (g : Fin 5) (pin : Nat) (drive : PadDrive) (reads : Bool) : Dev :=
  let k := padKey g pin
  let p := d.ports.pad
  if d.flag (PAD_GCFG_SHEN g) && p.vio33 && pin < shortPins g && !p.shorted.contains k then
    match drive with
    | .push v =>
      if v = reads then d.padClean k
      else if p.differ.contains k then (d.padClean k).padShort g pin 0
      else (d.padClean k).onPad fun p => { p with differ := k :: p.differ }
    | .odLow => if reads then (d.padClean k).padShort g pin 1 else d.padClean k
    | .odFree =>
      if reads then d.padClean k
      else
        match p.low.find? (·.1 == k) with
        | some (_, t) => if t + lowTicks < d.tb then (d.padClean k).padShort g pin 2 else d
        | none => (d.padClean k).onPad fun p => { p with low := (k, d.tb) :: p.low }
    | .none => d.padClean k
  else d

/-- Writing 1 to GSTAT.SHORT re-enables the group's pins (R459). -/
def Dev.shortClear (d : Dev) (g : Nat) : Dev := d.onPad fun p => { p with shorted := p.shorted.filter fun k => k / 32 != g }

/-- The battery port's transfers run on SP7 (R460, R461). -/
def Dev.batBusy (d : Dev) : Bool := d.flag PAD_BAT_ROUTE && !(d.ports.sp[(7 : Fin 8)]).idle

/-- An open test of a pin (R460): follows tells that the pin followed the test pull. -/
def Dev.openTest (d : Dev) (g : Fin 5) (pin : Nat) (follows : Bool) : Dev :=
  if d.flag (PAD_GCFG_OPEN g) && d.ports.pad.vio33 && openPin g pin && follows && !(g.val == 0 && d.batBusy) then
    d.padFound g pin (PAD_GSTAT_OPEN g)
  else d

/-- The reversal probe of the battery (R461): whether the current and the swapped orientation are acknowledged. -/
def Dev.reversal (d : Dev) (cur swapped : Bool) : Dev :=
  if d.ports.pad.probe && d.ports.pad.vio33 && (d.ports.sp[(7 : Fin 8)]).xfer.isNone then
    let d := d.onPad fun p => { p with probe := false }
    if swapped && !cur && d.flag (PAD_GCFG_REVDET 0) && d.flag PAD_BAT_ROUTE then
      let d := d.padFound 0 (d.get (PAD_GSTAT_PIN 0)) (PAD_GSTAT_REV 0)
      if d.flag (PAD_GCFG_AUTOSWAP 0) then
        let old := d.word (PAD_GSTAT 0)
        (d.put (PAD_GSTAT_SWAP 0) (1 - d.get (PAD_GSTAT_SWAP 0))).logHw (PAD_GSTAT 0) old
      else d
    else d
  else d

/-- VIO33 falls below its limit (R519): guarded inputs read 0 to their units, and the guard records nothing. -/
def Dev.vio33Drop (d : Dev) : Dev :=
  let was (i : Nat) := d.inLine i
  let d' := (d.onPad fun p => { p with vio33 := false, differ := [], low := [] })
  [64, 65, 66, 67].foldl (fun x i => (x.putBit (GPIO_IN_IN 2) (i - 64) false).lineMoved i (was i)) d'

/-- VIO33 is back for 1 ms (R519). -/
def Dev.vio33Return (d : Dev) : Dev := d.onPad fun p => { p with vio33 := true }

/-! ### Resets and PDOWN -/

/-- The pads with nothing held or found. -/
def Pad.rest : Pad := { latched := [], shorted := [], differ := [], low := [], probe := false, vio33 := true }

/-- The ports at rest; the levels of ESPI_RST_N and of VIO33 come from outside. -/
def Ports.rest (rstn vio33 : Bool) : Ports :=
  { sp := Vector.replicate 8 Sp.rest, espi := .rest rstn, fspi := ⟨[], none⟩, gpio := ⟨[], []⟩, pad := { Pad.rest with vio33 := vio33 } }

/-- The levels of filtered inputs and of ESPI_RST_N, which come from outside, kept over a reset of their registers. -/
def Dev.keepLevels (d old : Dev) : Dev :=
  let d := (List.range 3).foldl (fun (d : Dev) w => d.setWord (GPIO_IN w) (old.word (GPIO_IN w))) d
  d.put ESPI_STAT_RSTN (if d.ports.espi.rstn then 1 else 0)

/-- A system or power-on reset of the ports (R493): pad hold is kept where told. -/
def Dev.portsReset (d : Dev) (keepHold : Bool) : Dev :=
  let r := ((((((d.resetBlock 0x10).resetBlock 0x11).resetBlock 0x12).resetBlock 0x14).resetBlock 0x15).resetBlock 0x0F)
  let r := r.onPorts fun p => .rest p.espi.rstn p.pad.vio33
  let r := r.keepLevels d
  if keepHold then
    ((r.put PAD_HOLDREL_HELD (d.get PAD_HOLDREL_HELD)).put PAD_HOLDREL_CURF (d.get PAD_HOLDREL_CURF)).onPad fun p =>
      { p with latched := d.ports.pad.latched }
  else r

/-- The block of a bit of CGATE and PDOWN whose register this is: 1 to 7 SPk, 8 PDM, 9 FSPI, 10 ESPI; 0 for any other. -/
def blockBit (a : Nat) : Nat :=
  match a / 0x10000 with
  | 0x10 => if a % 0x10000 < 0x8000 then a % 0x10000 / 0x1000 else 0
  | 0x11 => 8
  | 0x15 => 9
  | 0x14 => 10
  | _ => 0

/-- What waits at the crossings of a block that is reset is discarded (R384). -/
def Dev.dropCrossing (d : Dev) (i : Nat) : Dev :=
  { d with crossing := d.crossing.filter fun x => match x with
      | .write _ a _ => blockBit a != i
      | .read _ a => blockBit a != i
      | .level .. => true }

/-- The block of a bit of CGATE and PDOWN back at its reset values (R427): 1 to 7 SPk, 8 PDM, 9 FSPI, 10 ESPI. What was under way
between it and the rest of the device is discarded (R384). -/
def Dev.blockFresh (d : Dev) (i : Nat) : Dev :=
  let d := d.dropCrossing i
  if h : i < 8 then
    (d.resetRange (SP_CTL i) (SP_CTL (i + 1))).onPorts fun p => { p with sp := p.sp.set i Sp.rest }
  else if i = 8 then (d.resetBlock 0x11).dropPulse 136
  else if i = 9 then (d.resetBlock 0x15).onPorts fun p => { p with fspi := ⟨[], none⟩ }
  else
    let d := ((d.resetBlock 0x14).dropPulse 137).onPorts fun p => { p with espi := .rest p.espi.rstn }
    d.put ESPI_STAT_RSTN (if d.ports.espi.rstn then 1 else 0)

/-- The block of a bit of PDOWN has no transfer in progress (R427). -/
def Dev.blockQuiet (d : Dev) (i : Nat) : Bool :=
  if h : i < 8 then d.ports.sp[i].idle else if i = 9 then d.ports.fspi.since.isNone else true

/-- The seam of a block's switching off (R427): i is a bit number of CGATE. -/
def Dev.pdownSeam (d : Dev) (i : Nat) : Dev :=
  if 1 ≤ i && i ≤ 10 && d.bit PWR_PDOWN_REQ (i - 1) && !d.bit PWR_PDOWN_EFF (i - 1) && d.blockQuiet i then
    (d.blockFresh i).putBit PWR_PDOWN_EFF (i - 1) true
  else d

/-- A block is powered again (R427). -/
def Dev.pdownUp (d : Dev) (i : Nat) : Dev :=
  if 1 ≤ i && i ≤ 10 && !d.bit PWR_PDOWN_REQ (i - 1) && d.bit PWR_PDOWN_EFF (i - 1) then
    (d.blockFresh i).putBit PWR_PDOWN_EFF (i - 1) false
  else d

end Sys2Proof.Machine
end

