-- ==== Sys2Proof/Machine/Sec.lean ====
section
/-! DEFINITION. Machine/Sec.lean: life cycle, tamper, anti-rollback (R502 to R506), wipes of the vault (R200 to R202), and the
service phase, power gating and conservator of the arrays (R195, R203, R207). -/

namespace Sys2Proof.Machine

open Reg

/-- SEC's part of the device changed. -/
def Dev.onSec (d : Dev) (f : Sec → Sec) : Dev := { d with sec := f d.sec }

/-- A consequence still to be carried out. -/
def Dev.later (d : Dev) (t : Todo) : Dev := { d with todo := d.todo ++ [t] }

/-! ### Life cycle -/

/-- Two of a state's three copies read programmed (R502). -/
def programmed (c : BitVec 3) : Bool := (c.getLsbD 0 && c.getLsbD 1) || (c.getLsbD 0 && c.getLsbD 2) || (c.getLsbD 1 && c.getLsbD 2)

/-- The state in force: the furthest programmed one (R502). -/
def Fuse.state (f : Fuse) : Nat :=
  if programmed f.lc[3] then 4 else if programmed f.lc[2] then 3 else if programmed f.lc[1] then 2 else if programmed f.lc[0] then 1 else 0

/-- The life-cycle state. -/
def Dev.lcState (d : Dev) : Nat := d.sec.fuses.state

/-- SEC.LC as it reads. -/
def Dev.lcWord (d : Dev) : Word :=
  (if d.sec.target.isSome then 0x80000000 else 0) ||| (if Config.fuseDbgKey then 0x20000 else 0)
    ||| (if Config.fuseBootKey then 0x10000 else 0) ||| BitVec.ofNat 32 d.lcState

/-- SEC.VER as it reads. -/
def Dev.verWord (d : Dev) : Word :=
  (if d.sec.newMin.isSome then 0x8000 else 0) ||| BitVec.ofNat 32 (d.sec.fuses.verMin % 64)

/-- The transitions R502 allows. -/
def lcAllowed (s t : Nat) : Bool :=
  match s with
  | 0 => t == 1 || t == 2 || t == 4
  | 1 => t == 2 || t == 4
  | 2 => t == 3 || t == 4
  | 3 => t == 4
  | _ => false

/-- An event of SEC.IRQ.ISTAT: 0 TAMPER, 1 WIPEFAIL, 2 LCERR, 3 VERFAIL. -/
def Dev.secEvent (d : Dev) (b : Nat) : Dev := d.putBit SEC_IRQ_ISTAT b true

/-! ### Wipes -/

/-- The words of [lo, hi) of the arrays are written to zero, which ends reservations on them (R107, R204). -/
def Chip.clearArray (s : Chip) (lo hi : Nat) : Chip :=
  { s with
    mem := s.mem.clear lo hi
    cores := s.cores.map fun c => match c.resv with
      | some l => if lineOf lo ≤ l ∧ l < lineOf hi then { c with resv := none } else c
      | none => c }

/-- The vault's words are gone. -/
def Chip.vaultClear (s : Chip) : Chip := s.clearArray 0x3000000 0x3080000

/-- CUR.RESTART.VALID is cleared by a wipe (R350): a hardware change. -/
def Dev.restartGone (d : Dev) : Dev :=
  if d.flag CUR_RESTART_VALID then (d.off CUR_RESTART_VALID).logHw CUR_RESTART (d.word CUR_RESTART) else d

/-- A new key is drawn from the random source (R198, R200 step 3). -/
def Dev.drawKey (d : Dev) : Dev :=
  { d with sec := { d.sec with key := some (Config.random d.fresh ++ Config.random (d.fresh + 1)) }, fresh := d.fresh + 2 }

/-- A wipe is triggered (R200 steps 1 to 4, R201): 1 POWERON, 2 TAMPER, 3 LIFECYCLE, 4 COMMAND. The old key is discarded and a new one
drawn. -/
def Chip.wipe (s : Chip) (cause : Nat) : Chip :=
  let s := s.onDev (·.onSec fun c => { c with wipe := cause })
  if s.dev.flag VLT_STAT_WIPING then s
  else (s.vaultClear).onDev fun d => ((((d.drawKey).on VLT_STAT_WIPING).off VLT_STAT_READY).restartGone)

/-- Steps 3 and 4 of a tamper event (R504); a transition's own reset takes the place of step 4. -/
def Dev.tamperDone (d : Dev) : Dev :=
  let d := (d.onSec fun c => { c with tamper := false }).secEvent 0
  let d := (d.bumpSat SEC_TCNT_COUNT 1 0xFFFF).logHw SEC_TCNT (d.word SEC_TCNT)
  if d.sec.target.isSome then d
  else if d.flag SEC_TCTL_RST then d.later (.sysReset 5)
  else d.later .curReset

/-- A wipe ends: its read-back passed, or found a nonzero word (R200 steps 5 and 6, R201, R505). -/
def Dev.wipeEnd (d : Dev) (good : Bool) : Dev :=
  if d.flag VLT_STAT_WIPING && !d.sec.wipeFailed then
    let d :=
      if good then
        ((((d.put VLT_WPROT_WP 0).off VLT_STAT_WIPING).on VLT_STAT_READY).bump VLT_STAT_WIPES 1).put VLT_STAT_CAUSE d.sec.wipe
      else
        let d := (d.onSec fun c => { c with wipeFailed := true }).secEvent 1
        -- the boot ROM stops (R505)
        if d.cur.boot then (d.put SYS_BOOT_STAGE 6).put SYS_BOOT_ERR 8 else d
    if d.sec.tamper && !d.asleep then d.tamperDone else d
  else d

/-- The vault's array has power: always, but for a Deep Sleep that does not retain it, and Off (R202, R205). -/
def Dev.vaultPowered (d : Dev) : Bool :=
  let st := d.get PWR_STAT_STATE
  st ≤ 2 || d.flag PWR_STAT_EMU || (st == 3 && d.pwr.ret.getLsbD 24)

/-- A tamper event that finds the vault without power discards the key (R202); the vault is wiped when it next powers up. -/
def Dev.discardKey (d : Dev) : Dev := ((d.onSec fun c => { c with key := none }).off VLT_STAT_READY).restartGone

/-- An accepted tamper event (R504): the curator stops and the vault is wiped; asleep, the rest waits for the exit (R202). -/
def Chip.tamper (s : Chip) : Chip :=
  if s.dev.flag SEC_TCTL_EN && !s.dev.pwr.parked && s.dev.get PWR_STAT_STATE ≠ 4 then
    let s := s.onDev fun d => (d.onSec fun c => { c with tamper := true }).onCur fun c =>
      { c with stop := if c.stop = .trans then .trans else .tamper }
    if s.dev.vaultPowered then s.wipe 2 else s.onDev Dev.discardKey
  else s

/-- A life-cycle request with the right CODE (R503). -/
def Chip.lcRequest (s : Chip) (t : Nat) : Chip :=
  let d := s.dev
  let keys := Config.fuseBootKey && Config.fuseDbgKey
  if d.sec.target.isSome || !lcAllowed d.lcState t || ((t == 1 || t == 2) && !keys) then s.onDev (·.secEvent 2)
  else
    (s.onDev fun d => ((d.onSec fun c => { c with target := some t }).onCur fun c => { c with stop := .trans }).later .dbgReset).wipe 3

/-- The copies of a state programmed. -/
def Fuse.program (f : Fuse) (t : Nat) (got : BitVec 3) : Fuse :=
  match t with
  | 1 => { f with lc := f.lc.set 0 (f.lc[0] ||| got) }
  | 2 => { f with lc := f.lc.set 1 (f.lc[1] ||| got) }
  | 3 => { f with lc := f.lc.set 2 (f.lc[2] ||| got) }
  | 4 => { f with lc := f.lc.set 3 (f.lc[3] ||| got) }
  | _ => f

/-- The copies of a state as they read. -/
def Fuse.copies (f : Fuse) (t : Nat) : BitVec 3 := (f.lc.toList)[t - 1]?.getD 0

/-- The programming of the target's fuses ends, got naming the copies that took it (R503 steps 3 and 4). -/
def Dev.lcProgram (d : Dev) (got : BitVec 3) : Dev :=
  match d.sec.target with
  | none => d
  | some t =>
    if d.flag VLT_STAT_WIPING && !d.sec.wipeFailed then d
    else
      let f := d.sec.fuses.program t got
      let d := d.onSec fun c => { c with fuses := f, target := none }
      (if f.copies t = 7 then d else d.secEvent 2).later (.sysReset 6)

/-- A write of SEC.VER with the right CODE (R506); while fuses are programmed it does nothing. -/
def Dev.verRequest (d : Dev) (n : Nat) : Dev :=
  if d.sec.newMin.isSome || n ≤ d.sec.fuses.verMin then d
  else if d.get SYS_BOOT_VERSION < n then d.secEvent 3
  else d.onSec fun c => { c with newMin := some n }

/-- The programming of the anti-rollback fuses ends; held is what they hold where it failed (R506). -/
def Dev.verProgram (d : Dev) (ok : Bool) (held : Nat) : Dev :=
  match d.sec.newMin with
  | none => d
  | some n =>
    let m := if ok then n else max d.sec.fuses.verMin (held % 64)
    let d := d.onSec fun c => { c with newMin := none, fuses := { c.fuses with verMin := m } }
    if ok then d else d.secEvent 3

/-! ### The arrays -/

/-- GAL.SVC.NORMAL written as 1 (R203, R207): halves already requested off go off at the change. -/
def Dev.normal (d : Dev) : Dev :=
  if d.get GAL_SVC_PHASE = 0 then
    ((d.put GAL_SVC_PHASE 1).on GAL_SVC_NORMAL).put GAL_PGATE_GH_EFF (d.get GAL_PGATE_GH_EFF ||| d.get GAL_PGATE_GH_REQ)
  else d

/-- The addresses of a gallery half. -/
def halfAddr (h : Nat) : Nat := 0x1000000 + 0x100000 * h

/-- An access to a half is in progress: a burst still owns a line of it (R182). -/
def Mem.halfBusy (m : Mem) (h : Nat) : Bool := m.owned.any fun l => lineOf (halfAddr h) ≤ l.1 && l.1 < lineOf (halfAddr (h + 1))

/-- The seam of switching a half off, with no access to it in progress (R207). -/
def Chip.halfOff (s : Chip) (h : Nat) : Chip :=
  if s.dev.get GAL_SVC_PHASE = 1 && s.dev.bit GAL_PGATE_GH_REQ h && !s.dev.bit GAL_PGATE_GH_EFF h && !s.mem.halfBusy h then
    s.onDev (·.putBit GAL_PGATE_GH_EFF h true)
  else s

/-- A write of GAL.PGATE (R47, R207): halves asked off with no access in progress are off at once. -/
def Chip.pgate (s : Chip) : Chip := (List.range 16).foldl Chip.halfOff s

/-- A half is powered and cleared (R206, R207). Outside the NORMAL phase every array is powered, whatever GH_REQ stores (R203). -/
def Chip.halfOn (s : Chip) (h : Nat) : Chip :=
  if (s.dev.get GAL_SVC_PHASE != 1 || !s.dev.bit GAL_PGATE_GH_REQ h) && s.dev.bit GAL_PGATE_GH_EFF h then
    (s.clearArray (halfAddr h) (halfAddr (h + 1))).onDev (·.putBit GAL_PGATE_GH_EFF h false)
  else s

/-- The address of a line index in scrub order (R195). -/
def scrubAddr (i : Nat) : Nat :=
  if i < 262144 then 0x1000000 + 64 * i
  else if i < 294912 then 0x2000000 + 64 * (i - 262144)
  else 0x3000000 + 64 * (i - 294912)

/-- Words of an array read and corrected (R190, R195). -/
def Chip.scrubWords (s : Chip) (a : Nat) : Nat → Chip
  | 0 => s
  | n + 1 => (s.fetch64 a).1.scrubWords (a + 8) n

/-- The conservator's interval starts: STEP is in force for the line that ends it (R196). -/
def Dev.scrubFrom (d : Dev) : Dev := { d with scrub := ⟨d.tb, d.get GAL_SCRUB_STEP⟩ }

/-- The interval of STEP × 32 ticks has passed (R195). -/
def Dev.scrubDue (d : Dev) : Bool := d.scrub.since + 32 * d.scrub.step ≤ d.tb

/-- The conservator's next line (R195, R196). -/
def Chip.scrub (s : Chip) : Chip :=
  if s.dev.flag GAL_SCRUB_EN && !s.dev.asleep && !s.dev.pwr.parked && s.dev.scrubDue then
    let i := s.dev.get GAL_SCRPOS_LINE
    let a := scrubAddr i
    let s := if s.dev.galleryOff a || s.dev.vaultShut a then s else (s.asks 0x08 a).scrubWords a 8
    s.onDev fun d =>
      (if i + 1 < 303104 then d.put GAL_SCRPOS_LINE (i + 1) else (d.put GAL_SCRPOS_LINE 0).bump GAL_SCRPOS_PASS 1).scrubFrom
  else s

/-- A burst's release: its line goes back to the home role; one that is not held stays as it is (R182, R184). -/
def Chip.disownLine (s : Chip) (line : Nat) : Chip := { s with mem := s.mem.disown line }

/-- A burst that holds a line has sent no beat for 2 µs, which is more than 65 ticks: the line goes back to the home role (R184). -/
def Chip.idleLine (s : Chip) (line : Nat) : Chip :=
  { s with mem := { s.mem with owned := s.mem.owned.filter fun l => l.1 != line || s.dev.tb < l.2 + 66 } }

/-- GAL.CCTL.CLR (R186). -/
def Dev.conflictsClear (d : Dev) : Dev := d.resetRange (GAL_CONF 0 0) (GAL_CONF 8 0)

end Sys2Proof.Machine
end

