-- ==== Sys2Proof/Machine/Ring.lean ====
section
/-! DEFINITION. Machine/Ring.lean: descriptor rings, doorbells, completions and the movers (09_rings_doorbells.md). -/

namespace Sys2Proof.Machine

open Reg

/-- The ring engine's part of the device changed. -/
def Dev.onRng (d : Dev) (f : Rng → Rng) : Dev := { d with rng := f d.rng }

/-- The ring engine with nothing in flight. -/
def Rng.rest : Rng := { infl := [], movq := [], cqs := [], heldRecs := [], lastHigh := 63, lastNormal := 63, nextSlot := 0 }

/-- A completion ring that has written nothing. -/
def CqState.rest : CqState := ⟨0, 0, none⟩

/-- The count of completion ring c. -/
def Dev.cqState (d : Dev) (c : Nat) : CqState := amapGet .rest d.rng.cqs c

/-- The count of a completion ring changed. -/
def Dev.setCq (d : Dev) (c : Nat) (x : CqState) : Dev := d.onRng fun r => { r with cqs := amapSet .rest c x r.cqs }

/-- The entries of a submission and of a completion ring (R305). -/
def Dev.sqSize (d : Dev) (n : Nat) : Nat := 2 ^ d.get (RNG_SQCTL_SIZE n)
def Dev.cqSize (d : Dev) (n : Nat) : Nat := 2 ^ d.get (RNG_CQCTL_SIZE n)

/-- The host address of entry i of a submission ring (R305). -/
def Dev.sqEntry (d : Dev) (n i : Nat) : Nat :=
  d.get (RNG_SQBASEH_ADDR n) * 2 ^ 32 + d.get (RNG_SQBASEL_ADDR n) * 64 + 64 * i

/-- The host address of a completion ring's entry i (R305). -/
def Dev.cqEntry (d : Dev) (c i : Nat) : Nat :=
  d.get (RNG_CQBASEH_ADDR c) * 2 ^ 32 + d.get (RNG_CQBASEL_ADDR c) * 32 + 32 * i

/-- STAT.INFL follows the in-flight table. -/
def Dev.showInfl (d : Dev) : Dev := d.put RNG_STAT_INFL d.rng.infl.length

/-! ### Completion records -/

/-- The 28 bytes of a record before its SEQ word (R325). -/
def recordBytes (tag status reason eng b7 admAt finish result : Nat) : List Byte :=
  leBytes 4 tag ++ leBytes 1 status ++ leBytes 1 reason ++ leBytes 1 eng ++ leBytes 1 b7 ++ leBytes 8 admAt ++ leBytes 8 finish
    ++ leBytes 4 result

/-- A completion ring's message (R327, R328): the count is cleared and the timer stops. -/
def Dev.cqMessage (d : Dev) (c : Nat) : Dev :=
  (d.msix (d.get (RNG_CQCTL_VEC c))).setCq c { d.cqState c with count := 0, since := none }

/-- A record just written counts toward the ring's message (R327). -/
def Dev.cqCount (d : Dev) (c : Nat) (imm : Bool) : Dev :=
  let x := d.cqState c
  if d.flag (RNG_CQCTL_IEN c) then
    let x := { x with count := x.count + 1, since := some (x.since.getD d.tb) }
    let d := d.setCq c x
    if imm || d.get (RNG_CQMOD_COUNT c) ≤ x.count then d.cqMessage c else d
  else d.setCq c { x with count := 0, since := none }

/-- An in-flight entry is given back. -/
def Dev.dropInfl (d : Dev) (slot : Nat) : Dev :=
  (d.onRng fun r => { r with infl := r.infl.filter (·.slot != slot), heldRecs := r.heldRecs.filter (· != slot)
                             movq := r.movq.filter (·.2 != slot) }).showInfl

/-- A completion slot's reservation is given back. -/
def Dev.unreserve (d : Dev) (c n : Nat) : Dev := d.put (RNG_CQPEND_RSV c) (d.get (RNG_CQPEND_RSV c) - n)

/-- A record is written at TAIL as two posted writes (R326); reservations on its granule go (R107). -/
def Dev.writeRecord (d : Dev) (c : Nat) (rec : List Byte) (imm : Bool) : Dev :=
  let x := d.cqState c
  let tail := d.get (RNG_CQSTAT_TAIL c)
  let phase := d.get (RNG_CQSTAT_PHASE c)
  let a := d.cqEntry c tail
  let d := (d.emit (.hostWrite a rec)).emit (.hostWrite (a + 28) (leBytes 4 (x.seq + phase * 2 ^ 31)))
  let d := d.later (.hostLine (lineOf (2 ^ 52 + a)))
  let next := (tail + 1) % d.cqSize c
  let d := (d.put (RNG_CQSTAT_TAIL c) next).put (RNG_CQSTAT_PHASE c) (if next = 0 then 1 - phase else phase)
  let d := ((d.unreserve c 1).bump (RNG_CQPEND_UNREL c) 1).setCq c { x with seq := (x.seq + 1) % 2 ^ 31 }
  d.cqCount c imm

/-- A record due to a ring whose EN_REQ is 0 is discarded (R331). -/
def Dev.dropRecord (d : Dev) (c : Nat) : Dev :=
  ((d.bumpSat RNG_DROPCNT_COUNT 1 0xFFFFFFFF).on RNG_ISTAT_DROP).unreserve c 1

/-- The entry of a slot with another state. -/
def Dev.setDesc (d : Dev) (slot : Nat) (st : DescSt) : Dev :=
  d.onRng fun r => { r with infl := r.infl.map fun x => if x.slot = slot then { x with st := st } else x }

/-- Flag IMM of a descriptor (R315). -/
def descImm (b : BitVec 512) : Bool := b.getLsbD 16

/-- A descriptor ends with a record (R325): discarded, held while PAUSED (R329) or while the device may send no request (R279), or written. -/
def Dev.finish (d : Dev) (x : Desc) (rec : List Byte) : Dev :=
  if !d.flag (RNG_CQCTL_EN_REQ x.cq) then (d.dropInfl x.slot).dropRecord x.cq
  else if d.flag RNG_STAT_PAUSED || !d.mayRequest then
    (d.setDesc x.slot (.held rec (descImm x.body))).onRng fun r => { r with heldRecs := r.heldRecs ++ [x.slot] }
  else (d.dropInfl x.slot).writeRecord x.cq rec (descImm x.body)

/-! ### Descriptors -/

/-- Bits [hi:lo] of a descriptor. -/
def descBits (b : BitVec 512) (hi lo : Nat) : Nat := (b.extractLsb' lo (hi - lo + 1)).toNat

/-- The fields of a descriptor (09_rings_doorbells.md, "The descriptor"). -/
def descClass (b : BitVec 512) : Nat := descBits b 7 0
def descProf (b : BitVec 512) : Nat := descBits b 15 8
def descFlags (b : BitVec 512) : Nat := descBits b 31 16
def descTag (b : BitVec 512) : Nat := descBits b 63 32
def descDeadline (b : BitVec 512) : Nat := descBits b 127 64
def descIn (b : BitVec 512) : Nat := descBits b 191 128
def descInLen (b : BitVec 512) : Nat := descBits b 223 192
def descOutLen (b : BitVec 512) : Nat := descBits b 255 224
def descOut (b : BitVec 512) : Nat := descBits b 319 256
def descArg (b : BitVec 512) (i : Nat) : Nat := descBits b (351 + 32 * i) (320 + 32 * i)

/-- Flag DLREL, field MOV, and the operation of CTRL. -/
def descDlrel (b : BitVec 512) : Bool := b.getLsbD 17
def descMov (b : BitVec 512) : Nat := descBits b 19 18
def descOp (b : BitVec 512) : Nat := descArg b 0 % 256

/-- An address names device memory (R315). -/
def isDevAddr (a : Nat) : Bool := 2 ^ 63 ≤ a

/-- An address field is well-formed (R315). -/
def addrForm (a : Nat) : Bool := if isDevAddr a then a - 2 ^ 63 < 2 ^ 32 else a < 2 ^ 52

/-- The device or host address of an address field. -/
def addrOf (a : Nat) : Nat := if isDevAddr a then a % 2 ^ 32 else a % 2 ^ 52

/-- Scope and target of CTRL EVENT, and their check (R117, R323). -/
def eventScope (b : BitVec 512) : Nat := descArg b 1 % 8
def eventTarget (b : BitVec 512) : Nat := descArg b 1 / 256 % 64
def eventForm (b : BitVec 512) : Bool :=
  let t := eventTarget b
  descArg b 1 == eventScope b + 256 * t
    && match eventScope b with
      | 0 => t == 0 | 1 => true | 2 => t < 8 | 3 => t < 2 | 4 => t == 0 | _ => false

/-- Check 2 of R317: flags, fields that must be 0, address forms, lengths and operands. -/
def descForm (b : BitVec 512) : Bool :=
  let c := descClass b
  let noArg := (List.range 6).all fun i => descArg b i == 0
  descFlags b < 16
    && (c == 2 || descMov b == 0) && descMov b != 3
    && (c == 1 || !descDlrel b)
    && (c == 1 || (descProf b == 0 && descDeadline b == 0))
    && match c with
      | 1 => addrForm (descIn b) && addrForm (descOut b)
      | 2 => noArg && descOutLen b == 0 && addrForm (descIn b) && addrForm (descOut b) && descInLen b ≤ 0x1000000
      | 3 =>
        descOut b == 0 && descOutLen b == 0 && addrForm (descIn b) && descInLen b % 4 == 0 && descInLen b ≤ 3836
          && descArg b 0 < 1024 && descArg b 1 < 65536 && (List.range 4).all fun i => descArg b (2 + i) == 0
      | 4 =>
        descIn b == 0 && descInLen b == 0 && descOut b == 0 && descOutLen b == 0
          && (List.range 4).all (fun i => descArg b (2 + i) == 0)
          && match descOp b with
            | 1 => true
            | 2 => eventForm b
            | 3 => descArg b 1 < 32
            | _ => false
      | _ => noArg && descIn b == 0 && descInLen b == 0 && descOut b == 0 && descOutLen b == 0

/-- A device range of a COPY or QPUSH lies in the arrays; a host range always passes (R317 check 3). -/
def rangeForm (a n : Nat) : Bool := !isDevAddr a || n == 0 || inArrays (addrOf a) n

/-- Check 3 of R317. -/
def descPlace (b : BitVec 512) : Bool :=
  let i := descIn b
  let o := descOut b
  let n := descInLen b
  match descClass b with
  | 2 =>
    (isDevAddr i || isDevAddr o) && rangeForm i n && rangeForm o n
      && !(isDevAddr i && isDevAddr o && addrOf i < addrOf o + n && addrOf o < addrOf i + n)
  | 3 => rangeForm i n
  | _ => true

/-- Check 4 of R317: the first fenced range's address. -/
def Dev.descFence (d : Dev) (b : BitVec 512) : Option Nat :=
  let c := descClass b
  let n := descInLen b
  let hit (a : Nat) (w : Bool) : Option Nat := if isDevAddr a && d.fenced w (addrOf a) n then some (addrOf a) else none
  if c = 2 then (hit (descIn b) false).orElse fun _ => hit (descOut b) true
  else if c = 3 then hit (descIn b) false
  else none

/-- A mover takes new descriptors (R336). -/
def Dev.moverOn (d : Dev) (m : Nat) : Bool := d.flag (MOV_CTL_EN_REQ m) && d.flag (MOV_CTL_EN_EFF m)

/-- The movers a COPY may use (R315). -/
def descMovers (b : BitVec 512) : List Nat := match descMov b with | 0 => [0, 1] | 1 => [0] | _ => [1]

/-- The checks of R317: the reason of a refusal, and a fenced address. -/
def Dev.descCheck (d : Dev) (b : BitVec 512) : Option (Nat × Option Nat) :=
  if 5 < descClass b then some (8, none)
  else if !descForm b then some (9, none)
  else if !descPlace b then some (10, none)
  else match d.descFence b with
    | some a => some (11, some a)
    | none => if descClass b = 2 && !(descMovers b).any d.moverOn then some (12, none) else none

/-! ### Fetching -/

/-- Pending entries of a submission ring (R309). -/
def Dev.sqPending (d : Dev) (n : Nat) : Nat :=
  let k := d.sqSize n
  (d.get (RNG_SQSTAT_TAIL n) + k - d.get (RNG_SQSTAT_HEAD n)) % k

/-- Free slots of a completion ring (R311). -/
def Dev.cqFree (d : Dev) (c : Nat) : Nat := d.cqSize c - 1 - d.get (RNG_CQPEND_UNREL c) - d.get (RNG_CQPEND_RSV c)

/-- How many descriptors a turn of a ring fetches; 0 where it may not fetch (R279, R311, R312). -/
def Dev.sqTurn (d : Dev) (n : Nat) : Nat :=
  let c := d.get (RNG_SQCTL_CQ n)
  if d.flag (RNG_SQCTL_EN_REQ n) && d.flag (RNG_SQCTL_EN_EFF n) && d.get (RNG_SQSTAT_STATE n) == 1 && !d.flag RNG_STAT_PAUSED
      && d.mayRequest && d.flag (RNG_CQCTL_EN_REQ c) then
    min (d.get (RNG_SQCTL_BURST n)) (min (d.sqPending n) (min (d.cqFree c)
      (min (512 - d.rng.infl.length) (d.sqSize n - d.get (RNG_SQSTAT_HEAD n)))))
  else 0

/-- The ring of a priority served next, in round-robin order after the last one (R312). -/
def Dev.nextOf (d : Dev) (pri last : Nat) : Option Nat :=
  ((List.range 64).map fun i => (last + 1 + i) % 64).find? fun n => d.get (RNG_SQCTL_PRI n) == pri && 0 < d.sqTurn n

/-- The ring the next turn serves: HIGH before NORMAL (R312). -/
def Dev.nextSq (d : Dev) : Option Nat := (d.nextOf 1 d.rng.lastHigh).orElse fun _ => d.nextOf 0 d.rng.lastNormal

/-- A ring has been served. -/
def Dev.served (d : Dev) (n : Nat) : Dev :=
  d.onRng fun r => if d.get (RNG_SQCTL_PRI n) = 1 then { r with lastHigh := n } else { r with lastNormal := n }

/-- A refused descriptor's record (R325). -/
def Dev.refused (d : Dev) (x : Desc) (reason : Nat) : Dev :=
  d.finish x (recordBytes (descTag x.body) 1 reason 0xFF 0 d.tb d.tb 0)

/-- A fetched descriptor takes its slot and table entry and is checked (R311, R317). -/
def Dev.takeDesc (d : Dev) (n : Nat) (b : BitVec 512) : Dev :=
  let c := d.get (RNG_SQCTL_CQ n)
  let x : Desc := { slot := d.rng.nextSlot, sq := n, cq := c, body := b, st := .fetched }
  let d := (d.onRng fun r => { r with infl := r.infl ++ [x], nextSlot := r.nextSlot + 1 }).showInfl
  let d := (d.bump (RNG_CQPEND_RSV c) 1).put (RNG_SQSTAT_HEAD n) ((d.get (RNG_SQSTAT_HEAD n) + 1) % d.sqSize n)
  match d.descCheck b with
  | none => d
  | some (r, some a) => (d.countFence a).refused x r
  | some (r, none) => d.refused x r

/-- The requests of a turn of k descriptors from HEAD (R312): under CXL one RdCurr of 64 bytes for each, under PCIe one Memory Read. -/
def Dev.fetchAsks (d : Dev) (n k : Nat) : Dev :=
  let a := d.sqEntry n (d.get (RNG_SQSTAT_HEAD n))
  if d.isCxl then (List.range k).foldl (fun d i => d.emit (.hostRead (a + 64 * i) 64)) d else d.emit (.hostRead a (64 * k))

/-- The k descriptors at HEAD as host memory gives them: the host's answer as far as the command names it, the rest free bytes. -/
def Dev.turnDescs (d : Dev) (n k : Nat) (ds : List (BitVec 512)) : List (BitVec 512) :=
  let a := d.sqEntry n (d.get (RNG_SQSTAT_HEAD n))
  (List.range k).map fun i => ds.getD i (BitVec.ofNat 512 (leNat (hostBytes d.fresh (a + 64 * i) 64)))

/-- A turn of a ring in which k descriptors come (R311, R312). -/
def Dev.turnTakes (d : Dev) (n k : Nat) (ds : List (BitVec 512)) : Dev :=
  (d.turnDescs n k ds).foldl (fun d b => d.takeDesc n b) (((d.served n).fetchAsks n (d.sqTurn n)).hostAsked)

/-- A submission ring enters ERROR (R309, R313). -/
def Dev.sqError (d : Dev) (n err : Nat) : Dev :=
  ((d.put (RNG_SQSTAT_STATE n) 3).put (RNG_SQSTAT_ERR n) err).on RNG_ISTAT_SQERR

/-- A turn that fails (R313): the k descriptors that came before the failed read carry on; HEAD stays at the first of the others, which take
nothing and leave no record. -/
def Dev.turnFails (d : Dev) (n k : Nat) : Dev := (d.turnTakes n k []).sqError n 2

/-- A fetch turn whose data the host returns (R311 to R313), unless its completion does not come in time (R278). -/
def Dev.fetchTurn (d : Dev) (ds : List (BitVec 512)) : Dev :=
  match d.nextSq with
  | some n => if d.hpt.noReply then d.turnFails n 0 else d.turnTakes n (d.sqTurn n) ds
  | none => d

/-- How many descriptors of a failing turn come before the failed read: under PCIe, where the turn is one read, none; under CXL an open number
(R312, R313). -/
def Dev.turnGot (d : Dev) (n : Nat) : Nat :=
  if d.isCxl && !d.hpt.noReply then (Config.free d.fresh).toNat % d.sqTurn n else 0

/-- A fetch turn that fails (R313). -/
def Dev.fetchFail (d : Dev) : Dev :=
  match d.nextSq with
  | some n => d.turnFails n (d.turnGot n)
  | none => d

/-! ### Doorbells -/

/-- A doorbell is heard (R276, R308). -/
def Dev.bellOn (d : Dev) : Bool := d.flag HPT_CTL_CFGRDY && d.flag RNG_CTL_HOSTEN

/-- A write of submission doorbell n (R308, R309). -/
def Dev.sqBell (d : Dev) (n : Nat) (v : Word) : Dev :=
  if !d.flag HPT_CTL_CFGRDY then d.drops false
  else if d.bellOn && d.flag (RNG_SQCTL_EN_EFF n) then
    let i := bits v 11 0
    if d.sqSize n ≤ i then d.sqError n 1 else d.put (RNG_SQSTAT_TAIL n) i
  else d

/-- A write of completion doorbell c (R308, R310). -/
def Dev.cqBell (d : Dev) (c : Nat) (v : Word) : Dev :=
  if !d.flag HPT_CTL_CFGRDY then d.drops false
  else if d.bellOn && d.flag (RNG_CQCTL_EN_EFF c) then
    let i := bits v 11 0
    let k := d.cqSize c
    let n := (i + k - d.get (RNG_CQSTAT_HEAD c)) % k
    if k ≤ i || d.get (RNG_CQPEND_UNREL c) < n then (d.put (RNG_CQSTAT_ERR c) 1).on RNG_ISTAT_CQERR
    else (d.put (RNG_CQSTAT_HEAD c) i).put (RNG_CQPEND_UNREL c) (d.get (RNG_CQPEND_UNREL c) - n)
  else d

/-! ### Dispatch -/

/-- A descriptor waits for dispatch. -/
def DescSt.waits : DescSt → Bool
  | .fetched => true
  | .staging _ => true
  | _ => false

/-- The descriptor of a ring that is dispatched next: the first not yet admitted, with no FENCE before it that waits or whose
record is still to be written (R314, R324). -/
def nextDesc (n : Nat) : List Desc → Option Desc
  | [] => none
  | x :: xs =>
    if x.sq = n then
      match x.st with
      | .fetched => some x
      | .staging _ => some x
      | .fencing _ => none
      | .held .. => if descClass x.body = 5 then none else nextDesc n xs
      | _ => nextDesc n xs
    else nextDesc n xs

/-- The fetched descriptor of a ring that is dispatched next, if it is of a class, and of an operation where the class is
CTRL. -/
def Dev.ready (d : Dev) (n cls op : Nat) : Option Desc :=
  match nextDesc n d.rng.infl with
  | some x => if x.st = .fetched ∧ descClass x.body = cls ∧ (cls = 4 → descOp x.body = op) then some x else none
  | none => none

/-- A record DONE of a descriptor that ends where it is dispatched, with result word 0 (R323 to R325). -/
def Dev.doneNow (d : Dev) (x : Desc) : Dev := d.finish x (recordBytes (descTag x.body) 0 0 0xFF 0 d.tb d.tb 0)

/-- NOP (R324). -/
def Dev.ringNop (d : Dev) (n : Nat) : Dev := match d.ready n 0 0 with | some x => d.doneNow x | none => d

/-- CTRL TIME (R323). -/
def Dev.ringTime (d : Dev) (n : Nat) : Dev := match d.ready n 4 1 with | some x => d.doneNow x | none => d

/-- CTRL EVENT (R323): the ring engine has no latch of its own, so scope 0 reaches none. -/
def Dev.ringEvent (d : Dev) (n : Nat) : Dev :=
  match d.ready n 4 2 with
  | some x =>
    let sc := eventScope x.body
    (if sc = 0 then d else d.sendEvent 0 sc (eventTarget x.body)).doneNow x
  | none => d

/-- CTRL SWINT (R323). -/
def Dev.ringSwint (d : Dev) (n : Nat) : Dev :=
  match d.ready n 4 3 with
  | some x => (d.pendSet (descArg x.body 1 % 32)).doneNow x
  | none => d

/-- FENCE is dispatched and waits (R324). -/
def Dev.ringFence (d : Dev) (n : Nat) : Dev :=
  match d.ready n 5 0 with
  | some x => d.setDesc x.slot (.fencing d.tb)
  | none => d

/-- The FENCE of a ring with no earlier descriptor in flight (R324). -/
def fenceDue (n : Nat) : List Desc → Option (Desc × Nat)
  | [] => none
  | x :: xs =>
    if x.sq = n then
      match x.st with
      | .fencing t => some (x, t)
      | _ => none
    else fenceDue n xs

/-- A FENCE completes (R324). -/
def Dev.ringFenceDone (d : Dev) (n : Nat) : Dev :=
  match fenceDue n d.rng.infl with
  | some (x, t) => d.finish x (recordBytes (descTag x.body) 0 0 0xFF 0 t d.tb 0)
  | none => d

/-- RUN is handed to the registrar once its input stage has room (R253, R318). -/
def Dev.ringRun (d : Dev) (n : Nat) : Dev :=
  match d.ready n 1 0 with
  | some x =>
    if d.adm.stage.length < 4 && d.adm.waiting.isEmpty then
      let b := x.body
      let buf (a n : Nat) : Word × Word := (BitVec.ofNat 32 a, BitVec.ofNat 32 n)
      let host (a n : Nat) : Bool := n != 0 && !isDevAddr a
      let r : Request :=
        { src := .ring n x.slot, prof := descProf b, tag := BitVec.ofNat 32 (descTag b)
          deadline := descDeadline b + (if descDlrel b then d.tb else 0)
          bufs := [buf (descIn b) (descInLen b), buf (descOut b) (descOutLen b)]
          args := (List.range 6).map fun i => BitVec.ofNat 32 (descArg b i)
          hostBuf := host (descIn b) (descInLen b) || host (descOut b) (descOutLen b) }
      (d.setDesc x.slot .promised).submit r
    else d
  | none => d

/-- The end of a RUN as the registrar reports it (R318, R325). -/
def Dev.ringEnd (d : Dev) (slot status reason eng admAt finish : Nat) (result : Word) : Dev :=
  match d.rng.infl.find? (·.slot == slot) with
  | some x =>
    if status = 1 then d.refused x reason
    else d.finish x (recordBytes (descTag x.body) status reason eng (eng / 8) admAt finish result.toNat)
  | none => d

/-! ### Movers -/

/-- Descriptors queued on a mover in queue order, oldest first (R319), and the running one. -/
def Dev.movQueue (d : Dev) (m : Nat) : List Desc :=
  d.rng.movq.filterMap fun q => if q.1 = m then d.rng.infl.find? (·.slot == q.2) else none
def Dev.movRunning (d : Dev) (m : Nat) : Option Desc :=
  d.rng.infl.find? fun x => match x.st with | .moving k _ _ _ _ => k == m | _ => false

/-- MOV.STAT's load fields follow the queue. -/
def Dev.showMov (d : Dev) (m : Nat) : Dev :=
  (d.put (MOV_STAT_QUEUED m) (d.movQueue m).length).put (MOV_STAT_BUSY m) (if (d.movRunning m).isSome then 1 else 0)

/-- The mover a COPY is queued on (R319): of the enabled ones it may use, the one with fewer queued descriptors, MOV0 on a tie;
none where it must wait. -/
def Dev.pickMover (d : Dev) (b : BitVec 512) : Option Nat :=
  let ms := (descMovers b).filter fun m => d.moverOn m
  let best := match ms with
    | [0, 1] => some (if (d.movQueue 1).length < (d.movQueue 0).length then 1 else 0)
    | m :: _ => some m
    | [] => none
  best.bind fun m => if (d.movQueue m).length < 32 then some m else none

/-- COPY is queued on a mover (R319). -/
def Dev.ringCopy (d : Dev) (n : Nat) : Dev :=
  match d.ready n 2 0 with
  | some x =>
    match d.pickMover x.body with
    | some m => ((d.setDesc x.slot (.queued m d.tb)).onRng fun r => { r with movq := r.movq ++ [(m, x.slot)] }).showMov m
    | none => d
  | none => d

/-- The line transfers of a COPY (R319): the offset and length of each, by lines of the destination, ascending. -/
def copyLines (dst len : Nat) : List (Nat × Nat) :=
  let first := dst / 64
  let last := (dst + len - 1) / 64
  if len = 0 then []
  else (List.range (last + 1 - first)).map fun i =>
    let lo := max dst ((first + i) * 64)
    let hi := min (dst + len) ((first + i + 1) * 64)
    (lo - dst, hi - lo)

/-- The reason of a line that failed (R321). -/
def Cause.lineReason : Cause → Nat
  | .offline => 6
  | .busError => 8
  | .eccUncorr => 8
  | c => c.code

/-- A mover reads n bytes of host memory (R320): the far cache's dirty lines give theirs; an absent host, an error reply. -/
def Dev.moverHostRead (d : Dev) (a n : Nat) : Dev × (List Byte ⊕ Nat) :=
  if !d.present then (d, .inr 5)
  else
    let k := d.fresh
    let bad := d.hostBad
    let d := d.hostAsked.emit (.hostRead a n)
    if bad then (d, .inr 7)
    else (d, .inl ((List.range n).map fun i =>
      match d.farFind (a + i) with
      | some l => if l.st = .modified then l.data.getD ((a + i) % 64) 0 else Config.hostByte k (a + i)
      | none => Config.hostByte k (a + i)))

/-- The far cache gives up a host line: written back if dirty, then invalid (R320). -/
def Dev.farGive (d : Dev) (a : Nat) : Dev :=
  match d.farFind a with
  | some l => (d.farWriteBack l).farRemove l.host
  | none => d

/-- A mover writes bytes inside one host line (R320): under CXL the host may answer with an error. The write is on its way like any other; what
LOSTA shows for it, which has no device address, is open (R292, R321). -/
def Chip.moverHostWrite (s : Chip) (a : Nat) (bs : List Byte) : Chip × Option Nat :=
  if !s.dev.present then (s, some 5)
  else
    let s := s.onDev (·.farGive a)
    let k := s.dev.fresh
    let bad := s.dev.isCxl && s.dev.hostBad
    let s := s.onDev fun d => if d.isCxl then d.hostAsked else d.tick1
    if bad then (s, some 7)
    else ((s.clearResv (lineOf (2 ^ 52 + a))).onDev (·.hostPost (Config.free k).toNat a bs), none)

/-- A mover, or the ring engine for a QPUSH, reads a source under its unit ID (R319, R321, R322). -/
def Chip.moverRead (s : Chip) (uid a n : Nat) : Chip × (List Byte ⊕ Nat) :=
  if isDevAddr a then
    match (s.asks uid (addrOf a)).bulkRead (addrOf a) n with
    | (s, .inl bs) => (s, .inl bs)
    | (s, .inr c) => (s, .inr c.lineReason)
  else let (d, r) := s.dev.moverHostRead (addrOf a) n; ({ s with dev := d }, r)

/-- A mover writes one line's bytes to its destination (R304, R319, R320); a whole device line stays with the burst until its
release (R182). -/
def Chip.moverWrite (s : Chip) (m a : Nat) (bs : List Byte) : Chip × Option Nat :=
  if isDevAddr a then
    let a := addrOf a
    if s.dev.fenced true a bs.length then (s.onDev (·.countFence a), some 4)
    else
      match (s.asks (0x0E + m) a).bulkWrite (0x0E + m) a bs.length bs with
      | (s, none) => (s.burst a bs.length, none)
      | (s, some c) => (s, some c.lineReason)
  else s.moverHostWrite (addrOf a) bs

/-- One line transfer of a COPY at offset o: the reason of its failure. -/
def Chip.copyLine (s : Chip) (m : Nat) (b : BitVec 512) (o n : Nat) : Chip × Option Nat :=
  match s.moverRead (0x0E + m) (descIn b + o) n with
  | (s, .inr r) => (s, some r)
  | (s, .inl bs) => s.moverWrite m (descOut b + o) bs

/-- Lines in flight above the failing one: each may or may not have been written (R321); with the bytes written so far. -/
def Chip.copyTail (s : Chip) (m : Nat) (b : BitVec 512) (done : Nat) : List (Nat × Nat) → Chip × Nat
  | [] => (s, done)
  | (o, n) :: ls =>
    let k := s.dev.fresh
    let s := s.onDev Dev.tick1
    if Config.lineWritten k then
      match s.copyLine m b o n with
      | (s, none) => s.copyTail m b (done + n) ls
      | (s, some _) => s.copyTail m b done ls
    else s.copyTail m b done ls

/-- The lines of a COPY in order; the first failure ends it after the lines in flight (R321): the reason, 0 for none, the result
word, and the bytes written. -/
def Chip.copyRun (s : Chip) (m : Nat) (b : BitVec 512) (done : Nat) : List (Nat × Nat) → Chip × Nat × Nat × Nat
  | [] => (s, 0, done, done)
  | (o, n) :: ls =>
    match s.copyLine m b o n with
    | (s, none) => s.copyRun m b (o + n) ls
    | (s, some r) =>
      let (s, n) := s.copyTail m b o (ls.take (s.dev.get (MOV_CTL_MAXOUT m) - 1))
      (s, r, o, n)

/-- The FAULT and IDLE bits of MOV.ISTAT for a mover (R337). -/
def movFault (m : Nat) : Fld := if m = 0 then MOV_ISTAT_FAULT0 else MOV_ISTAT_FAULT1
def movIdle (m : Nat) : Fld := if m = 0 then MOV_ISTAT_IDLE0 else MOV_ISTAT_IDLE1

/-- A mover's COPY ends with its record (R321, R325, R337). -/
def Dev.copyEnd (d : Dev) (m : Nat) (x : Desc) (admAt reason : Nat) (result : Word) : Dev :=
  let status := if reason = 0 then 0 else 3
  let d := d.finish x (recordBytes (descTag x.body) status reason 0xFF m admAt d.tb result.toNat)
  let d := if reason = 0 then d else (d.on (movFault m)).bumpSat (MOV_FAULTS_COUNT m) 1 0xFFFFFFFF
  let d := (d.showMov m).put (MOV_STAT_OUT m) 0
  if (d.movQueue m).isEmpty then d.on (movIdle m) else d

/-- A COPY's next lines wait: it has a host side, and the host's memory is being withdrawn (R291). -/
def Dev.copyWaits (d : Dev) (b : BitVec 512) : Bool := d.hostShut && !(isDevAddr (descIn b) && isDevAddr (descOut b))

/-- The next k of a running COPY's lines are performed (R319, R321); a failing one leaves none. It stands at offset done before. -/
def Chip.copySome (s : Chip) (m : Nat) (x : Desc) (admAt done k : Nat) (ls : List (Nat × Nat)) : Chip :=
  let (s, reason, off, bytes) := s.copyRun m x.body done (ls.take k)
  let rest := if reason = 0 then ls.drop k else []
  s.onDev fun d =>
    let d := (d.setDesc x.slot (.moving m admAt reason (BitVec.ofNat 32 off) rest)).bumpSat (MOV_BYTES_COUNT m) (bytes - done) 0xFFFFFFFF
    d.put (MOV_STAT_OUT m) (min (d.get (MOV_CTL_MAXOUT m)) rest.length)

/-- A mover's running COPY completes (R321): the lines still to come are performed first, and wait where they must (R291). -/
def Chip.copyDone (s : Chip) (m : Nat) : Chip :=
  match s.dev.movRunning m with
  | some x =>
    match x.st with
    | .moving _ admAt reason result rest =>
      if rest.isEmpty then s.onDev (·.copyEnd m x admAt reason result)
      else if s.dev.copyWaits x.body then s
      else
        let s := s.copySome m x admAt result.toNat rest.length rest
        match s.dev.movRunning m with
        | some { st := .moving _ _ reason result _, .. } => s.onDev (·.copyEnd m x admAt reason result)
        | _ => s
    | _ => s
  | none => s

/-- How many of n line transfers a mover has performed before its COPY completes: at most MAXOUT, an open number (R319). -/
def Dev.copyFirst (d : Dev) (m n : Nat) : Nat := (Config.free d.fresh).toNat % (min (d.get (MOV_CTL_MAXOUT m)) n + 1)

/-- A mover takes its next queued COPY and issues its first lines (R319, R321); one of length 0 completes at once. How many of the lines
have been performed by then is open; the others are when it completes (DESIGN CHOICE, notes/assumptions/16.md). -/
def Chip.copyStart (s : Chip) (m : Nat) : Chip :=
  match s.dev.movRunning m, s.dev.movQueue m with
  | none, x :: _ =>
    let admAt := match x.st with | .queued _ t => t | _ => s.dev.tb
    let ls := copyLines (addrOf (descOut x.body)) (descInLen x.body)
    let k := if s.dev.copyWaits x.body then 0 else s.dev.copyFirst m ls.length
    let s := s.onDev fun d => (d.tick1.onRng fun r => { r with movq := r.movq.filter (·.2 != x.slot) })
    let s := (s.copySome m x admAt 0 k ls).onDev (·.showMov m)
    if ls.isEmpty then s.copyDone m else s
  | _, _ => s

/-- The seam of a mover's disabling (R336). -/
def Dev.moverSeam (d : Dev) (m : Nat) : Dev :=
  if !d.flag (MOV_CTL_EN_REQ m) && (d.movQueue m).isEmpty && (d.movRunning m).isNone then d.off (MOV_CTL_EN_EFF m) else d

/-- A write of MOV.CTL (R336): a mover with nothing to do is disabled at once (R47). -/
def Dev.moverWrite (d : Dev) (m : Nat) : Dev := if d.flag (MOV_CTL_EN_REQ m) then d.on (MOV_CTL_EN_EFF m) else d.moverSeam m

/-! ### QPUSH -/

/-- The words bytes spell, little-endian. -/
def wordsOf : Nat → List Byte → List Word
  | 0, _ => []
  | n + 1, bs => BitVec.ofNat 32 (leNat (bs.take 4)) :: wordsOf n (bs.drop 4)

/-- A record FAULT with result word 0, or a REFUSED one, of a QPUSH (R322, R325). -/
def Dev.pushFault (d : Dev) (x : Desc) (reason : Nat) : Dev :=
  d.finish x (recordBytes (descTag x.body) 3 reason 0xFF 0 d.tb d.tb 0)

/-- A QPUSH is in the staging buffer. -/
def Dev.stagingBusy (d : Dev) : Bool := d.rng.infl.any fun x => match x.st with | .staging _ => true | _ => false

/-- The ring engine may read a QPUSH's item data: it makes no host access while PAUSED, and waits while the host's memory is being withdrawn
(R291, R329). -/
def Dev.mayStage (d : Dev) (b : BitVec 512) : Bool := isDevAddr (descIn b) || !(d.flag RNG_STAT_PAUSED || d.hostShut)

/-- QPUSH reads its item data into the staging buffer (R322); an item of length 0 has none to read. -/
def Chip.ringQpush (s : Chip) (n : Nat) : Chip :=
  match s.dev.ready n 3 0 with
  | some x =>
    if s.dev.stagingBusy then s
    else if descInLen x.body = 0 then s.onDev (·.setDesc x.slot (.staging []))
    else if !s.dev.mayStage x.body then s
    else
      match s.moverRead 0x0D (descIn x.body) (descInLen x.body) with
      | (s, .inl bs) => s.onDev (·.setDesc x.slot (.staging (wordsOf (descInLen x.body / 4) bs)))
      | (s, .inr r) => s.onDev (·.pushFault x r)
  | none => s

/-- The staged item is pushed under unit ID 0x0D and its record made (R322). -/
def Chip.itemPush (s : Chip) : Chip :=
  match s.dev.rng.infl.find? fun x => match x.st with | .staging _ => true | _ => false with
  | some x =>
    match x.st with
    | .staging ws =>
      let q := descArg x.body 0
      let admAt := s.dev.tb
      let (s, code) := s.pushItem 0x0D q (descArg x.body 1) ws
      if code = 0 then
        s.onDev fun d => d.finish x (recordBytes (descTag x.body) 0 0 0xFF 0 admAt d.tb ws.length)
      else s.onDev (·.refused x (16 + code))
    | _ => s
  | none => s

/-! ### Enabling and disabling rings -/

/-- A submission ring is enabled (R307). Before the seam of its disabling this cancels the pending change (R46). -/
def Dev.sqEnable (d : Dev) (n : Nat) : Dev :=
  let c := d.get (RNG_SQCTL_CQ n)
  if d.flag (RNG_CQCTL_EN_REQ c) && d.flag (RNG_CQCTL_EN_EFF c) then
    (d.on (RNG_SQCTL_EN_EFF n)).setWord (RNG_SQSTAT n) 0x40000000
  else
    let d := if d.flag (RNG_SQCTL_EN_EFF n) then d.put (RNG_SQSTAT_STATE n) 1 else d
    d.put (RNG_SQSTAT_ERR n) 3

/-- Every descriptor of a ring not yet admitted completes CANCELLED, in ring order (R330). -/
def Dev.cancelWaiting (d : Dev) (n : Nat) : Dev :=
  (d.rng.infl.filter fun x => x.sq == n && x.st.waits).foldl
    (fun d x => d.finish x (recordBytes (descTag x.body) 4 0 0xFF 0 0 d.tb 0)) d

/-- A descriptor of a submission ring waits for dispatch. -/
def Dev.sqWaits (d : Dev) (n : Nat) : Bool := d.rng.infl.any fun x => x.sq == n && x.st.waits

/-- The seam of a submission ring's disabling (R330). -/
def Dev.sqSeam (d : Dev) (n : Nat) : Dev :=
  if !d.flag (RNG_SQCTL_EN_REQ n) && d.flag (RNG_SQCTL_EN_EFF n) && !d.sqWaits n then
    (d.off (RNG_SQCTL_EN_EFF n)).put (RNG_SQSTAT_STATE n) 0
  else d

/-- A submission ring's EN_REQ falls (R330): with nothing waiting, the seam is there at once (R47). CQOFF stays until the ring is enabled
again (R307). -/
def Dev.sqDisable (d : Dev) (n : Nat) : Dev :=
  if d.flag (RNG_SQCTL_EN_EFF n) then
    let d' := d.put (RNG_SQSTAT_STATE n) 2
    if d.sqWaits n then d'.cancelWaiting n else d'.sqSeam n
  else d

/-- A completion ring is enabled (R307): SEQ and the counts 0, the phase 1, STATE RUN. Slots that descriptors in flight have reserved, before
the seam of its disabling, stay reserved (R331). -/
def Dev.cqEnable (d : Dev) (c : Nat) : Dev :=
  let busy := d.flag (RNG_CQCTL_EN_EFF c)
  let d := ((d.on (RNG_CQCTL_EN_EFF c)).setWord (RNG_CQSTAT c) 0x60000000).put (RNG_CQPEND_UNREL c) 0
  (if busy then d else d.put (RNG_CQPEND_RSV c) 0).setCq c .rest

/-- A completion ring has nothing to wait for: no slot is reserved, and no enabled submission ring names it (R331). -/
def Dev.cqIdle (d : Dev) (c : Nat) : Bool :=
  d.get (RNG_CQPEND_RSV c) == 0 && (List.range 64).all (fun n => !(d.get (RNG_SQCTL_CQ n) == c && d.flag (RNG_SQCTL_EN_EFF n)))

/-- The seam of a completion ring's disabling (R331). -/
def Dev.cqSeam (d : Dev) (c : Nat) : Dev :=
  if !d.flag (RNG_CQCTL_EN_REQ c) && d.flag (RNG_CQCTL_EN_EFF c) && d.cqIdle c then
    (d.off (RNG_CQCTL_EN_EFF c)).put (RNG_CQSTAT_STATE c) 0
  else d

/-- A completion ring's EN_REQ falls (R331): the records held for it are discarded; with none to wait for, the seam is there at once (R47). -/
def Dev.cqDisable (d : Dev) (c : Nat) : Dev :=
  let idle := d.cqIdle c
  let d := if d.flag (RNG_CQCTL_EN_EFF c) then d.put (RNG_CQSTAT_STATE c) 2 else d
  let d := d.setCq c { d.cqState c with count := 0, since := none }
  if idle then d.cqSeam c
  else
    (d.rng.infl.filter fun x => x.cq == c && (match x.st with | .held _ _ => true | _ => false)).foldl
      (fun d x => (d.dropInfl x.slot).dropRecord c) d

/-- A write of CQCTL whose IEN is 0 holds the count at 0 (R327). -/
def Dev.cqIen (d : Dev) (c : Nat) : Dev :=
  if d.flag (RNG_CQCTL_IEN c) then d else d.setCq c { d.cqState c with count := 0, since := none }

/-- A completion ring's timer has run out (R279, R327). -/
def Dev.cqTimer (d : Dev) (c : Nat) : Dev :=
  let x := d.cqState c
  match x.since with
  | some t =>
    if d.flag (RNG_CQCTL_IEN c) && d.flag (RNG_CQCTL_EN_REQ c) && !d.flag RNG_STAT_PAUSED && d.mayRequest && 0 < x.count
        && d.get (RNG_CQMOD_TIME c) != 0 && t + usTicks (d.get (RNG_CQMOD_TIME c)) ≤ d.tb then d.cqMessage c else d
  | none => d

/-- Held records are written in the order they completed (R329). -/
def Dev.writeHeld (d : Dev) : Dev :=
  d.rng.heldRecs.foldl (fun d slot =>
    match d.rng.infl.find? (·.slot == slot) with
    | some x =>
      match x.st with
      | .held rec imm => (d.dropInfl slot).writeRecord x.cq rec imm
      | _ => d
    | none => d) d

/-- Records that waited for Bus Master Enable or D0 are written once requests may be sent (R279). -/
def Dev.flushHeld (d : Dev) : Dev := if d.mayRequest && !d.flag RNG_STAT_PAUSED then d.writeHeld else d

/-- A write of 1 to RNG.RESUME.GO (R329). -/
def Dev.resumeGo (d : Dev) : Dev := if d.present && d.flag RNG_STAT_PAUSED then (d.off RNG_STAT_PAUSED).writeHeld else d

/-! ### Power and reset -/

/-- A descriptor is admitted and has not ended (R333). -/
def DescSt.admitted : DescSt → Bool
  | .fetched => false
  | .staging _ => false
  | .held _ _ => false
  | _ => true

/-- A system or power-on reset of the rings and movers (R334). -/
def Dev.ringReset (d : Dev) : Dev := { (d.resetBlock 0x0A).resetBlock 0x13 with rng := Rng.rest }

end Sys2Proof.Machine
end

