-- ==== Sys2Proof/Machine/Trace.lean ====
section
/-! DEFINITION. Machine/Trace.lean: the trace buffer of the debug island (R489 to R491). -/

namespace Sys2Proof.Machine

open Reg

/-- The debug island's part of the device changed. -/
def Dev.onDbg (d : Dev) (f : Dbg → Dbg) : Dev := { d with dbg := f d.dbg }

/-- Types of packets (R490). -/
def pktStim : Nat := 1
def pktCmp : Nat := 2
def pktRun : Nat := 3
def pktLost : Nat := 4
def pktSync : Nat := 5

/-- A packet made now (R490). -/
def Dev.packet (d : Dev) (kind sub uid : Nat) (w2 w3 : Word) : Packet :=
  { w0 := BitVec.ofNat 32 (0x10000000 * kind + 0x1000000 * sub + 0x10000 * uid + d.tb / 2 ^ 32 % 0x10000)
    w1 := d.now.extractLsb' 0 32, w2 := w2, w3 := w3 }

/-- Unread packets (TRRP, R490). -/
def Dev.traceUnread (d : Dev) : Nat :=
  if d.dbg.full then 8192 else (d.get DBG_TRSTAT_WP + 8192 - d.get DBG_TRRP_PTR) % 8192

/-- The bytes of a packet. -/
def Packet.bytes (p : Packet) : List Byte := leBytes 4 p.w0.toNat ++ leBytes 4 p.w1.toNat ++ leBytes 4 p.w2.toNat ++ leBytes 4 p.w3.toNat

/-- A recorded packet, number k since the rise of EN, is streamed to the host (R491). -/
def Dev.traceStream (d : Dev) (k : Nat) (p : Packet) : Dev :=
  if !d.flag DBG_TRCTL_STREAM then d
  else if d.present then
    let n := 256 * 2 ^ d.get DBG_TRHBASEL_SIZE
    let base := d.get DBG_TRHBASEH_ADDR * 2 ^ 32 + 0x1000 * d.get DBG_TRHBASEL_ADDR
    d.emit (.hostWrite (base + 16 * (k % n)) p.bytes)
  else d.bumpSat DBG_TRSTAT_SLOST 1 255

/-- A packet is recorded at WP (R490, R491). -/
def Dev.traceRecord (d : Dev) (p : Packet) : Dev :=
  let wp := d.get DBG_TRSTAT_WP
  let nx := (wp + 1) % 8192
  let k := d.dbg.count
  let d := (d.onDbg fun b =>
    { b with trace := (wp, p) :: b.trace.filter (·.1 != wp), full := nx == d.get DBG_TRRP_PTR, count := k + 1 }).put DBG_TRSTAT_WP nx
  let d := if nx = 0 then d.on DBG_TRSTAT_WRAP else d
  let d := if d.get DBG_TRCTL_WM ≤ d.traceUnread then d.on DBG_TRSTAT_WMH else d
  d.traceStream k p

/-- A packet is lost (R490). -/
def Dev.traceLose (d : Dev) : Dev := (d.bumpSat DBG_TRSTAT_LOST 1 255).onDbg fun b => { b with lost := b.lost + 1 }

/-- Recording has ended because the buffer is full (R490). -/
def Dev.traceStopped (d : Dev) : Bool := d.flag DBG_TRCTL_STOP && d.dbg.full

/-- A packet reaches the buffer (R490): after lost ones the first packet recorded is a LOST packet. -/
def Dev.trace (d : Dev) (p : Packet) : Dev :=
  if !d.flag DBG_TRCTL_EN then d
  else if d.traceStopped then d.traceLose
  else
    let d := if d.dbg.lost = 0 then d
      else (d.traceRecord (d.packet pktLost 0 0x19 (BitVec.ofNat 32 d.dbg.lost) 0)).onDbg fun b => { b with lost := 0 }
    if d.traceStopped then d.traceLose else d.traceRecord p

/-- A write of TRCTL whose EN was as given: the rise clears TRSTAT and restarts k (TRCTL.EN). -/
def Dev.traceCtl (d : Dev) (wasEn : Bool) : Dev :=
  if d.flag DBG_TRCTL_EN && !wasEn then
    (d.setWord DBG_TRSTAT 0).onDbg fun b => { b with full := false, lost := 0, count := 0 }
  else d

/-- A write of TRRP: the unread packets are those from it up to WP. -/
def Dev.traceRp (d : Dev) : Dev := d.onDbg fun b => { b with full := false }

/-- A word of the packet at TRRP; one never recorded reads 0. -/
def Dev.traceWord (d : Dev) (i : Nat) : Word :=
  match amapFind (d.get DBG_TRRP_PTR) d.dbg.trace with
  | none => 0
  | some p => match i with | 0 => p.w0 | 1 => p.w1 | 2 => p.w2 | _ => p.w3

/-- A stimulus write (R489). -/
def Dev.stim (d : Dev) (uid p : Nat) (v : Word) : Dev :=
  if d.bit (DBG_STIMEN_EN (p / 32)) (p % 32) then d.trace (d.packet pktStim 0 uid (BitVec.ofNat 32 p) v) else d

/-- A SYNC packet, where TRCTL.SYNC asks for them (R490). -/
def Dev.traceSync (d : Dev) : Dev :=
  if d.flag DBG_TRCTL_SYNC then d.trace (d.packet pktSync 0 0x02 (d.now.extractLsb' 32 32) (d.now.extractLsb' 0 32)) else d

end Sys2Proof.Machine
end

