-- ==== Sys2Proof/Machine/Resets.lean ====
section
/-! DEFINITION. Machine/Resets.lean: the resets of R493, the release of engines (R83, R496), and the boot ROM's first steps
(R497, R498). -/

namespace Sys2Proof.Machine

open Reg

/-! ### Cores -/

/-- A core in reset: the reset values of R60 and R83; the curator is always deterministic (R338). -/
def Core.rest (cur : Bool) : Core :=
  { g := (Vector.replicate 32 0).set 31 0x8000, cb := 0, db := 0, mode := if cur then 7 else 0, off := 0
    df := false, rx := false, pri := 16, ie := false, km := true, epc := 0, ecause := 0, eval := 0, vbase := 0, rc := 0, splim := 0
    regions := Vector.replicate 8 ⟨0, 0, 0⟩, tbh := 0, tblPair := false, shadows := [], resv := none, sb := [], sbErr := []
    impErr := [], dcache := [], icache := [], wait := .none, run := false, halted := false, present := false, resumed := false }

/-- A core that leaves reset at a device address (R83). -/
def Core.start (cur : Bool) (a : Word) : Core :=
  { Core.rest cur with cb := a.extractLsb' 24 8, off := a.extractLsb' 0 24 &&& ~~~3#24, run := true }

/-- What becomes of the stores that an engine in reset had retired but not yet sent is left open: some first ones are performed, the
rest are lost. -/
def Chip.loseStores (s : Chip) (e : CoreId) : Chip :=
  let n := s.cores[e].sb.length
  if n = 0 then s
  else
    let k := s.dev.fresh
    (s.onDev Dev.tick1).drainN e ((Config.free k).toNat % (n + 1))

/-- What a reset of one engine leaves of it: its copy of PRESENT and its caches (R493 keeps everything its row does not name). -/
def Core.kept (r c : Core) : Core := { r with present := c.present, dcache := c.dcache, icache := c.icache }

/-- Every cache line of a core is invalid (R204, R493). -/
def Core.noCaches (c : Core) : Core := { c with dcache := [], icache := [] }

/-- A core enters reset: its registers (R83), its reservation and its waiting accesses; its interrupt stack and its event latch stay. -/
def Chip.coreDown (s : Chip) (e : CoreId) : Chip :=
  let s := s.loseStores e
  let s := s.onCore e fun c => (Core.rest (isCur e)).kept c
  s.onDev (·.forget e)

/-- A reset of a core: it enters reset, and its interrupt stack and its event latch are emptied (R368, R371). -/
def Chip.coreReset (s : Chip) (e : CoreId) : Chip :=
  (s.coreDown e).onDev fun d => (d.emptyStack e).clearLatch e.val

/-- The curator as a core. -/
def curator : CoreId := 64

/-- HOLD of engine n (R496). -/
def Dev.heldInReset (d : Dev) (n : Nat) : Bool := d.bit (CAB_RST_HOLD (n / 8)) (n % 8)

/-- A core halts (R479, R480): its reservation is cleared and a RUN packet is made; the main acknowledges. -/
def Chip.halt (s : Chip) (e : CoreId) : Chip :=
  let s := s.tokens e [s.cores[e].token .dbg .halted 0 []]
  let s := s.onCore e fun c => { c with halted := true, resv := none, wait := .none, tblPair := false }
  s.onDev fun d => (d.onDbg fun b => { b with haltReq := b.haltReq &&& ~~~(1#65 <<< e.val) }).trace
    (d.packet pktRun 0 (uidOf e) (BitVec.ofNat 32 s.cores[e].pc) 0)

/-- An engine leaves reset (R83); with CTL.RSTHALT it halts before its first instruction (R484). -/
def Chip.leaveReset (s : Chip) (n : Fin 64) : Chip :=
  let e := eng n
  let a := s.dev.word (CAB_START (n / 8) (n % 8))
  let s := s.onCore e fun c => (Core.start false a).kept c
  if s.dev.flag DBG_CTL_RSTHALT then s.halt e else s

/-- An engine whose HOLD bit is 0 leaves reset (R496). -/
def Chip.release (s : Chip) (n : Fin 64) : Chip :=
  if s.dev.heldInReset n || s.cores[eng n].run then s else s.leaveReset n

/-- A group of performance counters at reset (R173). -/
def Dev.pmReset (d : Dev) (n : Nat) : Dev := d.resetRange (CAB_PMCTL (n / 8) (n % 8)) (CAB_PMCTL (n / 8) (n % 8) + 0x20)

/-- A per-engine reset (R493): ESTAT.WDX is kept (R170). -/
def Chip.engineReset (s : Chip) (n : Fin 64) : Chip :=
  let s := (s.coreReset (eng n)).abandonAll (0x40 + n.val)
  let s := s.onDev fun d => (d.pmReset n).wdeReload n
  (s.admEngineReset n).release n

/-- A write of CABk.RST (R496): PULSE resets engines, and those whose HOLD bit is cleared leave reset. -/
def Chip.rstWrite (s : Chip) (k : Nat) (pulse : Nat) : Chip :=
  (List.range 8).foldl (fun s j =>
    let n := Fin.ofNat 64 (8 * k + j)
    if pulse / 2 ^ j % 2 = 1 then s.engineReset n else s.release n) s

/-! ### Wider resets -/

/-- The log's entry of a reset (R494). -/
def Dev.logReset (d : Dev) (old : Word) : Dev :=
  let w := d.word SYS_RSTCAUSE
  d.log SYS_RSTCAUSE old w w 0 prvReset

/-- RSTCAUSE gains a bit, and the reset is logged (R494, R512). -/
def Dev.causeBit (d : Dev) (b : Nat) : Dev :=
  let old := d.word SYS_RSTCAUSE
  (d.putBit ⟨SYS_RSTCAUSE, 7, 0⟩ b true).logReset old

/-- The engines. -/
def engines : List (Fin 64) := (List.range 64).map (Fin.ofNat 64)

/-- A fabric reset (R493): promises are breached before the engines reset (R271). -/
def Chip.fabricReset (s : Chip) : Chip :=
  let s := s.admFabricReset
  let s := engines.foldl (fun s n =>
    ((s.coreReset (eng n)).onCore (eng n) Core.noCaches).onDev fun d => (d.pmReset n).setWord (CAB_ESTAT (n / 8) (n % 8)) (resetWord (CAB_ESTAT (n / 8) (n % 8)))) s
  let s := s.onDev fun d => (d.cabTablesReset).tbsFabricReset
  (engines.foldl Chip.release s).onDev (·.causeBit 7)

/-- The debug island at rest, its level as R473 gives it for a life-cycle state. -/
def Dbg.rest (lc : Nat) : Dbg :=
  { dormant := false, level := if lc = 0 then 3 else 0, adly := 0, freason := 0, resets := 0, crcErr := 0, access := none
    authState := 0, failCnt := 0, chal := Vector.replicate 8 0, resp := Vector.replicate 16 0, verify := none, withheld := 0
    feeding := none, haltReq := 0, trace := [], full := false, lost := 0, count := 0 }

/-- The interrupt controller at rest. -/
def Itc.rest : Itc :=
  { line := 0, pend := 0, active := 0, running := Vector.replicate 65 [], sent := 0, pulse := 0 }

/-- The power controller with no transition; what its pins show comes from outside. -/
def Pwr.rest (p : Pwr) : Pwr :=
  { p with parked := false, hold := false, wake := 0, acks := [], delays := [], asked := 0, ret := 0, railsUp := false
           tries := Vector.replicate 2 0, retry := [] }

/-- A word kept over a reset. -/
def Dev.keep (d old : Dev) (a : Nat) : Dev := d.setWord a (old.word a)

/-- The cores as a system or power-on reset leaves them: the curator in the boot ROM (R341), every engine held (R496). -/
def bootCores (present : Bool) : Vector Core 65 :=
  ((Vector.replicate 65 { Core.rest false with present := present }).set 64
    { Core.start true 0x03080000 with present := present })

/-- The device outside its arrays after a system reset (R493): every register and unit at rest but for what the table keeps. -/
def Dev.systemReset (d : Dev) : Dev :=
  let r := (((d.tbsReset).admReset).ringReset.hptReset).portsReset true
  -- SYS, PWR, ITC, EVN, DPT, GAL, VLT, CUR, PRV, SEC and the cabinets
  let r := [0x00, 0x01, 0x03, 0x04, 0x06, 0x07, 0x08, 0x0B, 0x0C, 0x0D].foldl Dev.resetBlock r
  let r := r.resetRange 0x200000 0x280000
  let r := [SYS_RSTCAUSE, PWR_WAKEEN, PWR_WAKESRC, VLT_STAT, CUR_FAULT, CUR_FSEQ, CUR_FADDR, PRV_OVF, SEC_TCTL, SEC_TCNT].foldl
    (fun r a => r.keep d a) r
  let r := (r.put CUR_FAULT_RSTCNT 0).put GAL_PGATE_GH_EFF (d.get GAL_PGATE_GH_EFF)
  { r with
    itc := Itc.rest, dpt := Dpt.empty, rseq := [], pwr := d.pwr.rest, todo := [], latch := 0, cx := [], crossing := []
    cur := Cur.fresh d.tb (if d.sec.target.isSome then .trans else .none) true d.cur.wakeN }

/-- TEST is honoured in BLANK and RETURN; elsewhere it acts as code 0; codes 5 to 7 act as 3 (R497). -/
def Dev.bootMode (d : Dev) : Nat :=
  let b := Config.bootsel.toNat
  if b = 4 then (if d.lcState = 0 ∨ d.lcState = 3 then 4 else 0) else if 4 < b then 3 else b

/-- A set-up write of the boot ROM to one field, recorded like any write of the curator (R507). -/
def Dev.bootWrite (d : Dev) (f : Fld) (v : Nat) : Dev :=
  let old := d.word f.addr
  let d := d.put f v
  d.log f.addr old (d.word f.addr) (d.word f.addr) 0x18 0

/-- The boot ROM stops with an error (R498, R505). -/
def Dev.bootStop (d : Dev) (err : Nat) : Dev := (d.put SYS_BOOT_STAGE 6).put SYS_BOOT_ERR err

/-- The boot ROM's first steps (R498 steps 2 to 4): straps and SEC.LC; SP0, its sequencer and the link. In SCRAPPED, and after a
wipe that failed (R505), it stops. -/
def Dev.bootStart (d : Dev) : Dev :=
  let d := d.onCur fun c => { c with boot := true }
  let d := ((((d.put SYS_BOOT_STAGE 0).put SYS_BOOT_ERR 0).put SYS_BOOT_SLOT 0).put SYS_BOOT_VERSION 0).put SYS_BOOT_BOOTSEL Config.bootsel.toNat
  let d := if d.get GAL_SVC_PHASE = 1 then d
    else d.put GAL_SVC_PHASE (match d.bootMode with | 2 => 2 | 4 => 3 | _ => 0)
  if d.lcState = 4 then d.bootStop 7
  else if d.sec.wipeFailed then d.bootStop 8
  else
    let d := (d.bootWrite (SP_CTL_EN_REQ 0) 1).spCtl 0 (d.flag (SP_CTL_EN_REQ 0))
    (d.bootWrite SP_RSEQCTL_EN 1).bootWrite HPT_CTL_LTEN 1

/-- After the boot ROM's first steps the port may train (R275). -/
def Chip.bootStart (s : Chip) : Chip :=
  let was := s.dev.flag HPT_CTL_LTEN
  (s.onDev Dev.bootStart).lten was

/-- Every data cache, the far cache and the line ownership start anew (R204). -/
def Mem.noOwners (m : Mem) : Mem := { m with owned := [] }

/-- A system reset with its bit of RSTCAUSE (R493, R512): the arrays keep their contents. -/
def Chip.systemReset (s : Chip) (bit : Nat) : Chip :=
  let s := engines.foldl (fun s n => s.loseStores (eng n)) s
  let s := { s with cores := bootCores false, mem := s.mem.noOwners, dev := (s.dev.systemReset).causeBit bit }
  s.bootStart

/-- The device outside its arrays with every unit at rest: what power-on leaves, but for the 32 kHz domain. -/
def Dev.rest (fuses : Fuse) : Dev :=
  { regs := [], prv := { unread := [], rp := 0, seq := 0 }, itc := Itc.rest
    hpt := { perst := false, fc := [], held := [], nextId := 0, sending := none, flight := [], cfg := [], cxl := [], msix := msixReset, pba := 0, dpaddr := 0, dpinc := false, noReply := false
             vphy := true }
    dpt := Dpt.empty, tbs := Tbs.rest
    rails := Vector.replicate 2 { on := false, mv := 0, lower := 0, since := 0, bad := false }
    rseq := [], adm := Adm.rest
    pwr := { parked := true, hold := false, wake := 0, acks := [], delays := [], asked := 0, ret := 0, railsUp := false, tries := Vector.replicate 2 0
             retry := [], wakePins := 0, clkreq := false }
    rng := Rng.rest, ports := Ports.rest false true, scrub := ⟨0, 0⟩
    sec := { fuses := fuses, target := none, tamper := false, wipe := 1, wipeFailed := false, newMin := none, key := none }
    cur := Cur.fresh 0 .none true false
    dbg := Dbg.rest fuses.state, cx := [], todo := [], out := [], latch := 0, tbC := 0, tbF := 0, fresh := 0, crossing := [] }

/-- The levels that come from outside the device, and the model's own fields, kept over a power-on reset. -/
def Dev.outside (r old : Dev) : Dev :=
  { r with
    hpt := { r.hpt with perst := old.hpt.perst, vphy := old.hpt.vphy }
    pwr := { r.pwr with wakePins := old.pwr.wakePins, clkreq := old.pwr.clkreq }
    ports := Ports.rest old.ports.espi.rstn old.ports.pad.vio33
    rails := old.rails, out := old.out, fresh := old.fresh }

/-- Power-on (R493): everything outside the 32 kHz domain at its reset value, the arrays cleared (R204), the vault wiped under a new key (R200), the
log empty but for this reset's entry (R494). The 32 kHz domain is kept (R404); emulated, so is the debug island (R429). -/
def Chip.powerOn (s : Chip) (keepHold keepDbg : Bool) : Chip :=
  let d := if keepDbg then s.dev else s.dev.hfoscStop
  let r := (Dev.rest d.sec.fuses).outside d
  let r := { r with tbC := d.tbC, tbF := d.tbF, tbs := { Tbs.rest with hfosc := d.tbs.hfosc, fine := d.tbs.fine, late := d.tbs.late } }
  let r := ((((r.keep d TBS_STAT).keepAlm0 d).keep d PWR_WAKEEN).keep d PWR_WAKESRC).keepLevels d
  let r :=
    if keepHold then
      (((r.keep d PAD_HOLDREL).onPad fun p => { p with latched := d.ports.pad.latched }))
    else r
  let r := if keepDbg then 
      (d.regs.filter fun p => 0xE0000 ≤ p.1 && p.1 < 0xF0000).foldl (fun r p => r.setWord p.1 p.2) { r with dbg := d.dbg } else r
  let r := (r.on VLT_STAT_WIPING).drawKey
  let r := (r.put ⟨SYS_RSTCAUSE, 7, 0⟩ 1).logReset 0
  { cores := bootCores false, mem := { cells := [], flips := [], owned := [] }, dev := r }

/-- The device as it first gets power (R493): the fuses as manufactured. -/
def Chip.cold : Chip :=
  let f : Fuse := { lc := Vector.ofFn fun i => Config.fuseLc i, verMin := Config.fuseVerMin }
  let r := ((Dev.rest f).on VLT_STAT_WIPING).drawKey
  { cores := bootCores false, mem := { cells := [], flips := [], owned := [] }, dev := (r.put ⟨SYS_RSTCAUSE, 7, 0⟩ 1).logReset 0 }

end Sys2Proof.Machine
end

