-- ==== Sys2Proof/Machine/Boot.lean ====
section
/-! DEFINITION. Machine/Boot.lean: the boot ROM's flow (R498 to R501). The boot ROM's program itself is not among the commands; its
flow runs by the rows CALIBRATION, BOOT_IMAGE_LOAD and RECOVERY_FLAG_POLL. -/

namespace Sys2Proof.Machine

open Reg

/-! ### Images -/

/-- A section of an image (R499). -/
structure Section where
  src : Nat
  dst : Nat
  len : Nat
  flags : Nat
  deriving DecidableEq, Repr

/-- The little-endian word of a header at a byte offset. -/
def hdrWord (h : List Byte) (o : Nat) : Nat := leNat ((h.drop o).take 4)

/-- Entry s of a header's section table. -/
def hdrSection (h : List Byte) (s : Nat) : Section :=
  ⟨hdrWord h (32 + 16 * s), hdrWord h (36 + 16 * s), hdrWord h (40 + 16 * s), hdrWord h (44 + 16 * s)⟩

/-- The sections a header names. -/
def hdrSections (h : List Byte) : List Section := (List.range (hdrWord h 12)).map (hdrSection h)

/-- VERSION and ENTRY of a header. -/
def hdrVersion (h : List Byte) : Nat := hdrWord h 8
def hdrEntry (h : List Byte) : Nat := hdrWord h 16

/-- The bytes of a range of a header are zero. -/
def hdrZero (h : List Byte) (lo n : Nat) : Bool := ((h.drop lo).take n).all (· == 0)

/-- A section lies in the vault. -/
def Section.inVault (x : Section) : Bool := 0x3000000 ≤ x.dst && x.dst + x.len ≤ 0x3080000

/-- A section's own rules (R499). -/
def Section.ok (x : Section) : Bool :=
  x.len != 0 && x.len % 4 == 0 && x.flags < 2 && (x.inVault || (0x1000000 ≤ x.dst && x.dst + x.len ≤ 0x1100000))

/-- Two sections overlap. -/
def Section.meets (x y : Section) : Bool := x.dst < y.dst + y.len && y.dst < x.dst + x.len

/-- No two sections of a list overlap. -/
def apart : List Section → Bool
  | [] => true
  | x :: xs => xs.all (!x.meets ·) && apart xs

/-- The failure of a header in the codes of SYS.BOOT.ERR, 0 for none (R499, R500): 1 MAGIC, 2 FORMAT (reserved bytes too),
3 RANGE for the rules on N, ENTRY and the sections, 5 ROLLBACK for VERSION. -/
def Dev.hdrErr (d : Dev) (h : List Byte) : Nat :=
  let n := hdrWord h 12
  let xs := hdrSections h
  let sum := (xs.map (·.len)).foldl (· + ·) 0
  let entry := hdrEntry h
  if hdrWord h 0 ≠ 0x52596418 then 1
  else if hdrWord h 4 ≠ 1 || !hdrZero h 20 12 || !hdrZero h 160 32 then 2
  else if n < 1 || 8 < n then 3
  else if !xs.all Section.ok || !apart xs || 196608 < sum || !hdrZero h (32 + 16 * n) (16 * (8 - n)) then 3
  else if !xs.any (fun x => x.inVault && x.dst ≤ entry && entry < x.dst + x.len) then 3
  else if 63 < hdrVersion h || hdrVersion h < d.sec.fuses.verMin then 5
  else 0

/-- The signature of an image with its sections' bytes is good (R499). -/
def Dev.imageSigned (d : Dev) (h : List Byte) (data : List (List Byte)) : Bool :=
  Config.imageSigned d.lcState (h.take 192 ++ data.flatten) ((h.drop 192).take 64)

/-- Bytes stored word by word as the curator's stores (R99, R191, R194); false where one is refused. -/
def Chip.storeWords (s : Chip) (a : Nat) : List Byte → Chip × Bool
  | b0 :: b1 :: b2 :: b3 :: bs =>
    match (s.asks 0x18 a).memWrite ⟨0x18, false⟩ a 4 (b3 ++ b2 ++ b1 ++ b0) with
    | (s, .ok _) => s.storeWords (a + 4) bs
    | (s, _) => (s, false)
  | _ => (s, true)

/-- Sections stored at their destinations; false where a store is refused. -/
def Chip.loadSections (s : Chip) : List (Section × List Byte) → Chip × Bool
  | [] => (s, true)
  | (x, bs) :: rest =>
    match s.storeWords x.dst bs with
    | (s, true) => s.loadSections rest
    | (s, false) => (s, false)

/-! ### The jump -/

/-- The WPROT bits of the regions that sections with WP touch (R199, R498 step 10). -/
def protBits (xs : List Section) : Nat :=
  (List.range 16).foldl (fun v r =>
    let lo := 0x3000000 + 0x8000 * r
    if xs.any fun x => x.inVault && x.flags == 1 && x.dst < lo + 0x8000 && lo < x.dst + x.len then v + 2 ^ r else v) 0

/-- The registers of the curator at the jump (R498): the ones the manual names; the other general registers hold what the boot ROM
left there, which it does not state. -/
def Core.atJump (entry : Word) (k : Nat) (boot : Word) (present : Bool) : Core :=
  let c := Core.start true entry
  { c with
    g := (Vector.ofFn fun (i : Fin 32) =>
      if i = 31 then 0x03080000 else if i = 1 then boot else if i = 0 then 0 else Config.free (k + i.val))
    splim := 0x03000000, present := present }

/-- Success (R498 step 10): WPROT is set, SYS.BOOT reads DONE, and the curator jumps to the entry. -/
def Chip.bootJump (s : Chip) (h : List Byte) : Chip :=
  let w := protBits (hdrSections h)
  let s := s.onDev fun d =>
    let d := if w = 0 then d else d.bootWrite VLT_WPROT_WP (d.get VLT_WPROT_WP ||| w)
    let d := ((d.put SYS_BOOT_STAGE 5).put SYS_BOOT_ERR 0).put SYS_BOOT_VERSION (hdrVersion h)
    -- how many tokens the boot ROM's own flow has passed is not stated
    (d.onCur fun c => { Cur.fresh d.tb c.stop false c.wakeN with seq := Config.free d.fresh, testBit := c.testBit, exercised := c.exercised }).tick1
  let k := s.dev.fresh
  (s.onCore curator fun c => Core.atJump (BitVec.ofNat 32 (hdrEntry h)) k (s.dev.word SYS_BOOT) c.present).onDev fun d =>
    { d with fresh := d.fresh + 32 }

/-! ### Recovery -/

/-- A set-up write of the boot ROM to a whole register. -/
def Dev.bootWord (d : Dev) (a : Nat) (f : Dev → Dev) : Dev :=
  let old := d.word a
  let d := f d
  d.log a old (d.word a) (d.word a) 0x18 0

/-- The staging area is cleared and the data port opened (R501 steps 7 and 10). -/
def Chip.awaitHost (s : Chip) : Chip :=
  (s.clearArray 0x1100000 0x1200000).onDev fun d =>
    (d.bootWord HPT_CTL fun d => (d.on HPT_CTL_CFGRDY).on HPT_CTL_DPEN).put SYS_BOOT_STAGE 3

/-- A recovery boot's step 7 (R501). -/
def Chip.recovery (s : Chip) : Chip :=
  (s.onDev fun d =>
    (d.bootWord (HPT_DPF_BASE 0) fun d => d.put (HPT_DPF_BASE_ADDR 0) 0x1000).bootWord (HPT_DPF_LIMIT 0) fun d =>
      (d.put (HPT_DPF_LIMIT_ADDR 0) 0x10FF).put (HPT_DPF_LIMIT_MODE 0) 2).awaitHost

/-- The bytes of the staged sections, none where one cannot be read or passes the staging area's end. -/
def Chip.stagedData (s : Chip) : List Section → Chip × Option (List (List Byte))
  | [] => (s, some [])
  | x :: xs =>
    if 0x100000 < x.src + x.len then (s, none)
    else
      match (s.asks 0x18 (0x1100000 + x.src) (x.len / 4)).bulkRead (0x1100000 + x.src) x.len with
      | (s, .inl bs) =>
        match s.stagedData xs with
        | (s, some r) => (s, some (bs :: r))
        | r => r
      | (s, .inr _) => (s, none)

/-- A staged image fails (R501 step 10). -/
def Chip.stageFails (s : Chip) (err : Nat) : Chip := (s.onDev (·.put SYS_BOOT_ERR err)).awaitHost

/-- The staged image is checked and taken (R501 steps 9 and 10). -/
def Chip.stageTake (s : Chip) : Chip :=
  let s := s.onDev fun d => ((d.bootWrite HPT_CTL_DPEN 0).put SYS_BOOT_STAGE 4).put SYS_BOOT_SLOT 2
  match (s.asks 0x18 0x1100000 64).bulkRead 0x1100000 256 with
  | (s, .inr _) => s.stageFails 6
  | (s, .inl h) =>
    let e := s.dev.hdrErr h
    if e ≠ 0 then s.stageFails e
    else
      match s.stagedData (hdrSections h) with
      | (s, none) => s.stageFails 3
      | (s, some data) =>
        if !s.dev.imageSigned h data then s.stageFails 4
        else
          match s.loadSections ((hdrSections h).zip data) with
          | (s, false) => s.stageFails 8
          | (s, true) => s.bootJump h

/-- The boot ROM reads the recovery flag (R501 step 9). -/
def Chip.flagPoll (s : Chip) : Chip :=
  if s.dev.flag VLT_STAT_READY && s.dev.cur.boot && s.dev.cur.stop = .none && s.dev.get SYS_BOOT_STAGE = 3 then
    match (s.asks 0x18 0x11FFFFC).memRead 0x11FFFFC 4 with
    | (s, .ok v) => if v = 0x6418 then s.stageTake else s
    | (s, _) => s
  else s

/-! ### Flash -/

/-- What a slot of the boot flash holds: its bytes from the slot's start as far as the flash answers. -/
structure Slot where
  bytes : List Byte
  deriving DecidableEq, Repr

/-- The failure of a slot's header (R500): one the flash does not give is FLASHIO. -/
def Dev.slotErr (d : Dev) (x : Slot) : Nat := if x.bytes.length < 256 then 6 else d.hdrErr (x.bytes.take 256)

/-- The bytes of a slot's sections, none where the flash does not give them. -/
def Slot.data (x : Slot) : Option (List (List Byte)) :=
  (hdrSections (x.bytes.take 256)).foldr (fun sec acc =>
    match acc with
    | none => none
    | some r => if sec.src + sec.len ≤ x.bytes.length then some (((x.bytes.drop sec.src).take sec.len) :: r) else none) (some [])

/-- A slot with a valid header loaded and its signature checked (R498 steps 8 and 9): the failure, 0 for none. -/
def Chip.trySlot (s : Chip) (n : Nat) (x : Slot) : Chip × Nat :=
  let s := s.onDev (·.put SYS_BOOT_SLOT n)
  match x.data with
  | none => (s, 6)
  | some data =>
    let h := x.bytes.take 256
    match s.loadSections ((hdrSections h).zip data) with
    | (s, false) => (s, 8)
    | (s, true) => if s.dev.imageSigned h data then (s.bootJump h, 0) else (s, 4)

/-- No slot has passed (R500): recovery in FLASH_THEN_RECOVERY, else the boot ROM stops with CFGRDY set. -/
def Chip.noSlot (s : Chip) (err : Nat) : Chip :=
  if s.dev.bootMode = 3 then (s.onDev (·.put SYS_BOOT_ERR err)).recovery
  else s.onDev fun d => (d.bootStop err).bootWrite HPT_CTL_CFGRDY 1

/-- The valid slots in the order they are tried: the higher VERSION first, slot A when equal (R500). -/
def Dev.slotOrder (d : Dev) (a b : Slot) : List (Nat × Slot) :=
  let va := hdrVersion (a.bytes.take 256)
  let vb := hdrVersion (b.bytes.take 256)
  match d.slotErr a, d.slotErr b with
  | 0, 0 => if va < vb then [(1, b), (0, a)] else [(0, a), (1, b)]
  | 0, _ => [(0, a)]
  | _, 0 => [(1, b)]
  | _, _ => []

/-- Slots tried in turn; err is the failure of the last one tried. -/
def Chip.trySlots (s : Chip) (err : Nat) : List (Nat × Slot) → Chip
  | [] => s.noSlot err
  | (n, x) :: rest =>
    match s.trySlot n x with
    | (s, 0) => s
    | (s, e) => s.trySlots e rest

/-- The boot ROM loads an image from flash (R498 steps 7 to 10, R500). -/
def Chip.bootImage (s : Chip) (a b : Slot) : Chip :=
  if s.dev.flag VLT_STAT_READY && s.dev.cur.boot && s.dev.cur.stop = .none && s.dev.get SYS_BOOT_STAGE = 2 then
    s.trySlots (s.dev.slotErr b) (s.dev.slotOrder a b)
  else s

/-- The boot ROM calibrates once the wing rails are up (R27, R498 steps 5 and 6), and goes on as the straps say (R497). -/
def Chip.calibration (s : Chip) (live : List Nat) : Chip :=
  let d := s.dev
  if !d.pwr.parked && d.cur.boot && d.cur.stop = .none && d.get SYS_BOOT_STAGE = 0 && d.get PWR_STAT_STATE = 0 && !d.flag PWR_STAT_BUSY
      && d.clocksOn && d.rseq.isEmpty then
    let s := s.onDev fun d => (d.put SYS_BOOT_STAGE 1).calibrate live
    match s.dev.bootMode with
    | 2 => s.recovery
    | 4 => s
    | _ => s.onDev (·.put SYS_BOOT_STAGE 2)
  else s

end Sys2Proof.Machine
end

