-- ==== Sys2Proof/Machine/Cur.lean ====
section
/-! DEFINITION. Machine/Cur.lean: the curator pair: the comparator and its faults (R343 to R348), the safe state and the curator
reset (R349 to R351). What the checker makes of its stream, and what a hardware fault does to an entry, is the command's operand. -/

namespace Sys2Proof.Machine

open Reg

/-- The curator pair has power and is out of reset: not before ON_N, and not in Off. -/
def Dev.curPowered (d : Dev) : Bool := !d.pwr.parked && (d.get PWR_STAT_STATE != 4 || d.cur.boot)

/-- The pair passes tokens: powered, not stopped, and no fabric hold stands. -/
def Dev.curRuns (d : Dev) : Bool := d.curPowered && d.cur.stop == .none && !d.pwr.hold

/-- RESTART names an entry: VALID, with ADDR in bank 0x03 (CUR.RESTART). -/
def Dev.restartValid (d : Dev) : Bool := d.flag CUR_RESTART_VALID && bits (d.word CUR_RESTART) 31 24 == 3

/-- A curator reset (R350): cores, delay registers, comparator and WDC; the pair restarts at RESTART.ADDR, or in the boot ROM. -/
def Chip.curatorReset (s : Chip) : Chip :=
  let go := s.dev.restartValid && s.dev.sec.target.isNone
  let a : Word := if go then s.dev.word CUR_RESTART &&& ~~~3#32 else 0x03080000
  let s := s.coreReset curator
  let s := s.onCore curator fun c => { Core.start true a with present := c.present }
  let s := s.onDev fun d =>
    let d := d.onCur fun c => Cur.fresh d.tb (if d.sec.target.isSome then .trans else .none) (!go) c.wakeN
    let d := ((d.put CUR_CMPXCNT_COUNT 0).bumpSat CUR_FAULT_RSTCNT 1 255)
    (if d.flag CUR_WDCTL_EN then d.wdcLoad else d).logReset (d.word SYS_RSTCAUSE)
  if go then s else s.bootStart

/-- The reset SAFE.RST chooses (R350): HALT only in DEVELOP; a CURATOR action past ESC becomes SYSTEM. -/
def Dev.safeReset (d : Dev) : Dev :=
  match d.get CUR_SAFE_RST with
  | 0 => if d.lcState = 1 then d else d.later (.sysReset 3)
  | 1 =>
    if d.flag CUR_SAFE_ESC && d.get CUR_SAFE_ESC ≤ d.get CUR_FAULT_RSTCNT then d.later (.sysReset 3) else d.later .curReset
  | _ => d.later (.sysReset 3)

/-- The record of a fault (R349 step 2); FSEQ and FADDR of a fault that is no mismatch are not stated. -/
def Dev.faultRecord (d : Dev) (code hint : Nat) (at? : Option (Nat × Word × Word)) : Dev :=
  let old := d.word CUR_FAULT
  let d := (((d.on CUR_FAULT_VALID).put CUR_FAULT_CODE code).put CUR_FAULT_HINT hint).put CUR_FAULT_CHAN (at?.map (·.1) |>.getD 0)
  let d := match at? with
    | some (_, seq, addr) => (d.setWord CUR_FSEQ seq).setWord CUR_FADDR addr
    | none => (((d.setWord CUR_FSEQ (Config.free d.fresh)).setWord CUR_FADDR (Config.free (d.fresh + 1))).tick1).tick1
  d.logHw CUR_FAULT old

/-- A fault drives the safe state (R349); one found after an earlier fault stopped the pair only sets MORE (R351). -/
def Dev.safeState (d : Dev) (code hint : Nat) (at? : Option (Nat × Word × Word)) : Dev :=
  if d.cur.stop = .fault then d.on CUR_FAULT_MORE
  else
    let d := (d.onCur fun c => { c with stop := .fault }).faultRecord code hint at?
    let d := if d.flag CUR_SAFE_PADHOLD then d.padHold true else d
    let d := if d.flag CUR_SAFE_VW && d.flag ESPI_CTL_EN then d.espiHwWire 0 true else d
    let d := if d.flag CUR_SAFE_WAKE then d.onCur fun c => { c with wakeN := true } else d
    d.safeReset

/-- What comes about at the comparator (R345, R347, R348): the token the checker produced; a fault of the input entry it took last, and of the
output entry compared; and that the comparator's copies disagree on the pair. -/
structure TokenPair where
  made : Token
  flipIn : Option Flip
  flipOut : Option Flip
  copies : Bool
  deriving DecidableEq, Repr

/-- One if true. -/
def one (b : Bool) : Nat := if b then 1 else 0

/-- The input entry that the checker took last fails its parity (R347). -/
def Cur.badIn (c : Cur) (f : Option Flip) : Bool := c.took.any (·.bad f)

/-- The comparator compares an output token of the main with the checker's (R345, R347): a difference is a mismatch, and a parity error
without one is counted. Of faults found together the lowest code is recorded, with MORE (R349). -/
def Dev.comparePair (d : Dev) (x : DelayEntry) (t : TokenPair) : Dev :=
  let badIn := d.cur.badIn t.flipIn
  let badOut := x.bad t.flipOut
  if copyComp t.made.words (x.read t.flipOut).1 then
    let d := d.safeState 1 (one badIn + 2 * one badOut)
      (some (x.tok.chan.code, x.seq, if x.tok.chan.hasAddr then x.tok.addr else 0))
    if t.copies then d.on CUR_FAULT_MORE else d
  else
    let d := d.bumpSat CUR_DPCNT_COUNT (one badIn + one badOut) 0xFFFFFFFF
    if t.copies then d.safeState 3 3 none else d

/-- The checker produces its next output token: it takes the input tokens offered before it, and the comparator compares (R343, R345). Until one
is offered there is nothing to compare. -/
def Dev.tokenCompare (d : Dev) (t : TokenPair) : Dev :=
  let c := d.cur
  let ins := c.offered.takeWhile (·.tok.chan.isInput)
  match c.offered.drop ins.length with
  | x :: _ => if d.curRuns then ((d.onCur (·.drop ins.length)).comparePair x t).onCur (·.drop 1) else d
  | [] => d

/-- The held tokens are released to the checker, the main having passed none for 100 ns (R344). -/
def Dev.delayRelease (d : Dev) : Dev :=
  if d.curRuns && d.cur.last + 4 ≤ d.tb && d.cur.release.isNone then d.onCur fun c => { c with release := some d.tb }.drop 0 else d

/-- The checker has not produced its token within 1 µs of a release (R345). -/
def Dev.lagFault (d : Dev) : Dev :=
  match d.cur.release with
  | some t => if d.curRuns && !d.cur.held.isEmpty && t + usTicks 1 ≤ d.tb then d.safeState 2 0 none else d
  | none => d

/-- The comparator is exercised every CMPX.PERIOD µs (R348): 0 passed, 1 the true copy failed, 2 the complementary copy failed. The test bit
moves one place. -/
def Dev.exercise (d : Dev) (r : Fin 3) : Dev :=
  if !d.curPowered || d.tb < d.cur.exercised + usTicks (d.get CUR_CMPX_PERIOD) then d
  else
    let d := d.onCur fun c => { c with testBit := (c.testBit + 1) % Config.comparedBits, exercised := d.tb }
    if r = 0 then d.bump CUR_CMPXCNT_COUNT 1 else d.safeState 3 r.val none

/-- WDC reaches 0 (R354). -/
def Chip.wdcExpiry (s : Chip) : Chip :=
  let w := s.dev.tbs.wdc
  if s.dev.flag CUR_WDCTL_EN && w.left == 0 && !w.spent && s.dev.curPowered then
    s.onDev fun d => ({ d with tbs := { d.tbs with wdc := { w with spent := true } } }).safeState 4 (one s.cores[curator].halted) none
  else s

/-- WAKE_N is low while the pair or the host port drives it (R294, R351). -/
def Dev.wakeNLow (d : Dev) : Bool := d.cur.wakeN || d.flag HPT_HOLD_WAKE

/-- CUR.FAULT.VALID cleared releases WAKE_N (R351). -/
def Dev.faultClear (d : Dev) : Dev := if d.flag CUR_FAULT_VALID then d else d.onCur fun c => { c with wakeN := false }

end Sys2Proof.Machine
end

