-- ==== Sys2Proof/Syntax.lean ====
section
/-! DEFINITION. Syntax.lean: the commands of the block: one constructor per row of spec/opcode_table.json, with the row's operands. A core
executes an instruction, a master reads or writes a register, something happens on a pin, a bus or the link, or a unit reaches the next
point of its own work. -/

namespace Sys2Proof

open Machine

/-- Who makes a register or window access (R5): a core, the debugger through its port, or the host through BAR0 (R280). -/
inductive Sender where
  | core (e : CoreId)
  | debugger
  | host
  deriving DecidableEq, Repr

/-- The commands. An instruction row names the core that executes it next. -/
inductive Instr where
  /-- ADD (R95): Adds two registers into rd, wrapping modulo 2^32. -/
  | add (e : CoreId) (rd ra rb : GReg)
  /-- SUB (R95): Subtracts rb from ra into rd. -/
  | sub (e : CoreId) (rd ra rb : GReg)
  /-- AND (R95): Bitwise AND of two registers into rd. -/
  | and (e : CoreId) (rd ra rb : GReg)
  /-- OR (R95): Bitwise OR of two registers into rd. -/
  | or (e : CoreId) (rd ra rb : GReg)
  /-- XOR (R95): Bitwise XOR of two registers into rd. -/
  | xor (e : CoreId) (rd ra rb : GReg)
  /-- ANDN (R95): ra AND NOT rb into rd. -/
  | andn (e : CoreId) (rd ra rb : GReg)
  /-- SHL (R95): Shifts ra left by rb[4:0]. -/
  | shl (e : CoreId) (rd ra rb : GReg)
  /-- SHR (R95): Shifts ra right by rb[4:0] with zero fill. -/
  | shr (e : CoreId) (rd ra rb : GReg)
  /-- SRA (R95): Shifts ra right by rb[4:0] with sign fill. -/
  | sra (e : CoreId) (rd ra rb : GReg)
  /-- ROR (R95): Rotates ra right by rb[4:0]. -/
  | ror (e : CoreId) (rd ra rb : GReg)
  /-- SLT (R95): Sets rd to 1 if ra is signed-less than rb. -/
  | slt (e : CoreId) (rd ra rb : GReg)
  /-- SLTU (R95): Sets rd to 1 if ra is unsigned-less than rb. -/
  | sltu (e : CoreId) (rd ra rb : GReg)
  /-- MIN (R95): Signed minimum into rd. -/
  | min (e : CoreId) (rd ra rb : GReg)
  /-- MAX (R95): Signed maximum into rd. -/
  | max (e : CoreId) (rd ra rb : GReg)
  /-- MINU (R95): Unsigned minimum into rd. -/
  | minu (e : CoreId) (rd ra rb : GReg)
  /-- MAXU (R95): Unsigned maximum into rd. -/
  | maxu (e : CoreId) (rd ra rb : GReg)
  /-- SEXTB (R95): Sign-extends the low byte of ra. -/
  | sextb (e : CoreId) (rd ra : GReg)
  /-- SEXTH (R95): Sign-extends the low halfword of ra. -/
  | sexth (e : CoreId) (rd ra : GReg)
  /-- ZEXTH (R95): Zero-extends the low halfword of ra. -/
  | zexth (e : CoreId) (rd ra : GReg)
  /-- CLZ (R95): Counts leading zeros of ra. -/
  | clz (e : CoreId) (rd ra : GReg)
  /-- CTZ (R95): Counts trailing zeros of ra. -/
  | ctz (e : CoreId) (rd ra : GReg)
  /-- POPC (R95): Counts 1 bits of ra. -/
  | popc (e : CoreId) (rd ra : GReg)
  /-- BSWAP (R95): Reverses the four bytes of ra. -/
  | bswap (e : CoreId) (rd ra : GReg)
  /-- MUL (R95): Low 32 bits of ra times rb. -/
  | mul (e : CoreId) (rd ra rb : GReg)
  /-- MULH (R95): High 32 bits of the signed product. -/
  | mulh (e : CoreId) (rd ra rb : GReg)
  /-- MULHU (R95): High 32 bits of the unsigned product. -/
  | mulhu (e : CoreId) (rd ra rb : GReg)
  /-- MACC (R95): Adds the low product of ra and rb to rd. -/
  | macc (e : CoreId) (rd ra rb : GReg)
  /-- DIV (R96): Signed division rounded toward zero, never trapping. -/
  | div (e : CoreId) (rd ra rb : GReg)
  /-- DIVU (R96): Unsigned division, never trapping. -/
  | divu (e : CoreId) (rd ra rb : GReg)
  /-- REM (R96): Signed remainder, never trapping. -/
  | rem (e : CoreId) (rd ra rb : GReg)
  /-- REMU (R96): Unsigned remainder, never trapping. -/
  | remu (e : CoreId) (rd ra rb : GReg)
  /-- DOT8 (R95): Accumulates eight signed int8 products of two register pairs into rd. -/
  | dot8 (e : CoreId) (rd ra rb : GReg)
  /-- DOT8U (R95): As DOT8 with unsigned first operand bytes. -/
  | dot8u (e : CoreId) (rd ra rb : GReg)
  /-- DOT16 (R95): Accumulates four signed int16 products into rd. -/
  | dot16 (e : CoreId) (rd ra rb : GReg)
  /-- ADDI (R97): Adds a sign-extended immediate. -/
  | addi (e : CoreId) (rd ra : GReg) (i : BitVec 16)
  /-- ANDI (R97): ANDs a zero-extended immediate. -/
  | andi (e : CoreId) (rd ra : GReg) (i : BitVec 16)
  /-- ORI (R97): ORs a zero-extended immediate. -/
  | ori (e : CoreId) (rd ra : GReg) (i : BitVec 16)
  /-- XORI (R97): XORs a zero-extended immediate. -/
  | xori (e : CoreId) (rd ra : GReg) (i : BitVec 16)
  /-- SLTI (R97): Signed compare against an immediate. -/
  | slti (e : CoreId) (rd ra : GReg) (i : BitVec 16)
  /-- SLTIU (R97): Unsigned compare against a sign-extended immediate. -/
  | sltiu (e : CoreId) (rd ra : GReg) (i : BitVec 16)
  /-- ADDHI (R97): Adds the immediate shifted left by 16. -/
  | addhi (e : CoreId) (rd ra : GReg) (i : BitVec 16)
  /-- SHLI (R97): Shifts left by an immediate count. -/
  | shli (e : CoreId) (rd ra : GReg) (n : BitVec 5)
  /-- SHRI (R97): Shifts right with zero fill by an immediate count. -/
  | shri (e : CoreId) (rd ra : GReg) (n : BitVec 5)
  /-- SRAI (R97): Shifts right with sign fill by an immediate count. -/
  | srai (e : CoreId) (rd ra : GReg) (n : BitVec 5)
  /-- RORI (R97): Rotates right by an immediate count. -/
  | rori (e : CoreId) (rd ra : GReg) (n : BitVec 5)
  /-- LW (R98): Short-form word load through DB or the stack bank. -/
  | lw (e : CoreId) (rt base : GReg) (i : BitVec 16)
  /-- LH (R98): Short-form sign-extended halfword load. -/
  | lh (e : CoreId) (rt base : GReg) (i : BitVec 16)
  /-- LHU (R98): Short-form zero-extended halfword load. -/
  | lhu (e : CoreId) (rt base : GReg) (i : BitVec 16)
  /-- LB (R98): Short-form sign-extended byte load. -/
  | lb (e : CoreId) (rt base : GReg) (i : BitVec 16)
  /-- LBU (R98): Short-form zero-extended byte load. -/
  | lbu (e : CoreId) (rt base : GReg) (i : BitVec 16)
  /-- SW (R98): Short-form word store. -/
  | sw (e : CoreId) (rt base : GReg) (i : BitVec 16)
  /-- SH (R98): Short-form halfword store. -/
  | sh (e : CoreId) (rt base : GReg) (i : BitVec 16)
  /-- SB (R98): Short-form byte store. -/
  | sb (e : CoreId) (rt base : GReg) (i : BitVec 16)
  /-- LW_I (R99): Word load with post-increment of the base by 4. -/
  | lwI (e : CoreId) (rt ra : GReg) (i : BitVec 12)
  /-- LH_I (R99): Signed halfword load with post-increment by 2. -/
  | lhI (e : CoreId) (rt ra : GReg) (i : BitVec 12)
  /-- LHU_I (R99): Unsigned halfword load with post-increment by 2. -/
  | lhuI (e : CoreId) (rt ra : GReg) (i : BitVec 12)
  /-- LB_I (R99): Signed byte load with post-increment by 1. -/
  | lbI (e : CoreId) (rt ra : GReg) (i : BitVec 12)
  /-- LBU_I (R99): Unsigned byte load with post-increment by 1. -/
  | lbuI (e : CoreId) (rt ra : GReg) (i : BitVec 12)
  /-- SW_I (R99): Word store with post-increment by 4. -/
  | swI (e : CoreId) (rt ra : GReg) (i : BitVec 12)
  /-- SH_I (R99): Halfword store with post-increment by 2. -/
  | shI (e : CoreId) (rt ra : GReg) (i : BitVec 12)
  /-- SB_I (R99): Byte store with post-increment by 1. -/
  | sbI (e : CoreId) (rt ra : GReg) (i : BitVec 12)
  /-- LDL (R99): Word load from a full 32-bit device address. -/
  | ldl (e : CoreId) (rt ra : GReg) (i : BitVec 12)
  /-- LDLH (R99): Signed halfword long load. -/
  | ldlh (e : CoreId) (rt ra : GReg) (i : BitVec 12)
  /-- LDLHU (R99): Unsigned halfword long load. -/
  | ldlhu (e : CoreId) (rt ra : GReg) (i : BitVec 12)
  /-- LDLB (R99): Signed byte long load. -/
  | ldlb (e : CoreId) (rt ra : GReg) (i : BitVec 12)
  /-- LDLBU (R99): Unsigned byte long load. -/
  | ldlbu (e : CoreId) (rt ra : GReg) (i : BitVec 12)
  /-- STL (R99): Word store to a full 32-bit device address. -/
  | stl (e : CoreId) (rt ra : GReg) (i : BitVec 12)
  /-- STLH (R99): Halfword long store. -/
  | stlh (e : CoreId) (rt ra : GReg) (i : BitVec 12)
  /-- STLB (R99): Byte long store. -/
  | stlb (e : CoreId) (rt ra : GReg) (i : BitVec 12)
  /-- LL (R107): Loads a word and reserves its 64-byte granule. -/
  | ll (e : CoreId) (rt ra : GReg)
  /-- SC (R108): Stores only if the reservation still covers the address, reporting success in rt. -/
  | sc (e : CoreId) (rt ra rb : GReg)
  /-- SWAP (R106): Atomically exchanges a memory word with rb. -/
  | swap (e : CoreId) (rt ra rb : GReg)
  /-- AADD (R106): Atomic add at memory returning the old value. -/
  | aadd (e : CoreId) (rt ra rb : GReg)
  /-- AAND (R106): Atomic AND at memory. -/
  | aand (e : CoreId) (rt ra rb : GReg)
  /-- AOR (R106): Atomic OR at memory. -/
  | aor (e : CoreId) (rt ra rb : GReg)
  /-- AMIN (R106): Atomic signed minimum at memory. -/
  | amin (e : CoreId) (rt ra rb : GReg)
  /-- AMAX (R106): Atomic signed maximum at memory. -/
  | amax (e : CoreId) (rt ra rb : GReg)
  /-- BEQ (R101): Branches if ra equals rb. -/
  | beq (e : CoreId) (ra rb : GReg) (off : BitVec 15)
  /-- BNE (R101): Branches if ra differs from rb. -/
  | bne (e : CoreId) (ra rb : GReg) (off : BitVec 15)
  /-- BLT (R101): Branches if ra is signed-less than rb. -/
  | blt (e : CoreId) (ra rb : GReg) (off : BitVec 15)
  /-- BGE (R101): Branches if ra is not signed-less than rb. -/
  | bge (e : CoreId) (ra rb : GReg) (off : BitVec 15)
  /-- BLTU (R101): Branches if ra is unsigned-less than rb. -/
  | bltu (e : CoreId) (ra rb : GReg) (off : BitVec 15)
  /-- BGEU (R101): Branches if ra is not unsigned-less than rb. -/
  | bgeu (e : CoreId) (ra rb : GReg) (off : BitVec 15)
  /-- BEQI (R101): Branches if ra equals a 5-bit immediate. -/
  | beqi (e : CoreId) (ra : GReg) (i : BitVec 5) (off : BitVec 15)
  /-- BNEI (R101): Branches if ra differs from a 5-bit immediate. -/
  | bnei (e : CoreId) (ra : GReg) (i : BitVec 5) (off : BitVec 15)
  /-- BLTI (R101): Branches if ra is signed-less than a 5-bit immediate. -/
  | blti (e : CoreId) (ra : GReg) (i : BitVec 5) (off : BitVec 15)
  /-- BGEI (R101): Branches if ra is not signed-less than a 5-bit immediate. -/
  | bgei (e : CoreId) (ra : GReg) (i : BitVec 5) (off : BitVec 15)
  /-- JMP (R102): Jumps to a PC-relative offset in bank CB. -/
  | jmp (e : CoreId) (off : BitVec 22)
  /-- CALL (R53): Pushes the return word and jumps PC-relative. -/
  | call (e : CoreId) (off : BitVec 22)
  /-- JMPR (R55): Jumps to the offset held in a register. -/
  | jmpr (e : CoreId) (ra : GReg)
  /-- CALLR (R53): Pushes the return word and jumps to a register offset. -/
  | callr (e : CoreId) (ra : GReg)
  /-- RET (R53): Pops the return word and resumes at its bank and offset. -/
  | ret (e : CoreId)
  /-- MFS (R60): Reads a system register into rd, checking user-mode permission. -/
  | mfs (e : CoreId) (rd : GReg) (sr : BitVec 8)
  /-- MTS (R64): Writes a system register with its shadow or serialising timing. -/
  | mts (e : CoreId) (sr : BitVec 8) (ra : GReg)
  /-- TRAP (R69): Raises the TRAP cause with the immediate in EVAL. -/
  | trap (e : CoreId) (i : BitVec 16)
  /-- BKPT (R69): Raises BREAK, or halts when BKHALT is set. -/
  | bkpt (e : CoreId) (i : BitVec 16)
  /-- RFE (R77): Returns from an exception by restoring the frame, or tail-chains. -/
  | rfe (e : CoreId)
  /-- FENCE_A (R159): Load barrier that invalidates clean data-cache lines. -/
  | fenceA (e : CoreId)
  /-- FENCE_R (R158): Full barrier that drains the store buffer and write-through traffic. -/
  | fenceR (e : CoreId)
  /-- INVAL (R120): Invalidates the line at ra in the selected caches and the far cache. -/
  | inval (e : CoreId) (ra : GReg) (sel : BitVec 2)
  /-- FLUSH (R120): Writes the line at ra home and invalidates it. -/
  | flush (e : CoreId) (ra : GReg)
  /-- WFE (R116): Clears a set event latch and continues, or begins waiting for an event. -/
  | wfe (e : CoreId)
  /-- WFE_WAKE (R116): An arriving event ends a waiting WFE, clearing the latch. -/
  | wfeWake (e : CoreId)
  /-- SEV (R117): Sends an event to the engines of the chosen scope after older stores complete. -/
  | sev (e : CoreId) (scope : BitVec 3) (rg : Bool) (ra : GReg) (target : BitVec 6)
  /-- WAITT (R118): Waits until the timebase reaches a pair value or an event arrives. -/
  | waitt (e : CoreId) (rd ra : GReg)
  /-- WAITT_TIMEOUT (R118): The timebase reaches T and a waiting WAITT completes, writing rd. -/
  | waittTimeout (e : CoreId)
  /-- REPN (R110): Repeats the next instruction 1 to 32 times without interruption. -/
  | repn (e : CoreId) (n : BitVec 5) (body : Word)
  /-- REPI (R110): Repeats the next instruction interruptibly, counting in RC. -/
  | repi (e : CoreId) (rg : Bool) (n : BitVec 16) (ra : GReg) (body : Word)
  /-- CUSTOM_INSTRUCTION (R121): Executes the cabinet's loaded custom slot as one instruction. -/
  | customInstruction (e : CoreId) (slot : Fin 8) (rd ra rb : GReg) (i : BitVec 11)
  /-- STORE_DRAIN (R141): A retired store leaves the store buffer for its target in program order. -/
  | storeDrain (e : CoreId)
  /-- STORE_ERROR_REPLY (R72): An error reply to a retired store is taken as an imprecise BUS_ERROR. -/
  | storeErrorReply (e : CoreId)
  /-- PARTIAL_OVERLAP_RETRY (R142): A load waiting on a partially overlapping store executes again after its acknowledgement. -/
  | partialOverlapRetry (e : CoreId)
  /-- MEMORY_ORDER_REPLAY (R144): A resolved store address invalidates an early load, which replays with younger instructions. -/
  | memoryOrderReplay (e : CoreId)
  /-- INTERRUPT_ACCEPT (R362): An engine or the curator latches the standing offer at a boundary and enters its handler. -/
  | interruptAccept (e : CoreId)
  /-- PULSE (R496): CABk.RST.PULSE resets the chosen engines once. -/
  | pulse (m : Sender) (k : Fin 8) (hold engines : BitVec 8)
  /-- HOLD (R496): Writing CABk.RST.HOLD releases or holds engines in reset. -/
  | hold (m : Sender) (k : Fin 8) (hold : BitVec 8)
  /-- CXTAB (R124): A curator write to the decode-table window is stored or ignored under the lock and state rules. -/
  | cxtab (m : Sender) (k i : Fin 8) (j : Fin 64) (v : Word)
  /-- CXCTL_COMMIT (R125): Changing STATE_REQ from 0 to 1 starts the slot commit check. -/
  | cxctlCommit (m : Sender) (k i : Fin 8) (v : Word)
  /-- COMMIT_CHECK_COMPLETE (R125): The slot check sets ERR, ERRIDX and COMP and loads the slot if it passed. -/
  | commitCheckComplete (k i : Fin 8)
  /-- CXCTL_UNLOAD (R126): Changing STATE_REQ from 1 to 0 requests the slot be unloaded at its seam. -/
  | cxctlUnload (m : Sender) (k i : Fin 8) (v : Word)
  /-- SLOT_SEAM (R126): No decoded instruction of the slot remains and STATE_EFF falls to 0. -/
  | slotSeam (k i : Fin 8)
  /-- CANARY_READING (R24): A cabinet takes its 10 µs canary reading and updates CABk.PACE. -/
  | canaryReading (k : Fin 8) (ps : BitVec 16)
  /-- CALIBRATION (R27): The boot ROM calibrates both wings' pace tables from fuses and canary readings. -/
  | calibration (live : List (BitVec 16))
  /-- WDE_EXPIRY (R171): An engine watchdog expires, setting WDX and optionally resetting the engine. -/
  | wdeExpiry (n : Fin 64)
  /-- WDEKICK (R396): An engine write with the correct code reloads its own watchdog. -/
  | wdekick (n : Fin 64)
  /-- WDC_EXPIRY (R354): The curator watchdog reaches 0 and enters the safe state with code WDC. -/
  | wdcExpiry
  /-- WDKICK (R354): A curator write with code 0x4B1C restarts WDC. -/
  | wdkick (m : Sender)
  /-- WDP_EXPIRY (R399): The platform watchdog expires and pulses PLTRST_N low. -/
  | wdpExpiry
  /-- WDPKICK (R396): A curator write with the correct code reloads WDP. -/
  | wdpkick (m : Sender)
  /-- WDP_WARNING (R399): WDP's remaining count reaches WDPWARN and sets WDPW. -/
  | wdpWarning
  /-- PLTRST_PULSE_END (R399): The PLTRST_N pulse ends and the pin returns to its drive, with optional system reset. -/
  | pltrstPulseEnd
  /-- SUB_GO (R251): An internal submitter's write submits its staged request to the registrar. -/
  | subGo (m : Sender) (v : Word)
  /-- SUB_RES (R252): Reads the caller's submission result, clearing it once final. -/
  | subRes (m : Sender)
  /-- ADMISSION_DECISION (R256): The registrar checks a visible request and admits or refuses it, possibly raising a rail. -/
  | admissionDecision
  /-- RESULT (R250): The running launch's stub writes its result word. -/
  | result (m : Sender) (v : Word)
  /-- DONE (R250): The stub ends the running launch with DONE or FAULT and the registrar writes its record. -/
  | done (m : Sender) (v : Word)
  /-- DEADLINE_BREACH (R261): A launch without DONE by its deadline less 66 ticks is breached and its engine reset. -/
  | deadlineBreach (pid : BitVec 12)
  /-- STUB_READY (R261): After an owned engine's reset the registrar re-tests its timeline and seals the next record. -/
  | stubReady (n : Fin 64)
  /-- THERMAL_EMERGENCY_START (R267): Ceilings fall to VTHERM, rails are lowered and waiting launches that no longer fit are breached. -/
  | thermalEmergencyStart
  /-- THERMAL_EMERGENCY_END (R267): The emergency ends and VCEIL_EFF returns as if VCEIL_REQ were rewritten. -/
  | thermalEmergencyEnd
  /-- PROFILE_COMMIT (R245): Changing a profile's STATE_REQ from 0 to 1 starts its commit check. -/
  | profileCommit (m : Sender) (p : Fin 256) (v : Word)
  /-- PROFILE_CHECK_COMPLETE (R245): The profile check sets ERR and loads the profile if it passed. -/
  | profileCheckComplete (p : Fin 256)
  /-- PROFILE_UNLOAD (R245): Changing STATE_REQ from 1 to 0 refuses further requests for the profile. -/
  | profileUnload (m : Sender) (p : Fin 256) (v : Word)
  /-- HEAD (R215): A producer starts an item, reserving its cells or being refused. -/
  | head (m : Sender) (q : Fin 1024) (v : Word)
  /-- BODY (R216): Appends a data word to the producer's open item, sealing at LEN. -/
  | body (m : Sender) (q : Fin 1024) (v : Word)
  /-- LAST (R216): Appends a data word and seals the item. -/
  | last (m : Sender) (q : Fin 1024) (v : Word)
  /-- POPH (R223): Returns the header at the cursor and moves the cursor into the item. -/
  | poph (m : Sender) (q : Fin 1024)
  /-- PEEKH (R223): Returns the header at the cursor without moving it. -/
  | peekh (m : Sender) (q : Fin 1024)
  /-- POP (R223): Returns the data word at the cursor and moves it one word. -/
  | pop (m : Sender) (q : Fin 1024)
  /-- PEEK (R223): Returns the data word at the cursor without moving it. -/
  | peek (m : Sender) (q : Fin 1024)
  /-- MARK (R224): Stores the cursor as the mark. -/
  | mark (m : Sender) (q : Fin 1024) (v : Word)
  /-- REWIND (R224): Sets the cursor back to the mark. -/
  | rewind (m : Sender) (q : Fin 1024) (v : Word)
  /-- RELEASE (R226): Frees every cell wholly before the cursor. -/
  | release (m : Sender) (q : Fin 1024) (v : Word)
  /-- QUEUE_FLUSH (R230): The owning consumer flushes the queue, freeing its items and marking open items broken. -/
  | queueFlush (m : Sender) (q : Fin 1024) (v : Word)
  /-- SKIP (R224): Moves the cursor to the header position after the current item. -/
  | skip (m : Sender) (q : Fin 1024) (v : Word)
  /-- DSTAT (R222): Returns the caller's depot status slot and clears it. -/
  | dstat (m : Sender) (q : Fin 1024)
  /-- QCMD_FLUSH (R230): The curator flushes a queue through DPT.QCMD. -/
  | qcmdFlush (m : Sender) (q : Fin 1024)
  /-- DEPOT_ENABLE (R240): Depot EN_REQ rising enables the depot with the requested pool, or fails POOLRANGE. -/
  | depotEnable (m : Sender) (v : Word)
  /-- DEPOT_DISABLE_SEAM (R240): With no open item, operation or registrar cell, the depot disables and discards every queue. -/
  | depotDisableSeam
  /-- QUEUE_DISABLE_SEAM (R240): A queue with no open item reaches its disable seam. -/
  | queueDisableSeam (q : Fin 1024)
  /-- SCRUB_LINE (R195): The conservator reads and corrects the next line in scrub order. -/
  | scrubLine
  /-- OWNERSHIP_RELEASE (R182): A burst writer's release returns line ownership to the home role. -/
  | ownershipRelease (line : BitVec 26)
  /-- OWNERSHIP_TIMEOUT (R184): A burst idle for 2 µs loses line ownership to the home role. -/
  | ownershipTimeout (line : BitVec 26)
  /-- PGATE_OFF_SEAM (R207): A gallery half with no access in progress switches off and refuses with OFFLINE. -/
  | pgateOffSeam (h : Fin 16)
  /-- PGATE_ON_COMPLETE (R207): A half switched on is powered and cleared and GH_EFF returns to 0. -/
  | pgateOnComplete (h : Fin 16)
  /-- NORMAL (R203): Writing GAL.SVC.NORMAL moves the service phase from START to NORMAL. -/
  | normal (m : Sender) (v : Word)
  /-- CLR (R186): GAL.CCTL.CLR sets every conflict counter to zero. -/
  | clr (m : Sender) (v : Word)
  /-- WIPE (R200): VLT.WIPE with the correct code starts a vault wipe with cause COMMAND. -/
  | wipe (m : Sender)
  /-- WIPE_COMPLETE (R200): The wipe ends with read-back passed, clearing WPROT and setting READY. -/
  | wipeComplete (good : Bool)
  /-- WPROT (R199): Writing VLT.WPROT write-protects vault regions until a reset or wipe. -/
  | wprot (m : Sender) (v : Word)
  /-- TOKEN_COMPARE (R345): The comparator checks a checker output token against the main's. -/
  | tokenCompare (t : TokenPair)
  /-- DELAY_RELEASE (R344): After 100 ns with no main token, held input tokens are released to the checker. -/
  | delayRelease
  /-- LAG (R345): The checker fails to produce a token within 1 µs of a release. -/
  | lag
  /-- COMPARATOR_EXERCISE (R348): A test pair exercises both comparator copies every CMPX period. -/
  | comparatorExercise (r : Fin 3)
  /-- SAFECMD (R349): A write with code 0x5AFE enters the safe state with code SWREQ. -/
  | safecmd (m : Sender)
  /-- PENDSET (R359): Sets pending bits, or soft bits of level sources. -/
  | pendset (m : Sender) (w : Fin 8) (v : Word)
  /-- PENDCLR (R359): Clears pending bits, or soft bits of level sources. -/
  | pendclr (m : Sender) (w : Fin 8) (v : Word)
  /-- ENSET (R360): Enables sources, making pending ones eligible at once. -/
  | enset (m : Sender) (w : Fin 8) (v : Word)
  /-- ENCLR (R363): Disables sources and withdraws their offers. -/
  | enclr (m : Sender) (w : Fin 8) (v : Word)
  /-- SRC_WRITE (R363): A write to ITC.SRC withdraws and remakes any offer under the new settings. -/
  | srcWrite (m : Sender) (n : Fin 256) (v : Word)
  /-- CLAIM (R364): Accepts the eligible source for the caller without exception entry, or returns the spurious vector. -/
  | claim (m : Sender)
  /-- EOI (R365): Pops the caller's running-priority stack and resamples a level source. -/
  | eoi (m : Sender) (v : Word)
  /-- LINE_ASSERT (R359): A source input line asserts or rises, making the source pending. -/
  | lineAssert (n : Fin 256)
  /-- LINE_DEASSERT (R363): A level source line de-asserts, withdrawing a standing offer. -/
  | lineDeassert (n : Fin 256)
  /-- MSI_X_SEND (R367): The host port takes a host-routed source's MSI-X message, clearing its pending bit. -/
  | msiXSend
  /-- TBL_READ (R390): A TBS.TBL read returns the timebase and latches its high word for the reader. -/
  | tblRead (m : Sender)
  /-- ALARM_COMMIT (R391): A CMPH write commits the 64-bit compare value and arms the alarm if enabled. -/
  | alarmCommit (m : Sender) (a : Fin 4) (v : Word)
  /-- ALARM_ENABLE (R391): A CTL write setting EN arms the alarm at its committed value; clearing EN disarms it. -/
  | alarmEnable (m : Sender) (a : Fin 4) (v : Word)
  /-- ALARM_FIRE (R392): The timebase reaches NEXT and the alarm sets ISTAT, sends its event and may wake. -/
  | alarmFire (a : Fin 4)
  /-- HFOSC_LOCK (R376): The FLL locks HFOSC, sets LOCK and starts the derived clocks. -/
  | hfoscLock
  /-- XTALF (R377): Four LFRC periods without an XOSC edge switch the reference to LFRC. -/
  | xtalf
  /-- XTALOK (R377): 32,768 qualifying XOSC edges switch the reference back to XOSC. -/
  | xtalok
  /-- ENTER_SLEEP (R408): PWR.ENTER with target SLEEP starts the entry handshake. -/
  | enterSleep (m : Sender)
  /-- ENTER_DEEP_SLEEP (R408): PWR.ENTER with target DEEP_SLEEP starts the entry handshake. -/
  | enterDeepSleep (m : Sender)
  /-- ENTER_OFF (R408): PWR.ENTER with target OFF starts the entry handshake. -/
  | enterOff (m : Sender)
  /-- HANDSHAKE_ANSWER (R410): A unit answers ACK, DELAY or REFUSE to the entry query. -/
  | handshakeAnswer (u : BitVec 8)
  /-- HSTMO_EXPIRY (R409): The handshake time limit expires with a unit still in DELAY. -/
  | hstmoExpiry
  /-- WAKE_ACCEPT (R420): A held wake condition is accepted and the exit from the current state begins. -/
  | wakeAccept
  /-- EXIT_RETRY (R418): A failed exit rail request is repeated 100 µs later. -/
  | exitRetry
  /-- IDLE_ENTRY (R407): With AUTOIDLE set and every engine and the curator waiting, the device enters Idle. -/
  | idleEntry
  /-- IDLE_EXIT (R407): An engine or the curator begins a handshake and Idle ends. -/
  | idleExit
  /-- ON_N (R419): ON_N low at two consecutive 32 kHz edges raises a wake or starts the boot. -/
  | onN
  /-- WAKE_PIN (R419): A WAKE0–WAKE3 pin goes low and raises an enabled wake. -/
  | wakePin (k : Fin 4) (low : Bool)
  /-- LISTENER_MATCH (R423): The sleeping listener matches an address, ACKs or NACKs it and raises a wake. -/
  | listenerMatch (p : Fin 2) (byte : BitVec 8)
  /-- VAD_FIRE (R452): The voice-activity detector's block means cross the threshold and it fires. -/
  | vadFire
  /-- PDOWN_SEAM (R427): A block requested off finishes its transfer and is switched off. -/
  | pdownSeam (i : Fin 11)
  /-- PDOWN_POWER_UP (R427): A block requested on is powered at reset values and EFF clears. -/
  | pdownPowerUp (i : Fin 11)
  /-- CONTROLLER_TRANSFER (R436): SPk.CMD with GO starts a controller transfer. -/
  | controllerTransfer (m : Sender) (k : Fin 8) (v : Word)
  /-- TRANSFER_DONE (R436): A controller transfer ends by STOP, NACK, arbitration loss or underflow and sets DONE. -/
  | transferDone (k : Fin 8) (how : SpEnd) (data : List Byte) (pecBad : Bool)
  /-- TARGET_ADDRESSED (R437): A port in target role is addressed on its bus and sets ADDR. -/
  | targetAddressed (k : Fin 8) (call : SpCall)
  /-- TARGET_TIMEOUT (R437): A target read stretching for 25 ms sends 0xFF and sets TIMEOUT. -/
  | targetTimeout (k : Fin 8)
  /-- SP_DATA_WRITE (R436): Pushes a byte to the port's TX FIFO or sets OVR. -/
  | spDataWrite (m : Sender) (k : Fin 8) (b : Byte)
  /-- SP_DATA_READ (R436): Pops a byte from the port's RX FIFO. -/
  | spDataRead (m : Sender) (k : Fin 8)
  /-- SP_ENABLE_SEAM (R435): A port's EN change takes effect at the end of its current transfer. -/
  | spEnableSeam (k : Fin 8)
  /-- RSEQ_POINT (R439): Firmware requests a table point on a wing through SP0.RSEQREQ. -/
  | rseqPoint (m : Sender) (w : Fin 2) (i : Fin 16)
  /-- RSEQ_ON (R439): Firmware requests a wing rail on. -/
  | rseqOn (m : Sender) (w : Fin 2)
  /-- RSEQ_OFF (R439): Firmware requests a wing rail off. -/
  | rseqOff (m : Sender) (w : Fin 2)
  /-- SEQUENCER_WRITE (R440): At a transfer boundary the rail sequencer performs a PMIC write and reports its outcome. -/
  | sequencerWrite (acked : Bool) (status : BitVec 8)
  /-- IO_WRITE (R444): A host eSPI I/O write is stored in a window mailbox or port 0x80. -/
  | ioWrite (port : BitVec 16) (data : List Byte)
  /-- IO_READ (R444): A host eSPI I/O read returns mailbox bytes or 0xFF. -/
  | ioRead (port : BitVec 16) (n : Fin 5)
  /-- MEMORY_CYCLE (R443): A host eSPI memory cycle is answered with an unsuccessful completion. -/
  | memoryCycle
  /-- SET_CONFIGURATION (R443): The host chooses frequency, I/O mode and channels within the advertised set. -/
  | setConfiguration (freq : Fin 8) (mode : Fin 4) (chans : BitVec 3)
  /-- VIRTUAL_WIRE (R445): A host virtual-wire change is stored, including THERM into ADM.THERM.HOST. -/
  | virtualWire (sys : BitVec 8) (host : BitVec 4)
  /-- VWOUT (R445): A VWOUT write changes device wires, sent at the next opportunity with Alert. -/
  | vwout (m : Sender) (v : Word)
  /-- OOB_PACKET (R446): A host OOB packet enters the RX buffer or is deferred. -/
  | oobPacket (data : List Byte)
  /-- OOB_SEND (R446): OOBCTL GO offers the TX buffer to the host with Alert. -/
  | oobSend (m : Sender) (v : Word)
  /-- TXDONE (R446): The host takes the OOB packet and TXDONE is set. -/
  | txdone
  /-- ESPI_RST_N (R447): ESPI_RST_N low resets the eSPI channels and host-chosen configuration. -/
  | espiRstN
  /-- FSPI_READ (R448): Issues a flash read command into the DATA FIFO. -/
  | fspiRead (m : Sender) (v : Word)
  /-- FSPI_WRITE (R449): Issues a flash program command unless write-protected. -/
  | fspiWrite (m : Sender) (v : Word)
  /-- FSPI_ERASE (R449): Issues a flash erase command unless write-protected. -/
  | fspiErase (m : Sender) (v : Word)
  /-- FSPI_OTHER (R448): Issues any other flash command. -/
  | fspiOther (m : Sender) (v : Word)
  /-- FLASH_POLL (R449): Every 16 µs the controller polls flash status, ending the command when ready. -/
  | flashPoll (status : Byte)
  /-- POLL_TIMEOUT (R449): Polling lasting 8 s sets PTMO and clears BUSY. -/
  | pollTimeout
  /-- FSPI_DATA_WRITE (R448): Pushes four bytes into the FSPI FIFO. -/
  | fspiDataWrite (m : Sender) (v : Word)
  /-- FSPI_DATA_READ (R448): Pops four bytes from the FSPI FIFO. -/
  | fspiDataRead (m : Sender)
  /-- PDM_FRAME (R450): Each FRAME samples per microphone, PDM pushes one item or drops the frame. -/
  | pdmFrame (samples : List (BitVec 16))
  /-- PDM_ENABLE_SEAM (R451): PDM EN changes at the frame boundary, clearing DROPS and SEQ on rise. -/
  | pdmEnableSeam
  /-- OUTSET (R431): Sets GPIO output values. -/
  | outset (m : Sender) (w : Fin 2) (v : Word)
  /-- OUTCLR (R431): Clears GPIO output values. -/
  | outclr (m : Sender) (w : Fin 2) (v : Word)
  /-- LINE_CHANGE (R454): A filtered input's new level passes the glitch filter and its line changes. -/
  | lineChange (i : Fin 68) (level : Bool)
  /-- STORM (R455): An input passing more than STORMN edges in 10 ms is masked. -/
  | storm (i : Fin 68)
  /-- STUCK (R455): An input asserted for STUCK × 100 ms is masked. -/
  | stuck (i : Fin 68)
  /-- UNMASK (R455): Writing 1 to a STORM or STUCK bit unmasks the input and restarts its timers. -/
  | unmask (m : Sender) (w : Fin 3) (stuckReg : Bool) (v : Word)
  /-- KEYBOARD_SCAN (R456): The keyboard scanner runs one scan and updates debounced keys. -/
  | keyboardScan (keys : BitVec 128)
  /-- TACH_UPDATE (R457): Each second TACH COUNT is updated and a stall may signal source 147. -/
  | tachUpdate (n0 n1 : BitVec 16)
  /-- SHORT_TEST (R459): Every 500 µs driven guarded pins are compared with read-back and shorts turned off. -/
  | shortTest (g : Fin 5) (pin : Fin 16) (drive : PadDrive) (reads : Bool)
  /-- OPEN_TEST (R460): Every OPER ms guarded inputs are tested for a lost external load. -/
  | openTest (g : Fin 5) (pin : Fin 16) (follows : Bool)
  /-- REVERSAL_PROBE (R461): On BAT_PRES assertion the guard probes both battery orientations and may swap them. -/
  | reversalProbe (cur swapped : Bool)
  /-- SHORT_CLEAR (R459): Writing 1 to GSTAT.SHORT re-enables the shorted pin. -/
  | shortClear (m : Sender) (g : Fin 5) (v : Word)
  /-- HOLDREL (R425): Releases every held pad to its owning unit's value. -/
  | holdrel (m : Sender)
  /-- VIO33_DROP (R519): VIO33 below 2.90 V for 10 µs disables guarded pins and suspends guard tests. -/
  | vio33Drop
  /-- VIO33_RETURN (R519): 1 ms after VIO33 returns above 3.00 V guarded pins resume. -/
  | vio33Return
  /-- VAON_DROP (R519): VAON, VSRAM or VIO18 below threshold for 2 µs causes a power-on reset on return. -/
  | vaonDrop
  /-- VPHY_DROP (R519): A link supply below threshold takes the link down. -/
  | vphyDrop
  /-- CONFIGURATION_REQUEST (R276): A host configuration request is completed, or retried until CFGRDY. -/
  | configurationRequest (write : Bool) (reg : BitVec 10) (v : Word)
  /-- PERST_N_ASSERT (R277): A link reset returns configuration space to reset and makes far memory absent. -/
  | perstNAssert
  /-- PERST_N_DEASSERT (R275): PERST_N rising lets link training begin with the effective LINKCFG. -/
  | perstNDeassert
  /-- LTEN (R275): Writing LTEN from 0 to 1 starts link training. -/
  | lten (m : Sender) (v : Word)
  /-- HOT_RESET (R275): A host Hot Reset or link disable sends the port back to training. -/
  | hotReset
  /-- LINK_UP (R274): Training completes with the link in L0 and LSTAT updated. -/
  | linkUp (u : LinkUp)
  /-- LINK_DOWN (R292): The link leaves L0 and L1 unplanned and far memory stops being present. -/
  | linkDown
  /-- BUS_MASTER_ENABLE_CLEAR (R292): The host clears Bus Master Enable and far memory becomes absent. -/
  | busMasterEnableClear
  /-- D_STATE_CHANGE (R279): The host moves the function out of or into D0. -/
  | dStateChange (d0 : Bool)
  /-- HOLD_TIMEOUT (R294): A held access reaching HOLDMAX fails with FAR_ABSENT. -/
  | holdTimeout
  /-- HMEM (R291): A write to HPT.HMEM withdraws or restores host memory. -/
  | hmem (m : Sender) (v : Word)
  /-- AVAIL_SEAM (R291): With no far access in flight and the far cache empty, AVAIL_EFF falls. -/
  | availSeam
  /-- FAR_WINDOW_DISABLE_SEAM (R283): A window with no access in flight and its lines written back becomes disabled. -/
  | farWindowDisableSeam (b : Fin 256)
  /-- FAR_CACHE_FLUSH (R290): FCCMD.FLUSH writes back and invalidates every far-cache line. -/
  | farCacheFlush (m : Sender)
  /-- FAR_CACHE_FLUSH_DONE (R290): The far-cache flush completes and BUSY clears. -/
  | farCacheFlushDone
  /-- SNPDATA (R286): A host SnpData snoop is answered from the far cache line. -/
  | snpdata (line : BitVec 46)
  /-- SNPINV (R286): A host SnpInv snoop invalidates the line and returns dirty data. -/
  | snpinv (line : BitVec 46)
  /-- SNPCUR (R286): A host SnpCur snoop returns the current line data. -/
  | snpcur (line : BitVec 46)
  /-- APERTURE_WRITE (R297): A host BAR2 aperture write reaches device memory, checked against the fence list. -/
  | apertureWrite (off : BitVec 16) (data : List Byte)
  /-- APERTURE_READ (R297): A host BAR2 aperture read returns device memory data. -/
  | apertureRead (off : BitVec 16) (n : Nat)
  /-- SUBMISSION_DOORBELL (R309): A host doorbell write sets the SQ tail, or puts the SQ in ERROR. -/
  | submissionDoorbell (n : Fin 64) (v : Word)
  /-- COMPLETION_DOORBELL (R310): A host doorbell write releases CQ records up to the new head. -/
  | completionDoorbell (c : Fin 64) (v : Word)
  /-- DESCRIPTOR_FETCH (R311): The ring engine reserves a CQ slot and table entry and fetches descriptors. -/
  | descriptorFetch (ds : List (BitVec 512))
  /-- FETCH_FAILURE (R313): A failed fetch returns its reservations and puts the SQ in ERROR. -/
  | fetchFailure
  /-- NOP (R324): A NOP descriptor completes DONE at dispatch. -/
  | nop (n : Fin 64)
  /-- RUN (R318): A RUN descriptor is handed to the registrar with its deadline and buffers. -/
  | run (n : Fin 64)
  /-- COPY (R319): A COPY descriptor is queued on a mover. -/
  | copy (n : Fin 64)
  /-- QPUSH (R322): A QPUSH descriptor reads its item data into the staging buffer. -/
  | qpush (n : Fin 64)
  /-- ITEM_PUSH (R322): The staged QPUSH data is pushed as one depot item and the outcome recorded. -/
  | itemPush
  /-- TIME (R323): CTRL TIME completes DONE carrying the device timebase. -/
  | time (n : Fin 64)
  /-- EVENT (R323): CTRL EVENT sends an event as SEV would. -/
  | event (n : Fin 64)
  /-- SWINT (R323): CTRL SWINT sets a software interrupt source pending. -/
  | swint (n : Fin 64)
  /-- FENCE (R324): A FENCE descriptor dispatches and waits for earlier descriptors of its SQ. -/
  | fence (n : Fin 64)
  /-- FENCE_COMPLETE (R324): Every earlier descriptor's record is written and the FENCE completes DONE. -/
  | fenceComplete (n : Fin 64)
  /-- COPY_START (R319): A mover takes the next queued COPY and issues its line transfers. -/
  | copyStart (mv : Fin 2)
  /-- COPY_COMPLETE (R321): A COPY's writes are performed or a line fails, and it completes DONE or FAULT. -/
  | copyComplete (mv : Fin 2)
  /-- MODERATION_TIMER (R327): The CQ timer reaches TIME and the vector is sent. -/
  | moderationTimer (c : Fin 64)
  /-- SQ_ENABLE (R307): SQ EN_REQ rising enables the SQ if its CQ is enabled, else sets CQOFF. -/
  | sqEnable (m : Sender) (n : Fin 64) (v : Word)
  /-- SQ_DISABLE (R330): SQ EN_REQ falling stops fetching and cancels unadmitted descriptors. -/
  | sqDisable (m : Sender) (n : Fin 64) (v : Word)
  /-- SQ_DISABLE_SEAM (R330): No fetch or waiting descriptor remains and the SQ's EN_EFF falls. -/
  | sqDisableSeam (n : Fin 64)
  /-- CQ_ENABLE (R307): CQ EN_REQ rising enables the CQ with counters zeroed and phase 1. -/
  | cqEnable (m : Sender) (c : Fin 64) (v : Word)
  /-- CQ_DISABLE (R331): CQ EN_REQ falling discards every further record for the CQ. -/
  | cqDisable (m : Sender) (c : Fin 64) (v : Word)
  /-- CQ_DISABLE_SEAM (R331): No enabled SQ names the CQ and RSV is 0, so EN_EFF falls. -/
  | cqDisableSeam (c : Fin 64)
  /-- RESUME_GO (R329): Writing RNG.RESUME.GO while present clears PAUSED and writes held records. -/
  | resumeGo (m : Sender)
  /-- MOVER_DISABLE_SEAM (R336): A mover with an empty queue and nothing running becomes disabled. -/
  | moverDisableSeam (mv : Fin 2)
  /-- PRD (R465): A debug port read frame returns a port register. -/
  | prd (i crc : BitVec 8)
  /-- PWR (R465): A debug port write frame writes a port register. -/
  | pwr (i : BitVec 8) (v : Word) (crc : BitVec 8)
  /-- SRD (R468): A debug system read starts or collects a quiet system access. -/
  | srd (addr : Word) (inTime : Bool) (crc : BitVec 8)
  /-- SWR (R468): A debug system write starts or collects a system access. -/
  | swr (addr data : Word) (inTime : Bool) (crc : BitVec 8)
  /-- SYSTEM_ACCESS_COMPLETE (R468): A system access answered WAIT completes and its outcome is kept for collection. -/
  | systemAccessComplete
  /-- LINE_RESET (R469): HDIO held low 128 cycles abandons any frame in progress. -/
  | lineReset
  /-- ACTIVATION_SEQUENCE (R470): The activation code wakes a dormant debug port. -/
  | activationSequence
  /-- ABORT (R468): PCTL.ABORT discards the outcome of the system access in progress. -/
  | abort (adly : BitVec 6)
  /-- DORMANT (R470): PCTL.DORMANT makes the port dormant after the answer and drops the level to LOCKED. -/
  | dormant (adly : BitVec 6)
  /-- CHAL (R474): AUTH.CHAL draws a 32-byte challenge unless withheld. -/
  | chal
  /-- AUTH_SIG (R474): AUTH GO with METHOD SIG starts signature verification. -/
  | authSig (level : BitVec 2)
  /-- AUTH_PWD (R474): AUTH GO with METHOD PWD starts password verification. -/
  | authPwd (level : BitVec 2)
  /-- AUTH_DROP (R476): AUTH GO with METHOD DROP lowers the access level at once. -/
  | authDrop (level : BitVec 2)
  /-- VERIFY_COMPLETE (R475): Verification ends with PASS granting the level or FAIL starting the withholding time. -/
  | verifyComplete
  /-- HALT (R479): DBG.RCTL HALT requests a halt of an engine, the curator or all engines. -/
  | halt (target : BitVec 7)
  /-- HALT_EFFECT (R479): The target reaches an allowed boundary and halts, clearing its reservation. -/
  | haltEffect (e : CoreId)
  /-- RESUME (R483): DBG.RCTL RESUME continues the target from HPC. -/
  | resume (target : BitVec 7)
  /-- STEP (R483): DBG.RCTL STEP runs one instruction from HPC and halts again. -/
  | step (target : BitVec 7)
  /-- FEED (R481): Executes one fed instruction on the halted feed target. -/
  | feed (w : Word)
  /-- HPC (R483): A write to DBG.HPC sets the halted target's resume address. -/
  | hpc (a : Word)
  /-- STIM (R489): A write to an enabled stimulus port makes one STIM trace packet. -/
  | stim (m : Sender) (p : Fin 64) (v : Word)
  /-- SYNC (R490): Every SYNC ms a SYNC packet is made. -/
  | sync
  /-- POWER_ON_RESET (R493): First application of VAON resets everything outside the 32 kHz domain and clears arrays. -/
  | powerOnReset
  /-- SYS_RST_N (R493): SYS_RST_N low for at least 1 µs requests a system reset. -/
  | sysRstN
  /-- SYSTEM_RESET (R493): SYS.RSTCMD SYSTEM resets every unit except those kept and restarts the boot ROM. -/
  | systemReset (m : Sender)
  /-- FABRIC_RESET (R493): SYS.RSTCMD FABRIC breaches promises and resets every engine and decode table. -/
  | fabricReset (m : Sender)
  /-- BOOT_IMAGE_LOAD (R500): The boot ROM checks slot headers, loads and verifies a slot and jumps to its entry. -/
  | bootImageLoad (a b : List Byte)
  /-- RECOVERY_FLAG_POLL (R501): Every 100 µs the boot ROM checks the recovery flag and verifies the staged image when found. -/
  | recoveryFlagPoll
  /-- LCREQ (R503): An accepted life-cycle request stops the curator, resets debug and wipes the vault. -/
  | lcreq (m : Sender) (t : BitVec 3)
  /-- LC_FUSE_PROGRAM (R503): Programming the target state's fuses ends and a system reset follows. -/
  | lcFuseProgram (got : BitVec 3)
  /-- TAMPER (R504): An accepted TAMPER_N event stops the curator, wipes the vault and resets. -/
  | tamper
  /-- VER (R506): A VER write with code raises the anti-rollback minimum by fuse programming. -/
  | ver (m : Sender) (n : BitVec 6)
  /-- VER_FUSE_PROGRAM (R506): Anti-rollback fuse programming ends and MIN reads the new value or VERFAIL is set. -/
  | verFuseProgram (ok : Bool) (held : BitVec 6)
  /-- ACK (R511): PRV.ACK advances the provenance read pointer by N entries. -/
  | ack (m : Sender) (n : BitVec 12)
  /-- READ_TO_CLEAR (R6): A read of an RC field returns its value and clears it, except for quiet debug reads. -/
  | readToClear (m : Sender) (a : BitVec 24) (n : Fin 65)
  /-- REGISTER_WRITE (R11): A write to a register with no row of its own is clamped field by field and stored. -/
  | registerWrite (m : Sender) (a : BitVec 24) (n : Fin 65) (v : Word)
  /-- LINK_POWER_STATE_CHANGE (R273): The host moves the link between L0, L1, L1.1, L1.2 and L2, including CLKREQ_N assertion by the host, and LSTAT.STATE follows. -/
  | linkPowerStateChange (st : BitVec 3) (clkreq : Bool)
  /-- MSI_X_UNMASK (R328): A host write that unmasks a vector or the function sends the message whose pending bit was set while masked. -/
  | msiXUnmask (v : Fin 64) (addr : BitVec 64) (data : Word) (mask : Bool)
  /-- UART_RECEIVE (R432): A UART port receives a character on RXD into its RX FIFO, setting FRAME, OVR or RXHIGH as the character requires. -/
  | uartReceive (k : Fin 8) (b : Byte) (bad : Bool)
  /-- IN_BAND_INTERRUPT (R432): An I3C target on the bus raises an in-band interrupt that the controller port takes, setting IRQ bit IBI. -/
  | inBandInterrupt (k : Fin 8)
  /-- VPHY_RETURN (R521): VPHY and VPHYH return within their limits for 100 µs and link training may start again. -/
  | vphyReturn
  /-- ESPI_RST_N_RISE (R419): ESPI_RST_N rises: the eSPI CTL fields take effect and, while enabled, a wake is raised. -/
  | espiRstNRise
  /-- WITHHOLDING_TIME_END (R475): The challenge withholding time after a failed authentication runs out and AUTH.STATE leaves WITHHELD. -/
  | withholdingTimeEnd
  /-- COMPLETION_TIMEOUT (R278): A device-issued non-posted request to the host receives no completion within the configured completion timeout range and fails as an error reply. -/
  | completionTimeout
  deriving DecidableEq, Repr

end Sys2Proof
end

