-- ==== Sys2Proof/Decode.lean ====
section
/-! DEFINITION. Decode.lean: words that spell commands. The table of this block gives no row any bits: a command comes from outside,
by its name and operands, and no word spells one. (Words of Kosvel instructions, which the device itself reads, are in Machine/Op.lean.) -/

namespace Sys2Proof

/-- The command a word of nbits bits spells by the opcode table: none. -/
def decodeTableWord (_nbits _w : Nat) : Option Instr := none

end Sys2Proof
end

