-- ==== Sys2Proof/Machine/Pwr.lean ====
section
/-! DEFINITION. Machine/Pwr.lean: the power states: Idle, the entry handshake, entry and exit, wake sources (13_power_states.md). -/

namespace Sys2Proof.Machine

open Reg

/-- The power controller's part of the device changed. -/
def Dev.onPwr (d : Dev) (f : Pwr → Pwr) : Dev := { d with pwr := f d.pwr }

/-- The state is emulated: DBG.CTL.EMUSLEEP (R429). -/
def Dev.emulated (d : Dev) : Bool := d.flag PWR_STAT_EMU

/-- Microseconds have passed since the query of R408. -/
def Dev.sinceQuery (d : Dev) (us : Nat) : Bool := d.pwr.asked + usTicks us ≤ d.tb

/-! ### Idle -/

/-- The conditions of Idle (R407). -/
def Chip.allQuiet (s : Chip) : Bool := engines.all (fun n => s.cores[eng n].quiet) && s.cores[curator].waiting && !s.dev.cur.boot

/-- Idle is entered (R407). -/
def Chip.idleEntry (s : Chip) : Chip :=
  if s.dev.flag PWR_CTL_AUTOIDLE && !s.dev.flag PWR_STAT_BUSY && s.dev.get PWR_STAT_STATE = 0 && s.allQuiet && s.dev.curRuns then
    s.onDev (·.put PWR_STAT_STATE 1)
  else s

/-- Idle ends once a core goes on (R407). -/
def Chip.idleExit (s : Chip) : Chip :=
  if s.dev.get PWR_STAT_STATE = 1 && !s.allQuiet then s.onDev (·.put PWR_STAT_STATE 0) else s

/-! ### Wake sources -/

/-- The wake conditions that hold or have held since the entry began (R420, R421): those latched, and those of pins and of the
interrupt controller that hold now. -/
def Dev.wakeConds (d : Dev) : BitVec 14 :=
  d.pwr.wake ||| d.pwr.wakePins.zeroExtend 14 ||| (if d.pwr.clkreq then 1#14 <<< 5 else 0)
    ||| (if (d.wouldOffer curator).isSome then 1#14 <<< 10 else 0)

/-- The conditions that wake a state (R419), ON_N and WDP always: in Off only WAKE0, ALM0 and ON_N. -/
def Dev.wakeMask (d : Dev) (st : Nat) : BitVec 14 :=
  let en : BitVec 14 := (d.word PWR_WAKEEN).extractLsb' 0 11 |>.zeroExtend 14
  let en := en ||| 0x1800#14 ||| (if d.flag PWR_WAKEEN_ALM then 1#14 <<< 13 else 0)
  if st = 4 then en &&& 0x0811#14 else en

/-- The enabled conditions of a state. -/
def Dev.wakes (d : Dev) (st : Nat) : BitVec 14 := d.wakeConds &&& d.wakeMask st

/-- The interrupt controller's condition, which may come and go, is kept in its latch (R420). -/
def Dev.sampleItc (d : Dev) : Dev :=
  if d.watching && d.flag PWR_WAKEEN_ITC && (d.wouldOffer curator).isSome then d.wakeUp 10 else d

/-- WAKESRC at an exit (R421). -/
def Dev.setWakesrc (d : Dev) (st : Nat) (late : Bool) : Dev :=
  let w := d.wakes st
  let src := (w.extractLsb' 0 11).toNat ||| (if w.getLsbD 13 then 16 else 0)
  (((((d.put PWR_WAKESRC_FROMOFF (if st = 4 then 1 else 0)).put PWR_WAKESRC_LATE (one late)).put PWR_WAKESRC_FROM st).put
    PWR_WAKESRC_WDP (one (w.getLsbD 12))).put PWR_WAKESRC_ON (one (w.getLsbD 11))).put PWR_WAKESRC_SRC src

/-! ### Rail requests of a transition -/

/-- The state a failure is recorded under: the target of an entry, or the state exited (R418). -/
def Dev.transState (d : Dev) : Nat := if d.get PWR_STAT_PHASE = 3 then d.get PWR_STAT_STATE else d.get PWR_STAT_TARGET

/-- A rail request of an entry or exit has failed (R418): in an exit it is repeated, at most twice a wing; after that the wing counts
as below the running range. -/
def Dev.powerRailFail (d : Dev) (r : RailReq) : Dev :=
  let exit := d.get PWR_STAT_PHASE = 3
  let d := d.on PWR_ISTAT_RAILF
  let d :=
    if d.flag PWR_RAILERR_VALID then d
    else (((d.on PWR_RAILERR_VALID).put PWR_RAILERR_STATE d.transState).put PWR_RAILERR_PHASE (if exit then 1 else 0)).put PWR_RAILERR_WING r.wing
  if !exit then d
  else if d.pwr.tries[r.wing] < 2 then
    d.onPwr fun p => { p with tries := p.tries.set r.wing (p.tries[r.wing] + 1), retry := p.retry ++ [r] }
  else (d.setRail r.wing { d.rails[r.wing] with bad := true }).railTrouble r.wing (railfFld r.wing)

/-- A rail request of the power controller (R411). -/
def Dev.powerAsk (d : Dev) (w : Fin 2) (a : RailAsk) : Dev :=
  let r : RailReq := ⟨w, a, .power⟩
  let (d, failed) := d.askRail r
  if failed then d.powerRailFail r else d

/-- A write of the rail sequencer has been performed (R440, R441): a failure goes to whoever asked (R268, R418). -/
def Dev.railOutcome (d : Dev) (acked : Bool) (status : BitVec 8) : Dev :=
  match d.railWrite acked status with
  | (d, some (r, true)) =>
    match r.src with
    | .power => d.powerRailFail r
    | .registrar => d.railTrouble r.wing (railfFld r.wing)
    | .firmware => d
  | (d, _) => d

/-- SP0 can carry a write of the sequencer (R440): it is enabled, at a transfer boundary, and its clock runs. -/
def Dev.seqReady (d : Dev) : Bool := d.flag (SP_CTL_EN_EFF 0) && d.ports.sp[(0 : Fin 8)].xfer.isNone && d.clocksOn

/-- The rail sequencer performs its next write (R440). -/
def Dev.seqWrite (d : Dev) (acked : Bool) (status : BitVec 8) : Dev := if d.seqReady then d.railOutcome acked status else d

/-- A failed request of an exit is repeated (R418). -/
def Dev.exitRetry (d : Dev) : Dev :=
  match d.pwr.retry with
  | [] => d
  | r :: rest => (d.onPwr fun p => { p with retry := rest }).powerAsk r.wing r.ask

/-- A transition still waits for rail requests. -/
def Dev.railsWait (d : Dev) : Bool := d.rseq.any (·.src == .power) || !d.pwr.retry.isEmpty

/-- The point a wing comes up at (R29, R411). -/
def Dev.exitPoint (d : Dev) (w : Fin 2) : Fin 16 :=
  if d.get PWR_STAT_STATE ≠ 4 && d.flag ADM_CTL_EN_EFF then Fin.ofNat 16 (d.get (cmtFld w))
  else Fin.ofNat 16 ((d.floorPoint w (d.get PWR_EXIT_POINT)).getD (d.get PWR_EXIT_POINT))

/-- The rail requests of an exit (R411): after Sleep the two points; after Deep Sleep and Off each wing's point and its on
request. -/
def Dev.exitRails (d : Dev) : Dev :=
  let st := d.get PWR_STAT_STATE
  let d := d.onPwr fun p => { p with railsUp := true }
  if d.emulated then d
  else if st = 2 then (d.powerAsk 0 (.point (d.exitPoint 0))).powerAsk 1 (.point (d.exitPoint 1))
  else
    let d := (d.powerAsk 0 (.point (d.exitPoint 0))).powerAsk 0 .on
    (d.powerAsk 1 (.point (d.exitPoint 1))).powerAsk 1 .on

/-! ### Exit -/

/-- STAT of an exit that runs from a state. -/
def Dev.exitStat (d : Dev) (st : Nat) : Dev :=
  ((((d.on PWR_STAT_BUSY).put PWR_STAT_PHASE 3).put PWR_STAT_TARGET 0).put PWR_STAT_STATE st).onPwr fun p =>
    { p with tries := Vector.replicate 2 0, retry := [], railsUp := false, acks := [], delays := [], wake := 0 }

/-- The units Deep Sleep did not retain come back cleared (R205, R206, R415): halves, scratches, the vault, the decode tables. -/
def Chip.unitsBack (s : Chip) : Chip :=
  let keep (b : Nat) : Bool := s.dev.pwr.ret.getLsbD b
  let s := (List.range 16).foldl (fun (s : Chip) h => if keep h then s else s.clearArray (halfAddr h) (halfAddr (h + 1))) s
  let s := (List.range 8).foldl (fun (s : Chip) k =>
    if keep (16 + k) then s else s.clearArray (0x2000000 + 0x40000 * k) (0x2000000 + 0x40000 * (k + 1))) s
  let s := if keep 24 then s else if s.dev.sec.key.isNone then s.wipe 2 else s.vaultClear
  let s := s.onDev fun d => d.onHpt fun h => { h with fc := [] }
  if keep 25 then s else s.onDev Dev.cabTablesLost

/-- The device comes up into the boot ROM (R416 from step 2 on, R498): HFOSC starts, the curator leaves reset, and the rail requests
follow once the clocks run. -/
def Chip.comeUp (s : Chip) : Chip :=
  (s.onDev fun d => ((d.onPwr fun p => { p with parked := false, hold := false }).exitStat 4).hfoscStart).bootStart

/-- A wake is accepted and the exit begins (R414 to R416). -/
def Chip.exitStart (s : Chip) (late : Bool) : Chip :=
  let st := s.dev.get PWR_STAT_STATE
  let emu := s.dev.emulated
  let s := s.onDev fun d => d.setWakesrc st late
  let s :=
    if st = 4 then
      let s := (s.powerOn true emu).comeUp
      s.onDev fun d => d.put PWR_STAT_EMU (one emu)
    else
      let s := if st = 3 then s.unitsBack else s
      s.onDev fun d => (d.exitStat st).hfoscStart
  if late then s.onDev (·.on PWR_ISTAT_LATE) else s

/-- An exit ends (R414 to R416, R504): fabric hold is over and the device runs. -/
def Dev.exitDone (d : Dev) : Dev :=
  let st := d.get PWR_STAT_STATE
  let d := (((d.put PWR_STAT_STATE 0).off PWR_STAT_BUSY).put PWR_STAT_PHASE 0).off PWR_STAT_EMU
  let d := if d.sec.tamper && !d.flag VLT_STAT_WIPING then d.tamperDone else d
  let d := (d.onPwr fun p => { p with hold := false, railsUp := false }).off ADM_STAT_ENTRY
  if st = 2 || st = 3 then d.on PWR_ISTAT_EXIT else d

/-- A held wake condition is accepted (R419, R420). -/
def Chip.wakeAccept (s : Chip) : Chip :=
  let st := s.dev.get PWR_STAT_STATE
  if 2 ≤ st && !s.dev.flag PWR_STAT_BUSY && s.dev.wakes st ≠ 0 then s.exitStart false else s

/-! ### Entry -/

/-- The entry handshake begins (R408 step 1); target in the codes of STAT.STATE. -/
def Dev.enter (d : Dev) (target : Nat) : Dev :=
  let d := ((((d.put PWR_STAT_STATE 0).on PWR_STAT_BUSY).put PWR_STAT_PHASE 1).put PWR_STAT_TARGET target).put PWR_STAT_DLYCNT 0
  d.onPwr fun p => { p with ret := d.word GAL_RET, acks := [], delays := [], asked := d.tb, wake := 0, railsUp := false }

/-- The units that answer the query, by unit ID (R5, R410). -/
def pwrUnits : List Nat := (List.range 0x1C).map (2 + ·) ++ (List.range 8).map (0x20 + ·)

/-- An answer to the query (R408). -/
inductive Answer where
  | ack | delay
  | refuse (reason : Nat)
  deriving DecidableEq, Repr

/-- ACK when a condition holds; else DELAY for a bound in µs, then REFUSE. -/
def Dev.ackOr (d : Dev) (ok : Bool) (us reason : Nat) : Answer :=
  if ok then .ack else if d.sinceQuery us then .refuse reason else .delay

/-- The depot's pool has a part in a half that is not retained (R238). -/
def Dev.poolUnretained (d : Dev) : Bool :=
  let lo := 0x40000 * d.get DPT_POOL_BASE_EFF
  let hi := lo + d.poolCells * 64
  (List.range 16).any fun h => lo < 0x100000 * (h + 1) && 0x100000 * h < hi && !d.pwr.ret.getLsbD h

/-- The registrar's answer (R270). -/
def Dev.admAnswer (d : Dev) : Answer :=
  if !d.adm.proms.isEmpty then .refuse 1
  else if (!d.adm.stage.isEmpty || d.rseq.any (·.src == .registrar)) && !d.sinceQuery (d.get ADM_RAILLAT_US) then .delay
  else .ack

/-- The ring engine's answer (R333). -/
def Dev.rngAnswer (d : Dev) (target : Nat) : Answer :=
  if d.rng.infl.any fun x => x.st.admitted then .refuse 1
  else if target = 4 && (List.range 64).any fun n => d.flag (RNG_SQCTL_EN_EFF n) || d.flag (RNG_CQCTL_EN_EFF n) then .refuse 2
  else .ack

/-- A mover's answer (R333). -/
def Dev.movAnswer (d : Dev) (m : Nat) : Answer :=
  if d.rng.infl.any fun x => match x.st with
    | .queued v _ => v == m
    | .moving v _ _ _ _ => v == m
    | _ => false
  then .refuse 1 else .ack

/-- A cabinet's answer (R410). -/
def Chip.cabAnswer (s : Chip) (k : Nat) : Answer :=
  let cs := s.cabCores k
  if cs.any (·.halted) && !s.dev.flag DBG_CTL_EMUSLEEP then .refuse 2
  else s.dev.ackOr (cs.all Core.quiet) 100 1

/-- The curator's answer (R410). -/
def Chip.curAnswer (s : Chip) : Answer :=
  let c := s.cores[curator]
  if c.halted && !s.dev.flag DBG_CTL_EMUSLEEP then .refuse 2
  else s.dev.ackOr (c.halted || (c.waiting && c.ie)) 100 1

/-- A block's power is off: bits of PDOWN.EFF in CGATE's numbers. -/
def Dev.blockOff (d : Dev) (i : Nat) : Bool := 1 ≤ i && i ≤ 10 && d.bit PWR_PDOWN_EFF (i - 1)

/-- The answer of a unit to an entry into a state (R238, R270, R303, R333, R410). -/
def Chip.answer (s : Chip) (u target : Nat) : Answer :=
  let d := s.dev
  if u = 0x05 then (if d.sec.target.isSome then .refuse 1 else .ack)
  else if u = 0x08 then
    if 3 ≤ target && d.get GAL_SVC_PHASE ≠ 1 then .refuse 1
    else if d.get GAL_SVC_PHASE = 1 && d.get GAL_PGATE_GH_REQ ≠ d.get GAL_PGATE_GH_EFF then .delay
    else .ack
  else if u = 0x09 then (if d.flag VLT_STAT_WIPING && !d.sinceQuery 2000 then .delay else .ack)
  else if u = 0x0A then
    if target = 3 && d.flag DPT_CTL_EN_EFF && d.poolUnretained then .refuse 1
    else if target = 4 && d.flag DPT_CTL_EN_EFF then .refuse 2
    else .ack
  else if u = 0x0B then d.admAnswer
  else if u = 0x0C then
    if target < 2 then .ack
    else if d.hpt.held.any (·.wake) then .refuse 1
    else if d.hpt.fc.isEmpty && d.hpt.flight.isEmpty then .ack
    else .delay
  else if u = 0x0D then d.rngAnswer target
  else if u = 0x0E then d.movAnswer 0
  else if u = 0x0F then d.movAnswer 1
  else if 0x10 ≤ u && u < 0x18 then s.cabAnswer (u - 0x10)
  else if u = 0x18 then s.curAnswer
  else if u = 0x1B then (if d.blockOff 9 then .ack else if d.ports.fspi.since.isSome then .refuse 1 else .ack)
  else if h : 0x20 ≤ u ∧ u < 0x28 then
    let k : Fin 8 := ⟨u - 0x20, by omega⟩
    if d.blockOff k.val then .ack else d.ackOr d.ports.sp[k].idle 100 1
  else .ack

/-- Refusals end an entry (R409): every refuser is counted, the one of lowest unit ID is recorded. -/
def Dev.refuse (d : Dev) (rs : List (Nat × Nat)) : Dev :=
  let st := d.get PWR_STAT_TARGET
  let d := rs.foldl (fun d r => if r.1 < 0x40 then d.bumpSat (PWR_REFCNT_COUNT (st - 1) r.1) 1 0xFFFFFFFF else d) d
  let first := rs.foldl (fun a r => match a with
    | none => some r
    | some b => if r.1 < b.1 then some r else some b) none
  let d := match first with
    | some (u, r) =>
      ((((d.put PWR_LAST_UID u).put PWR_LAST_STATE st).put PWR_LAST_REASON r).setWord PWR_LASTTL (d.now.extractLsb' 0 32)).setWord PWR_LASTTH
        (d.now.extractLsb' 32 32)
    | none => d
  let d := ((((d.off PWR_STAT_BUSY).put PWR_STAT_PHASE 0).put PWR_STAT_TARGET 0).put PWR_STAT_DLYCNT 0).on PWR_ISTAT_REFUSED
  (d.onPwr fun p => { p with acks := [], delays := [], wake := 0 }).off ADM_STAT_ENTRY

/-- Engines enter reset for Deep Sleep or Off, and every HOLD bit is set (R415 step 3, R496). Their interrupt stacks and event latches are kept
through Deep Sleep; Off loses them when the device powers on again (R369, R405). -/
def Chip.enginesDown (s : Chip) : Chip :=
  let s := engines.foldl (fun s n =>
    (((s.coreDown (eng n)).onCore (eng n) Core.noCaches).abandonAll (0x40 + n.val)).onDev fun d =>
      let d := ((d.pmReset n).wdeReload n).setWord (CAB_ESTAT (n / 8) (n % 8)) (resetWord (CAB_ESTAT (n / 8) (n % 8)))
      if d.owned n then { d with adm := { d.adm with unready := d.adm.unready ||| (1#64 <<< n.val) } } else d) s
  s.onDev fun d => cabs.foldl (fun d k =>
    let old := d.word (CAB_RST k)
    (d.put (CAB_RST_HOLD k) 0xFF).logHw (CAB_RST k) old) d

/-- Every unit has answered ACK (R408 step 3): the entry steps begin (R414 to R416). -/
def Chip.entrySteps (s : Chip) : Chip :=
  let t := s.dev.get PWR_STAT_TARGET
  let emu := s.dev.flag DBG_CTL_EMUSLEEP
  let s := s.onDev fun d => (((d.put PWR_STAT_PHASE 2).put PWR_STAT_DLYCNT 0).put PWR_STAT_EMU (one emu)).onPwr fun p => { p with hold := true }
  let s := if 3 ≤ t then (s.onDev (·.padHold false)).enginesDown else s
  if emu then s
  else
    let a := if t = 2 then RailAsk.retain else .off
    s.onDev fun d => (d.powerAsk 0 a).powerAsk 1 a

/-- An entry is complete (R414 to R417): a wake condition that holds ends the new state at once. -/
def Chip.entryDone (s : Chip) : Chip :=
  let t := s.dev.get PWR_STAT_TARGET
  let s := s.onDev fun d =>
    let d := (((d.put PWR_STAT_STATE t).put PWR_STAT_PHASE 0).put PWR_STAT_TARGET 0).off PWR_STAT_BUSY
    if d.emulated then d else d.hfoscStop
  if s.dev.wakes t ≠ 0 then s.exitStart true else s

/-- A unit answers the query (R408, R410). HPT answers DELAY while it writes its far cache home (R303); the registrar then refuses every
request (R270). -/
def Chip.answerQuery (s : Chip) (u : Nat) : Chip :=
  let d := s.dev
  if d.get PWR_STAT_PHASE ≠ 1 || !pwrUnits.contains u || d.pwr.acks.contains u then s
  else
    match s.answer u (d.get PWR_STAT_TARGET) with
    | .refuse r => s.onDev (·.refuse [(u, r)])
    | .delay =>
      s.onDev fun d =>
        let d := if u = 0x0C then d.fcFlush fun _ => true else d
        let ds := d.pwr.delays.filter (· != u) ++ [u]
        (d.onPwr fun p => { p with delays := ds }).put PWR_STAT_DLYCNT ds.length
    | .ack =>
      let s := s.onDev fun d =>
        let d := if u = 0x0B then d.on ADM_STAT_ENTRY else d
        let ds := d.pwr.delays.filter (· != u)
        (d.onPwr fun p => { p with delays := ds, acks := p.acks ++ [u] }).put PWR_STAT_DLYCNT ds.length
      if pwrUnits.all s.dev.pwr.acks.contains then s.entrySteps else s

/-- HSTMO expires with units still in DELAY (R409). -/
def Dev.handshakeTimeout (d : Dev) : Dev :=
  if d.get PWR_STAT_PHASE = 1 && !d.pwr.delays.isEmpty && d.sinceQuery (d.get PWR_HSTMO_US) then
    d.refuse (d.pwr.delays.map fun u => (u, 15))
  else d

/-- A transition goes on as far as its rail requests and clocks let it (R414 to R416). -/
def Chip.advance (s : Chip) : Chip :=
  let d := s.dev
  if d.get PWR_STAT_PHASE = 2 then (if d.railsWait then s else s.entryDone)
  else if d.get PWR_STAT_PHASE = 3 then
    if !d.clocksOn then s
    else
      let s := if d.pwr.railsUp then s else s.onDev Dev.exitRails
      if s.dev.railsWait then s else s.onDev Dev.exitDone
  else s

/-! ### Wakes and resets from outside -/

/-- ON_N low at two consecutive edges (R419): a wake, or after power-on the start of the boot (R498). -/
def Chip.onN (s : Chip) : Chip :=
  if s.dev.pwr.parked then
    (s.onDev fun d => (d.wakeUp 11).setWakesrc 4 false).comeUp
  else s.onDev (·.wakeUp 11)

/-- A WAKE pin goes low, or back high (R419). -/
def Dev.wakePin (d : Dev) (k : Fin 4) (low : Bool) : Dev :=
  if low then (d.onPwr fun p => { p with wakePins := p.wakePins ||| (1#4 <<< k.val) }).wakeUp k
  else d.onPwr fun p => { p with wakePins := p.wakePins &&& ~~~(1#4 <<< k.val) }

/-- The armed listener sees an address byte (R423). -/
def Dev.listener (d : Dev) (p : Fin 2) (byte : BitVec 8) : Dev :=
  let a := d.get (PWR_LSN_ADDR p)
  let free := d.get (PWR_LSN_MASK p)
  if d.listens p && ((byte.toNat / 2 ^^^ a) ||| free) == free then
    let d := (((d.on PWR_LSNHIT_VALID).put PWR_LSNHIT_PORT p).put PWR_LSNHIT_BYTE byte.toNat).wakeUp (7 + p.val)
    d.emit (.listener (p.val + 1) (!d.flag (PWR_LSN_I3C p) && !d.flag (PWR_LSN_NACK p)))
  else d

/-- A system reset in any state (R493, R494): one that finds the device asleep or on its way brings it up again as the exit from Off
does, with the arrays that kept power. -/
def Chip.sysReset (s : Chip) (bit : Nat) : Chip :=
  let d := s.dev
  let st := d.get PWR_STAT_STATE
  let phase := d.get PWR_STAT_PHASE
  let emu := d.emulated
  if d.pwr.parked || (st = 4 && phase = 0 && !emu) then s
  else
    let deep := st = 3 && phase = 0 && !emu
    let s := if deep then s.unitsBack else s
    let s := s.systemReset bit
    if (2 ≤ st || 2 ≤ phase) && !emu then s.onDev fun d => (d.exitStat 4).hfoscStart else s

/-- SYS_RST_N low for at least 1 µs (R493). -/
def Chip.sysRstN (s : Chip) : Chip := s.sysReset 1

end Sys2Proof.Machine
end

