-- ==== Sys2Proof/Machine/Dbg.lean ====
section
/-! DEFINITION. Machine/Dbg.lean: the debug port's registers, the access levels and authentication, halts and comparators
(15_debug.md). System accesses, fed instructions and steps are in Machine/Probe.lean. -/

namespace Sys2Proof.Machine

open Reg

/-! ### Run control -/

/-- A load, or an iteration of a load under REPI: abandoned while the port holds it, not so an atomic or a store already sent (R164). A
RET's pop is a load. -/
def Op.abandonable (op : Op) (body : Word) : Bool :=
  match op with
  | .ld .. | .ldi .. | .ldl .. | .ll .. | .ret => true
  | .repi _ | .repr _ => (match Op.decode body with | some (.ldi ..) => true | _ => false)
  | _ => false

/-- A core that waits may leave its instruction for an interrupt or a halt (R116, R163, R164); a REPN that has begun runs to its end
(R110), and so does the entry of an exception. -/
def Wait.leavable : Wait → Bool
  | .none | .wfe | .waitt .. => true
  | .overlap _ _ rep => rep.isNone
  | .held op body rep _ => rep.isNone && op.abandonable body
  | .fetch .. => true
  | .slot _ => false

/-- A core's wait, if any, may be left. -/
def Chip.waitOpen (s : Chip) (e : CoreId) : Bool := s.cores[e].wait.leavable

/-- The instruction a core is at is an MFS of TBH that follows an MFS of TBL (R63). -/
def Chip.tornPair (s : Chip) (e : CoreId) : Bool :=
  s.cores[e].tblPair &&
    match (s.fetch e s.cores[e].pc).2 with
    | .ok w => (match Op.decode w with | some (.mfs _ sr) => sr == 0x0B | _ => false)
    | _ => false

/-- A core stands at a boundary at which an interrupt or a halt may be taken, the offer's own conditions apart (R63, R65, R163). -/
def Chip.boundary (s : Chip) (e : CoreId) : Bool :=
  s.cores[e].shadows.isEmpty && !s.tornPair e && s.waitOpen e

/-- A core stands at a boundary at which a halt may take effect (R163, R479); nothing halts a curator in the boot flow. -/
def Chip.haltable (s : Chip) (e : CoreId) : Bool :=
  s.cores[e].run && !s.cores[e].halted && !(isCur e && s.dev.cur.boot) && s.boundary e

/-- A requested halt takes effect (R479, R480): on the curator it comes as a token (R355, R487). -/
def Chip.haltEffect (s : Chip) (e : CoreId) : Chip :=
  if s.dev.dbg.haltReq.getLsbD e.val && s.haltable e then (((s.tokens e [s.cores[e].token .dbgi .halt 0 []]).unwait e).onDev (·.discard e)).halt e else s

/-- A core is released from a halt: an engine's watchdog gets its grace (R398). -/
def Dev.released (d : Dev) (e : CoreId) : Dev := if isCur e then d else d.wdeGrace e.val

/-- A halted core resumes from its halt point (R483); DF is cleared, and a fault-stopped pair takes the CURATOR action (R486). -/
def Chip.resume (s : Chip) (e : CoreId) : Chip :=
  if s.cores[e].halted then
    let pc : Word := BitVec.ofNat 32 s.cores[e].pc
    let s := s.tokens e [s.cores[e].token .dbgi .resume 0 []]
    let s := s.onCore e fun c => { c with halted := false, resumed := true, df := if isCur e then c.df else false }
    let s := s.onDev fun d => (d.released e).trace (d.packet pktRun 1 (uidOf e) pc 0)
    if isCur e && s.dev.cur.stop = .fault then s.onDev (·.later .curReset) else s
  else s

/-- The cores a TARGET of RCTL names: 0 to 63 an engine, 64 the curator, 65 every engine. -/
def rctlTargets (t : Nat) : List CoreId :=
  if t = 65 then engines.map eng else if h : t < 65 then [⟨t, h⟩] else []

/-- The level run control of a target needs (R472). -/
def targetLevel (t : Nat) : Nat := if t = 64 then 3 else 2

/-- A write of RCTL (R479, R483). -/
def Chip.rctl (s : Chip) (cmd target : Nat) : Chip :=
  (rctlTargets target).foldl (fun (s : Chip) e =>
    match cmd with
    | 1 => if s.cores[e].halted then s else s.onDev fun d => d.onDbg fun b => { b with haltReq := b.haltReq ||| (1#65 <<< e.val) }
    | 2 => s.resume e
    | 3 => if s.cores[e].halted then s.onDev (·.later (.step e)) else s
    | _ => s) s

/-- The feed target. -/
def Dev.feedTarget (d : Dev) : CoreId := Fin.ofNat 65 (min (d.get DBG_FEEDST_TARGET) 64)

/-- DBG.HPC as it reads. -/
def Chip.hpc (s : Chip) : Word :=
  let c := s.cores[s.dev.feedTarget]
  if c.halted then BitVec.ofNat 32 c.pc else 0

/-- A write of DBG.HPC (R483). -/
def Chip.setHpc (s : Chip) (v : Word) : Chip :=
  let e := s.dev.feedTarget
  if s.cores[e].halted then s.onCore e fun c => { c with cb := v.extractLsb' 24 8, off := v.extractLsb' 0 24 &&& ~~~3#24 } else s

/-! ### Access levels -/

/-- A comparator's ACTION becomes OFF, a hardware change (R476). -/
def Dev.cmpOff (d : Dev) (f : Fld) : Dev :=
  if d.flag f then
    let old := d.word f.addr
    (d.put f 0).logHw f.addr old
  else d

/-- What a fall of the level below ENGINES ends (R476). -/
def Chip.belowEngines (s : Chip) : Chip :=
  let s := engines.foldl (fun s n => s.resume (eng n)) s
  s.onDev fun d =>
    let d := engines.foldl (fun d n => (List.range 4).foldl (fun d c => d.cmpOff (DBG_CMP_CTL_ACTION n c)) d) d
    d.cmpOff DBG_CTL_EMUSLEEP

/-- What a fall of the level below FULL ends (R476). -/
def Chip.belowFull (s : Chip) : Chip :=
  (s.resume curator).onDev fun d => (List.range 8).foldl (fun d c => d.cmpOff (DBG_CMPC_CTL_ACTION c)) d

/-- The access level changes (R474, R476). -/
def Chip.setLevel (s : Chip) (l : Nat) : Chip :=
  let old := s.dev.dbg.level
  let s := s.onDev (·.onDbg fun b => { b with level := l })
  if l < old then
    let s := if l < 2 then s.belowEngines else s
    if l < 3 then s.belowFull else s
  else s

/-- The debug island is reset at the start of a life-cycle transition, and the level falls (R471, R503). -/
def Chip.dbgReset (s : Chip) : Chip :=
  (s.setLevel 0).onDev fun d => { d.resetBlock 0x0E with dbg := { Dbg.rest d.lcState with level := 0 } }

/-! ### Authentication -/

/-- A method is accepted in a life-cycle state: 1 SIG, 2 PWD (R473). -/
def methodOk (lc method : Nat) : Bool :=
  match lc with
  | 1 => method == 1 || method == 2
  | 2 => method == 1
  | 3 => method == 1
  | _ => false

/-- The highest level of a life-cycle state (R473). -/
def highestLevel (lc : Nat) : Nat := if lc = 4 then 0 else 3

/-- A challenge is drawn, unless one is withheld (R474 step 1, R475). -/
def Dev.drawChallenge (d : Dev) : Dev :=
  if d.dbg.withheld ≠ 0 then d.onDbg fun b => { b with authState := 1 }
  else
    let k := d.fresh
    { d.onDbg fun b => { b with authState := 2, chal := Vector.ofFn fun i => Config.random (k + i.val) } with fresh := k + 8 }

/-- AUTH.GO (R474 step 3): DROP acts at once; a verification needs a challenge. -/
def Chip.authGo (s : Chip) (method level : Nat) : Chip :=
  if method = 0 then (if level < s.dev.dbg.level then s.setLevel level else s)
  else if s.dev.dbg.authState = 2 then s.onDev (·.onDbg fun b => { b with authState := 3, verify := some (method, level) })
  else s

/-- The response is good for a method (R474 step 3). -/
def Dev.responseOk (d : Dev) (method level : Nat) : Bool :=
  let b := d.dbg
  methodOk d.lcState method && level ≤ highestLevel d.lcState
    && (if method = 1 then Config.debugSigned b.chal.toList level b.resp.toList else Config.debugPassword (b.resp.toList.take 8))

/-- The withholding time after failure number f, in ticks (R475). -/
def withholdTicks (f : Nat) : Nat := 100 * msTicks * 2 ^ min (f - 1) 6

/-- Verification ends (R474 step 4, R475). -/
def Chip.verifyDone (s : Chip) : Chip :=
  match s.dev.dbg.verify with
  | none => s
  | some (m, l) =>
    if s.dev.responseOk m l then
      (s.onDev (·.onDbg fun b => { b with authState := 4, failCnt := 0, verify := none })).setLevel l
    else
      s.onDev fun d => d.onDbg fun b =>
        let f := min 255 (b.failCnt + 1)
        { b with authState := 5, failCnt := f, verify := none, withheld := d.tb + withholdTicks f }

/-- The withholding time runs out (R475). -/
def Dev.withholdEnd (d : Dev) : Dev :=
  if d.dbg.withheld ≠ 0 && d.dbg.withheld ≤ d.tb then
    d.onDbg fun b => { b with withheld := 0, authState := if b.authState = 1 then 0 else b.authState }
  else d

/-! ### Port registers -/

/-- The island has power: not in Off, unless Off is emulated (R471). -/
def Dev.islandOn (d : Dev) : Bool := !(d.get PWR_STAT_STATE == 4 && d.get PWR_STAT_PHASE == 0 && !d.emulated)

/-- PSTAT as it reads. -/
def Dev.pstat (d : Dev) : Word :=
  let b := d.dbg
  let busy := match b.access with | some a => one a.done.isNone | none => 0
  BitVec.ofNat 32 (0x40000000 * b.level + 0x20000000 * busy + 0x100000 * b.freason + 0x100 * b.resets + b.crcErr)

/-- A port register read by PRD; none at an unassigned index. CRCERR is read to clear. -/
def Dev.portRead (d : Dev) (i : Nat) : Dev × Option Word :=
  let b := d.dbg
  if i = 0x00 then (d, some 0x64181101)
  else if i = 0x01 then (d, some (BitVec.ofNat 32 b.adly))
  else if i = 0x02 then (d.onDbg fun b => { b with crcErr := 0 }, some d.pstat)
  else if i = 0x04 then (d, some (BitVec.ofNat 32 (0x10000 * b.authState + b.failCnt)))
  else if h : 0x08 ≤ i ∧ i < 0x10 then (d, some (b.chal[i - 0x08]'(by omega)))
  else if 0x10 ≤ i ∧ i < 0x20 then (d, some 0)
  else if i = 0x20 || i = 0x21 then (d, some (Config.fuseSerial (i - 0x20)))
  else (d, none)

/-- PCTL.ABORT (R468). -/
def Dev.abortAccess (d : Dev) : Dev := d.onDbg fun b => { b with access := b.access.map fun a => { a with aborted := true } }

/-- The port becomes dormant, its level LOCKED (R470). -/
def Chip.goDormant (s : Chip) : Chip := (s.onDev (·.onDbg fun b => { b with dormant := true })).setLevel 0

/-- A port register written by PWR; false at an unassigned index. -/
def Chip.portWrite (s : Chip) (i : Nat) (v : Word) : Chip × Bool :=
  if i = 0x01 then
    let s := s.onDev (·.onDbg fun b => { b with adly := bits v 5 0 })
    let s := if v.getLsbD 31 then s.onDev Dev.abortAccess else s
    (if v.getLsbD 30 then s.goDormant else s, true)
  else if i = 0x04 then
    let s := if v.getLsbD 30 then s.onDev Dev.drawChallenge else s
    (if v.getLsbD 31 then s.authGo (bits v 29 28) (bits v 27 26) else s, true)
  else if h : 0x10 ≤ i ∧ i < 0x20 then
    (s.onDev (·.onDbg fun b => { b with resp := b.resp.set (i - 0x10) v (by omega) }), true)
  else (s, i == 0x00 || i == 0x02 || (0x08 ≤ i && i < 0x10) || i == 0x20 || i == 0x21)

/-! ### Frames -/

/-- One covered bit enters the CRC (R466). -/
def crcBit (crc : BitVec 8) (b : Bool) : BitVec 8 :=
  let next := crc <<< 1
  if b != crc.getLsbD 7 then next ^^^ 0x07#8 else next

/-- The CRC-8 over the covered bits in the order they are sent (R466). -/
def crc8 (sent : List Bool) : BitVec 8 := sent.foldl crcBit 0

/-- A field's bits as a frame sends them: least significant first (R465). -/
def lsbFirst {n : Nat} (x : BitVec n) : List Bool := (List.range n).map x.getLsbD

/-- The CRC of a request (R465): over CMD, ADDR and, in a write, WDATA. -/
def requestCrc {n : Nat} (cmd : BitVec 4) (addr : BitVec n) (wdata : Option Word) : BitVec 8 :=
  crc8 (lsbFirst cmd ++ lsbFirst addr ++ match wdata with | some w => lsbFirst w | none => [])

/-- The four commands (R465). -/
def cmdPrd : BitVec 4 := 1
def cmdPwr : BitVec 4 := 2
def cmdSrd : BitVec 4 := 3
def cmdSwr : BitVec 4 := 4

/-- The CRC of a PRD, a PWR and a system access. -/
def prdCrc (i : BitVec 8) : BitVec 8 := requestCrc cmdPrd i none
def pwrCrc (i : BitVec 8) (v : Word) : BitVec 8 := requestCrc cmdPwr i (some v)
def sysCrc (write : Bool) (addr data : Word) : BitVec 8 :=
  if write then requestCrc cmdSwr addr (some data) else requestCrc cmdSrd addr none

/-- ACK values (R467). -/
def ackOk : Nat := 3
def ackWait : Nat := 5
def ackFault : Nat := 9
def ackLocked : Nat := 6

/-- An answer of the port. -/
def Dev.answerOk (d : Dev) (v : Option Word) : Dev := d.emit (.hdw ackOk (v.map fun w => (w, crc8 (lsbFirst w))))

/-- A refusal with its reason (R467): 1 CMD, 2 ADDR, 3 MISALIGN, 4 REFUSED, 5 OFFLINE, 6 ECC, 7 HOLD, 8 ABORTED. -/
def Dev.answerFault (d : Dev) (reason : Nat) : Dev := (d.onDbg fun b => { b with freason := reason }).emit (.hdw ackFault none)

/-- A frame reaches the port (R467, R470): a dormant port ignores it, a wrong CRC is counted, and in both cases nothing is driven. -/
def Chip.frame (s : Chip) (crcOk : Bool) (f : Chip → Chip) : Chip :=
  if !s.dev.islandOn || s.dev.dbg.dormant then s.onDev (·.emit .silent)
  else if !crcOk then s.onDev fun d => (d.onDbg fun b => { b with crcErr := min 255 (b.crcErr + 1) }).emit .silent
  else f s

/-- A PRD frame with the CRC it carries (R465). -/
def Chip.prd (s : Chip) (i : BitVec 8) (crc : BitVec 8) : Chip :=
  s.frame (crc == prdCrc i) fun s =>
    match s.dev.portRead i.toNat with
    | (d, some v) => { s with dev := d.answerOk (some v) }
    | (d, none) => { s with dev := d.answerFault 2 }

/-- A PWR frame with the CRC it carries (R465): the answer goes out before the port becomes dormant. -/
def Chip.pwrFrame (s : Chip) (i : BitVec 8) (v : Word) (crc : BitVec 8) : Chip :=
  s.frame (crc == pwrCrc i v) fun s =>
    match s.portWrite i.toNat v with
    | (s, true) => s.onDev (·.answerOk none)
    | (s, false) => s.onDev (·.answerFault 2)

/-- A PWR frame whose CRC is right. -/
def Chip.portFrame (s : Chip) (i : BitVec 8) (v : Word) : Chip := s.pwrFrame i v (pwrCrc i v)

/-- A line reset (R469): an access in progress completes, and its outcome is discarded. -/
def Dev.lineReset (d : Dev) : Dev :=
  if !d.islandOn || d.dbg.dormant then d
  else
    (d.onDbg fun b => { b with resets := min 255 (b.resets + 1), access := match b.access with
      | some a => if a.done.isSome then none else some { a with dropped := true }
      | none => none })

/-- The activation sequence wakes a dormant port (R470). -/
def Dev.activate (d : Dev) : Dev :=
  if d.islandOn && d.dbg.dormant then d.onDbg fun b => { b with dormant := false } else d

/-! ### Comparators -/

/-- A comparator's address matches an access of n bytes at a (R487): first or last byte. -/
def Dev.cmpHit (d : Dev) (addr mask : Fld) (a n : Nat) : Bool :=
  let m := 2 ^ d.get mask
  let x := d.get addr / m
  a / m == x || (a + n - 1) / m == x

/-- A comparator of a core: its address, KIND, MASK and ACTION fields, and its number; entries 0 and 1 of an engine match fetches. -/
structure Cmp where
  addr : Fld
  kind : Fld
  mask : Fld
  action : Fld
  num : Nat
  fetchOnly : Bool

/-- The comparators of a core (R487). -/
def cmpsOf (e : CoreId) : List Cmp :=
  if isCur e then (List.range 8).map fun c => ⟨DBG_CMPC_ADDR_ADDR c, DBG_CMPC_CTL_KIND c, DBG_CMPC_CTL_MASK c, DBG_CMPC_CTL_ACTION c, c, false⟩
  else (List.range 4).map fun c =>
    ⟨DBG_CMP_ADDR_ADDR e c, DBG_CMP_CTL_KIND e c, DBG_CMP_CTL_MASK e c, DBG_CMP_CTL_ACTION e c, c, c < 2⟩

/-- The kind a comparator matches: 0 READ, 1 WRITE, 2 ACCESS, 3 FETCH. -/
def Dev.cmpKind (d : Dev) (c : Cmp) : Nat := if c.fetchOnly then 3 else d.get c.kind

/-- The comparators of a core with an action bit that a fetch from a matches. -/
def Dev.fetchHits (d : Dev) (e : CoreId) (bit a : Nat) : List Cmp :=
  (cmpsOf e).filter fun c => d.bit c.action bit && d.cmpKind c == 3 && d.cmpHit c.addr c.mask a 4

/-- A data access: read, written, address and bytes. -/
structure Touch where
  read : Bool
  write : Bool
  addr : Nat
  size : Nat
  deriving DecidableEq, Repr

/-- The comparators of a core with an action bit that a data access matches. -/
def Dev.dataHits (d : Dev) (e : CoreId) (bit : Nat) (t : Touch) : List Cmp :=
  (cmpsOf e).filter fun c =>
    let k := d.cmpKind c
    d.bit c.action bit && ((k == 0 && t.read) || (k == 1 && t.write) || k == 2) && d.cmpHit c.addr c.mask t.addr t.size

/-- CMP packets (R487, R490): pc is the instruction's address. -/
def Dev.cmpPackets (d : Dev) (e : CoreId) (cs : List Cmp) (a pc : Nat) : Dev :=
  cs.foldl (fun d c => d.trace (d.packet pktCmp c.num (uidOf e) (BitVec.ofNat 32 a) (BitVec.ofNat 32 pc))) d

end Sys2Proof.Machine
end

