-- ==== Sys2Proof/Machine/View.lean ====
section
/-! DEFINITION. Machine/View.lean: who reaches the registers of bank 0x04, and what a read of one finds (R6 to R8, R427, R428; the
access rules of each chapter). Most registers read as stored; those that show a unit's own state are listed here. -/

namespace Sys2Proof.Machine

open Reg

/-- A master of the register bus (R5): its unit ID, whether it is in kernel mode, and whether its instruction executes in secure state
(R340). -/
structure Master where
  uid : Nat
  km : Bool
  sec : Bool
  deriving DecidableEq, Repr

/-- The masters outside the cores. -/
def Master.debugger : Master := ⟨0x19, false, false⟩
def Master.host : Master := ⟨0x80, false, false⟩

/-- The curator. -/
def Master.isCur (m : Master) : Bool := m.uid == 0x18
/-- An engine. -/
def Master.isEng (m : Master) : Bool := 0x40 ≤ m.uid && m.uid < 0x80
/-- An engine or the curator. -/
def Master.isCore (m : Master) : Bool := m.isCur || m.isEng
/-- The debugger, whose reads are quiet (R478). -/
def Master.isDbg (m : Master) : Bool := m.uid == 0x19
/-- The host over the link. -/
def Master.isHost (m : Master) : Bool := m.uid == 0x80

/-- A core as a master. -/
def Chip.master (s : Chip) (e : CoreId) : Master :=
  let c := s.cores[e]
  ⟨uidOf e, c.km, c.secure e⟩

/-- The target of the interrupt controller a master is (R361). -/
def Master.target (m : Master) : Option CoreId :=
  if m.isCur then some curator else if m.isEng then some (eng (Fin.ofNat 64 (m.uid - 0x40))) else none

/-- The index i of base + i × stride that an offset is, below n. -/
def regIndex (off base stride n : Nat) : Option Nat :=
  if base ≤ off ∧ (off - base) % stride = 0 ∧ (off - base) / stride < n then some ((off - base) / stride) else none

/-! ### Access rules -/

/-- The register lies in a block whose power is off (R427, R428). -/
def Dev.regOff (d : Dev) (a : Nat) : Bool :=
  match a / 0x10000 with
  | 0x10 => a % 0x10000 < 0x8000 && d.blockOff (a % 0x10000 / 0x1000)
  | 0x11 => d.blockOff 8
  | 0x15 => d.blockOff 9
  | 0x14 => d.blockOff 10
  | _ => false

/-- An offset of the SUBMIT page (R251). -/
def inSubmit (off : Nat) : Bool := 0x800 ≤ off && off < 0x840

/-- A master may read a register (R124, R197, R210, R251, R373 and the like): every one outside VLT and the SUBMIT page. The host reaches only
what BAR0 shows it (R280). -/
def mayRead (m : Master) (a : Nat) : Bool :=
  match a / 0x10000 with
  | 0x05 => !inSubmit (a % 0x10000) || m.isCore
  | 0x08 => m.isCur && m.sec
  | _ => true

/-- A master may write a register of DBG (R492). -/
def mayWriteDbg (m : Master) (off : Nat) : Bool :=
  if 0x100 ≤ off && off < 0x200 then m.isCore
  else if off == 0x40 || off == 0x48 || off == 0x60 || off == 0x64 || off == 0x70 || off == 0x74 then m.isCur || m.isDbg
  else m.isDbg

/-- A data-path register of the platform ports (R431). -/
def portData (blk off : Nat) : Bool :=
  match blk with
  | 0x10 => off < 0x8000 && (off % 0x1000 == 0xC || off % 0x1000 == 0x10 || off % 0x1000 == 0x18)
  | 0x12 => 0x8 ≤ off && off < 0x18
  | 0x14 => (0x40 ≤ off && off < 0x80) || off == 0x8C || (0x100 ≤ off && off < 0x180) || off == 0x94
  | 0x15 => 0x4 ≤ off && off < 0x14
  | _ => false

/-- A master may write a value to a register: the access rule of its block (R124, R174, R209, R210, R242, R246, R250, R251, R272, R304, R306,
R336, R356, R373, R374, R402, R430, R431, R492, R503, R506, R512 to R514). An illegal TARGET of LCREQ acts as 4 SCRAPPED (R537). -/
def Dev.mayWrite (d : Dev) (m : Master) (a : Nat) (v : Word) : Bool :=
  let blk := a / 0x10000
  let off := a % 0x10000
  match blk with
  | 0x02 => m.isCur || off == 0xC0
  | 0x03 => m.isCur || (m.isEng && (off == 0x14 || off == 0x140))
  | 0x05 =>
    if inSubmit off then m.isCore
    else if off == 0x880 || off == 0x884 then !m.isHost
    else m.isCur || (m.isHost && off == 0x1C)
  | 0x08 => m.isCur && m.sec
  | 0x09 => m.isCur || (m.isHost && off == 0x30)
  | 0x0A => m.isCur || (m.isHost && d.flag RNG_CTL_HOSTEN && ((0x1000 ≤ off && off < 0x2800) || off == 0x8))
  | 0x0D =>
    if off == 0x4 then (m.isCur && m.sec) || (m.isDbg && d.dbg.level == 3 && 3 ≤ bits v 2 0)
    else if off == 0x14 then m.isCur && m.sec
    else m.isCur
  | 0x0E => mayWriteDbg m off
  | _ =>
    if 0x20 ≤ blk && 0x300 ≤ off && off < 0x400 then
      m.isCur || m.isDbg || (m.isEng && m.km && m.uid - 0x40 == 8 * (blk - 0x20) + (off - 0x300) / 0x20)
    else m.isCur || (m.isEng && portData blk off)

/-! ### Views -/

/-- A stack of the interrupt controller as RPRI and TSTAT show it. -/
def Dev.stackWord (d : Dev) (t : CoreId) : Word :=
  BitVec.ofNat 32 (0x10000 * d.runPri t + 0x100 * d.itc.running[t].length
    + (match d.itc.running[t] with | [] => 0 | (_, s) :: _ => s))

/-- The word a claim answers with (R364). -/
def claimWord : Option (Nat × Nat) → Word
  | some (p, n) => BitVec.ofNat 32 (0x80000000 + 0x100 * p + n)
  | none => 0xFF

/-- Block TBS as it reads. -/
def Dev.viewTbs (d : Dev) (m : Master) (off : Nat) (w : Word) : Word :=
  if off = 0x00 then d.now.extractLsb' 0 32
  else if off = 0x04 then d.readTbh m.uid
  else if off = 0xD8 then BitVec.ofNat 32 (wdMs (d.flag TBS_WDPCTL_EN) d.tbs.wdp)
  else match regIndex off 0x50 0x20 4, regIndex off 0x54 0x20 4, regIndex off 0x104 8 64 with
    | some i, _, _ => (d.tbs.alarms[Fin.ofNat 4 i]).next.extractLsb' 0 32
    | _, some i, _ => d.readNexth m.uid i
    | _, _, some n => if d.flag (TBS_WDE_CTL_EN n) then BitVec.ofNat 32 ((d.wde n).left / 1024) else 0
    | none, none, none => w

/-- Block ITC as it reads; the debugger is no target, and claims nothing. -/
def Dev.viewItc (d : Dev) (m : Master) (off : Nat) (w : Word) : Word :=
  if off = 0x10 then claimWord (m.target.bind d.wouldOffer)
  else if off = 0x18 then (match m.target with | some t => d.stackWord t | none => 0x100000)
  else match regIndex off 0x800 4 65, regIndex off 0x140 4 16, regIndex off 0x180 4 8, regIndex off 0x1A0 4 8 with
    | some t, _, _, _ => d.stackWord (Fin.ofNat 65 t)
    | _, some i, _, _ => d.pendWord (i % 8)
    | _, _, some i, _ => word256 d.itc.active i
    | _, _, _, some i => word256 d.itc.line i
    | none, none, none, none => w

/-- Block EVN as it reads. -/
def Dev.viewEvn (d : Dev) (off : Nat) (w : Word) : Word :=
  if off = 0x40 then d.latch.extractLsb' 0 32
  else if off = 0x44 then d.latch.extractLsb' 32 32
  else if off = 0x48 then (d.latch.extractLsb' 64 1).zeroExtend 32
  else w

/-- Block DPT as it reads. -/
def Dev.viewDpt (d : Dev) (off : Nat) (w : Word) : Word :=
  if off = 0x08 then BitVec.ofNat 32 d.freeCells
  else if off = 0x0C then BitVec.ofNat 32 d.dpt.opens.length
  else match regIndex off 0x4000 0x10 1024, regIndex off 0x400C 0x10 1024 with
    | some q, _ => setBits w 28 28 (one (d.queueFull q))
    | _, some q => d.qstatWord q
    | none, none => w

/-- Block CUR as it reads. -/
def Chip.viewCur (s : Chip) (m : Master) (off : Nat) (w : Word) : Word :=
  let d := s.dev
  if off = 0x00 then
    BitVec.ofNat 32 (0x80000000 * one (d.curPowered && d.cur.stop != .fault) + 0x40000000 * one s.cores[curator].halted
      + 0x20000000 * one (m.isCur && m.sec) + d.lag)
  else if off = 0x18 then (if d.restartValid then w else setBits w 0 0 0)
  else if off = 0x38 then BitVec.ofNat 32 (wdMs (d.flag CUR_WDCTL_EN) d.tbs.wdc)
  else w

/-- Block PRV as it reads (R511). -/
def Dev.viewPrv (d : Dev) (off : Nat) (w : Word) : Word :=
  if off = 0x04 then BitVec.ofNat 32 (0x10000 * d.prv.unread.length + d.prv.rp)
  else match regIndex off 0x20 4 8 with
    | some i => d.prvWord i
    | none => w

/-- DBG.HALTED. -/
def Chip.haltedWord (s : Chip) (i : Nat) : Word :=
  BitVec.ofNat 32 ((List.range 32).foldl (fun n b =>
    if h : 32 * i + b < 65 then (if (s.cores[(⟨32 * i + b, h⟩ : CoreId)]).halted then n + 2 ^ b else n) else n) 0)

/-- Block DBG as it reads. -/
def Chip.viewDbg (s : Chip) (off : Nat) (w : Word) : Word :=
  if off = 0x00 then setBits w 31 30 s.dev.dbg.level
  else if off = 0x2C then s.hpc
  else match regIndex off 0x08 4 3, regIndex off 0x50 4 4 with
    | some i, _ => s.haltedWord i
    | _, some i => s.dev.traceWord i
    | none, none => w

/-- A serial port as it reads (offsets from 0x8000 on hold no register, R59): DATA shows the head of the RX FIFO. -/
def Dev.viewSp (d : Dev) (off : Nat) (w : Word) : Word :=
  let k := Fin.ofNat 8 (off / 0x1000)
  if off % 0x1000 = 0x10 then
    (match d.ports.sp[k].rx with | [] => (Config.fifoEmpty d.fresh).zeroExtend 32 | b :: _ => 0x100 ||| b.zeroExtend 32)
  else if off % 0x1000 = 0x18 then d.spIrqWord k
  else w

/-- ESTAT of engine n (R168). -/
def Chip.estat (s : Chip) (n : Fin 64) (w : Word) : Word :=
  let c := s.cores[eng n]
  BitVec.ofNat 32 (one c.halted * 0x80 + one c.waiting * 0x40 + one c.det * 0x20 + one c.run * 0x10 + one c.df) ||| (w &&& 2)

/-- A cabinet as it reads. -/
def Chip.viewCab (s : Chip) (k off : Nat) (w : Word) : Word :=
  match regIndex off 0x140 4 8 with
  | some j => s.estat (Fin.ofNat 64 (8 * k + j)) w
  | none => w

/-- The stored word behind an address of bank 0x04; 0 where there is no register (R8). -/
def Dev.stored (d : Dev) (a : Nat) : Word :=
  match findReg a with
  | some (r, _) => d.word (a - r.back)
  | none => 0

/-- What a read of a register would find now, without any effect of the read. -/
def Chip.view (s : Chip) (m : Master) (a : Nat) : Word :=
  let d := s.dev
  let off := a % 0x10000
  let w := d.stored a
  match a / 0x10000 with
  | 0x02 => d.viewTbs m off w
  | 0x03 => d.viewItc m off w
  | 0x04 => d.viewEvn off w
  | 0x05 => if off = 0x83C then d.subResult m.uid else w
  | 0x06 => d.viewDpt off w
  | 0x09 => if off = 0x44 then setBits w 14 0 d.fcDirty else w
  | 0x0B => s.viewCur m off w
  | 0x0C => d.viewPrv off w
  | 0x0D => if off = 0x00 then d.lcWord else if off = 0x14 then d.verWord else w
  | 0x0E => s.viewDbg off w
  | 0x10 => if off < 0x8000 then d.viewSp off w else w
  | 0x15 => if off = 0x0C then d.flashPop.2 else w
  | blk => if 0x20 ≤ blk then s.viewCab (blk - 0x20) off w else w

/-! ### Reading -/

/-- The fields a read clears, set to 0. -/
def RegRow.afterRead (r : RegRow) (w : Word) : Word :=
  r.flds.foldl (fun w f => if f.acc = .rc then setBits w f.hi f.lo 0 else w) w

/-- The effects of a read that is not quiet: what is read to clear, claims (R364), SUB_RES (R252) and the FIFO windows. -/
def Dev.readEffect (d : Dev) (m : Master) (a : Nat) : Dev :=
  let blk := a / 0x10000
  let off := a % 0x10000
  if blk = 0x03 ∧ off = 0x10 then
    match m.target with
    | some t => (match d.wouldOffer t with | some (p, n) => d.accept t p n | none => d)
    | none => d
  else if blk = 0x05 ∧ off = 0x83C then (d.subRead m.uid).1
  else if blk = 0x10 ∧ off < 0x8000 ∧ off % 0x1000 = 0x10 then (d.spPop (Fin.ofNat 8 (off / 0x1000))).1
  else if blk = 0x15 ∧ off = 0x0C then d.flashPop.1
  else if blk = 0x0B ∧ off = 0x00 then d.tick1
  else match findReg a with
    | some (r, _) => d.setWord (a - r.back) (r.afterRead (d.word (a - r.back)))
    | none => d

/-- The latches a read leaves for its own master, the debugger too (R390, R478). -/
def Dev.latchEffect (d : Dev) (m : Master) (a : Nat) : Dev :=
  if a = TBS_TBL then (d.readTbl m.uid).1
  else if a / 0x10000 = 0x02 then
    match regIndex (a % 0x10000) 0x50 0x20 4 with
    | some i => (d.readNextl m.uid (Fin.ofNat 4 i)).1
    | none => d
  else d

/-- A read of a register by a master: an index without a block refuses it (R8), and a block that is off
judges no access rule (R428). -/
def Chip.regRead (s : Chip) (m : Master) (a : Nat) : Chip × Reply :=
  if !blockListed (a / 0x10000) then (s, .err (.access 3))
  else if s.dev.regOff a then (s, .err .offline)
  else if !mayRead m a then (s, .err (.access 0))
  else
    let v := s.view m a
    (s.onDev fun d => (if m.isDbg then d.tick1 else d.readEffect m a).latchEffect m a, .ok v)

end Sys2Proof.Machine
end

