-- ==== Sys2Proof/Machine/Bus.lean ====
section
/-! DEFINITION. Machine/Bus.lean: writes to the registers of bank 0x04: clamping (R9 to R19, R537), the fields that rules hold back, the
log entry (R507, R508) and what each write starts. -/

namespace Sys2Proof.Machine

open Reg

/-! ### Fields held back -/

/-- A serial port is neither requested nor in effect (R435). -/
def Dev.spFree (d : Dev) (k : Nat) : Bool := !d.flag (SP_CTL_EN_REQ k) && !d.flag (SP_CTL_EN_EFF k)

/-- A field of a register that a lock or a "stored only" rule holds back at this time (R19): its register's address and its bits. -/
def Dev.frozen (d : Dev) (a hi lo : Nat) : Bool :=
  let blk := a / 0x10000
  let off := a % 0x10000
  match blk with
  | 0x02 => off == 0xD0 && hi == 31 && d.flag TBS_WDPCTL_EN
  | 0x05 =>
    if off < 0x1000 then false
    else
      let p := (off - 0x1000) / 0x10
      let lock := d.flag (ADM_CAT_CTL_LOCK p)
      if off % 0x10 == 0xC then lock else lock || d.flag (ADM_CAT_CTL_STATE_REQ p) || d.flag (ADM_CAT_CTL_STATE_EFF p)
  | 0x07 => off == 0x00 && d.get GAL_SVC_PHASE != 0
  | 0x09 =>
    if off == 0x50 then d.flag HPT_CTL_CFGRDY
    else if 0x1080 ≤ off then
      let b := (off - 0x1000) / 8
      hi != 30 && (d.flag (HPT_FWT_ATTR_EN_REQ b) || d.flag (HPT_FWT_ATTR_EN_EFF b))
    else false
  | 0x0A =>
    let n := off % 0x1000 / 0x20
    if 0x1000 ≤ off && off < 0x2000 then
      (off % 0x20 < 8 || lo == 16 || lo == 8) && (d.flag (RNG_SQCTL_EN_REQ n) || d.flag (RNG_SQCTL_EN_EFF n))
    else if 0x2000 ≤ off then
      (off % 0x20 < 8 || (off % 0x20 == 8 && lo == 8)) && (d.flag (RNG_CQCTL_EN_REQ n) || d.flag (RNG_CQCTL_EN_EFF n))
    else false
  | 0x0B =>
    if off == 0x10 || off == 0x18 then d.flag CUR_SAFE_LOCK
    else if off == 0x30 then (hi == 31 && d.flag CUR_WDCTL_EN) || (lo == 0 && d.flag CUR_SAFE_LOCK)
    else false
  | 0x0D => off == 0x08 && d.flag SEC_TCTL_EN
  | 0x0F => off == 0x50 && hi == 31 && !d.spFree 7
  | 0x10 => off % 0x1000 < 0xC && hi != 30 && !d.spFree (off / 0x1000)
  | 0x11 => (off == 0x0 || off == 0x4) && hi != 30 && (d.flag PDM_CTL_EN_REQ || d.flag PDM_CTL_EN_EFF)
  | 0x15 => off == 0x14 && d.flag FSPI_WP_LOCK
  | _ =>
    if 0x20 ≤ blk && 0x200 ≤ off && off < 0x220 then d.flag (CAB_CXCTL_LOCK (blk - 0x20) ((off - 0x200) / 4))
    else if 0x20 ≤ blk && 0x800 ≤ off then !d.slotOpen (blk - 0x20) ((off - 0x800) / 0x100)
    else false

/-- A write that a rule makes do nothing as a whole: a wrong key (R537), an entry request while one runs or the device is below Idle, a
firmware rail request while the registrar is enabled (R439); v is what the fields take. -/
def Dev.ignores (d : Dev) (a : Nat) (v : Word) : Bool :=
  let key := bits v 31 16
  if a = SYS_RSTCMD then key != 0x7E57
  else if a = PWR_ENTER then key != 0x2D57 || d.flag PWR_STAT_BUSY || 2 ≤ d.get PWR_STAT_STATE
  else if a = SEC_LCREQ then key != 0x4C43
  else if a = SEC_VER then key != 0x5645
  else if a = VLT_WIPE then key != 0x7A5E
  else if a = CUR_SAFECMD then key != 0x5AFE
  else if a = SP_RSEQREQ then d.flag ADM_CTL_EN_EFF
  else false

/-! ### Storing -/

/-- A field of a word written: what the field takes by its access code, old being the stored word. -/
def FldSpec.store (f : FldSpec) (old v : Word) : Word :=
  let x := f.clamp.apply (bits v f.hi f.lo)
  match f.acc with
  | .rw | .rwl => setBits old f.hi f.lo x
  | .ro | .wo | .rc => old
  | .w1c => setBits old f.hi f.lo (bits (old &&& ~~~v) f.hi f.lo)
  | .w1s => setBits old f.hi f.lo (bits (old ||| v) f.hi f.lo)

/-- A field that a write can change. -/
def FldSpec.writable (f : FldSpec) : Bool :=
  match f.acc with
  | .ro | .rc => false
  | _ => true

/-- A field that a rule can hold back: RW and RWL (R19). -/
def FldSpec.holdable (f : FldSpec) : Bool :=
  match f.acc with
  | .rw | .rwl => true
  | _ => false

/-- The value each field of a write takes (R11 to R14, R537): what its effects act on. -/
def RegRow.taken (r : RegRow) (v : Word) : Word :=
  r.flds.foldl (fun w f => setBits w f.hi f.lo (f.clamp.apply (bits v f.hi f.lo))) 0

/-- A register whose write does not reach its stored word: FIFO windows, pending bits, HPC, and bytes of a slot image that store
nothing (R124). -/
def notStored (a : Nat) : Bool :=
  let blk := a / 0x10000
  let off := a % 0x10000
  (blk == 0x10 && off % 0x1000 == 0x10) || (blk == 0x15 && off == 0xC) || (blk == 0x03 && 0x140 ≤ off && off < 0x180)
    || a == DBG_HPC || (0x20 ≤ blk && 0x800 ≤ off && 0x84 ≤ off % 0x100)

/-- The stored word of a register after a write of v. -/
def Dev.storeWord (d : Dev) (r : RegRow) (a : Nat) (v : Word) : Word :=
  let old := d.word (a - r.back)
  if notStored a then old
  else r.flds.foldl (fun w f => if f.holdable && d.frozen a f.hi f.lo then w else f.store w v) old

/-- A write is logged with IGNORED (R19, R508). -/
def Dev.heldBack (d : Dev) (r : RegRow) (a : Nat) (v : Word) : Bool :=
  r.flds.any (fun f => f.holdable && d.frozen a f.hi f.lo) || r.flds.all (fun f => !f.writable) || d.ignores a (r.taken v)

/-! ### Effects -/

/-- Bits b of a word with f b applied in turn. -/
def eachBit (w : Word) (f : Nat → Dev → Dev) (d : Dev) : Dev :=
  (List.range 32).foldl (fun d b => if w.getLsbD b then f b d else d) d

/-- A write of SYS (R493, RSTCMD). -/
def Dev.hookSys (d : Dev) (off : Nat) (v : Word) : Dev :=
  if off = 0x0C then
    match bits v 1 0 with
    | 1 => d.later .fabReset
    | 2 => d.later (.sysReset 2)
    | _ => d
  else d

/-- A write of PWR (R408, ENTER); blocks that PDOWN asks off with nothing in progress are off at once (R47, R427). -/
def Dev.hookPwr (d : Dev) (off : Nat) (v : Word) : Dev :=
  if off = 0x34 then (List.range 11).foldl Dev.pdownSeam d
  else if off = 0x04 then
    match bits v 1 0 with
    | 1 => d.enter 4
    | 2 => d.enter 3
    | 3 => d.enter 2
    | _ => d
  else d

/-- A write of TBS (R391, R396, R397, R402); old is the stored word before. -/
def Dev.hookTbs (d : Dev) (m : Master) (off : Nat) (old v : Word) : Dev :=
  if off = 0xC0 then (if m.isEng && bits v 31 16 == 0x4B1C then d.wdeReload (m.uid - 0x40) else d)
  else if off = 0xD0 then (if d.flag TBS_WDPCTL_EN && !old.getLsbD 31 then d.wdpLoad else d)
  else if off = 0xD4 then (if bits v 31 16 = 0x4B1C then d.wdpReload else d)
  else match regIndex off 0x44 0x20 4, regIndex off 0x4C 0x20 4, regIndex off 0x100 8 64 with
    | some i, _, _ => d.almCommit (Fin.ofNat 4 i)
    | _, some i, _ => d.almCtl (Fin.ofNat 4 i) (old.getLsbD 31)
    | _, _, some n => d.wdeCtl n (old.getLsbD 31)
    | none, none, none => d

/-- A write of ITC (R359, R365); PENDSET by an engine reaches sources 0 to 31 only, which its access rule sees to. -/
def Dev.hookItc (d : Dev) (m : Master) (off : Nat) (v : Word) : Dev :=
  if off = 0x14 then (match m.target with | some t => d.eoi t m.uid | none => d)
  else match regIndex off 0x140 4 8, regIndex off 0x160 4 8 with
    | some w, _ => eachBit v (fun b d => d.pendSet (32 * w + b)) d
    | _, some w => eachBit v (fun b d => d.pendClr (32 * w + b)) d
    | none, none => d

/-- A write of ADM (R245, R246, R250, R251, R264, R266, R267). -/
def Chip.hookAdm (s : Chip) (m : Master) (off : Nat) (old v : Word) : Chip :=
  if off = 0x00 then s.onDev Dev.admCtl
  else if off = 0x1C then s.thermEval
  else if off = 0x40 || off = 0x44 then s.onDev (·.ceilWrite (Fin.ofNat 2 ((off - 0x40) / 4)))
  else if off = 0x48 || off = 0x4C then s.onDev Dev.recompute
  else if off = 0x880 then s.onDev (·.admResult m.uid v)
  else if off = 0x884 then s.admDone m.uid v
  else match regIndex off 0x20 4 8, regIndex off 0x100C 0x10 256 with
    | some c, _ => s.ownWrite c
    | _, some p => s.onDev (·.profWrite p (old.getLsbD 0))
    | none, none => s

/-- A write of DPT (R230, R240): a rise of EN_REQ takes effect at once; the falls do where nothing is in flight, and wait for their seams
otherwise (R47). -/
def Chip.hookDpt (s : Chip) (off : Nat) (old v : Word) : Chip :=
  if off = 0x00 then
    if s.dev.flag DPT_CTL_EN_REQ then
      s.onDev fun d => if !old.getLsbD 0 && !d.flag DPT_CTL_EN_EFF then d.depotRise else d
    else s.depotSeam
  else if off = 0x20 then (if v.getLsbD 31 then s.flush (bits v 9 0) else s)
  else match regIndex off 0x4000 0x10 1024 with
    | some q => s.onDev fun d =>
        if d.flag (DPT_QCFG_EN_REQ q) then (if old.getLsbD 30 then d else d.on (DPT_QCFG_EN_EFF q)) else d.queueSeam q
    | none => s

/-- The queue whose threshold a write of DPT may move: its QLIM or QTHR (R232). -/
def thrQueue (a : Nat) : Option Nat :=
  if a / 0x10000 = 0x06 ∧ 0x4000 ≤ a % 0x10000 ∧ (a % 0x10 = 4 ∨ a % 0x10 = 8) then some ((a % 0x10000 - 0x4000) / 0x10) else none

/-- A write of GAL (R186, R196, R203). -/
def Dev.hookGal (d : Dev) (off : Nat) (old v : Word) : Dev :=
  if off = 0x00 then (if v.getLsbD 0 && bits old 9 8 == 0 then d.normal else d)
  else if off = 0x20 then (if v.getLsbD 31 && !old.getLsbD 31 then d.scrubFrom else d)
  else if off = 0x80 then (if v.getLsbD 1 then d.conflictsClear else d)
  else d

/-- A write of VLT (R200). -/
def Chip.hookVlt (s : Chip) (off : Nat) (v : Word) : Chip := if off = 0x04 ∧ v.getLsbD 0 then s.wipe 4 else s

/-- A write of HPT (R275, R283, R290, R291; LOSTW and DPERR clear their counts). -/
def Chip.hookHpt (s : Chip) (off : Nat) (old v : Word) : Chip :=
  if off = 0x00 then s.lten (old.getLsbD 0)
  else if off = 0x20 then s.onDev fun d => if v.getLsbD 31 then d.put HPT_LOSTW_COUNT 0 else d
  else if off = 0x30 then (s.hmem).onDev (·.later .rise)
  else if off = 0x40 then s.onDev fun d => if v.getLsbD 31 then d.fcCmd else d
  else if off = 0x60 then s.onDev fun d => if v.getLsbD 31 then d.put HPT_DPERR_COUNT 0 else d
  else match regIndex off 0x1084 8 240 with
    | some i => s.onDev fun d =>
        let b := i + 16
        if d.flag (HPT_FWT_ATTR_EN_REQ b) && !old.getLsbD 30 then (d.on (HPT_FWT_ATTR_EN_EFF b)).later .rise else d
    | none => s

/-- A write of RNG (R307, R327, R329 to R331). -/
def Dev.hookRng (d : Dev) (off : Nat) (old v : Word) : Dev :=
  if off = 0x08 then (if v.getLsbD 0 then d.resumeGo else d)
  else match regIndex off 0x1008 0x20 64, regIndex off 0x2008 0x20 64 with
    | some n, _ =>
      let req := d.flag (RNG_SQCTL_EN_REQ n)
      if req && !old.getLsbD 30 then d.sqEnable n
      else if !req && old.getLsbD 30 then d.sqDisable n
      else d
    | _, some n =>
      let req := d.flag (RNG_CQCTL_EN_REQ n)
      let d :=
        if req && !old.getLsbD 30 then d.cqEnable n
        else if !req && old.getLsbD 30 then d.cqDisable n
        else d
      d.cqIen n
    | none, none => d

/-- A write of CUR (R349, R351, R354). -/
def Dev.hookCur (d : Dev) (off : Nat) (old v : Word) : Dev :=
  if off = 0x04 then
    let d' := d.faultClear
    if old.getLsbD 31 && v.getLsbD 31 && d.flag ESPI_CTL_EN then d'.espiHwWire 0 false else d'
  else if off = 0x14 then (if v.getLsbD 0 then d.later (.safeState 6 0) else d)
  else if off = 0x30 then (if d.flag CUR_WDCTL_EN && !old.getLsbD 31 then d.wdcLoad else d)
  else if off = 0x34 then (if bits v 31 16 = 0x4B1C then d.wdcReload else d)
  else d

/-- A write of SEC (R503, R506). -/
def Chip.hookSec (s : Chip) (off : Nat) (v : Word) : Chip :=
  if off = 0x04 then s.lcRequest (bits v 2 0)
  else if off = 0x14 then s.onDev (·.verRequest (bits v 13 8))
  else s

/-- FEEDST shows the result of a feed: 2 DONE, 3 ERROR with its code, cause and detail (R481). -/
def Dev.feedResult (d : Dev) (st err cause detail : Nat) : Dev :=
  (((d.put DBG_FEEDST_STATE st).put DBG_FEEDST_ERR err).put DBG_FEEDST_CAUSE cause).put DBG_FEEDST_DETAIL detail

/-- A write of DBG (R472, R479, R481, R483, R489, R490); lvl is the level of the debugger. -/
def Chip.hookDbg (s : Chip) (m : Master) (off : Nat) (old v : Word) : Chip :=
  let lvl := s.dev.dbg.level
  if off = 0x04 then (if targetLevel (bits v 6 0) ≤ lvl then s.rctl (bits v 31 30) (bits v 6 0) else s)
  else if off = 0x24 then
    s.onDev fun d =>
      if lvl < targetLevel d.feedTarget then d.feedResult 3 5 0 0
      else if d.dbg.feeding.isSome then d.put DBG_FEEDST_ERR 2
      else d.later (.feed v)
  else if off = 0x2C then (if targetLevel s.dev.feedTarget ≤ lvl then s.setHpc v else s)
  else if off = 0x40 then s.onDev (·.traceCtl (old.getLsbD 31))
  else if off = 0x48 then s.onDev Dev.traceRp
  else match regIndex off 0x100 4 64 with
    | some p => s.onDev (·.stim m.uid p v)
    | none => s

/-- A write of PAD (R425, R459). -/
def Dev.hookPad (d : Dev) (off : Nat) (v : Word) : Dev :=
  if off = 0x00 then (if v.getLsbD 0 then d.padRelease else d)
  else match regIndex off 0x30 4 5 with
    | some g => if v.getLsbD 31 then d.shortClear g else d
    | none => d

/-- A firmware rail request (R439, RSEQREQ). -/
def Dev.rseqReq (d : Dev) (v : Word) : Dev :=
  if v.getLsbD 31 && !d.flag ADM_CTL_EN_EFF then
    let ask : RailAsk := match bits v 30 29 with
      | 1 => .on
      | 2 => .off
      | _ => .point (Fin.ofNat 16 (bits v 3 0))
    (d.askRail ⟨Fin.ofNat 2 (bits v 8 8), ask, .firmware⟩).1
  else d

/-- A write of a serial port (R435, R436, R439). -/
def Dev.hookSp (d : Dev) (off : Nat) (old v : Word) : Dev :=
  let k := Fin.ofNat 8 (off / 0x1000)
  let o := off % 0x1000
  if o = 0x00 then d.spCtl k (old.getLsbD 30)
  else if o = 0x0C then d.spCmd k v
  else if o = 0x10 then d.spPush k (v.extractLsb' 0 8)
  else if off = 0x114 then d.rseqReq v
  else d

/-- A write of GPIO (R455, R457): was tells each input's line before the write; old is the stored word before. -/
def Dev.hookGpio (d : Dev) (was : Nat → Bool) (off : Nat) (old v : Word) : Dev :=
  match regIndex off 0x40 4 3, regIndex off 0x50 4 3, regIndex off 0x100 4 68 with
  | some w, _, _ => d.unmasked w (old &&& v) 0
  | _, some w, _ => d.unmasked w 0 (old &&& v)
  | _, _, some i => d.lineMoved i (was i)
  | none, none, none => d

/-- A write of ESPI (R445, R446). -/
def Dev.hookEspi (d : Dev) (off : Nat) (v : Word) : Dev :=
  if off = 0x8C then d.espiWires
  else if off = 0x90 then d.oobCtl v
  else d

/-- A write of FSPI (R448, R449). -/
def Dev.hookFspi (d : Dev) (off : Nat) (v : Word) : Dev :=
  if off = 0x04 then d.flashCmd v
  else if off = 0x0C then d.flashPush v
  else d

/-- A write of a cabinet (R125, R126, R496). -/
def Chip.hookCab (s : Chip) (k off : Nat) (old v : Word) : Chip :=
  if off = 0x00 then s.rstWrite k (bits v 15 8)
  else match regIndex off 0x200 4 8 with
    | some i =>
      let s := s.onDev (·.cxctl k i (old.getLsbD 0))
      -- no engine of the cabinet holds an instruction: the seam is there at once (R47, R126)
      if (s.cabCores k).all Core.quiet then s.onDev (·.slotSeam k i) else s
    | none => s

/-- What a write starts beside the words it stores; v is the value its fields took, old the stored word before, was the lines of the
inputs before. -/
def Chip.hook (s : Chip) (m : Master) (a : Nat) (was : Nat → Bool) (old v : Word) : Chip :=
  let off := a % 0x10000
  match a / 0x10000 with
  | 0x00 => s.onDev (·.hookSys off v)
  | 0x01 => s.onDev (·.hookPwr off v)
  | 0x02 => s.onDev (·.hookTbs m off old v)
  | 0x03 => s.onDev (·.hookItc m off v)
  | 0x05 => s.hookAdm m off old v
  | 0x06 => s.hookDpt off old v
  | 0x07 => if off = 0x14 then s.pgate else s.onDev (·.hookGal off old v)
  | 0x08 => s.hookVlt off v
  | 0x09 => s.hookHpt off old v
  | 0x0A => s.onDev (·.hookRng off old v)
  | 0x0B => s.onDev (·.hookCur off old v)
  | 0x0C => if off = 0x08 then s.onDev (·.prvAck (bits v 11 0)) else s
  | 0x0D => s.hookSec off v
  | 0x0E => s.hookDbg m off old v
  | 0x0F => s.onDev (·.hookPad off v)
  | 0x10 => s.onDev (·.hookSp off old v)
  | 0x11 => if off = 0x00 then s.onDev Dev.pdmWrite else s
  | 0x12 => s.onDev (·.hookGpio was off old v)
  | 0x13 => (match regIndex off 0 4 2 with | some i => s.onDev (·.moverWrite i) | none => s)
  | 0x14 => s.onDev (·.hookEspi off v)
  | 0x15 => s.onDev (·.hookFspi off v)
  | blk => if 0x20 ≤ blk then s.hookCab (blk - 0x20) off old v else s

/-! ### Writing -/

/-- A refused write to a set-up register is logged with REFUSED; of a block that is off, old and stored read 0 (R507, R508). -/
def Chip.logRefused (s : Chip) (m : Master) (a : Nat) (v : Word) (off : Bool) : Chip :=
  match findReg a with
  | some (r, _) =>
    if r.setup then
      let w := if off then 0 else s.view m a
      s.onDev (·.log a w v w m.uid prvRefused)
    else s
  | none => s

/-- The words a write stores, with its log entry where the register is a set-up register. -/
def Chip.storeReg (s : Chip) (m : Master) (r : RegRow) (a : Nat) (v : Word) : Chip :=
  let old := s.view m a
  let ign := s.dev.heldBack r a v
  let s := s.onDev fun d => d.setWord (a - r.back) (d.storeWord r a v)
  if r.setup then s.onDev (·.log a old v (s.view m a) m.uid (if ign then prvIgnored else 0)) else s

/-- A write to a register that is there. -/
def Chip.writeReg (s : Chip) (m : Master) (r : RegRow) (a : Nat) (v : Word) : Chip :=
  let old := s.dev.word (a - r.back)
  let was := s.dev.inLine
  let skip := s.dev.ignores a (r.taken v)
  let act (s : Chip) : Chip :=
    let s := s.storeReg m r a v
    if skip then s else s.hook m a was old (r.taken v)
  match thrQueue a with
  | some q => s.withThr q act
  | none => act s

/-- A write of a register by a master (R6 to R8, R124, R428, R507). -/
def Chip.regWrite (s : Chip) (m : Master) (a : Nat) (v : Word) : Chip × Reply :=
  if !blockListed (a / 0x10000) then (s, .err (.access 3))
  else if s.dev.regOff a then (s.logRefused m a v true, .err .offline)
  else if !s.dev.mayWrite m a v then (s.logRefused m a v false, .err (.access 1))
  else if a / 0x10000 = 0x05 ∧ inSubmit (a % 0x10000) then
    (s.onDev (·.subWrite m.uid ((a % 0x10000 - 0x800) / 4) v), .ok 0)
  else match findReg a with
    | some (r, _) => (s.writeReg m r a v, .ok 0)
    | none => (s, .ok 0)

/-! ### The host through BAR0 -/

/-- What a BAR0 offset reaches (R280): a register, a doorbell, a CXL register, or nothing. -/
inductive Bar0 where
  | reg (a : Nat)
  | sqBell (n : Nat)
  | cqBell (n : Nat)
  | cxl (off : Nat)
  | reserved
  deriving DecidableEq, Repr

/-- A CXL component register (R280): what the host's writes have made of it. -/
def Dev.cxlRead (d : Dev) (i : Nat) : Word := (amapFind i d.hpt.cxl).getD (Config.cxlWord i)

/-- A write of a CXL component register, as CXL defines it (R280); what it then holds is open. -/
def Dev.cxlWrite (d : Dev) (i : Nat) (v : Word) : Dev :=
  let w := Config.cxlStore i (d.cxlRead i) v
  d.onHpt fun h => { h with cxl := (i, w) :: h.cxl.filter (·.1 != i) }

/-- BAR0 by its offset (R280). -/
def bar0 (off : Nat) : Bar0 :=
  if off < 0x1000 then .reg off
  else if off < 0x2000 then .reg (0x50000 + (off - 0x1000))
  else if off < 0x3000 then .reg (0x90000 + (off - 0x2000))
  else if 0x10000 ≤ off && off < 0x20000 then .reg (0xA0000 + (off - 0x10000))
  else if 0x20000 ≤ off && off < 0x21000 && off % 0x40 = 0 then .sqBell ((off - 0x20000) / 0x40)
  else if 0x21000 ≤ off && off < 0x22000 && off % 0x40 = 0 then .cqBell ((off - 0x21000) / 0x40)
  else if 0xF0000 ≤ off && off < 0x100000 then .cxl (off - 0xF0000)
  else .reserved

/-- An offset of the doorbells' ranges (R280). -/
def inBells (off : Nat) : Bool := 0x20000 ≤ off && off < 0x22000

/-- An access of the wrong width or alignment where BAR0 has registers or doorbells (R6, R281, R308). -/
def badAccess (off n : Nat) : Bool := (n != 4 || off % 4 != 0) && (inBells off || bar0 off != .reserved)

/-- A host write of n bytes in BAR0 (R276, R280, R281). -/
def Chip.bar0Write (s : Chip) (off n : Nat) (v : Word) : Chip :=
  if !s.dev.flag HPT_CTL_CFGRDY then s.onDev (·.drops false)
  else if badAccess off n then s.onDev (·.drops true)
  else match bar0 off with
    | .reserved => s.onDev (·.drops false)
    | .reg a =>
      match s.regWrite Master.host a v with
      | (s, .ok _) => s
      | (s, _) => s.onDev (·.drops true)
    | .sqBell k => s.onDev (·.sqBell k v)
    | .cqBell k => s.onDev (·.cqBell k v)
    | .cxl o => s.onDev (·.cxlWrite (o / 4) v)

/-- A host read of n bytes in BAR0. -/
def Chip.bar0Read (s : Chip) (off n : Nat) : Chip :=
  if !s.dev.flag HPT_CTL_CFGRDY then s.onDev (·.emit .unsupported)
  else if badAccess off n then s.onDev (·.emit .abort)
  else match bar0 off with
    | .reserved => s.onDev (·.emit .unsupported)
    | .reg a =>
      match s.regRead Master.host a with
      | (s, .ok w) => s.onDev (·.emit (.reply (leBytes 4 w.toNat)))
      | (s, .err c) => s.onDev (·.hostError c false 4)
      | (s, .held) => s
    | .cxl o => s.onDev fun d => d.emit (.reply (leBytes 4 (d.cxlRead (o / 4)).toNat))
    | .sqBell _ | .cqBell _ => s.onDev (·.emit (.reply (leBytes 4 0)))

end Sys2Proof.Machine
end

