-- ==== Sys2Proof/Machine/Access.lean ====
section
/-! DEFINITION. Machine/Access.lean: an instruction's access to memory, register space, a depot window or a far window: the checks a
core makes itself in the order of R70, loads with the store buffer and the data cache, stores, LL, SC and the atomics, and the
cache and fence operations (R91 to R107, R119, R120, R137 to R162). -/

namespace Sys2Proof.Machine

open Reg

/-- How an instruction executes: the mode its accesses are checked in, secure state (R340), and whether a debugger fed it (R481). -/
structure Ctx where
  km : Bool
  sec : Bool
  fed : Bool
  deriving DecidableEq, Repr

/-- A core's own instruction. -/
def ownCtx (e : CoreId) (c : Core) : Ctx := ⟨c.km, c.secure e, false⟩

/-- How an access ended: a value; a precise cause; held at the port, under WAKE_HOLD or not; waiting for older stores; or turned into
the imprecise report of an older store (R72, R145). -/
inductive Got where
  | val (v : Word)
  | bad (c : Cause)
  | held (wake : Bool)
  | stall
  | imp
  deriving DecidableEq, Repr

/-- A data access as its instruction makes it: device address, size, read and written, an atomic's alignment, and the stack check. -/
structure DataAcc where
  addr : Nat
  size : Nat
  rd : Bool
  wr : Bool
  atom : Bool
  stk : Bool
  deriving DecidableEq, Repr

/-- Register space or a depot window. -/
def isIo (a : Nat) : Bool := a / 0x1000000 == 4 || (8 ≤ a / 0x1000000 && a / 0x1000000 < 16)

/-- A far window. -/
def isFar (a : Nat) : Bool := 0x10000000 ≤ a

/-- The alignment rules (R93, R153). -/
def DataAcc.misaligned (t : DataAcc) : Bool :=
  (t.atom && t.addr % 4 != 0) || (isIo t.addr && t.addr % t.size != 0)
    || (isFar t.addr && t.addr / 64 != (t.addr + t.size - 1) / 64)

/-- What a core finds itself about a data access, before it is sent, in the order of R70. -/
def ownCheck (e : CoreId) (c : Core) (x : Ctx) (t : DataAcc) : Option Cause :=
  if t.misaligned then some .misalign
  else if t.stk && c.spCheck && t.addr % 0x1000000 < c.spLimit then some .stack
  else if !implemented e t.addr t.size then some (.access 3)
  else if t.addr / 0x1000000 == 3 && !x.sec then some (.access 6)
  else if isIo t.addr && t.size != 4 then some (.access 5)
  else if t.rd && !c.allowed x.km .read t.addr t.size then some (.access 0)
  else if t.wr && !c.allowed x.km .write t.addr t.size then some (.access 1)
  else if isFar t.addr && c.det then some .determinism
  else none

/-! ### The store buffer seen by a load -/

/-- The bytes of a buffered store as the overlap check compares them (R143). -/
def SbEntry.lo (e : CoreId) (st : SbEntry) : Nat := canon e st.addr.toNat

/-- A store writes at least one byte of [a, a + n). -/
def SbEntry.overlaps (e : CoreId) (st : SbEntry) (a n : Nat) : Bool := st.lo e < a + n && a < st.lo e + st.size

/-- A store covers [a, a + n) (R142). -/
def SbEntry.covers (e : CoreId) (st : SbEntry) (a n : Nat) : Bool := st.lo e ≤ a && a + n ≤ st.lo e + st.size

/-- The youngest buffered store that writes a byte of [a, a + n) (R142); a is in the form of R143. -/
def Core.sbFind (c : Core) (e : CoreId) (a n : Nat) : Option SbEntry := c.sb.reverse.find? fun st => st.overlaps e a n

/-! ### Loads -/

/-- A load may use the data cache (R187). -/
def dataCached (d : Dev) (e : CoreId) (c : Core) (a : Nat) : Bool :=
  !isCur e && !c.det && !c.mode.getLsbD 2
    && ((a / 0x1000000 == 1 && !(portOf e a).home) || (isFar a && d.flag (HPT_FWT_ATTR_CACHE (a / 0x1000000))))
    && (match c.regionAt a with | some r => !r.attr.getLsbD 8 | none => true)

/-- A line filled into the data cache (R188). -/
def Chip.dcKeep (s : Chip) (e : CoreId) (a : Nat) (data : List Byte) : Chip :=
  let k := s.dev.fresh
  (s.onCore e fun c => { c with dcache := cacheAlloc 32 4 (Config.dcVictim k) c.dcache (a / 64) data }).onDev Dev.tick1

/-- A far load at the port (R283 to R285, R293). -/
def Chip.farRead (s : Chip) (e : CoreId) (a n : Nat) (fill : Bool) : Chip × Got :=
  match s.dev.farGate a with
  | .error => (s, .bad .busError)
  | .absent => (s, .bad .farAbsent)
  | .wait => (s, .held false)
  | .wakeHold => (s, .held true)
  | .pass =>
    let s := s.count e 28 1
    if fill then
      match s.dev.farFill a with
      | (d, none) => ({ s with dev := d }, .bad .busError)
      | (d, some bs) => (({ s with dev := d } : Chip).dcKeep e a bs, .val (BitVec.ofNat 32 (lineGet bs (a % 64) n)))
    else
      match s.dev.farLoad a n with
      | (d, .ok v) => ({ s with dev := d }, .val v)
      | (d, _) => ({ s with dev := d }, .bad .busError)

/-- An array's reply as an access's end. -/
def Reply.got : Reply → Got
  | .ok v => .val v
  | .err c => .bad c
  | .held => .held false

/-- A load of one piece from an array. A load that misses the data cache fills its line; a line with a word that cannot be read is not
kept, and the load is performed again as an access of its own (R193). -/
def Chip.arrPiece (s : Chip) (e : CoreId) (a n : Nat) (fill : Bool) : Chip × Got :=
  let s := s.atPort e a
  match if fill then s.arrFill e a else (s, none) with
  | (s, some bs) => (s.dcKeep e a bs, .val (BitVec.ofNat 32 (lineGet bs (a % 64) n)))
  | (s, none) =>
    match s.memRead (canon e a) n with
    | (s, r) => (s, r.got)

/-- One piece of a load: from the data cache, or from memory with a fill where the cache may hold the line. -/
def Chip.loadPiece (s : Chip) (e : CoreId) (a n : Nat) : Chip × Got :=
  let cached := dataCached s.dev e s.cores[e] a
  match s.parityOk e a (if cached then s.cores[e].dcLine a else none) Core.dcDrop with
  | (s, some bs) => (s, .val (BitVec.ofNat 32 (lineGet bs (a % 64) n)))
  | (s, none) =>
    match if isFar a then s.farRead e a n cached else s.arrPiece e a n cached with
    | (s, .held w) => (s, .held w)
    | (s, r) => (if cached then s.count e 7 1 else s, r)

/-- The pieces of a load joined, the first error being the reply (R147, R150). -/
def Chip.loadPieces (s : Chip) (e : CoreId) : List (Nat × Nat) → Chip × Got
  | [] => (s, .val 0)
  | (a, n) :: ps =>
    match s.loadPiece e a n with
    | (s, .val v) =>
      match s.loadPieces e ps with
      | (s, .val u) => (s, .val (v ||| (u <<< (8 * n))))
      | r => r
    | r => r

/-- The pieces of a data access: only arrays split (R147, R153). -/
def piecesOf (a size : Nat) : List (Nat × Nat) := if isFar a then [(a, size)] else pieces a size

/-- A load from memory past the store buffer's search (R142). -/
def Chip.memLoad (s : Chip) (e : CoreId) (a size : Nat) : Chip × Got :=
  match s.cores[e].sbFind e (canon e a) size with
  | none => s.loadPieces e (piecesOf a size)
  | some st =>
    if st.covers e (canon e a) size then
      (s.count e 10 1, .val (st.data >>> (8 * (canon e a - st.lo e))))
    else (s.count e 11 1, .stall)

/-! ### Register space, depot windows, barriers -/

/-- The master of a core's access (R5). -/
def Ctx.master (x : Ctx) (e : CoreId) : Master := ⟨uidOf e, x.km, x.sec⟩

/-- An imprecise report is due at this boundary (R72). -/
def Chip.impDue (s : Chip) (e : CoreId) : Bool :=
  !s.cores[e].impErr.isEmpty && s.cores[e].shadows.isEmpty && !s.tornPair e

/-- What must come before an access that older stores must precede (R145, R158, R160): they are performed; one that must wait, or one
answered with an error, comes first. -/
def Chip.settled (s : Chip) (e : CoreId) (k : Chip → Chip × Got) : Chip × Got :=
  let s := s.drainAll e
  if !s.cores[e].sb.isEmpty then (s, .stall)
  else if s.impDue e then (s, .imp)
  else k s

/-- A load from register space or a depot window (R145, R219); it waits for the clock of an island that is stopped (R383). -/
def Chip.ioLoad (s : Chip) (e : CoreId) (x : Ctx) (a : Nat) : Chip × Got :=
  if a / 0x1000000 = 4 then
    if s.dev.islandShut (a % 0x1000000) && !s.dev.regOff (a % 0x1000000) then (s, .stall)
    else
      let (s, r) := s.regRead (x.master e) (a % 0x1000000)
      (s, r.got)
  else
    match winOp a false with
    | none => (s, .bad (.access 3))
    | some (op, q) => let (s, r) := s.window (uidOf e) op q 0; (s, r.got)

/-- A store to register space or a depot window. -/
def Chip.ioStore (s : Chip) (e : CoreId) (x : Ctx) (a : Nat) (v : Word) : Chip × Got :=
  if a / 0x1000000 = 4 then
    if s.dev.islandShut (a % 0x1000000) && !s.dev.regOff (a % 0x1000000) then (s, .stall)
    else
      let (s, r) := s.regWrite (x.master e) (a % 0x1000000) v
      (s, r.got)
  else
    match winOp a true with
    | none => (s, .bad (.access 3))
    | some (op, q) => let (s, r) := s.window (uidOf e) op q v; (s, r.got)

/-- A load (R98, R99, R142). -/
def Chip.load (s : Chip) (e : CoreId) (x : Ctx) (a size : Nat) : Chip × Got :=
  if isIo a then s.settled e fun s => s.ioLoad e x a else s.memLoad e a size

/-! ### Stores -/

/-- A far store sent before it retires (R141, R293): its reply is precise. -/
def Chip.farStorePrecise (s : Chip) (e : CoreId) (a size : Nat) (v : Word) : Chip × Got :=
  match s.dev.farGate a with
  | .error => (s, .bad .busError)
  | .absent => (s, .bad .farAbsent)
  | .wait => (s, .held false)
  | .wakeHold => (s, .held true)
  | .pass =>
    let s := s.count e 28 1
    match s.farPerform e ⟨BitVec.ofNat 32 a, size, v, .waiting⟩ with
    | (s, r) => (s, r.got)

/-- An array store counts at its port, piece by piece. -/
def Chip.countStore (s : Chip) (e : CoreId) (a size : Nat) : Chip :=
  if isFar a then s.count e 28 1 else (pieces a size).foldl (fun s p => s.countPort e p.1) s

/-- A store performed before the next instruction starts: in deterministic mode and on the curator (R162, R338). Its error reply is an
imprecise report all the same (R72). -/
def Chip.storeNow (s : Chip) (e : CoreId) (a size : Nat) (v : Word) : Chip × Got :=
  match (s.countStore e a size).perform e ⟨BitVec.ofNat 32 a, size, v, .waiting⟩ with
  | (s, .done) => (s, .val 0)
  | (s, .failed) => (s.onCore e fun c => { c with impErr := c.impErr ++ [BitVec.ofNat 32 a] }, .val 0)
  | (s, _) => (s, .stall)

/-- A store enters the store buffer (R140, R141); in a full one the oldest unsent store is sent first, and the store waits until an entry is
free. -/
def Chip.storeBuffer (s : Chip) (e : CoreId) (a size : Nat) (v : Word) : Chip × Got :=
  let s := if s.cores[e].sb.length < 12 then s else s.drain1 e
  if s.cores[e].sb.length < 12 then
    ((s.countStore e a size).onCore e fun c => { c with sb := c.sb ++ [⟨BitVec.ofNat 32 a, size, v, .waiting⟩] }, .val 0)
  else (s, .stall)

/-- A store's own reservation goes (R107). -/
def Chip.dropOwnResv (s : Chip) (e : CoreId) (a : Nat) : Chip :=
  let g := s.dev.granule (canon e a)
  s.onCore e fun c => if c.resv = some g then { c with resv := none } else c

/-- A store (R98, R99, R141). A fed one that must wait at the port is sent like one before retirement, for it completes with its
acknowledgement (R481). -/
def Chip.store (s : Chip) (e : CoreId) (x : Ctx) (a size : Nat) (v : Word) : Chip × Got :=
  if isIo a then s.settled e fun s => s.ioStore e x a v
  else
    let s := s.dropOwnResv e a
    if isFar a && (!s.cores[e].present || (x.fed && s.dev.farGate a == .wait)) then s.settled e fun s => s.farStorePrecise e a size v
    else if isCur e || s.cores[e].det then s.storeNow e a size v
    else s.storeBuffer e a size v

/-! ### LL, SC and atomics -/

/-- The memory's answer to an LL. -/
def Chip.llRead (s : Chip) (e : CoreId) (a : Nat) : Chip × Got :=
  if isIo a then (s, .bad .busError)
  else if isFar a then s.farRead e a 4 false
  else s.arrPiece e a 4 false

/-- LL (R99, R107, R160). It leaves a cached line as it is, so a later load that hits the line may return an older value than the LL did
(DESIGN CHOICE, notes/assumptions/88.md: R157 and R160 against R155). -/
def Chip.llOp (s : Chip) (e : CoreId) (a : Nat) : Chip × Got :=
  s.settled e fun s =>
    match s.llRead e a with
    | (s, .val v) =>
      let g := s.dev.granule (canon e a)
      (s.onCore e fun c => { c with resv := some g }, .val v)
    | r => r

/-- The write of a successful SC. -/
def Chip.scWrite (s : Chip) (e : CoreId) (a : Nat) (v : Word) : Chip × Got :=
  if isFar a then s.farStorePrecise e a 4 v
  else
    match (s.countPort e a).arrWrite e a 4 v with
    | (s, r) => (s, r.got)

/-- SC (R99, R107, R108): it writes rt with 0 where the reservation covers the address, and with 1 elsewhere. -/
def Chip.scOp (s : Chip) (e : CoreId) (a : Nat) (v : Word) : Chip × Got :=
  s.settled e fun s =>
    if isIo a then (s, .bad .busError)
    else if s.cores[e].resv = some (s.dev.granule (canon e a)) then
      match s.scWrite e a v with
      | (s, .val _) => (s.onCore e fun c => { c.dcDrop a with resv := none }, .val 0)
      | r => r
    else (s.onCore e fun c => { c.dcDrop a with resv := none }, .val 1)

/-- The memory's answer to an atomic: scratch, gallery or far cache, and an error elsewhere, the vault too (R106, R285). -/
def Chip.amoMem (s : Chip) (e : CoreId) (a : Nat) (f : Word → Word) : Chip × Got :=
  if isIo a || a / 0x1000000 == 3 then (s, .bad .busError)
  else if isFar a then
    match s.dev.farGate a with
    | .error => (s, .bad .busError)
    | .absent => (s, .bad .farAbsent)
    | .wait => (s, .held false)
    | .wakeHold => (s, .held true)
    | .pass =>
      let s := s.count e 28 1
      match s.dev.farAtomic a f with
      | (d, .ok v) => (({ s with dev := d } : Chip).clearResv (d.granule a), .val v)
      | (d, _) => ({ s with dev := d }, .bad .busError)
  else
    match (s.atPort e a).memAtomic (portOf e a) (canon e a) f with
    | (s, r) => (s, r.got)

/-- An atomic (R99, R106, R160). -/
def Chip.amoOp (s : Chip) (e : CoreId) (a : Nat) (f : Word → Word) : Chip × Got :=
  s.settled e fun s =>
    match s.amoMem e a f with
    | (s, .val v) => ((s.dropOwnResv e a).onCore e (·.dcDrop a), .val v)
    | r => r

/-! ### Fences and line operations -/

/-- A data-cache line has write-through traffic still under way (R119): an unacknowledged store writes one of its bytes. -/
def Core.linePending (c : Core) (line : Nat) : Bool :=
  c.sb.any fun st => st.addr.toNat / 64 == line || (st.addr.toNat + st.size - 1) / 64 == line

/-- FENCE.A (R119, R159). -/
def Core.fenceA (c : Core) : Core := { c with dcache := c.dcache.filter fun l => c.linePending l.1 }

/-- What INVAL and FLUSH find themselves (R120): nothing in register space or a depot window; elsewhere a read check of the
line's address; the vault is never reached. -/
def lineCheck (e : CoreId) (c : Core) (x : Ctx) (a : Nat) : Option Cause :=
  if isIo a then none
  else if !implemented e a 1 then some (.access 3)
  else if a / 0x1000000 = 3 then some (.access 6)
  else if !c.allowed x.km .read a 1 then some (.access 0)
  else if isFar a && c.det then some .determinism
  else none

/-- INVAL (R120): sel bit 0 names the data cache, bit 1 the instruction cache; a far line leaves the far cache too, written home if
dirty. -/
def Chip.invalLine (s : Chip) (e : CoreId) (a : Nat) (sel : BitVec 2) : Chip :=
  if isIo a then s
  else
    let s := s.onCore e fun c =>
      let c := if sel.getLsbD 0 then c.dcDrop a else c
      if sel.getLsbD 1 then c.icDrop a else c
    if isFar a && s.dev.farGate a == .pass then s.onDev (·.farClean a) else s

/-- FLUSH (R120): the line's data reaches its home and the line leaves the data cache; of a dirty far-cache line it is answered with an
error where the window is read-only (R282, R284). -/
def Chip.flushLine (s : Chip) (e : CoreId) (a : Nat) : Chip × Got :=
  if isIo a then (s, .val 0)
  else
    s.settled e fun s =>
      if isFar a then
        match s.dev.farGate a with
        | .error => (s, .bad .busError)
        | .absent => (s, .bad .farAbsent)
        | .wait => (s, .held false)
        | .wakeHold => (s, .held true)
        | .pass =>
          if s.dev.flag (HPT_FWT_ATTR_RDONLY (a / 0x1000000)) && s.dev.farDirty a then (s, .bad .busError)
          else ((s.onCore e (·.dcDrop a)).onDev (·.farClean a), .val 0)
      else (s.onCore e (·.dcDrop a), .val 0)

end Sys2Proof.Machine
end

