-- ==== Sys2Proof/Machine/SysReg.lean ====
section
/-! DEFINITION. Machine/SysReg.lean: the system registers as MFS reads and MTS writes them (R60 to R67). -/

namespace Sys2Proof.Machine

open Reg

/-- A system register number that R60 assigns; 0x0D is DXFER for fed instructions alone (R482). -/
def srAssigned (fed : Bool) (n : Nat) : Bool := n ≤ 0x0C || (0x20 ≤ n && n ≤ 0x37) || (fed && n == 0x0D)

/-- A system register user mode may name in MFS and in MTS (R60). -/
def srUser (n : Nat) : Bool := n == 0x05 || n == 0x06 || n == 0x07 || n == 0x09 || n == 0x0A || n == 0x0B

/-- The cause of an MFS or MTS that may not run (R60, R61). -/
def srCause (x : Ctx) (n : Nat) : Option Cause :=
  if !srAssigned x.fed n then some .illegal
  else if !x.km && !srUser n then some (.access 4)
  else none

/-- ENGID (R60). -/
def engid (e : CoreId) : Word :=
  if isCur e then 0x80180000
  else BitVec.ofNat 32 (0x10000 * uidOf e + 0x800 * wingOf e + 0x100 * cabOf e + e.val)

/-- A word of protection entry k: 0 BASE, 1 LIMIT, 2 ATTR. -/
def Region.part (r : Region) (k : Nat) : Word := match k with | 0 => r.base | 1 => r.limit | _ => r.attr

/-- A written word of a protection entry, reserved bits zero (R60, R62). -/
def Region.setPart (r : Region) (k : Nat) (v : Word) : Region :=
  match k with
  | 0 => { r with base := v &&& 0xFFFFFFC0 }
  | 1 => { r with limit := v &&& 0xFFFFFFC0 }
  | _ => { r with attr := v &&& 0x800001F7 }

/-- Protection entry n. -/
def regionIx (n : Nat) : Fin 8 := Fin.ofNat 8 ((n - 0x20) / 3)

/-- The value of a system register (R60); TBL reads the published timebase (R63, R389). -/
def Chip.srRead (s : Chip) (e : CoreId) (n : Nat) : Word :=
  let c := s.cores[e]
  match n with
  | 0x00 => c.status
  | 0x01 => c.epc
  | 0x02 => c.ecause
  | 0x03 => c.eval
  | 0x04 => c.vbase
  | 0x05 => c.db.zeroExtend 32
  | 0x06 => c.cb.zeroExtend 32
  | 0x07 => c.rc.zeroExtend 32
  | 0x08 => c.mode.zeroExtend 32
  | 0x09 => engid e
  | 0x0A => s.dev.now.extractLsb' 0 32
  | 0x0B => c.tbh
  | 0x0C => c.splim
  | 0x0D => s.dev.word DBG_DXFER
  | n => c.regions[regionIx n].part ((n - 0x20) % 3)

/-- A system register whose value comes from outside the core's own registers is an input token of the main (R343): TBL, DXFER. -/
def Chip.srTokens (s : Chip) (e : CoreId) (n : Nat) : Chip :=
  if n = 0x0A || n = 0x0D then s.tokens e [s.cores[e].token .drsp .sysValue 0 [s.srRead e n]] else s

/-- The latch an MFS of TBL leaves (R63). -/
def Chip.srLatch (s : Chip) (e : CoreId) (n : Nat) : Chip :=
  let s := s.srTokens e n
  if n = 0x0A then
    let hi : Word := s.dev.now.extractLsb' 32 32
    s.onCore e fun c => { c with tbh := hi }
  else s

/-- A system register but DB, CB, MODE and DXFER written (R60, R62, R67). -/
def Core.srWrite (c : Core) (n : Nat) (v : Word) : Core :=
  match n with
  | 0x00 => { c with km := v.getLsbD 0, ie := v.getLsbD 1, pri := clampPri (bits v 20 16) }
  | 0x01 => { c with epc := v &&& 0xFFFFFFFC }
  | 0x02 => { c with ecause := ecauseStore v }
  | 0x03 => { c with eval := v }
  | 0x04 => { c with vbase := v &&& 0xFFFFFF80 }
  | 0x07 => { c with rc := clampRc v.toNat }
  | 0x0C => { c with splim := v &&& 0xFFFFFFC1 }
  | n =>
    if 0x20 ≤ n ∧ n ≤ 0x37 then
      { c with regions := c.regions.set (regionIx n) (c.regions[regionIx n].setPart ((n - 0x20) % 3) v) }
    else c

/-- The shadowed write an MTS to DB, CB or MODE starts (R64); MODE is read-only on the curator (R338). -/
def shadowOf (e : CoreId) (n : Nat) (v : Word) : Option Shadow :=
  match n with
  | 0x05 => some ⟨.db, v.extractLsb' 0 8, 3⟩
  | 0x06 => some ⟨.cb, v.extractLsb' 0 8, 3⟩
  | 0x08 => if isCur e then none else some ⟨.mode, v.extractLsb' 0 8 &&& 7, 3⟩
  | _ => none

/-- A system register written without a shadow: by an MTS to the others, or by a fed MTS (R481). -/
def Chip.srStore (s : Chip) (e : CoreId) (n : Nat) (v : Word) (fed : Bool) : Chip :=
  if n = 0x0D then s.onDev (·.setWord DBG_DXFER v)
  else
    match shadowOf e n v with
    | some w => if fed then s.onCore e (·.applyShadow w) else s
    | none => s.onCore e (·.srWrite n v)

end Sys2Proof.Machine
end

