-- ==== Sys2Proof/Machine/Exec.lean ====
section
/-! DEFINITION. Machine/Exec.lean: what one instruction does on a core, and the boundary around it: fetch, repeat pairs, waits, the
write shadow, exceptions, comparators, counters and interrupts (R51 to R128, R137 to R174, R487, R488). An instruction row is the
command that its core executes that instruction next; the fetch is checked at the core's pc. -/

namespace Sys2Proof.Machine

open Reg

/-- How one instruction ended: retired with the next offset; one iteration of a pair that goes on; a synchronous cause with its return
offset and EVAL; held at the port; waiting for older stores; giving way to an imprecise report; waiting for an event; done by itself
(RFE); or halted (R488). `hold` and `stall` carry the iterations a REPN in its midst has still to run; `hold` and `holdFetch`, the second
word of a repeat pair, the device address that the port holds, under WAKE_HOLD or not. -/
inductive Ran where
  | go (next : BitVec 24)
  | again
  | trap (c : Cause) (off : BitVec 24) (eval : Word)
  | hold (rep : Option Nat) (a : Nat) (wake : Bool)
  | holdFetch (a : Nat) (wake : Bool)
  | stall (rep : Option Nat)
  | imp
  | wait (w : Wait)
  | entered
  | stop
  deriving DecidableEq, Repr

/-! ### Accesses and results by instruction -/

/-- The data access of an instruction (R53 to R56, R80, R98, R99). -/
def Op.acc (op : Op) (c : Core) : Option DataAcc :=
  match op with
  | .ld f _ b i => some ⟨c.short b (i.signExtend 32), f.size, true, false, false, b == 31⟩
  | .st f _ b i => some ⟨c.short b (i.signExtend 32), f.size, false, true, false, b == 31⟩
  | .ldi f _ ra i => some ⟨c.short ra (i.signExtend 32), f.size, true, false, false, ra == 31⟩
  | .sti f _ ra i => some ⟨c.short ra (i.signExtend 32), f.size, false, true, false, ra == 31⟩
  | .ldl f _ ra i => some ⟨(c.rd ra + i.signExtend 32).toNat, f.size, true, false, false, false⟩
  | .stl f _ ra i => some ⟨(c.rd ra + i.signExtend 32).toNat, f.size, false, true, false, false⟩
  | .ll _ ra => some ⟨(c.rd ra).toNat, 4, true, false, true, false⟩
  | .sc _ ra _ => some ⟨(c.rd ra).toNat, 4, false, true, true, false⟩
  | .amo _ _ ra _ => some ⟨(c.rd ra).toNat, 4, true, true, true, false⟩
  | .call _ => some ⟨devAddr c.spBank (c.sp - 4).toNat, 4, false, true, false, true⟩
  | .callr _ => some ⟨devAddr c.spBank (c.sp - 4).toNat, 4, false, true, false, true⟩
  | .ret => some ⟨devAddr c.spBank c.sp.toNat, 4, true, false, false, false⟩
  | _ => none

/-- The return word of a call (R53). -/
def Core.retWord (c : Core) : Word := c.cb ++ (c.off + 4)

/-- The kind of an instruction's access as a token says it. -/
def Op.tokKind : Op → TokKind
  | .st .. | .sti .. | .stl .. | .call _ | .callr _ => .store
  | .ll .. => .ll
  | .sc .. => .sc
  | .amo f .. => .atomic f
  | _ => .load

/-- The word an instruction's access sends. -/
def Op.sent (op : Op) (c : Core) : List Word :=
  match op with
  | .st _ rt _ _ | .sti _ rt _ _ | .stl _ rt _ _ => [c.rd rt]
  | .sc _ _ rb | .amo _ _ _ rb => [c.rd rb]
  | .call _ | .callr _ => [c.retWord]
  | _ => []

/-- An access of the main that has been answered passes its tokens, piece by piece: the access, then the answer (R343). -/
def Chip.accessTokens (s : Chip) (e : CoreId) (x : Ctx) (k : TokKind) (a size : Nat) (data : List Word) (g : Got) : Chip :=
  let c := s.cores[e]
  let ask (p : Nat × Nat) : Token := ⟨.dreq, k, BitVec.ofNat 32 p.1, data, (2 ^ p.2 - 1) * 2 ^ (p.1 % 4), true, x.sec, x.km⟩
  match g with
  | .val v => s.tokens e ((pieces a size).flatMap fun p => [ask p, c.token .drsp .ok 0 [v]])
  | .bad _ => s.tokens e [ask (a, size), c.token .drsp .error 0 []]
  | _ => s

/-- The access performed; its value is what a load, LL, SC or atomic gives. -/
def Chip.reach (s : Chip) (e : CoreId) (x : Ctx) (op : Op) (t : DataAcc) : Chip × Got :=
  let c := s.cores[e]
  match op with
  | .st _ rt _ _ | .sti _ rt _ _ | .stl _ rt _ _ => s.store e x t.addr t.size (c.rd rt)
  | .ll _ _ => s.llOp e t.addr
  | .sc _ _ rb => s.scOp e t.addr (c.rd rb)
  | .amo f _ _ rb => s.amoOp e t.addr (fun v => f.eval v (c.rd rb))
  | .call _ | .callr _ => s.store e x t.addr t.size c.retWord
  | _ => s.load e x t.addr t.size

/-- The access performed, with the tokens it makes on the curator. -/
def Chip.access (s : Chip) (e : CoreId) (x : Ctx) (op : Op) (t : DataAcc) : Chip × Got :=
  match s.reach e x op t with
  | (u, g) => (u.accessTokens e x op.tokKind t.addr t.size (op.sent s.cores[e]) g, g)

/-- The registers an instruction writes, with the value of its access (R53, R95 to R99). -/
def Op.commit (op : Op) (v : Word) (c : Core) : Core :=
  match op with
  | .alu f rd ra rb => c.wr rd (f.eval (c.rd rd) (c.rd ra) (c.rd rb) (c.pair ra) (c.pair rb))
  | .imm f rd ra i => c.wr rd (f.eval (c.rd ra) i)
  | .shi f rd ra n => c.wr rd (f.eval (c.rd ra) n)
  | .ld f rt _ _ => c.wr rt (f.extend v)
  | .ldi f rt ra _ => (c.wr ra (c.rd ra + BitVec.ofNat 32 f.size)).wr rt (f.extend v)
  | .sti f _ ra _ => c.wr ra (c.rd ra + BitVec.ofNat 32 f.size)
  | .ldl f rt _ _ => c.wr rt (f.extend v)
  | .ll rt _ | .sc rt _ _ | .amo _ rt _ _ => c.wr rt v
  | .call _ | .callr _ => c.wr 31 (c.sp - 4)
  | .ret => { c.wr 31 (c.sp + 4) with cb := v.extractLsb' 24 8 }
  | _ => c

/-- Bits [1:0] of a target offset are ignored (R84). -/
def wordOff (v : Word) : BitVec 24 := v.extractLsb' 0 24 &&& ~~~3#24

/-- The offset of the next instruction (R55, R101, R102). -/
def Op.nextOff (op : Op) (c : Core) (v : Word) : BitVec 24 :=
  match op with
  | .br f ra rb off => if f.eval (c.rd ra) (c.rd rb) then c.off + (off.signExtend 24 <<< 2) else c.off + 4
  | .bri f ra i off => if (condI f).eval (c.rd ra) (i.signExtend 32) then c.off + (off.signExtend 24 <<< 2) else c.off + 4
  | .jmp off | .call off => c.off + (off.signExtend 24 <<< 2)
  | .jmpr ra | .callr ra => wordOff (c.rd ra)
  | .ret => wordOff v
  | _ => c.off + 4

/-! ### Retirement: counters and data comparators -/

/-- The counter events of an instruction's kind (R172). -/
def Op.events : Op → List Nat
  | .br .. | .bri .. | .jmp _ | .call _ | .jmpr _ | .callr _ | .ret => [1, 4]
  | .ld .. | .ldi .. | .ldl .. | .ll .. => [1, 8]
  | .st .. | .sti .. | .stl .. | .sc .. => [1, 9]
  | .wfe | .waitt .. => [1, 23]
  | .cx .. => [1, 24]
  | _ => [1]

/-- An instruction, or an iteration of one, retires. -/
def Chip.retired (s : Chip) (e : CoreId) (km : Bool) (op : Op) : Chip :=
  op.events.foldl (fun s ev => s.countIn e km ev 1) s

/-- A halt is asked for by a comparator (R487). -/
def Chip.askHalt (s : Chip) (e : CoreId) : Chip :=
  s.onDev fun d => d.onDbg fun b => { b with haltReq := b.haltReq ||| (1#65 <<< e.val) }

/-- A data access of a retired instruction: SPLIT, the comparators' CMP packets and halts (R172, R487). -/
def Chip.touched (s : Chip) (e : CoreId) (x : Ctx) (t : DataAcc) : Chip :=
  let s := if !isFar t.addr && !isIo t.addr && isSplit t.addr t.size then s.countIn e x.km 13 1 else s
  if x.fed then s
  else
    let p : Touch := ⟨t.rd, t.wr, t.addr, t.size⟩
    let pc := s.cores[e].pc
    let halts := s.dev.dataHits e 0 p
    let s := s.onDev fun d => d.cmpPackets e (d.dataHits e 1 p) t.addr pc
    if halts.isEmpty then s else s.askHalt e

/-- The access of an SC that stored nothing is none. -/
def Op.made (op : Op) (v : Word) : Bool :=
  match op with
  | .sc .. => v == 0
  | _ => true

/-! ### One instruction -/

/-- An instruction with a data access: its checks, its access, its registers. A cause leaves registers and memory as they were (R94). -/
def Chip.memOp (s : Chip) (e : CoreId) (x : Ctx) (op : Op) (t : DataAcc) : Chip × Ran :=
  let c := s.cores[e]
  match ownCheck e c x t with
  | some k => (s, .trap k c.off (BitVec.ofNat 32 t.addr))
  | none =>
    match s.access e x op t with
    | (s, .val v) =>
      let s := (if op.made v then s.touched e x t else s).retired e x.km op
      (s.onCore e (op.commit v), .go (op.nextOff c v))
    | (s, .bad k) => (s, .trap k c.off (BitVec.ofNat 32 t.addr))
    | (s, .held w) => (s, .hold none t.addr w)
    | (s, .stall) => (s, .stall none)
    | (s, .imp) => (s, .imp)

/-- An instruction that only computes or branches. -/
def Chip.regOp (s : Chip) (e : CoreId) (x : Ctx) (op : Op) : Chip × Ran :=
  let c := s.cores[e]
  ((s.retired e x.km op).onCore e (op.commit 0), .go (op.nextOff c 0))

/-- MFS (R60, R61, R63). -/
def Chip.mfs (s : Chip) (e : CoreId) (x : Ctx) (rd : GReg) (sr : BitVec 8) : Chip × Ran :=
  let c := s.cores[e]
  match srCause x sr.toNat with
  | some k => (s, .trap k c.off (Op.mfs rd sr).encode)
  | none =>
    let v := s.srRead e sr.toNat
    (((s.srLatch e sr.toNat).retired e x.km (.mfs rd sr)).onCore e (·.wr rd v), .go (c.off + 4))

/-- MTS (R60 to R64, R67); a shadowed write joins its shadow once this instruction is done. -/
def Chip.mts (s : Chip) (e : CoreId) (x : Ctx) (sr : BitVec 8) (ra : GReg) : Chip × Ran :=
  let c := s.cores[e]
  match srCause x sr.toNat with
  | some k => (s, .trap k c.off (Op.mts sr ra).encode)
  | none => ((s.srStore e sr.toNat (c.rd ra) x.fed).retired e x.km (.mts sr ra), .go (c.off + 4))

/-- A BKPT halts instead of raising BREAK (R488). -/
def Dev.bkptHalts (d : Dev) (e : CoreId) : Bool := d.flag DBG_CTL_BKHALT && (!isCur e || d.dbg.level == 3)

/-- An operation that older stores must precede, and that then goes on. -/
def Chip.afterStores (s : Chip) (e : CoreId) (x : Ctx) (op : Op) (f : Chip → Chip) : Chip × Ran :=
  let off := s.cores[e].off
  match s.settled e fun s => (f s, .val 0) with
  | (s, .stall) => (s, .stall none)
  | (s, .imp) => (s, .imp)
  | (s, _) => (s.retired e x.km op, .go (off + 4))

/-- A line flushed, with the tokens it makes on the curator. -/
def Chip.flushed (s : Chip) (e : CoreId) (x : Ctx) (a : Nat) : Chip × Got :=
  match s.flushLine e a with
  | (u, g) => (u.accessTokens e x .flush (a / 4 * 4) 4 [] g, g)

/-- FLUSH (R104, R120). -/
def Chip.flushOp (s : Chip) (e : CoreId) (x : Ctx) (ra : GReg) : Chip × Ran :=
  let c := s.cores[e]
  let a := (c.rd ra).toNat
  match lineCheck e c x a with
  | some k => (s, .trap k c.off (c.rd ra))
  | none =>
    match s.flushed e x a with
    | (s, .val _) => (s.retired e x.km (.flush ra), .go (c.off + 4))
    | (s, .bad k) => (s, .trap k c.off (c.rd ra))
    | (s, .held w) => (s, .hold none a w)
    | (s, .stall) => (s, .stall none)
    | (s, .imp) => (s, .imp)

/-- INVAL (R104, R120). -/
def Chip.invalOp (s : Chip) (e : CoreId) (x : Ctx) (ra : GReg) (sel : BitVec 2) : Chip × Ran :=
  let c := s.cores[e]
  let a := (c.rd ra).toNat
  match lineCheck e c x a with
  | some k => (s, .trap k c.off (c.rd ra))
  | none => (((s.invalLine e a sel).accessTokens e x .inval (a / 4 * 4) 4 [sel.zeroExtend 32] (.val 0)).retired e x.km (.inval ra sel), .go (c.off + 4))

/-- A core's event latch is set. -/
def Chip.latched (s : Chip) (e : CoreId) : Bool := s.dev.latch.getLsbD e.val

/-- WFE (R116). -/
def Chip.wfeOp (s : Chip) (e : CoreId) (x : Ctx) : Chip × Ran :=
  let s := s.sysToken e .wfe []
  if s.latched e then (((s.onDev (·.clearLatch e.val)).leaveToken e .event .wfeEnd []).retired e x.km .wfe, .go (s.cores[e].off + 4))
  else (s, .wait .wfe)

/-- What a WAITT that ends writes to rd (R118). -/
def waittWord (reached latched : Bool) : Word := (if reached then 1 else 0) ||| (if latched then 2 else 0)

/-- WAITT may end: the timebase is at or above T, or the latch is set (R118). -/
def Chip.waittEnds (s : Chip) (e : CoreId) (t : BitVec 64) : Bool := t ≤ s.dev.now || s.latched e

/-- WAITT ends: rd is written, a set latch cleared. -/
def Chip.waittEnd (s : Chip) (e : CoreId) (rd : GReg) (t : BitVec 64) : Chip :=
  let w := waittWord (Decidable.decide (t ≤ s.dev.now)) (s.latched e)
  ((s.onDev (·.clearLatch e.val)).leaveToken e (if t ≤ s.dev.now then .timeout else .event) .waittEnd [w]).onCore e (·.wr rd w)

/-- WAITT (R118). -/
def Chip.waittOp (s : Chip) (e : CoreId) (x : Ctx) (rd ra : GReg) : Chip × Ran :=
  let t := s.cores[e].pair ra
  let s := s.sysToken e .waitt [t.extractLsb' 0 32, t.extractLsb' 32 32]
  if s.waittEnds e t then ((s.waittEnd e rd t).retired e x.km (.waitt rd ra), .go (s.cores[e].off + 4))
  else (s, .wait (.waitt rd t))

/-- SEV (R117, R161). -/
def Chip.sevOp (s : Chip) (e : CoreId) (x : Ctx) (op : Op) (scope target : Nat) : Chip × Ran :=
  s.afterStores e x op fun s => (s.sysToken e .sev [BitVec.ofNat 32 scope, BitVec.ofNat 32 target]).onDev (·.sendEvent e.val scope target)

/-! ### Custom instructions -/

/-- A micro-operation names an operand code as a source, or RD1 as its destination. -/
def uopUses (k : Nat) (w : Word) : Bool := bits w 20 16 == k || bits w 15 11 == k || (k == 9 && bits w 25 21 == 9)

/-- A loaded slot names a register pair by g31 (R87, R121). -/
def cxIllegal (ws : List Word) (rd ra rb : GReg) : Bool :=
  (ra == 31 && ws.any (uopUses 11)) || (rb == 31 && ws.any (uopUses 13)) || (rd == 31 && ws.any (uopUses 9))

/-- A micro-operation of a slot writes an operand code. -/
def cxWrites (ws : List Word) (k : Nat) : Bool := ws.any fun w => bits w 25 21 == k

/-- What a custom instruction leaves in the registers (R121 to R123). -/
def Core.cxRun (c : Core) (ws : List Word) (rd ra rb : GReg) (i : BitVec 11) : Core :=
  let x : CxEnv :=
    { t := List.replicate 8 0 ++ [c.rd rd, c.rd (nextReg rd)]
      ra := c.rd ra, ra1 := c.rd (nextReg ra), rb := c.rd rb, rb1 := c.rd (nextReg rb), imm := i.signExtend 32 }
  let y := x.run ws
  let c := if cxWrites ws 8 then c.wr rd (y.t.getD 8 0) else c
  if cxWrites ws 9 then c.wr (nextReg rd) (y.t.getD 9 0) else c

/-- A custom instruction (R121, R338). -/
def Chip.cxOp (s : Chip) (e : CoreId) (x : Ctx) (slot : Fin 8) (rd ra rb : GReg) (i : BitVec 11) : Chip × Ran :=
  let c := s.cores[e]
  let op := Op.cx slot rd ra rb i
  if isCur e || !s.dev.slotLoaded (cabOf e) slot.val then (s, .trap .customEmpty c.off op.encode)
  else
    let ws := s.dev.slotOps (cabOf e) slot.val
    if cxIllegal ws rd ra rb then (s, .trap .illegal c.off op.encode)
    else ((s.retired e x.km op).onCore e (·.cxRun ws rd ra rb i), .go (c.off + 4))

/-- A system instruction or a custom one (R104, R121). -/
def Chip.sysOp (s : Chip) (e : CoreId) (x : Ctx) (op : Op) : Chip × Ran :=
  let c := s.cores[e]
  match op with
  | .mfs rd sr => s.mfs e x rd sr
  | .mts sr ra => s.mts e x sr ra
  -- a TRAP is not counted RETIRED (DESIGN CHOICE, notes/assumptions/89.md: R172 does not say)
  | .trap i => (s, .trap .trap (c.off + 4) (i.zeroExtend 32))
  | .bkpt i => if s.dev.bkptHalts e then (s, .stop) else (s, .trap .brk c.off (i.zeroExtend 32))
  | .rfe => if x.km then (s.rfe e x.sec, .entered) else (s, .trap (.access 4) c.off Op.rfe.encode)
  | .fenceA => ((s.retired e x.km op).onCore e Core.fenceA, .go (c.off + 4))
  | .fenceR => s.afterStores e x op id
  | .inval ra sel => s.invalOp e x ra sel
  | .flush ra => s.flushOp e x ra
  | .wfe => s.wfeOp e x
  | .sev scope t => s.sevOp e x op scope.toNat t.toNat
  | .sevr scope ra => s.sevOp e x op scope.toNat ((c.rd ra).toNat % 64)
  | .waitt rd ra => s.waittOp e x rd ra
  | .cx slot rd ra rb i => s.cxOp e x slot rd ra rb i
  | _ => s.regOp e x op

/-- One instruction that is not a repeat pair. -/
def Chip.oneOp (s : Chip) (e : CoreId) (x : Ctx) (op : Op) : Chip × Ran :=
  match op.acc s.cores[e] with
  | some t => s.memOp e x op t
  | none => s.sysOp e x op

/-! ### Repeat pairs -/

/-- RX and RC of a repeat that is left with n iterations to run (R111, R112). -/
def Core.repKeep (c : Core) (n : Nat) : Core := { c with rx := true, rc := BitVec.ofNat 17 n }

/-- A repeat that has ended (R111, R113). -/
def Core.repDone (c : Core) : Core := if c.rx then { c with rx := false, rc := 0 } else c

/-- REPN with n iterations to run (R110, R112). One that must wait in its midst goes on with the iterations it has left. An imprecise report
that falls due inside a REPN is taken between two iterations, with RX and RC kept as R112 has it for a synchronous exception (DESIGN CHOICE,
notes/assumptions/89.md). -/
def Chip.repnLoop (s : Chip) (e : CoreId) (x : Ctx) (b : Op) : Nat → Chip × Ran
  | 0 => (s.onCore e Core.repDone, .go (s.cores[e].off + 8))
  | n + 1 =>
    match s.oneOp e x b with
    | (s, .go _) => s.repnLoop e x b n
    | (s, .trap k off v) => (s.onCore e (·.repKeep (n + 1)), .trap k off v)
    | (s, .hold _ a w) => (s, .hold (some (n + 1)) a w)
    | (s, .stall _) => (s, .stall (some (n + 1)))
    | (s, .imp) => (s.onCore e (·.repKeep (n + 1)), .imp)
    | r => r

/-- REPI with n iterations to run: one iteration (R110 to R113). -/
def Chip.repiStep (s : Chip) (e : CoreId) (x : Ctx) (b : Op) : Nat → Chip × Ran
  | 0 => (s.onCore e Core.repDone, .go (s.cores[e].off + 8))
  | n + 1 =>
    match s.oneOp e x b with
    | (s, .go _) =>
      if n = 0 then (s.onCore e fun c => { c with rx := false, rc := 0 }, .go (s.cores[e].off + 8))
      else (s.onCore e (·.repKeep n), .again)
    | (s, .trap k off v) => (s.onCore e (·.repKeep (n + 1)), .trap k off v)
    | (s, .hold _ a w) => (s.onCore e (·.repKeep (n + 1)), .hold none a w)
    | (s, .stall _) => (s.onCore e (·.repKeep (n + 1)), .stall none)
    | (s, .imp) => (s.onCore e (·.repKeep (n + 1)), .imp)
    | r => r

/-- The encoded count of a prefix (R104, R110). -/
def Op.repCount (op : Op) (c : Core) : Nat :=
  match op with
  | .repn n => n.toNat + 1
  | .repi n => n.toNat + 1
  | .repr ra => min (c.rd ra).toNat 65536
  | _ => 1

/-- The count a prefix runs: RC while RX is 1 (R113). -/
def Op.repRuns (op : Op) (c : Core) : Nat := if c.rx then c.rc.toNat else op.repCount c

/-- A REPN. -/
def Op.isRepn : Op → Bool
  | .repn _ => true
  | _ => false

/-- A repeat prefix. -/
def Op.isPrefix : Op → Bool
  | .repn _ | .repi _ | .repr _ => true
  | _ => false

/-- The address of the instruction after a core's. -/
def Core.pc4 (c : Core) : Nat := devAddr c.cb (c.off + 4).toNat

/-- A repeat pair (R109 to R114); body is the word that follows the prefix. -/
def Chip.repPair (s : Chip) (e : CoreId) (x : Ctx) (op : Op) (body : Word) : Chip × Ran :=
  let c := s.cores[e]
  match s.fetch e c.pc4 with
  | (s, .err k) => (s, .trap k c.off (BitVec.ofNat 32 c.pc4))
  | (s, .held) => (s, .holdFetch c.pc4 (s.dev.fetchWakes c.pc4))
  | (s, .ok _) =>
    match Op.decode body with
    | none => (s, .trap .illegal c.off body)
    | some b =>
      if !b.repeatable then (s, .trap .illegal c.off body)
      else if op.isRepn then s.repnLoop e x b (op.repRuns c)
      else s.repiStep e x b (op.repRuns c)

/-- An instruction executed; an encoding that is not assigned traps (R85). -/
def Chip.effect (s : Chip) (e : CoreId) (x : Ctx) (op : Op) (body : Word) : Chip × Ran :=
  if !op.wf then (s, .trap .illegal s.cores[e].off op.encode)
  else if op.isPrefix then s.repPair e x op body
  else s.oneOp e x op

/-! ### Around an instruction -/

/-- The write an MTS leaves in its shadow (R64). -/
def Op.newShadow (op : Op) (e : CoreId) (c : Core) : List Shadow :=
  match op with
  | .mts sr ra => (shadowOf e sr.toNat (c.rd ra)).toList
  | _ => []

/-- An MFS of TBL (R63). -/
def Op.isTbl : Op → Bool
  | .mfs _ sr => sr == 0x0A
  | _ => false

/-- An instruction has run: older shadowed writes come nearer, its own begins; deterministic mode starts with every older store
performed (R64, R166). Where a RET, an RFE or a tail chain is the third instruction of a CB shadow, its own CB and the MTS's both take effect at
the next instruction: the MTS's value overrides (DESIGN CHOICE, notes/assumptions/89.md: R53 and R64 do not say). -/
def Chip.counted (s : Chip) (e : CoreId) (ws : List Shadow) : Chip :=
  let det := s.cores[e].det
  let s := s.onCore e fun c =>
    let c := c.shadowStep
    { c with shadows := c.shadows ++ ws }
  if s.cores[e].det && !det then s.drainAll e else s

/-- The addresses an instruction is fetched from: a repeat pair's two words. -/
def Op.fetches (op : Op) (c : Core) : List Nat := if op.isPrefix then [c.pc, c.pc4] else [c.pc]

/-- CMP packets of a retired instruction's fetches (R487). -/
def Chip.traceFetch (s : Chip) (e : CoreId) (pc : Nat) (as : List Nat) : Chip :=
  as.foldl (fun s a => s.onDev fun d => d.cmpPackets e (d.fetchHits e 1 a) a pc) s

/-- A counter of an engine counts events of a code. -/
def Dev.counts (d : Dev) (e : CoreId) (ev : Nat) : Bool :=
  (List.range 4).any fun c =>
    d.bit (CAB_PMCTL_EN (cabOf e) (slotOf e)) c && bits (d.word (CAB_PMSEL (cabOf e) (slotOf e))) (8 * c + 7) (8 * c) == ev

/-- The events of R172 that an engine's timing alone brings: turns and stalls; and, out of deterministic mode, those of two instructions in
one turn, of predictions, and of instructions that are discarded, which the codes marked "any" count too (R165). -/
def timedCodes (det : Bool) : List Nat :=
  [2, 14, 15, 16, 17, 18, 19, 20] ++ (if det then [] else [3, 5, 6, 7, 10, 11, 25, 26, 27, 28])

/-- How many of these events one instruction brings is free. -/
def Chip.timed (s : Chip) (e : CoreId) (km : Bool) : Chip :=
  if isCur e then s
  else
    (timedCodes s.cores[e].det).foldl (fun s ev =>
      if s.dev.counts e ev then
        let k := s.dev.fresh
        (s.onDev Dev.tick1).countIn e km ev (Config.timedEvents k)
      else s) s

/-- The engine's registrar learns of a frame fault (R76, R261). -/
def Chip.faultSeen (s : Chip) (e : CoreId) (was : Bool) : Chip :=
  if s.cores[e].df && !was && !isCur e then s.engineFault e.val else s

/-- What follows an instruction's effect; c is the core before it. -/
def Chip.conclude (s : Chip) (e : CoreId) (x : Ctx) (op : Op) (body : Word) (c : Core) : Ran → Chip
  | .go next =>
    let s := s.onCore e fun d => { d with off := next, wait := .none, resumed := false, tblPair := op.isTbl }
    ((s.counted e (op.newShadow e c)).traceFetch e c.pc (op.fetches c)).haltEffect e
  | .again => ((s.onCore e fun d => { d with wait := .none, resumed := false, tblPair := false }).traceFetch e c.pc (op.fetches c)).haltEffect e
  | .trap k off eval => ((s.onCore e fun d => { d with resumed := false }).raise e k off eval x.sec).faultSeen e c.df
  | .hold rep a wake => s.holdCore e (.held op body rep) a wake
  | .holdFetch a wake => s.holdCore e (.fetch op body) a wake
  | .stall rep => s.onCore e fun d => { d with wait := .overlap op body rep }
  | .imp => (s.raiseImprecise e).faultSeen e c.df
  | .wait w => s.onCore e fun d => { d with wait := w, resumed := false, tblPair := false }
  | .entered =>
    let s := s.onCore e fun d => { d with resumed := false, tblPair := false }
    if s.cores[e].df then s.faultSeen e c.df
    else (((s.retired e x.km op).counted e []).traceFetch e c.pc (op.fetches c)).haltEffect e
  | .stop => s.halt e

/-- A core is at work: released, not halted or stopped, with its pace (R33, R355, R406, R418, R498). -/
def Chip.ready (s : Chip) (e : CoreId) : Bool :=
  let c := s.cores[e]
  c.run && !c.halted && !c.df && !s.dev.pwr.hold
    && (if isCur e then s.dev.curRuns && !s.dev.cur.boot else s.dev.wingRuns (Fin.ofNat 2 (wingOf e)))

/-- A core can take its next instruction. -/
def Chip.canRun (s : Chip) (e : CoreId) : Bool := s.ready e && s.cores[e].wait == .none

/-- A core goes on: Idle ends (R407). -/
def Chip.begin (s : Chip) (e : CoreId) : Chip :=
  if s.dev.get PWR_STAT_STATE = 1 then s.onDev (·.put PWR_STAT_STATE 0) else s

/-- A fetch comparator halts a core before the instruction (R487), unless it has just been resumed there. -/
def Chip.fetchStop (s : Chip) (e : CoreId) (op : Op) : Chip :=
  let c := s.cores[e]
  if c.resumed || ((op.fetches c).all fun a => (s.dev.fetchHits e 0 a).isEmpty) then s
  else (s.askHalt e).haltEffect e

/-- The offer a core accepts now (R73, R362). -/
def Chip.offer (s : Chip) (e : CoreId) : Option (Nat × Nat) :=
  match s.dev.wouldOffer e with
  | some (p, n) => if s.cores[e].ie && p < s.cores[e].pri.toNat then some (p, n) else none
  | none => none

/-- An instruction ended in a synchronous cause. -/
def Ran.traps : Ran → Bool
  | .trap .. => true
  | _ => false

/-- The offer that is accepted at the boundary before an instruction rather than the cause it would raise (R71): where the boundary lets the
core accept one, and it is not the resumption of a REPN (R112). -/
def Chip.before (s : Chip) (e : CoreId) (op : Op) : Option (Nat × Nat) :=
  if s.boundary e && !(op.isRepn && s.cores[e].rx) then s.offer e else none

/-- An instruction has been executed as far as it goes, s being the core at the boundary before it: a cause gives way to an interrupt that can
be accepted there (R71), and the instruction runs again after the return. -/
def Chip.decided (s : Chip) (e : CoreId) (op : Op) (body : Word) (offers : Bool) : Chip × Ran → Chip
  | (t, r) =>
    match if r.traps && offers then s.before e op else none with
    | some (p, n) => (s.enterInterrupt e p n).faultSeen e false
    | none => t.conclude e (ownCtx e s.cores[e]) op body s.cores[e] r

/-- The instruction at a core's pc fetched and executed. -/
def Chip.attempt (s : Chip) (e : CoreId) (op : Op) (body : Word) : Chip × Ran :=
  let c := s.cores[e]
  match s.fetch e c.pc with
  | (s, .err k) => (s, .trap k c.off (BitVec.ofNat 32 c.pc))
  | (s, .held) => (s, .holdFetch c.pc (s.dev.fetchWakes c.pc))
  | (s, .ok _) => (s.timed e c.km).effect e (ownCtx e c) op body

/-- A core's next instruction from its boundary on: an imprecise report that is due comes first (R72), then in deterministic mode the
stores still to be performed (R166), then the fetch comparators. In a step without CTL.STEPIE no interrupt comes before it (R483). -/
def Chip.fromBoundary (s : Chip) (e : CoreId) (op : Op) (body : Word) (offers : Bool := true) : Chip :=
  let s := s.begin e
  if s.impDue e then (s.raiseImprecise e).faultSeen e false
  else
    let s := if s.cores[e].det then s.drainAll e else s
    if s.cores[e].det && !s.cores[e].sb.isEmpty then s.onCore e fun c => { c with wait := .overlap op body none }
    else
      let s := s.fetchStop e op
      if s.cores[e].halted then s else s.decided e op body offers (s.attempt e op body)

/-- An instruction row: core e executes op; body is the word after a repeat prefix. A core that is not at work, or that waits, executes
nothing. -/
def Chip.runOp (s : Chip) (e : CoreId) (op : Op) (body : Word) : Chip := if s.canRun e then s.fromBoundary e op body else s

/-! ### Waits -/

/-- A WFE or WAITT ends (R116, R118). -/
def Chip.endWait (s : Chip) (e : CoreId) (op : Op) (f : Chip → Chip) : Chip :=
  let c := s.cores[e]
  let s := (f (s.begin e)).retired e c.km op
  s.conclude e (ownCtx e c) op 0 c (.go (c.off + 4))

/-- An event ends a wait (R116, R118). -/
def Chip.eventWake (s : Chip) (e : CoreId) : Chip :=
  if s.ready e && s.latched e then
    match s.cores[e].wait with
    | .wfe => s.endWait e .wfe fun s => (s.onDev (·.clearLatch e.val)).leaveToken e .event .wfeEnd []
    | .waitt rd t => s.endWait e (.waitt rd 0) fun s => s.waittEnd e rd t
    | _ => s
  else s

/-- The timebase ends a WAITT (R118). -/
def Chip.timeWake (s : Chip) (e : CoreId) : Chip :=
  match s.cores[e].wait with
  | .waitt rd t => if s.ready e && Decidable.decide (t ≤ s.dev.now) then s.endWait e (.waitt rd 0) fun s => s.waittEnd e rd t else s
  | _ => s

/-- Both wait for older stores, or both at the port for the same kind of access. -/
def Wait.alike : Wait → Wait → Bool
  | .overlap .., .overlap .. => true
  | .held .., .held .. => true
  | .fetch .., .fetch .. => true
  | .slot _, .slot _ => true
  | _, _ => false

/-- A core waits for older stores, or at the port. -/
def Wait.busy : Wait → Bool
  | .overlap .. | .held .. | .fetch .. | .slot _ => true
  | _ => false

/-- A REPN goes on in its midst with n iterations to run (R110). -/
def Chip.repnAgain (s : Chip) (e : CoreId) (op : Op) (body : Word) (n : Nat) : Chip :=
  let c := s.cores[e]
  match Op.decode body with
  | some b =>
    let (t, r) := s.repnLoop e (ownCtx e c) b n
    t.conclude e (ownCtx e c) op body c r
  | none => s

/-- The instruction a core waits with is executed again, from where it must be. -/
def Chip.again (s : Chip) (e : CoreId) (op : Op) (body : Word) : Option Nat → Chip
  | none => s.fromBoundary e op body
  | some n => (s.begin e).repnAgain e op body n

/-- The core's entry in the port's list. -/
def Dev.heldOf (d : Dev) (e : CoreId) : Option Held := d.hpt.held.find? (·.who == .core e)

/-- A waiting access is made again by f; one that must still wait for the same thing has changed nothing, but that the port may have admitted
it by now (R294). -/
def Chip.retry (s : Chip) (e : CoreId) (f : Chip → Chip) : Chip :=
  let t := f ((s.onDev (·.forget e)).onCore e fun c => { c with wait := .none })
  if t.cores[e].wait.alike s.cores[e].wait && (t.dev.heldOf e).map (·.addr) == (s.dev.heldOf e).map (·.addr) then
    if (t.dev.heldOf e).any (·.wake) then s.onDev fun d => d.onHeld (·.who == .core e) d.admitted else s
  else t

/-- A waiting access is made again where the core is at work. -/
def Chip.redo (s : Chip) (e : CoreId) : Chip :=
  if s.ready e then
    match s.cores[e].wait with
    | .overlap op body rep | .held op body rep _ => s.retry e fun s => s.again e op body rep
    | .fetch op body _ => s.retry e fun s => s.fromBoundary e op body
    | .slot _ => s.retry e fun s => ((s.slotFetch e).faultSeen e false).haltEffect e
    | _ => s
  else s

/-- A load that waited for overlapping stores executes again (R142). -/
def Chip.overlapRetry (s : Chip) (e : CoreId) : Chip :=
  match s.cores[e].wait with
  | .overlap .. => s.redo e
  | _ => s

/-! ### Stores on their way, interrupts -/

/-- The oldest buffered store reaches its target (R141). -/
def Chip.storeDrain (s : Chip) (e : CoreId) : Chip :=
  if isCur e || (!s.dev.pwr.hold && s.dev.wingRuns (Fin.ofNat 2 (wingOf e))) then s.drain1 e else s

/-- An imprecise report is taken where the boundary allows it (R72, R163). -/
def Chip.takeImprecise (s : Chip) (e : CoreId) : Chip :=
  if s.ready e && s.impDue e && s.waitOpen e then ((((s.begin e).unwait e).onDev (·.discard e)).raiseImprecise e).faultSeen e false else s

/-- An error reply to a retired store reaches its engine (R72). -/
def Chip.storeError (s : Chip) (e : CoreId) : Chip :=
  match s.cores[e].sbErr with
  | [] => s.takeImprecise e
  | a :: rest => (s.onCore e fun c => { c with sbErr := rest, impErr := c.impErr ++ [a] }).takeImprecise e

/-- The standing offer is accepted at the boundary (R71 to R73, R163, R362); an imprecise report that is due is taken instead. -/
def Chip.interrupt (s : Chip) (e : CoreId) : Chip :=
  if !s.ready e || !s.boundary e then s
  else if s.impDue e then s.takeImprecise e
  else match s.offer e with
    | some (p, n) => ((((s.begin e).unwait e).onDev (·.discard e)).enterInterrupt e p n).faultSeen e false
    | none => s

/-- Loads executed too early are replayed (R144): only the counter shows it. In deterministic mode every access is performed before the next
instruction starts, so none is (R165). -/
def Chip.replay (s : Chip) (e : CoreId) : Chip := if s.ready e && !s.cores[e].det then s.count e 12 1 else s

end Sys2Proof.Machine
end

