-- ==== Sys2Proof/Machine/Probe.lean ====
section
/-! DEFINITION. Machine/Probe.lean: what the debugger executes and reaches: fed instructions (R481, R482), steps (R483) and the system
accesses of the debug port (R468, R469, R472, R477, R478). -/

namespace Sys2Proof.Machine

open Reg

/-! ### Fed instructions -/

/-- An instruction that a feed does not execute (R481). -/
def Op.notFed : Op → Bool
  | .br .. | .bri .. | .jmp _ | .call _ | .jmpr _ | .callr _ | .ret | .rfe | .wfe | .waitt .. | .trap _ | .bkpt _
  | .repn _ | .repi _ | .repr _ => true
  | _ => false

/-- A fed instruction runs in kernel mode, never in secure state (R340, R481). -/
def fedCtx : Ctx := ⟨true, false, true⟩

/-- A fed instruction's effect with older stores performed; error replies to them stay with the core. -/
def Chip.fedEffect (s : Chip) (e : CoreId) (op : Op) : Chip × Ran :=
  let s := s.drainAll e
  let errs := s.cores[e].impErr
  let (s, r) := (s.onCore e fun c => { c with impErr := [] }).effect e fedCtx op 0
  let s := s.drainAll e
  (s.onCore e fun c => { c with impErr := errs ++ c.impErr }, r)

/-- The feed waits, and FEEDST reads BUSY. -/
def Chip.feedWait (s : Chip) (w : Word) : Chip :=
  s.onDev fun d => (d.onDbg fun b => { b with feeding := some w }).feedResult 1 0 0 0

/-- A fed instruction on the feed target (R481). The main takes it as a token, and replies with one (R355). -/
def Chip.feed (s : Chip) (w : Word) : Chip :=
  let e := s.dev.feedTarget
  let s := s.onDev (·.onDbg fun b => { b with feeding := none })
  let told := s.tokens e [s.cores[e].token .dbgi .feed 0 [w]]
  let reply (t : Chip) : Chip := t.tokens e [t.cores[e].token .dbg .fedDone 0 []]
  if !s.cores[e].halted then s.onDev (·.feedResult 3 1 0 0)
  else match Op.decode w with
    | none => (reply told).onDev (·.feedResult 3 4 Cause.illegal.code 0)
    | some op =>
      if op.notFed then s.onDev (·.feedResult 3 3 0 0)
      else match told.fedEffect e op with
        | (_, .trap k _ _) => (reply told).onDev (·.feedResult 3 4 k.code k.detail)
        | (_, .hold _ a wake) => (s.onDev (·.hold (.core e) a wake)).feedWait w
        | (_, .stall _) => s.feedWait w
        | (t, _) => (reply t).onDev (·.feedResult 2 0 0 0)

/-- A fed instruction that waits is tried again. -/
def Chip.feedAgain (s : Chip) : Chip :=
  match s.dev.dbg.feeding with
  | some w => (s.onDev (·.forget s.dev.feedTarget)).feed w
  | none => s

/-! ### Steps -/

/-- The core halts again after a step (R480, R483). -/
def Chip.stepHalt (s : Chip) (e : CoreId) : Chip :=
  let s := s.tokens e [s.cores[e].token .dbg .halted 0 []]
  let s := s.onCore e fun c => { c with halted := true, resv := none, wait := .none, tblPair := false }
  s.onDev fun d => d.trace (d.packet pktRun 2 (uidOf e) (BitVec.ofNat 32 s.cores[e].pc) 0)

/-- The word of the instruction a core is at, and the word after it. -/
def Chip.nextWords (s : Chip) (e : CoreId) : Option (Word × Word) :=
  match (s.fetch e s.cores[e].pc).2 with
  | .ok w => some (w, match (s.fetch e s.cores[e].pc4).2 with | .ok b => b | _ => 0)
  | _ => none

/-- The instruction at a core's pc executed; a fetch that fails raises its cause, and a word that spells none traps ILLEGAL. -/
def Chip.runNext (s : Chip) (e : CoreId) : Chip :=
  let c := s.cores[e]
  match s.nextWords e with
  | none => s.fromBoundary e .fenceA 0 false
  | some (w, b) =>
    match Op.decode w with
    | some op => s.fromBoundary e op b false
    | none => s.conclude e (ownCtx e c) .fenceA 0 c (.trap .illegal c.off w)

/-- A STEP of a halted core (R483): one instruction, or one iteration of a REPI, from its halt point, an accepted interrupt's entry
before it only with CTL.STEPIE; an instruction that must wait halts the core once it is done. -/
def Chip.stepCore (s : Chip) (e : CoreId) : Chip :=
  if !s.cores[e].halted then s
  else
    let t := (s.tokens e [s.cores[e].token .dbgi .resume 0 []]).onCore e fun c => { c with halted := false, resumed := true }
    if !t.ready e then s
    else
      let t := t.onDev (·.released e)
      let t := if t.dev.flag DBG_CTL_STEPIE then t.interrupt e else t
      let t := if t.canRun e then t.runNext e else t
      if t.cores[e].wait.busy then t.askHalt e
      else if t.cores[e].halted then t
      else t.stepHalt e

/-! ### System accesses -/

/-- The access level a system access needs (R472, R477). -/
def sysLevel (write : Bool) (a : Nat) : Nat :=
  if !write then 1
  else if a / 0x10000 = 0x40E ∧ (let o := a % 0x10000; o = 0x40 ∨ o = 0x48 ∨ o = 0x60 ∨ o = 0x64 ∨ o = 0x70 ∨ o = 0x74) then 1
  else 2

/-- A target the debugger reaches (R477). -/
def sysTarget (a : Nat) : Bool :=
  let b := a / 0x1000000
  (b == 1 || b == 2 || b == 4 || b == 8 || b == 9) && a % 0x1000000 + 4 ≤ bankEnd 0 b

/-- How a target's reply ends a system access (R477): 4 REFUSED, 5 OFFLINE, 6 ECC. -/
def Reply.sysEnd : Reply → SysEnd
  | .ok v => .ok v
  | .err .offline => .fault 5
  | .err .eccUncorr => .fault 6
  | _ => .fault 4

/-- The depot refuses an operation of the debugger: NOTOWNER or DISABLED (R221, R223). -/
def Chip.depotRefuses (s : Chip) (op : WinOp) (q : Nat) (v : Word) : Bool :=
  let t := (((s.onDev (·.setSlot 0x19 DSlot.empty)).window 0x19 op q v).1.dev.slot 0x19).code
  t == 5 || t == 6

/-- A system access performed (R477, R478). -/
def Chip.sysPerform (s : Chip) (write : Bool) (a : Nat) (v : Word) : Chip × SysEnd :=
  match a / 0x1000000 with
  | 4 =>
    let (s, r) := if write then s.regWrite Master.debugger (a % 0x1000000) v else s.regRead Master.debugger (a % 0x1000000)
    (s, r.sysEnd)
  | 8 | 9 =>
    match winOp a write with
    | none => (s, .fault 4)
    | some (op, q) =>
      let no := s.depotRefuses op q v
      let (s, r) := s.window 0x19 op q v
      (s, if no then .fault 4 else r.sysEnd)
  | _ =>
    let s := s.asks 0x19 a
    let (s, r) := if write then s.memWrite ⟨0x19, false⟩ a 4 v else s.memRead a 4
    (s, r.sysEnd)

/-- The answer of a system access that has ended. -/
def Dev.sysAnswer (d : Dev) (write : Bool) (r : SysEnd) : Dev :=
  match r with
  | .ok v => d.answerOk (if write then none else some v)
  | .fault n => d.answerFault n

/-- WAIT (R467). -/
def Dev.answerWait (d : Dev) : Dev := d.emit (.hdw ackWait none)

/-- A system access waits for the clock of the island it reaches (R383); one to a block that is off is refused at once (R428). -/
def Dev.accessWaits (d : Dev) (a : Nat) : Bool :=
  a / 0x1000000 = 4 && d.islandShut (a % 0x1000000) && !d.regOff (a % 0x1000000)

/-- A new system access (R468, R471, R477): refused at once, answered if it ends before the ACK begins, else left running. -/
def Chip.sysStart (s : Chip) (write : Bool) (addr data : Word) (inTime : Bool) : Chip :=
  let a := addr.toNat
  if s.dev.pwr.hold then s.onDev (·.answerFault 7)
  else if !sysTarget a then s.onDev (·.answerFault 2)
  else if a % 4 ≠ 0 then s.onDev (·.answerFault 3)
  else if inTime && !s.dev.accessWaits a then
    let (s, r) := s.sysPerform write a data
    s.onDev (·.sysAnswer write r)
  else s.onDev fun d => (d.onDbg fun b => { b with access := some ⟨write, addr, data, none, false, false⟩ }).answerWait

/-- A request collects the access it repeats (R468). -/
def SysAccess.same (x : SysAccess) (write : Bool) (addr data : Word) : Bool :=
  x.write == write && x.addr == addr && (!write || x.data == data)

/-- An SRD or SWR frame with the CRC it carries (R465, R468, R472). -/
def Chip.sysFrame (s : Chip) (write : Bool) (addr data : Word) (inTime : Bool) (crc : BitVec 8) : Chip :=
  s.frame (crc == sysCrc write addr data) fun s =>
    if s.dev.dbg.level < sysLevel write addr.toNat then s.onDev (·.emit (.hdw ackLocked none))
    else match s.dev.dbg.access with
      | none => s.sysStart write addr data inTime
      | some x =>
        match x.done with
        | none => s.onDev Dev.answerWait
        | some r =>
          let s := s.onDev (·.onDbg fun b => { b with access := none })
          if x.same write addr data then s.onDev fun d => if x.aborted then d.answerFault 8 else d.sysAnswer write r
          else s.sysStart write addr data inTime

/-- The system access in progress completes (R468); after a line reset nothing collects it (R469). -/
def Chip.sysComplete (s : Chip) : Chip :=
  match s.dev.dbg.access with
  | some x =>
    if x.done.isSome || s.dev.accessWaits x.addr.toNat then s
    else
      let (s, r) := s.sysPerform x.write x.addr.toNat x.data
      s.onDev (·.onDbg fun b => { b with access := if x.dropped then none else some { x with done := some r } })
  | none => s

end Sys2Proof.Machine
end

