-- ==== Sys2Proof/Machine/Settle.lean ====
section
/-! DEFINITION. Machine/Settle.lean: what a command's own access sets going in the same step: the accesses the host port may now perform
(R283, R291, R294), resets and safe states asked for, records to be written, and the registrar's and the power controller's next
moves (R259, R414 to R420). Between commands nothing of this kind is left over. -/

namespace Sys2Proof.Machine

open Reg

/-! ### Accesses the port holds -/

/-- A held store has been answered: its place in the buffer is marked, and acknowledgements are taken in (R142, R289). -/
def Chip.postAnswered (s : Chip) (e : CoreId) (id : Nat) (w : SbWay) : Chip :=
  (s.onDev (·.dropHeld (·.id == id))).onCore e fun c =>
    Core.sbAcked { c with sb := c.sb.map fun st => if st.way = .held id then { st with way := w } else st }

/-- A posted store that waited at the port meets its window's gate again (R292 to R294). -/
def Chip.postAgain (s : Chip) (id : Nat) (e : CoreId) (st : SbEntry) : Chip :=
  match s.dev.farGate st.addr.toNat with
  | .wait | .wakeHold => s
  | .error => s.postAnswered e id .failed
  | .absent => (s.dropPost e st).postAnswered e id .done
  | .pass =>
    let (s, r) := s.farPerform e st
    s.postAnswered e id r.way

/-- A discarded load is sent all the same, and its reply sunk (R164, R294): only the far cache and the host see it. -/
def Chip.sink (s : Chip) (h : Held) : Chip :=
  match s.dev.farGate h.addr with
  | .wait | .wakeHold => s
  | .pass => s.onDev fun d => (d.farLoad h.addr 1).1.dropHeld (·.id == h.id)
  | _ => s.onDev (·.dropHeld (·.id == h.id))

/-- An access of the port's list is sent again if nothing holds it any longer; one that the port has admitted meets no wait at level 4. -/
def Chip.heldAgain (s : Chip) (h : Held) : Chip :=
  if !s.dev.hpt.held.any (·.id == h.id) then s
  else
    let s := s.onDev (·.onHpt fun p => { p with sending := if h.wake then some h.addr else none })
    let s := match h.who with
      | .core e => if s.cores[e].halted then s.feedAgain else s.redo e
      | .post e st => s.postAgain h.id e st
      | .sunk _ => s.sink h
    s.onDev (·.onHpt fun p => { p with sending := none })

/-- Stores that waited in the store buffers at level 4 go on, and what waited for them (R283, R291). -/
def Chip.buffersOn (s : Chip) : Chip :=
  engines.foldl (fun s n =>
    match s.cores[eng n].wait with
    | .overlap .. => (s.drainN (eng n) s.cores[eng n].sb.length).redo (eng n)
    | _ => s) s

/-- The held accesses are sent in the order they arrived (R294). -/
def Chip.farRise (s : Chip) : Chip := ((s.dev.hpt.held.foldl Chip.heldAgain s).buffersOn).feedAgain

/-- A held access of a core fails with FAR_ABSENT (R294): the instruction's cause, or a frame fault where it was the fetch of a vector slot
(R76). A REPN in its midst keeps its count (R112). -/
def Chip.coreTimeout (s : Chip) (e : CoreId) (a : Nat) : Chip :=
  let c := s.cores[e]
  let s := s.onDev (·.forget e)
  let absent (s : Chip) (op : Op) (body : Word) : Chip :=
    s.decided e op body (c.wait.leavable) (s, .trap .farAbsent c.off (BitVec.ofNat 32 a))
  if c.halted then
    s.onDev fun d => (d.onDbg fun b => { b with feeding := none }).feedResult 3 4 Cause.farAbsent.code 0
  else
    match c.wait with
    | .held op body rep _ =>
      let s := s.onCore e fun c => { c with wait := .none }
      absent (match rep with | some n => s.onCore e (·.repKeep n) | none => s) op body
    | .fetch op body _ => absent (s.onCore e fun c => { c with wait := .none }) op body
    | .slot _ => ((s.onCore e fun c => { c with wait := .none }).frameFault e).faultSeen e false
    | _ => s

/-- A held access has been held for HOLDMAX (R294); a discarded one has nobody to tell. -/
def Chip.heldTimeout (s : Chip) (h : Held) : Chip :=
  let s := s.onDev (·.on HPT_ISTAT_HOLDTO)
  let s := match h.who with
    | .core e => s.coreTimeout e h.addr
    | .post e st => (s.dropPost e st).postAnswered e h.id .done
    | .sunk _ => s.onDev (·.dropHeld (·.id == h.id))
  -- its slot is free again, and stores may have waited for its acknowledgement
  s.onDev (·.later .rise)

/-- The oldest access whose hold has reached HOLDMAX fails (R294). -/
def Chip.holdTimeout (s : Chip) : Chip :=
  match s.dev.hpt.held.find? fun h => h.wake && h.since.toNat + h.limit ≤ s.dev.now.toNat with
  | some h => s.heldTimeout h
  | none => s

/-! ### Consequences -/

/-- A consequence carried out. -/
def Chip.handle (s : Chip) : Todo → Chip
  | .safeState code hint => s.onDev (·.safeState code hint none)
  | .rise => s.farRise
  | .hostLine l => s.clearResv l
  | .engineReset n _ => s.engineReset n
  | .ringEnd _ slot status reason eng admAt finish result => s.onDev (·.ringEnd slot status reason eng admAt finish result)
  | .sysReset bit => s.sysReset bit
  | .fabReset => s.fabricReset
  | .curReset => s.curatorReset
  | .dbgReset => s.dbgReset
  | .feed w => s.feed w
  | .step e => s.stepCore e

/-- Consequences carried out in order, those they bring with them too, up to a bound no command reaches. -/
def Chip.handleAll (s : Chip) : Nat → Chip
  | 0 => s.onDev fun d => { d with todo := [] }
  | n + 1 =>
    match s.dev.todo with
    | [] => s
    | t :: ts => ((s.onDev fun d => { d with todo := ts }).handle t).handleAll n

/-- The far-memory wake wire follows HOLD.WAKE while the eSPI target is enabled (R294, R445). -/
def Dev.farWakeWire (d : Dev) : Dev :=
  if d.flag ESPI_CTL_EN && !d.blockOff 10 then d.espiHwWire 1 (d.flag HPT_HOLD_WAKE) else d

/-- What every command ends with: its consequences, and what the registrar, the interrupt controller's wake latch, the power
controller and the far wake wire make of the new state. -/
def Chip.settle (s : Chip) : Chip :=
  let s := s.handleAll 4096
  let s := s.onDev fun d => (d.runDefer.sampleItc).farWakeWire
  (s.advance).handleAll 4096

/-! ### Idle ticks -/

/-- One tick of the timebase with nothing commanded (R387, R388, R396, R400): writes on their way arrive, and records that waited for the
port are written (R279). -/
def Chip.tick (s : Chip) : Chip :=
  let (d, n) := s.dev.delivered.flushHeld.clockTick
  let stop := s.cores[curator].halted && (3 ≤ d.dbg.level && d.flag CUR_WDCTL_DBGSTOP)
  let s := { s with dev := d.wdRun n (fun k => s.cores[eng (Fin.ofNat 64 k)].halted) stop }
  s.settle

end Sys2Proof.Machine
end

