-- ==== Sys2Proof/Machine/Lines.lean ====
section
/-! DEFINITION. Machine/Lines.lean: what each interrupt source's input line stands for (R357), and its changes (R359, R363). -/

namespace Sys2Proof.Machine

open Reg

/-- An ISTAT register and its IEN register have a bit in common. -/
def Dev.irq2 (d : Dev) (istat ien : Nat) : Bool := (d.word istat &&& d.word ien) != 0

/-- A word whose low half holds ISTAT bits and whose high half their IEN bits has one of both. -/
def irqHalves (w : Word) : Bool := (w &&& (w >>> 16) &&& 0xFFFF) != 0

/-- The line of engine source 32 + n: a frame fault or an expired watchdog (R170). -/
def Chip.engineLine (s : Chip) (n : Fin 64) : Bool :=
  s.cores[eng n].df || s.dev.flag (CAB_ESTAT_WDX (n.val / 8) (n.val % 8))

/-- The line of cabinet source 96 + k: a counter's OVF with its OVFIE (R173). -/
def Dev.cabLine (d : Dev) (k : Nat) : Bool :=
  (List.range 8).any fun j => (d.get (CAB_PMCTL_OVF k j) &&& d.get (CAB_PMCTL_OVFIE k j)) != 0

/-- The line of unit source 104 + u (R357 and each unit's chapter). -/
def Dev.unitLine (d : Dev) (u : Nat) : Bool :=
  match u with
  | 0 => d.irq2 PWR_ISTAT PWR_IEN
  | 1 => d.irq2 TBS_ISTAT TBS_IEN
  | 2 => d.flag ITC_ERR_EOIEMPTY && d.flag ITC_CTL_ERRIE
  | 3 => irqHalves (d.word SEC_IRQ)
  | 4 => d.flag GAL_ESTAT_UEV && d.flag GAL_ESTAT_UEIE
  | 5 => d.flag VLT_ESTAT_UEV && d.flag VLT_ESTAT_UEIE
  | 6 => d.irq2 ADM_ISTAT ADM_IEN
  | 7 => d.irq2 HPT_ISTAT HPT_IEN
  | 8 => d.irq2 RNG_ISTAT RNG_IEN
  | 9 => d.flag CUR_FAULT_VALID && d.flag CUR_SAFE_IEN
  | 10 => d.get PRV_CTL_WM ≤ d.prv.unread.length && d.flag PRV_CTL_IEN
  | 11 => irqHalves (d.word PAD_IRQ)
  | 12 => d.irq2 DPT_ISTAT DPT_IEN
  | 13 => d.irq2 MOV_ISTAT MOV_IEN
  | 14 => d.flag DBG_TRSTAT_WMH && d.flag DBG_TRCTL_IEN
  | 15 => d.flag FSPI_STAT_IEN && (d.flag FSPI_STAT_DONE || d.flag FSPI_STAT_WPERR || d.flag FSPI_STAT_PTMO)
  | _ => false

/-- The line of depot threshold source 224 + i: the condition of a queue that names it with IEN (R233). -/
def Dev.thresholdLine (d : Dev) (i : Nat) : Bool :=
  (List.range 1024).any fun q => d.flag (DPT_QTHR_IEN q) && d.get (DPT_QTHR_SRC q) == i && d.threshold q

/-- What stands behind source n's input line asks for it to be asserted (R357, R358); sources that receive pulses only, and
those that firmware sets, have none (R539). -/
def Chip.lineCond (s : Chip) (n : Nat) : Bool :=
  let d := s.dev
  if n < 32 then false
  else if n < 96 then s.engineLine (Fin.ofNat 64 (n - 32))
  else if n < 104 then d.cabLine (n - 96)
  else if n < 120 then d.unitLine (n - 104)
  else if n < 128 then false
  else if n < 136 then irqHalves (d.spIrqWord (Fin.ofNat 8 (n - 128)) &&& 0xFFFF3FFF)
  else if n < 138 then false
  else if n < 146 then d.groupLine (n - 138)
  else if n = 148 then d.inLine 65
  else if n < 160 then false
  else if n < 224 then d.inLine (n - 160)
  else d.thresholdLine (n - 224)

/-- Source n's line asserts, or a pulse on its way to it arrives (R357, R359, R539); where neither is due nothing happens. -/
def Chip.lineAssert (s : Chip) (n : Nat) : Chip :=
  let s := if s.dev.itc.pulse.getLsbD n then s.onDev (·.takePulse n) else s
  if s.lineCond n then s.onDev (·.lineUp n) else s

/-- Source n's line de-asserts once what stands behind it is gone (R359, R363). -/
def Chip.lineDeassert (s : Chip) (n : Nat) : Chip := if s.lineCond n then s else s.onDev (·.lineDown n)

end Sys2Proof.Machine
end

