-- ==== Sys2Proof/Machine/Events.lean ====
section
/-! DEFINITION. Machine/Events.lean: events of several units that no other file holds: watchdog expiries (R171, R399), virtual wires (R445), the supplies and the link's resets (R275, R519, R521), and the thermal pin (R267). -/

namespace Sys2Proof.Machine

open Reg

/-! ### Watchdogs -/

/-- A watchdog's expiry is due: its count has reached 0 and has not taken effect yet (R397). -/
def Wd.due (w : Wd) : Bool := w.left == 0 && !w.spent

/-- WDEn expires (R171, R261): WDX is set, the registrar is told, and the engine is reset where CTL.RST asks for it. -/
def Chip.wdeExpiry (s : Chip) (n : Fin 64) : Chip :=
  let w := s.dev.wde n
  if s.dev.flag (TBS_WDE_CTL_EN n) && w.due && !s.dev.asleep then
    let t := (s.onDev fun d => (d.setWde n { w with spent := true }).on (CAB_ESTAT_WDX (n.val / 8) (n.val % 8))).engineFault n.val
    if t.dev.flag (TBS_WDE_CTL_RST n) && t.dev.todo.length == s.dev.todo.length then t.onDev (·.later (.engineReset n 0x02)) else t
  else s

/-- WDP expires (R399, R400, R419): PLTRST_N is driven low for PULSE ms; asleep, the expiry is a wake. -/
def Dev.wdpExpiry (d : Dev) : Dev :=
  if d.flag TBS_WDPCTL_EN && d.tbs.wdp.due && !d.pwr.parked && d.get PWR_STAT_STATE != 4 then
    ({ d with tbs := { d.tbs with
        wdp := { d.tbs.wdp with spent := true }
        pulse := some (d.tb + d.get TBS_WDPCTL_PULSE * msTicks) } }).wakeUp 12
  else d

/-- The PLTRST_N pulse ends (R399): a system reset follows where SYSRST asks for it. -/
def Dev.pulseEnd (d : Dev) : Dev :=
  match d.tbs.pulse with
  | some t =>
    if t ≤ d.tb then
      let d := { d with tbs := { d.tbs with pulse := none } }
      if d.flag TBS_WDPCTL_SYSRST then d.later (.sysReset 4) else d
    else d
  | none => d

/-- What PLTRST_N is driven to (R399, R495): low in a pulse; else, while pads are held, the level held; else SYS.PLTRST. none is no
drive. -/
def Dev.pltrst (d : Dev) : Option Bool :=
  if d.tbs.pulse.isSome then some false
  else
    let w := d.padWord SYS_PLTRST
    if w.getLsbD 1 then some (!w.getLsbD 0) else none

/-! ### Virtual wires, the thermal pin -/

/-- A virtual-wire change of the host (R445, R267): VWIN shows it, VW is set, and a change of THERM is a write of ADM.THERM.HOST. -/
def Chip.virtualWire (s : Chip) (sys : BitVec 8) (host : BitVec 4) : Chip :=
  let s := s.onDev Dev.espiSelect
  if !s.dev.espiReady 1 then s
  else
    let was := s.dev.bit ESPI_VWIN_HOST 0
    let moved := s.dev.get ESPI_VWIN_SYS != sys.toNat || s.dev.get ESPI_VWIN_HOST != host.toNat
    let s := s.onDev fun d => (d.put ESPI_VWIN_SYS sys.toNat).put ESPI_VWIN_HOST host.toNat
    let s := if moved then s.onDev (·.espiEvent 5) else s
    if host.getLsbD 0 = was then s
    else
      let old := s.dev.word ADM_THERM
      let s := s.onDev fun d =>
        let d := d.put ADM_THERM_HOST (one (host.getLsbD 0))
        d.log ADM_THERM old (setBits old 0 0 (one (host.getLsbD 0))) (d.word ADM_THERM) 0x81 0
      s.thermEval

/-- PMIC_THERM_N goes low, or back high (R267). -/
def Chip.thermPin (s : Chip) (low : Bool) : Chip := (s.onDev (·.put ADM_THERM_PIN (one low))).thermEval

/-! ### The link -/

/-- A Hot Reset or link disable by the host, or a link that fails (R275, R292). -/
def Chip.linkFails (s : Chip) : Chip := if s.dev.linkLive || s.dev.get HPT_LSTAT_STATE == 7 then s.linkLost else s

/-- A link supply drops (R519): the link goes down. -/
def Chip.vphyDrop (s : Chip) : Chip := (s.onDev (·.onHpt fun h => { h with vphy := false })).linkLost

/-- The link supplies are back (R521). -/
def Dev.vphyReturn (d : Dev) : Dev :=
  let d := d.onHpt fun h => { h with vphy := true }
  if d.get HPT_LSTAT_STATE = 0 then d.train else d

end Sys2Proof.Machine
end

