-- ==== Sys2Proof/Machine/State.lean ====
section
/-! DEFINITION. Machine/State.lean: the machine's state: the device (Machine/Chip.lean says what it holds) and the queue of commands that
wait. -/

namespace Sys2Proof.Machine

/-- The whole state: the device, and the commands that wait, first in, first out. -/
structure State where
  chip : Chip
  pending : List Instr
  deriving DecidableEq, Repr

/-- Why the block stops with a fault: it never does. -/
inductive Fault where
  deriving DecidableEq, Repr

/-- Why a command is refused. -/
inductive Refusal where
  /-- The command has no meaning yet: raised by no command of this model. Safe: nothing is claimed of such a command. -/
  | notModelled (mnemonic : String)
  deriving DecidableEq, Repr

/-- The block right after its first power-on (R493): its power-on reset has acted, the boot ROM waits for ON_N (R498), and no command
waits. -/
def State.reset : State := { chip := Chip.cold, pending := [] }

end Sys2Proof.Machine
end

