-- ==== Sys2Proof/Machine/Rows.lean ====
section
/-! DEFINITION. Machine/Rows.lean: what the meanings of the rows share: a command's effect with its consequences, a register or window
access by a sender, and the words that rows write. -/

namespace Sys2Proof.Machine

open Reg

/-- The outcomes of a command. -/
abbrev Outcome := Host.Outcome State Fault Refusal

/-- A command acts on the device, and what follows from that comes about with it (Machine/Settle.lean). -/
def State.act (s : State) (f : Chip → Chip) : Outcome := .next { s with chip := (f s.chip).settle }

/-! ### Words -/

/-- A word with one field set to n. -/
def withField (v : Word) (f : Fld) (n : Nat) : Word := setBits v f.hi f.lo n

/-- A word with a CODE in its high half. -/
def keyed (code low : Nat) : Word := BitVec.ofNat 32 (0x10000 * code + low)

/-- A word for RSEQREQ (R439): KIND 0 a point, 1 on, 2 off. -/
def rseqWord (kind : Nat) (w : Fin 2) (i : Fin 16) : Word :=
  BitVec.ofNat 32 (0x80000000 + 0x20000000 * kind + 0x100 * w.val + i.val)

/-- A word for FSPI.CMD with GO and KIND set (R448). -/
def flashWord (kind : Nat) (v : Word) : Word := withField (withField v FSPI_CMD_KIND kind) FSPI_CMD_GO 1

/-- A word for DBG.RCTL. -/
def rctlWord (cmd : Nat) (target : BitVec 7) : Word := BitVec.ofNat 32 (0x40000000 * cmd + target.toNat)

/-- A word for the port register PCTL (R468, R470). -/
def pctlWord (abort dormant : Bool) (adly : BitVec 6) : Word :=
  BitVec.ofNat 32 (0x80000000 * one abort + 0x40000000 * one dormant + adly.toNat)

/-- A word for the port register AUTH with GO, METHOD and LEVEL (R474). -/
def authWord (method : Nat) (level : BitVec 2) : Word := BitVec.ofNat 32 (0x80000000 + 0x10000000 * method + 0x4000000 * level.toNat)

/-- The GO and RES words of the SUBMIT page (R251, R252). -/
def ADM_SUB_GO : Nat := 0x50838
def ADM_SUB_RES : Nat := 0x5083C

/-! ### Accesses by a sender -/

/-- The offset in BAR0 by which the host reaches a register (R280). -/
def bar0Of (a : Nat) : Option Nat :=
  match a / 0x10000 with
  | 0x00 => if a < 0x1000 then some a else none
  | 0x05 => if a % 0x10000 < 0x1000 then some (0x1000 + a % 0x10000) else none
  | 0x09 => if a % 0x10000 < 0x1000 then some (0x2000 + a % 0x10000) else none
  | 0x0A => some (0x10000 + a % 0x10000)
  | _ => none

/-- The debugger's level is enough for a system access (R472, R477). -/
def Dev.debuggerMay (d : Dev) (write : Bool) (a : Nat) : Bool := sysLevel write a ≤ d.dbg.level

/-- An answer carries a word back to the sender. -/
def Chip.answered (r : Chip × Reply) : Chip :=
  match r with
  | (s, .ok w) => s.onDev (·.emit (.reply (leBytes 4 w.toNat)))
  | (s, _) => s

/-- A register written by a core, or by the debugger (none). -/
def Chip.whoWrite (s : Chip) (who : Option CoreId) (a : Nat) (v : Word) : Chip :=
  match who with
  | some e => (s.regWrite (s.master e) a v).1
  | none => (s.regWrite Master.debugger a v).1

/-- A register read by a core, or by the debugger (none). -/
def Chip.whoRead (s : Chip) (who : Option CoreId) (a : Nat) : Chip :=
  Chip.answered (s.regRead (match who with | some e => s.master e | none => Master.debugger) a)

/-- One thing that waited at a crossing is delivered (R383). -/
def Chip.deliver (s : Chip) : Crossing → Chip
  | .write who a v => s.whoWrite who a v
  | .read who a => s.whoRead who a
  | .level i v => s.onDev (·.inTake i v)

/-- The clock of the islands returns (R376): everything that waited for it is delivered, once (R383). -/
def Chip.clocksBack (s : Chip) : Chip :=
  let s := s.onDev Dev.hfoscLock
  if s.dev.clocksOn then s.dev.crossing.foldl Chip.deliver (s.onDev fun d => { d with crossing := [] }) else s

/-- A register written by a sender (R6 to R19, R124, R280, R477); into an island whose clock is stopped, the write waits (R383). -/
def Chip.rowWrite (s : Chip) (m : Sender) (a : Nat) (v : Word) : Chip :=
  let go (who : Option CoreId) : Chip := if s.dev.islandShut a && !s.dev.regOff a then s.onDev (·.cross (.write who a v)) else s.whoWrite who a v
  match m with
  | .core e => go (some e)
  | .debugger => if s.dev.debuggerMay true (0x4000000 + a) then go none else s
  | .host => match bar0Of a with
    | some off => s.bar0Write off 4 v
    | none => s

/-- A register read by a sender. -/
def Chip.rowRead (s : Chip) (m : Sender) (a : Nat) : Chip :=
  let go (who : Option CoreId) : Chip := if s.dev.islandShut a && !s.dev.regOff a then s.onDev (·.cross (.read who a)) else s.whoRead who a
  match m with
  | .core e => go (some e)
  | .debugger => if s.dev.debuggerMay false (0x4000000 + a) then go none else s
  | .host => match bar0Of a with
    | some off => s.bar0Read off 4
    | none => s

/-- A write of n bytes at any register address: the host's address is its offset in BAR0 (R280, R281); the other masters write words
(R6), by their offset in bank 0x04. -/
def Chip.anyWrite (s : Chip) (m : Sender) (a n : Nat) (v : Word) : Chip :=
  match m with
  | .host => s.bar0Write a n v
  | _ => s.rowWrite m a v

/-- A read of n bytes at any register address. -/
def Chip.anyRead (s : Chip) (m : Sender) (a n : Nat) : Chip :=
  match m with
  | .host => s.bar0Read a n
  | _ => s.rowRead m a

/-- A window operation writes (R219). -/
def WinOp.writes : WinOp → Bool
  | .head | .body | .last | .mark | .rewind | .release | .flush | .skip => true
  | _ => false

/-- A depot window operation by a sender (R219 to R224); the host reaches no window (R280). -/
def Chip.rowWindow (s : Chip) (m : Sender) (op : WinOp) (q : Nat) (v : Word) : Chip :=
  let go (uid : Nat) : Chip := if op.writes then (s.window uid op q v).1 else Chip.answered (s.window uid op q v)
  match m with
  | .core e => go (uidOf e)
  | .debugger => if s.dev.debuggerMay op.writes (winAddr op q) then go 0x19 else s
  | .host => s

/-- The launch of a promise number has passed its deadline less 66 ticks (R261). -/
def Chip.deadlinePassed (s : Chip) (pid : Nat) : Chip :=
  match s.dev.adm.proms.find? (·.pid == pid) with
  | some x => if s.dev.overdue x then s.deadlineBreach x else s
  | none => s

end Sys2Proof.Machine
end

