-- ==== Sys2Proof/Machine/RowsAdm.lean ====
section
/-! DEFINITION. Machine/RowsAdm.lean: the meanings of the rows of spec/opcode_table.json for the registrar (R245 to R267). -/

namespace Sys2Proof.Machine

open Reg

/-- SUB_GO (R251): An internal submitter's write submits its staged request to the registrar. -/
def execSubGo (m : Sender) (v : Word) (s : State) : Outcome := s.act fun s => s.rowWrite m ADM_SUB_GO v

/-- SUB_RES (R252): Reads the caller's submission result, clearing it once final. -/
def execSubRes (m : Sender) (s : State) : Outcome := s.act fun s => s.rowRead m ADM_SUB_RES

/-- ADMISSION_DECISION (R256): The registrar checks a visible request and admits or refuses it, possibly raising a rail. -/
def execAdmissionDecision (s : State) : Outcome := s.act fun s => s.decide

/-- RESULT (R250): The running launch's stub writes its result word. -/
def execResult (m : Sender) (v : Word) (s : State) : Outcome := s.act fun s => s.rowWrite m ADM_RESULT v

/-- DONE (R250): The stub ends the running launch with DONE or FAULT and the registrar writes its record. -/
def execDone (m : Sender) (v : Word) (s : State) : Outcome := s.act fun s => s.rowWrite m ADM_DONE v

/-- DEADLINE_BREACH (R261): A launch without DONE by its deadline less 66 ticks is breached and its engine reset. -/
def execDeadlineBreach (pid : BitVec 12) (s : State) : Outcome := s.act fun s => s.deadlinePassed pid.toNat

/-- STUB_READY (R261): After an owned engine's reset the registrar re-tests its timeline and seals the next record. -/
def execStubReady (n : Fin 64) (s : State) : Outcome := s.act fun s => s.stubReady n

/-- THERMAL_EMERGENCY_START (R267): Ceilings fall to VTHERM, rails are lowered and waiting launches that no longer fit are breached. -/
def execThermalEmergencyStart (s : State) : Outcome := s.act fun s => s.thermPin true

/-- THERMAL_EMERGENCY_END (R267): The emergency ends and VCEIL_EFF returns as if VCEIL_REQ were rewritten. -/
def execThermalEmergencyEnd (s : State) : Outcome := s.act fun s => s.thermPin false

/-- PROFILE_COMMIT (R245): Changing a profile's STATE_REQ from 0 to 1 starts its commit check. -/
def execProfileCommit (m : Sender) (p : Fin 256) (v : Word) (s : State) : Outcome :=
  s.act fun s => s.rowWrite m (ADM_CAT_CTL p) (withField v (ADM_CAT_CTL_STATE_REQ p) 1)

/-- PROFILE_CHECK_COMPLETE (R245): The profile check sets ERR and loads the profile if it passed. -/
def execProfileCheckComplete (p : Fin 256) (s : State) : Outcome := s.act fun s => s.onDev (·.profCheck p)

/-- PROFILE_UNLOAD (R245): Changing STATE_REQ from 1 to 0 refuses further requests for the profile. -/
def execProfileUnload (m : Sender) (p : Fin 256) (v : Word) (s : State) : Outcome :=
  s.act fun s => s.rowWrite m (ADM_CAT_CTL p) (withField v (ADM_CAT_CTL_STATE_REQ p) 0)

end Sys2Proof.Machine
end

