-- ==== Sys2Proof/Machine/RowsAlu.lean ====
section
/-! DEFINITION. Machine/RowsAlu.lean: the meanings of the rows of spec/opcode_table.json for register and immediate computation (R95 to R97). -/

namespace Sys2Proof.Machine

open Reg

/-- ADD (R95): Adds two registers into rd, wrapping modulo 2^32. -/
def execAdd (e : CoreId) (rd ra rb : GReg) (s : State) : Outcome := s.act fun s => s.runOp e (.alu .add rd ra rb) 0

/-- SUB (R95): Subtracts rb from ra into rd. -/
def execSub (e : CoreId) (rd ra rb : GReg) (s : State) : Outcome := s.act fun s => s.runOp e (.alu .sub rd ra rb) 0

/-- AND (R95): Bitwise AND of two registers into rd. -/
def execAnd (e : CoreId) (rd ra rb : GReg) (s : State) : Outcome := s.act fun s => s.runOp e (.alu .and rd ra rb) 0

/-- OR (R95): Bitwise OR of two registers into rd. -/
def execOr (e : CoreId) (rd ra rb : GReg) (s : State) : Outcome := s.act fun s => s.runOp e (.alu .or rd ra rb) 0

/-- XOR (R95): Bitwise XOR of two registers into rd. -/
def execXor (e : CoreId) (rd ra rb : GReg) (s : State) : Outcome := s.act fun s => s.runOp e (.alu .xor rd ra rb) 0

/-- ANDN (R95): ra AND NOT rb into rd. -/
def execAndn (e : CoreId) (rd ra rb : GReg) (s : State) : Outcome := s.act fun s => s.runOp e (.alu .andn rd ra rb) 0

/-- SHL (R95): Shifts ra left by rb[4:0]. -/
def execShl (e : CoreId) (rd ra rb : GReg) (s : State) : Outcome := s.act fun s => s.runOp e (.alu .shl rd ra rb) 0

/-- SHR (R95): Shifts ra right by rb[4:0] with zero fill. -/
def execShr (e : CoreId) (rd ra rb : GReg) (s : State) : Outcome := s.act fun s => s.runOp e (.alu .shr rd ra rb) 0

/-- SRA (R95): Shifts ra right by rb[4:0] with sign fill. -/
def execSra (e : CoreId) (rd ra rb : GReg) (s : State) : Outcome := s.act fun s => s.runOp e (.alu .sra rd ra rb) 0

/-- ROR (R95): Rotates ra right by rb[4:0]. -/
def execRor (e : CoreId) (rd ra rb : GReg) (s : State) : Outcome := s.act fun s => s.runOp e (.alu .ror rd ra rb) 0

/-- SLT (R95): Sets rd to 1 if ra is signed-less than rb. -/
def execSlt (e : CoreId) (rd ra rb : GReg) (s : State) : Outcome := s.act fun s => s.runOp e (.alu .slt rd ra rb) 0

/-- SLTU (R95): Sets rd to 1 if ra is unsigned-less than rb. -/
def execSltu (e : CoreId) (rd ra rb : GReg) (s : State) : Outcome := s.act fun s => s.runOp e (.alu .sltu rd ra rb) 0

/-- MIN (R95): Signed minimum into rd. -/
def execMin (e : CoreId) (rd ra rb : GReg) (s : State) : Outcome := s.act fun s => s.runOp e (.alu .min rd ra rb) 0

/-- MAX (R95): Signed maximum into rd. -/
def execMax (e : CoreId) (rd ra rb : GReg) (s : State) : Outcome := s.act fun s => s.runOp e (.alu .max rd ra rb) 0

/-- MINU (R95): Unsigned minimum into rd. -/
def execMinu (e : CoreId) (rd ra rb : GReg) (s : State) : Outcome := s.act fun s => s.runOp e (.alu .minu rd ra rb) 0

/-- MAXU (R95): Unsigned maximum into rd. -/
def execMaxu (e : CoreId) (rd ra rb : GReg) (s : State) : Outcome := s.act fun s => s.runOp e (.alu .maxu rd ra rb) 0

/-- SEXTB (R95): Sign-extends the low byte of ra. -/
def execSextb (e : CoreId) (rd ra : GReg) (s : State) : Outcome := s.act fun s => s.runOp e (.alu .sextb rd ra 0) 0

/-- SEXTH (R95): Sign-extends the low halfword of ra. -/
def execSexth (e : CoreId) (rd ra : GReg) (s : State) : Outcome := s.act fun s => s.runOp e (.alu .sexth rd ra 0) 0

/-- ZEXTH (R95): Zero-extends the low halfword of ra. -/
def execZexth (e : CoreId) (rd ra : GReg) (s : State) : Outcome := s.act fun s => s.runOp e (.alu .zexth rd ra 0) 0

/-- CLZ (R95): Counts leading zeros of ra. -/
def execClz (e : CoreId) (rd ra : GReg) (s : State) : Outcome := s.act fun s => s.runOp e (.alu .clz rd ra 0) 0

/-- CTZ (R95): Counts trailing zeros of ra. -/
def execCtz (e : CoreId) (rd ra : GReg) (s : State) : Outcome := s.act fun s => s.runOp e (.alu .ctz rd ra 0) 0

/-- POPC (R95): Counts 1 bits of ra. -/
def execPopc (e : CoreId) (rd ra : GReg) (s : State) : Outcome := s.act fun s => s.runOp e (.alu .popc rd ra 0) 0

/-- BSWAP (R95): Reverses the four bytes of ra. -/
def execBswap (e : CoreId) (rd ra : GReg) (s : State) : Outcome := s.act fun s => s.runOp e (.alu .bswap rd ra 0) 0

/-- MUL (R95): Low 32 bits of ra times rb. -/
def execMul (e : CoreId) (rd ra rb : GReg) (s : State) : Outcome := s.act fun s => s.runOp e (.alu .mul rd ra rb) 0

/-- MULH (R95): High 32 bits of the signed product. -/
def execMulh (e : CoreId) (rd ra rb : GReg) (s : State) : Outcome := s.act fun s => s.runOp e (.alu .mulh rd ra rb) 0

/-- MULHU (R95): High 32 bits of the unsigned product. -/
def execMulhu (e : CoreId) (rd ra rb : GReg) (s : State) : Outcome := s.act fun s => s.runOp e (.alu .mulhu rd ra rb) 0

/-- MACC (R95): Adds the low product of ra and rb to rd. -/
def execMacc (e : CoreId) (rd ra rb : GReg) (s : State) : Outcome := s.act fun s => s.runOp e (.alu .macc rd ra rb) 0

/-- DIV (R96): Signed division rounded toward zero, never trapping. -/
def execDiv (e : CoreId) (rd ra rb : GReg) (s : State) : Outcome := s.act fun s => s.runOp e (.alu .div rd ra rb) 0

/-- DIVU (R96): Unsigned division, never trapping. -/
def execDivu (e : CoreId) (rd ra rb : GReg) (s : State) : Outcome := s.act fun s => s.runOp e (.alu .divu rd ra rb) 0

/-- REM (R96): Signed remainder, never trapping. -/
def execRem (e : CoreId) (rd ra rb : GReg) (s : State) : Outcome := s.act fun s => s.runOp e (.alu .rem rd ra rb) 0

/-- REMU (R96): Unsigned remainder, never trapping. -/
def execRemu (e : CoreId) (rd ra rb : GReg) (s : State) : Outcome := s.act fun s => s.runOp e (.alu .remu rd ra rb) 0

/-- DOT8 (R95): Accumulates eight signed int8 products of two register pairs into rd. -/
def execDot8 (e : CoreId) (rd ra rb : GReg) (s : State) : Outcome := s.act fun s => s.runOp e (.alu .dot8 rd ra rb) 0

/-- DOT8U (R95): As DOT8 with unsigned first operand bytes. -/
def execDot8u (e : CoreId) (rd ra rb : GReg) (s : State) : Outcome := s.act fun s => s.runOp e (.alu .dot8u rd ra rb) 0

/-- DOT16 (R95): Accumulates four signed int16 products into rd. -/
def execDot16 (e : CoreId) (rd ra rb : GReg) (s : State) : Outcome := s.act fun s => s.runOp e (.alu .dot16 rd ra rb) 0

/-- ADDI (R97): Adds a sign-extended immediate. -/
def execAddi (e : CoreId) (rd ra : GReg) (i : BitVec 16) (s : State) : Outcome := s.act fun s => s.runOp e (.imm .addi rd ra i) 0

/-- ANDI (R97): ANDs a zero-extended immediate. -/
def execAndi (e : CoreId) (rd ra : GReg) (i : BitVec 16) (s : State) : Outcome := s.act fun s => s.runOp e (.imm .andi rd ra i) 0

/-- ORI (R97): ORs a zero-extended immediate. -/
def execOri (e : CoreId) (rd ra : GReg) (i : BitVec 16) (s : State) : Outcome := s.act fun s => s.runOp e (.imm .ori rd ra i) 0

/-- XORI (R97): XORs a zero-extended immediate. -/
def execXori (e : CoreId) (rd ra : GReg) (i : BitVec 16) (s : State) : Outcome := s.act fun s => s.runOp e (.imm .xori rd ra i) 0

/-- SLTI (R97): Signed compare against an immediate. -/
def execSlti (e : CoreId) (rd ra : GReg) (i : BitVec 16) (s : State) : Outcome := s.act fun s => s.runOp e (.imm .slti rd ra i) 0

/-- SLTIU (R97): Unsigned compare against a sign-extended immediate. -/
def execSltiu (e : CoreId) (rd ra : GReg) (i : BitVec 16) (s : State) : Outcome := s.act fun s => s.runOp e (.imm .sltiu rd ra i) 0

/-- ADDHI (R97): Adds the immediate shifted left by 16. -/
def execAddhi (e : CoreId) (rd ra : GReg) (i : BitVec 16) (s : State) : Outcome := s.act fun s => s.runOp e (.imm .addhi rd ra i) 0

/-- SHLI (R97): Shifts left by an immediate count. -/
def execShli (e : CoreId) (rd ra : GReg) (n : BitVec 5) (s : State) : Outcome := s.act fun s => s.runOp e (.shi .shl rd ra n) 0

/-- SHRI (R97): Shifts right with zero fill by an immediate count. -/
def execShri (e : CoreId) (rd ra : GReg) (n : BitVec 5) (s : State) : Outcome := s.act fun s => s.runOp e (.shi .shr rd ra n) 0

/-- SRAI (R97): Shifts right with sign fill by an immediate count. -/
def execSrai (e : CoreId) (rd ra : GReg) (n : BitVec 5) (s : State) : Outcome := s.act fun s => s.runOp e (.shi .sra rd ra n) 0

/-- RORI (R97): Rotates right by an immediate count. -/
def execRori (e : CoreId) (rd ra : GReg) (n : BitVec 5) (s : State) : Outcome := s.act fun s => s.runOp e (.shi .ror rd ra n) 0

end Sys2Proof.Machine
end

