-- ==== Sys2Proof/Machine/RowsArray.lean ====
section
/-! DEFINITION. Machine/RowsArray.lean: the meanings of the rows of spec/opcode_table.json for the arrays and the vault (R182 to R207). -/

namespace Sys2Proof.Machine

open Reg

/-- SCRUB_LINE (R195): The conservator reads and corrects the next line in scrub order. -/
def execScrubLine (s : State) : Outcome := s.act fun s => s.scrub

/-- OWNERSHIP_RELEASE (R182): A burst writer's release returns line ownership to the home role. -/
def execOwnershipRelease (line : BitVec 26) (s : State) : Outcome := s.act fun s => s.disownLine line.toNat

/-- OWNERSHIP_TIMEOUT (R184): A burst idle for 2 µs loses line ownership to the home role. -/
def execOwnershipTimeout (line : BitVec 26) (s : State) : Outcome := s.act fun s => s.idleLine line.toNat

/-- PGATE_OFF_SEAM (R207): A gallery half with no access in progress switches off and refuses with OFFLINE. -/
def execPgateOffSeam (h : Fin 16) (s : State) : Outcome := s.act fun s => s.halfOff h

/-- PGATE_ON_COMPLETE (R207): A half switched on is powered and cleared and GH_EFF returns to 0. -/
def execPgateOnComplete (h : Fin 16) (s : State) : Outcome := s.act fun s => s.halfOn h

/-- NORMAL (R203): Writing GAL.SVC.NORMAL moves the service phase from START to NORMAL. -/
def execNormal (m : Sender) (v : Word) (s : State) : Outcome := s.act fun s => s.rowWrite m GAL_SVC (withField v GAL_SVC_NORMAL 1)

/-- CLR (R186): GAL.CCTL.CLR sets every conflict counter to zero. -/
def execClr (m : Sender) (v : Word) (s : State) : Outcome := s.act fun s => s.rowWrite m GAL_CCTL (withField v GAL_CCTL_CLR 1)

/-- WIPE (R200): VLT.WIPE with the correct code starts a vault wipe with cause COMMAND. -/
def execWipe (m : Sender) (s : State) : Outcome := s.act fun s => s.rowWrite m VLT_WIPE (keyed 0x7A5E 1)

/-- WIPE_COMPLETE (R200): The wipe ends with read-back passed, clearing WPROT and setting READY. -/
def execWipeComplete (good : Bool) (s : State) : Outcome := s.act fun s => s.onDev (·.wipeEnd good)

/-- WPROT (R199): Writing VLT.WPROT write-protects vault regions until a reset or wipe. -/
def execWprot (m : Sender) (v : Word) (s : State) : Outcome := s.act fun s => s.rowWrite m VLT_WPROT v

end Sys2Proof.Machine
end

