-- ==== Sys2Proof/Machine/RowsBoot.lean ====
section
/-! DEFINITION. Machine/RowsBoot.lean: the meanings of the rows of spec/opcode_table.json for resets, the boot ROM, life cycle, the log, and registers in general (R6, R11, R493 to R511, R519). -/

namespace Sys2Proof.Machine

open Reg

/-- VAON_DROP (R519): VAON, VSRAM or VIO18 below threshold for 2 µs causes a power-on reset on return. -/
def execVaonDrop (s : State) : Outcome := s.act fun s => s.powerOn false false

/-- POWER_ON_RESET (R493): First application of VAON resets everything outside the 32 kHz domain and clears arrays. -/
def execPowerOnReset (s : State) : Outcome := s.act fun s => s.powerOn false false

/-- SYS_RST_N (R493): SYS_RST_N low for at least 1 µs requests a system reset. -/
def execSysRstN (s : State) : Outcome := s.act fun s => s.sysRstN

/-- SYSTEM_RESET (R493): SYS.RSTCMD SYSTEM resets every unit except those kept and restarts the boot ROM. -/
def execSystemReset (m : Sender) (s : State) : Outcome := s.act fun s => s.rowWrite m SYS_RSTCMD (keyed 0x7E57 2)

/-- FABRIC_RESET (R493): SYS.RSTCMD FABRIC breaches promises and resets every engine and decode table. -/
def execFabricReset (m : Sender) (s : State) : Outcome := s.act fun s => s.rowWrite m SYS_RSTCMD (keyed 0x7E57 1)

/-- BOOT_IMAGE_LOAD (R500): The boot ROM checks slot headers, loads and verifies a slot and jumps to its entry. -/
def execBootImageLoad (a b : List Byte) (s : State) : Outcome := s.act fun s => s.bootImage ⟨a⟩ ⟨b⟩

/-- RECOVERY_FLAG_POLL (R501): Every 100 µs the boot ROM checks the recovery flag and verifies the staged image when found. -/
def execRecoveryFlagPoll (s : State) : Outcome := s.act fun s => s.flagPoll

/-- LCREQ (R503): An accepted life-cycle request stops the curator, resets debug and wipes the vault. -/
def execLcreq (m : Sender) (t : BitVec 3) (s : State) : Outcome := s.act fun s => s.rowWrite m SEC_LCREQ (keyed 0x4C43 t.toNat)

/-- LC_FUSE_PROGRAM (R503): Programming the target state's fuses ends and a system reset follows. -/
def execLcFuseProgram (got : BitVec 3) (s : State) : Outcome := s.act fun s => s.onDev (·.lcProgram got)

/-- TAMPER (R504): An accepted TAMPER_N event stops the curator, wipes the vault and resets. -/
def execTamper (s : State) : Outcome := s.act fun s => s.tamper

/-- VER (R506): A VER write with code raises the anti-rollback minimum by fuse programming. -/
def execVer (m : Sender) (n : BitVec 6) (s : State) : Outcome := s.act fun s => s.rowWrite m SEC_VER (keyed 0x5645 (0x100 * n.toNat))

/-- VER_FUSE_PROGRAM (R506): Anti-rollback fuse programming ends and MIN reads the new value or VERFAIL is set. -/
def execVerFuseProgram (ok : Bool) (held : BitVec 6) (s : State) : Outcome := s.act fun s => s.onDev (·.verProgram ok held.toNat)

/-- ACK (R511): PRV.ACK advances the provenance read pointer by N entries. -/
def execAck (m : Sender) (n : BitVec 12) (s : State) : Outcome := s.act fun s => s.rowWrite m PRV_ACK (0#20 ++ n)

/-- READ_TO_CLEAR (R6): A read of an RC field returns its value and clears it, except for quiet debug reads. -/
def execReadToClear (m : Sender) (a : BitVec 24) (n : Fin 65) (s : State) : Outcome := s.act fun s => s.anyRead m a.toNat n

/-- REGISTER_WRITE (R11): A write to a register with no row of its own is clamped field by field and stored. -/
def execRegisterWrite (m : Sender) (a : BitVec 24) (n : Fin 65) (v : Word) (s : State) : Outcome := s.act fun s => s.anyWrite m a.toNat n v

end Sys2Proof.Machine
end

