-- ==== Sys2Proof/Machine/RowsCab.lean ====
section
/-! DEFINITION. Machine/RowsCab.lean: the meanings of the rows of spec/opcode_table.json for cabinets: engine resets, decode tables, canaries (R24, R124 to R126, R496). -/

namespace Sys2Proof.Machine

open Reg

/-- PULSE (R496): CABk.RST.PULSE resets the chosen engines once. -/
def execPulse (m : Sender) (k : Fin 8) (hold engines : BitVec 8) (s : State) : Outcome :=
  s.act fun s => s.rowWrite m (CAB_RST k) (0#16 ++ engines ++ hold)

/-- HOLD (R496): Writing CABk.RST.HOLD releases or holds engines in reset. -/
def execHold (m : Sender) (k : Fin 8) (hold : BitVec 8) (s : State) : Outcome := s.act fun s => s.rowWrite m (CAB_RST k) (0#24 ++ hold)

/-- CXTAB (R124): A curator write to the decode-table window is stored or ignored under the lock and state rules. -/
def execCxtab (m : Sender) (k i : Fin 8) (j : Fin 64) (v : Word) (s : State) : Outcome := s.act fun s => s.rowWrite m (CAB_CXTAB k i j) v

/-- CXCTL_COMMIT (R125): Changing STATE_REQ from 0 to 1 starts the slot commit check. -/
def execCxctlCommit (m : Sender) (k i : Fin 8) (v : Word) (s : State) : Outcome :=
  s.act fun s => s.rowWrite m (CAB_CXCTL k i) (withField v (CAB_CXCTL_STATE_REQ k i) 1)

/-- COMMIT_CHECK_COMPLETE (R125): The slot check sets ERR, ERRIDX and COMP and loads the slot if it passed. -/
def execCommitCheckComplete (k i : Fin 8) (s : State) : Outcome := s.act fun s => s.onDev (·.cxDone k i)

/-- CXCTL_UNLOAD (R126): Changing STATE_REQ from 1 to 0 requests the slot be unloaded at its seam. -/
def execCxctlUnload (m : Sender) (k i : Fin 8) (v : Word) (s : State) : Outcome :=
  s.act fun s => s.rowWrite m (CAB_CXCTL k i) (withField v (CAB_CXCTL_STATE_REQ k i) 0)

/-- SLOT_SEAM (R126): No decoded instruction of the slot remains and STATE_EFF falls to 0. -/
def execSlotSeam (k i : Fin 8) (s : State) : Outcome := s.act fun s => s.onDev (·.slotSeam k i)

/-- CANARY_READING (R24): A cabinet takes its 10 µs canary reading and updates CABk.PACE. -/
def execCanaryReading (k : Fin 8) (ps : BitVec 16) (s : State) : Outcome := s.act fun s => s.onDev (·.canary k ps.toNat)

/-- CALIBRATION (R27): The boot ROM calibrates both wings' pace tables from fuses and canary readings. -/
def execCalibration (live : List (BitVec 16)) (s : State) : Outcome := s.act fun s => s.calibration (live.map (·.toNat))

end Sys2Proof.Machine
end

