-- ==== Sys2Proof/Machine/RowsCur.lean ====
section
/-! DEFINITION. Machine/RowsCur.lean: the meanings of the rows of spec/opcode_table.json for the curator pair (R344 to R349). -/

namespace Sys2Proof.Machine

open Reg

/-- TOKEN_COMPARE (R345): The comparator checks a checker output token against the main's. -/
def execTokenCompare (t : TokenPair) (s : State) : Outcome := s.act fun s => s.onDev (·.tokenCompare t)

/-- DELAY_RELEASE (R344): After 100 ns with no main token, held input tokens are released to the checker. -/
def execDelayRelease (s : State) : Outcome := s.act fun s => s.onDev Dev.delayRelease

/-- LAG (R345): The checker fails to produce a token within 1 µs of a release. -/
def execLag (s : State) : Outcome := s.act fun s => s.onDev Dev.lagFault

/-- COMPARATOR_EXERCISE (R348): A test pair exercises both comparator copies every CMPX period. -/
def execComparatorExercise (r : Fin 3) (s : State) : Outcome := s.act fun s => s.onDev (·.exercise r)

/-- SAFECMD (R349): A write with code 0x5AFE enters the safe state with code SWREQ. -/
def execSafecmd (m : Sender) (s : State) : Outcome := s.act fun s => s.rowWrite m CUR_SAFECMD (keyed 0x5AFE 1)

end Sys2Proof.Machine
end

