-- ==== Sys2Proof/Machine/RowsDbg.lean ====
section
/-! DEFINITION. Machine/RowsDbg.lean: the meanings of the rows of spec/opcode_table.json for the debug port, run control and trace (R465 to R491). -/

namespace Sys2Proof.Machine

open Reg

/-- PRD (R465): A debug port read frame returns a port register. -/
def execPrd (i crc : BitVec 8) (s : State) : Outcome := s.act fun s => s.prd i crc

/-- PWR (R465): A debug port write frame writes a port register. -/
def execPwr (i : BitVec 8) (v : Word) (crc : BitVec 8) (s : State) : Outcome := s.act fun s => s.pwrFrame i v crc

/-- SRD (R468): A debug system read starts or collects a quiet system access. -/
def execSrd (addr : Word) (inTime : Bool) (crc : BitVec 8) (s : State) : Outcome := s.act fun s => s.sysFrame false addr 0 inTime crc

/-- SWR (R468): A debug system write starts or collects a system access. -/
def execSwr (addr data : Word) (inTime : Bool) (crc : BitVec 8) (s : State) : Outcome :=
  s.act fun s => s.sysFrame true addr data inTime crc

/-- SYSTEM_ACCESS_COMPLETE (R468): A system access answered WAIT completes and its outcome is kept for collection. -/
def execSystemAccessComplete (s : State) : Outcome := s.act fun s => s.sysComplete

/-- LINE_RESET (R469): HDIO held low 128 cycles abandons any frame in progress. -/
def execLineReset (s : State) : Outcome := s.act fun s => s.onDev Dev.lineReset

/-- ACTIVATION_SEQUENCE (R470): The activation code wakes a dormant debug port. -/
def execActivationSequence (s : State) : Outcome := s.act fun s => s.onDev Dev.activate

/-- ABORT (R468): PCTL.ABORT discards the outcome of the system access in progress. -/
def execAbort (adly : BitVec 6) (s : State) : Outcome := s.act fun s => s.portFrame 0x01 (pctlWord true false adly)

/-- DORMANT (R470): PCTL.DORMANT makes the port dormant after the answer and drops the level to LOCKED. -/
def execDormant (adly : BitVec 6) (s : State) : Outcome := s.act fun s => s.portFrame 0x01 (pctlWord false true adly)

/-- CHAL (R474): AUTH.CHAL draws a 32-byte challenge unless withheld. -/
def execChal (s : State) : Outcome := s.act fun s => s.portFrame 0x04 0x40000000

/-- AUTH_SIG (R474): AUTH GO with METHOD SIG starts signature verification. -/
def execAuthSig (level : BitVec 2) (s : State) : Outcome := s.act fun s => s.portFrame 0x04 (authWord 1 level)

/-- AUTH_PWD (R474): AUTH GO with METHOD PWD starts password verification. -/
def execAuthPwd (level : BitVec 2) (s : State) : Outcome := s.act fun s => s.portFrame 0x04 (authWord 2 level)

/-- AUTH_DROP (R476): AUTH GO with METHOD DROP lowers the access level at once. -/
def execAuthDrop (level : BitVec 2) (s : State) : Outcome := s.act fun s => s.portFrame 0x04 (authWord 0 level)

/-- VERIFY_COMPLETE (R475): Verification ends with PASS granting the level or FAIL starting the withholding time. -/
def execVerifyComplete (s : State) : Outcome := s.act fun s => s.verifyDone

/-- WITHHOLDING_TIME_END (R475): The challenge withholding time after a failed authentication runs out and AUTH.STATE leaves WITHHELD. -/
def execWithholdingTimeEnd (s : State) : Outcome := s.act fun s => s.onDev Dev.withholdEnd

/-- HALT (R479): DBG.RCTL HALT requests a halt of an engine, the curator or all engines. -/
def execHalt (target : BitVec 7) (s : State) : Outcome := s.act fun s => s.rowWrite .debugger DBG_RCTL (rctlWord 1 target)

/-- HALT_EFFECT (R479): The target reaches an allowed boundary and halts, clearing its reservation. -/
def execHaltEffect (e : CoreId) (s : State) : Outcome := s.act fun s => s.haltEffect e

/-- RESUME (R483): DBG.RCTL RESUME continues the target from HPC. -/
def execResume (target : BitVec 7) (s : State) : Outcome := s.act fun s => s.rowWrite .debugger DBG_RCTL (rctlWord 2 target)

/-- STEP (R483): DBG.RCTL STEP runs one instruction from HPC and halts again. -/
def execStep (target : BitVec 7) (s : State) : Outcome := s.act fun s => s.rowWrite .debugger DBG_RCTL (rctlWord 3 target)

/-- FEED (R481): Executes one fed instruction on the halted feed target. -/
def execFeed (w : Word) (s : State) : Outcome := s.act fun s => s.rowWrite .debugger DBG_FEED w

/-- HPC (R483): A write to DBG.HPC sets the halted target's resume address. -/
def execHpc (a : Word) (s : State) : Outcome := s.act fun s => s.rowWrite .debugger DBG_HPC a

/-- STIM (R489): A write to an enabled stimulus port makes one STIM trace packet. -/
def execStim (m : Sender) (p : Fin 64) (v : Word) (s : State) : Outcome := s.act fun s => s.rowWrite m (DBG_STIM p) v

/-- SYNC (R490): Every SYNC ms a SYNC packet is made. -/
def execSync (s : State) : Outcome := s.act fun s => s.onDev Dev.traceSync

end Sys2Proof.Machine
end

