-- ==== Sys2Proof/Machine/RowsDepot.lean ====
section
/-! DEFINITION. Machine/RowsDepot.lean: the meanings of the rows of spec/opcode_table.json for the depot (R215 to R240). -/

namespace Sys2Proof.Machine

open Reg

/-- HEAD (R215): A producer starts an item, reserving its cells or being refused. -/
def execHead (m : Sender) (q : Fin 1024) (v : Word) (s : State) : Outcome := s.act fun s => s.rowWindow m .head q v

/-- BODY (R216): Appends a data word to the producer's open item, sealing at LEN. -/
def execBody (m : Sender) (q : Fin 1024) (v : Word) (s : State) : Outcome := s.act fun s => s.rowWindow m .body q v

/-- LAST (R216): Appends a data word and seals the item. -/
def execLast (m : Sender) (q : Fin 1024) (v : Word) (s : State) : Outcome := s.act fun s => s.rowWindow m .last q v

/-- POPH (R223): Returns the header at the cursor and moves the cursor into the item. -/
def execPoph (m : Sender) (q : Fin 1024) (s : State) : Outcome := s.act fun s => s.rowWindow m .poph q 0

/-- PEEKH (R223): Returns the header at the cursor without moving it. -/
def execPeekh (m : Sender) (q : Fin 1024) (s : State) : Outcome := s.act fun s => s.rowWindow m .peekh q 0

/-- POP (R223): Returns the data word at the cursor and moves it one word. -/
def execPop (m : Sender) (q : Fin 1024) (s : State) : Outcome := s.act fun s => s.rowWindow m .pop q 0

/-- PEEK (R223): Returns the data word at the cursor without moving it. -/
def execPeek (m : Sender) (q : Fin 1024) (s : State) : Outcome := s.act fun s => s.rowWindow m .peek q 0

/-- MARK (R224): Stores the cursor as the mark. -/
def execMark (m : Sender) (q : Fin 1024) (v : Word) (s : State) : Outcome := s.act fun s => s.rowWindow m .mark q v

/-- REWIND (R224): Sets the cursor back to the mark. -/
def execRewind (m : Sender) (q : Fin 1024) (v : Word) (s : State) : Outcome := s.act fun s => s.rowWindow m .rewind q v

/-- RELEASE (R226): Frees every cell wholly before the cursor. -/
def execRelease (m : Sender) (q : Fin 1024) (v : Word) (s : State) : Outcome := s.act fun s => s.rowWindow m .release q v

/-- QUEUE_FLUSH (R230): The owning consumer flushes the queue, freeing its items and marking open items broken. -/
def execQueueFlush (m : Sender) (q : Fin 1024) (v : Word) (s : State) : Outcome := s.act fun s => s.rowWindow m .flush q v

/-- SKIP (R224): Moves the cursor to the header position after the current item. -/
def execSkip (m : Sender) (q : Fin 1024) (v : Word) (s : State) : Outcome := s.act fun s => s.rowWindow m .skip q v

/-- DSTAT (R222): Returns the caller's depot status slot and clears it. -/
def execDstat (m : Sender) (q : Fin 1024) (s : State) : Outcome := s.act fun s => s.rowWindow m .dstat q 0

/-- QCMD_FLUSH (R230): The curator flushes a queue through DPT.QCMD. -/
def execQcmdFlush (m : Sender) (q : Fin 1024) (s : State) : Outcome :=
  s.act fun s => s.rowWrite m DPT_QCMD (0x80000000 ||| BitVec.ofNat 32 q.val)

/-- DEPOT_ENABLE (R240): Depot EN_REQ rising enables the depot with the requested pool, or fails POOLRANGE. -/
def execDepotEnable (m : Sender) (v : Word) (s : State) : Outcome := s.act fun s => s.rowWrite m DPT_CTL (withField v DPT_CTL_EN_REQ 1)

/-- DEPOT_DISABLE_SEAM (R240): With no open item, operation or registrar cell, the depot disables and discards every queue. -/
def execDepotDisableSeam (s : State) : Outcome := s.act Chip.depotSeam

/-- QUEUE_DISABLE_SEAM (R240): A queue with no open item reaches its disable seam. -/
def execQueueDisableSeam (q : Fin 1024) (s : State) : Outcome := s.act fun s => s.onDev (·.queueSeam q)

end Sys2Proof.Machine
end

