-- ==== Sys2Proof/Machine/RowsFlow.lean ====
section
/-! DEFINITION. Machine/RowsFlow.lean: the meanings of the rows of spec/opcode_table.json for branches, jumps, calls and returns (R53, R55, R101, R102). -/

namespace Sys2Proof.Machine

open Reg

/-- BEQ (R101): Branches if ra equals rb. -/
def execBeq (e : CoreId) (ra rb : GReg) (off : BitVec 15) (s : State) : Outcome := s.act fun s => s.runOp e (.br .eq ra rb off) 0

/-- BNE (R101): Branches if ra differs from rb. -/
def execBne (e : CoreId) (ra rb : GReg) (off : BitVec 15) (s : State) : Outcome := s.act fun s => s.runOp e (.br .ne ra rb off) 0

/-- BLT (R101): Branches if ra is signed-less than rb. -/
def execBlt (e : CoreId) (ra rb : GReg) (off : BitVec 15) (s : State) : Outcome := s.act fun s => s.runOp e (.br .lt ra rb off) 0

/-- BGE (R101): Branches if ra is not signed-less than rb. -/
def execBge (e : CoreId) (ra rb : GReg) (off : BitVec 15) (s : State) : Outcome := s.act fun s => s.runOp e (.br .ge ra rb off) 0

/-- BLTU (R101): Branches if ra is unsigned-less than rb. -/
def execBltu (e : CoreId) (ra rb : GReg) (off : BitVec 15) (s : State) : Outcome := s.act fun s => s.runOp e (.br .ltu ra rb off) 0

/-- BGEU (R101): Branches if ra is not unsigned-less than rb. -/
def execBgeu (e : CoreId) (ra rb : GReg) (off : BitVec 15) (s : State) : Outcome := s.act fun s => s.runOp e (.br .geu ra rb off) 0

/-- BEQI (R101): Branches if ra equals a 5-bit immediate. -/
def execBeqi (e : CoreId) (ra : GReg) (i : BitVec 5) (off : BitVec 15) (s : State) : Outcome := s.act fun s => s.runOp e (.bri 0 ra i off) 0

/-- BNEI (R101): Branches if ra differs from a 5-bit immediate. -/
def execBnei (e : CoreId) (ra : GReg) (i : BitVec 5) (off : BitVec 15) (s : State) : Outcome := s.act fun s => s.runOp e (.bri 1 ra i off) 0

/-- BLTI (R101): Branches if ra is signed-less than a 5-bit immediate. -/
def execBlti (e : CoreId) (ra : GReg) (i : BitVec 5) (off : BitVec 15) (s : State) : Outcome := s.act fun s => s.runOp e (.bri 2 ra i off) 0

/-- BGEI (R101): Branches if ra is not signed-less than a 5-bit immediate. -/
def execBgei (e : CoreId) (ra : GReg) (i : BitVec 5) (off : BitVec 15) (s : State) : Outcome := s.act fun s => s.runOp e (.bri 3 ra i off) 0

/-- JMP (R102): Jumps to a PC-relative offset in bank CB. -/
def execJmp (e : CoreId) (off : BitVec 22) (s : State) : Outcome := s.act fun s => s.runOp e (.jmp off) 0

/-- CALL (R53): Pushes the return word and jumps PC-relative. -/
def execCall (e : CoreId) (off : BitVec 22) (s : State) : Outcome := s.act fun s => s.runOp e (.call off) 0

/-- JMPR (R55): Jumps to the offset held in a register. -/
def execJmpr (e : CoreId) (ra : GReg) (s : State) : Outcome := s.act fun s => s.runOp e (.jmpr ra) 0

/-- CALLR (R53): Pushes the return word and jumps to a register offset. -/
def execCallr (e : CoreId) (ra : GReg) (s : State) : Outcome := s.act fun s => s.runOp e (.callr ra) 0

/-- RET (R53): Pops the return word and resumes at its bank and offset. -/
def execRet (e : CoreId) (s : State) : Outcome := s.act fun s => s.runOp e .ret 0

end Sys2Proof.Machine
end

