-- ==== Sys2Proof/Machine/RowsHost.lean ====
section
/-! DEFINITION. Machine/RowsHost.lean: the meanings of the rows of spec/opcode_table.json for the host port (R273 to R301, R519, R521). -/

namespace Sys2Proof.Machine

open Reg

/-- VPHY_DROP (R519): A link supply below threshold takes the link down. -/
def execVphyDrop (s : State) : Outcome := s.act fun s => s.vphyDrop

/-- VPHY_RETURN (R521): VPHY and VPHYH return within their limits for 100 µs and link training may start again. -/
def execVphyReturn (s : State) : Outcome := s.act fun s => s.onDev Dev.vphyReturn

/-- CONFIGURATION_REQUEST (R276): A host configuration request is completed, or retried until CFGRDY. -/
def execConfigurationRequest (write : Bool) (reg : BitVec 10) (v : Word) (s : State) : Outcome :=
  s.act fun s => s.config write (4 * reg.toNat) v

/-- PERST_N_ASSERT (R277): A link reset returns configuration space to reset and makes far memory absent. -/
def execPerstNAssert (s : State) : Outcome := s.act fun s => s.perstLow

/-- PERST_N_DEASSERT (R275): PERST_N rising lets link training begin with the effective LINKCFG. -/
def execPerstNDeassert (s : State) : Outcome := s.act fun s => s.perstHigh

/-- LTEN (R275): Writing LTEN from 0 to 1 starts link training. -/
def execLten (m : Sender) (v : Word) (s : State) : Outcome := s.act fun s => s.rowWrite m HPT_CTL (withField v HPT_CTL_LTEN 1)

/-- HOT_RESET (R275): A host Hot Reset or link disable sends the port back to training. -/
def execHotReset (s : State) : Outcome := s.act fun s => s.linkFails

/-- LINK_UP (R274): Training completes with the link in L0 and LSTAT updated. -/
def execLinkUp (u : LinkUp) (s : State) : Outcome := s.act fun s => s.linkUp u

/-- LINK_DOWN (R292): The link leaves L0 and L1 unplanned and far memory stops being present. -/
def execLinkDown (s : State) : Outcome := s.act fun s => s.linkFails

/-- LINK_POWER_STATE_CHANGE (R273): The host moves the link between L0, L1, L1.1, L1.2 and L2, including CLKREQ_N assertion by the host, and LSTAT.STATE follows. -/
def execLinkPowerStateChange (st : BitVec 3) (clkreq : Bool) (s : State) : Outcome := s.act fun s => s.linkPower st.toNat clkreq

/-- BUS_MASTER_ENABLE_CLEAR (R292): The host clears Bus Master Enable and far memory becomes absent. -/
def execBusMasterEnableClear (s : State) : Outcome := s.act fun s => s.setBme false

/-- D_STATE_CHANGE (R279): The host moves the function out of or into D0. -/
def execDStateChange (d0 : Bool) (s : State) : Outcome := s.act fun s => s.setD0 d0

/-- HOLD_TIMEOUT (R294): A held access reaching HOLDMAX fails with FAR_ABSENT. -/
def execHoldTimeout (s : State) : Outcome := s.act fun s => s.holdTimeout

/-- COMPLETION_TIMEOUT (R278): A device-issued non-posted request to the host receives no completion within the configured completion timeout range and fails as an error reply. -/
def execCompletionTimeout (s : State) : Outcome := s.act fun s => s.onDev (·.onHpt fun h => { h with noReply := true })

/-- HMEM (R291): A write to HPT.HMEM withdraws or restores host memory. -/
def execHmem (m : Sender) (v : Word) (s : State) : Outcome := s.act fun s => s.rowWrite m HPT_HMEM v

/-- AVAIL_SEAM (R291): With no far access in flight and the far cache empty, AVAIL_EFF falls. -/
def execAvailSeam (s : State) : Outcome := s.act fun s => s.availSeam

/-- FAR_WINDOW_DISABLE_SEAM (R283): A window with no access in flight and its lines written back becomes disabled. -/
def execFarWindowDisableSeam (b : Fin 256) (s : State) : Outcome := s.act fun s => s.onDev (·.windowSeam b)

/-- FAR_CACHE_FLUSH (R290): FCCMD.FLUSH writes back and invalidates every far-cache line. -/
def execFarCacheFlush (m : Sender) (s : State) : Outcome := s.act fun s => s.rowWrite m HPT_FCCMD 0x80000000

/-- FAR_CACHE_FLUSH_DONE (R290): The far-cache flush completes and BUSY clears. -/
def execFarCacheFlushDone (s : State) : Outcome := s.act fun s => s.onDev Dev.fcDone

/-- SNPDATA (R286): A host SnpData snoop is answered from the far cache line. -/
def execSnpdata (line : BitVec 46) (s : State) : Outcome := s.act fun s => s.snoop .data line.toNat

/-- SNPINV (R286): A host SnpInv snoop invalidates the line and returns dirty data. -/
def execSnpinv (line : BitVec 46) (s : State) : Outcome := s.act fun s => s.snoop .inv line.toNat

/-- SNPCUR (R286): A host SnpCur snoop returns the current line data. -/
def execSnpcur (line : BitVec 46) (s : State) : Outcome := s.act fun s => s.snoop .cur line.toNat

/-- APERTURE_WRITE (R297): A host BAR2 aperture write reaches device memory, checked against the fence list. -/
def execApertureWrite (off : BitVec 16) (data : List Byte) (s : State) : Outcome := s.act fun s => s.dpWrite off.toNat data

/-- APERTURE_READ (R297): A host BAR2 aperture read returns device memory data. -/
def execApertureRead (off : BitVec 16) (n : Nat) (s : State) : Outcome := s.act fun s => s.dpRead off.toNat n

/-- MSI_X_UNMASK (R328): A host write that unmasks a vector or the function sends the message whose pending bit was set while masked. -/
def execMsiXUnmask (v : Fin 64) (addr : BitVec 64) (data : Word) (mask : Bool) (s : State) : Outcome :=
  s.act fun s => s.onDev (·.msixWrite v addr data mask)

end Sys2Proof.Machine
end

