-- ==== Sys2Proof/Machine/RowsItc.lean ====
section
/-! DEFINITION. Machine/RowsItc.lean: the meanings of the rows of spec/opcode_table.json for interrupts and events (R357 to R368). -/

namespace Sys2Proof.Machine

open Reg

/-- PENDSET (R359): Sets pending bits, or soft bits of level sources. -/
def execPendset (m : Sender) (w : Fin 8) (v : Word) (s : State) : Outcome := s.act fun s => s.rowWrite m (ITC_PENDSET w) v

/-- PENDCLR (R359): Clears pending bits, or soft bits of level sources. -/
def execPendclr (m : Sender) (w : Fin 8) (v : Word) (s : State) : Outcome := s.act fun s => s.rowWrite m (ITC_PENDCLR w) v

/-- ENSET (R360): Enables sources, making pending ones eligible at once. -/
def execEnset (m : Sender) (w : Fin 8) (v : Word) (s : State) : Outcome := s.act fun s => s.rowWrite m (ITC_ENSET w) v

/-- ENCLR (R363): Disables sources and withdraws their offers. -/
def execEnclr (m : Sender) (w : Fin 8) (v : Word) (s : State) : Outcome := s.act fun s => s.rowWrite m (ITC_ENCLR w) v

/-- SRC_WRITE (R363): A write to ITC.SRC withdraws and remakes any offer under the new settings. -/
def execSrcWrite (m : Sender) (n : Fin 256) (v : Word) (s : State) : Outcome := s.act fun s => s.rowWrite m (ITC_SRC n) v

/-- CLAIM (R364): Accepts the eligible source for the caller without exception entry, or returns the spurious vector. -/
def execClaim (m : Sender) (s : State) : Outcome := s.act fun s => s.rowRead m ITC_CLAIM

/-- EOI (R365): Pops the caller's running-priority stack and resamples a level source. -/
def execEoi (m : Sender) (v : Word) (s : State) : Outcome := s.act fun s => s.rowWrite m ITC_EOI v

/-- LINE_ASSERT (R359): A source input line asserts or rises, making the source pending. -/
def execLineAssert (n : Fin 256) (s : State) : Outcome := s.act fun s => s.lineAssert n

/-- LINE_DEASSERT (R363): A level source line de-asserts, withdrawing a standing offer. -/
def execLineDeassert (n : Fin 256) (s : State) : Outcome := s.act fun s => s.lineDeassert n

/-- MSI_X_SEND (R367): The host port takes a host-routed source's MSI-X message, clearing its pending bit. -/
def execMsiXSend (s : State) : Outcome := s.act fun s => s.onDev Dev.msixSend

end Sys2Proof.Machine
end

