-- ==== Sys2Proof/Machine/RowsMem.lean ====
section
/-! DEFINITION. Machine/RowsMem.lean: the meanings of the rows of spec/opcode_table.json for loads, stores and atomics (R98 to R108). -/

namespace Sys2Proof.Machine

open Reg

/-- LW (R98): Short-form word load through DB or the stack bank. -/
def execLw (e : CoreId) (rt base : GReg) (i : BitVec 16) (s : State) : Outcome := s.act fun s => s.runOp e (.ld .w rt base i) 0

/-- LH (R98): Short-form sign-extended halfword load. -/
def execLh (e : CoreId) (rt base : GReg) (i : BitVec 16) (s : State) : Outcome := s.act fun s => s.runOp e (.ld .h rt base i) 0

/-- LHU (R98): Short-form zero-extended halfword load. -/
def execLhu (e : CoreId) (rt base : GReg) (i : BitVec 16) (s : State) : Outcome := s.act fun s => s.runOp e (.ld .hu rt base i) 0

/-- LB (R98): Short-form sign-extended byte load. -/
def execLb (e : CoreId) (rt base : GReg) (i : BitVec 16) (s : State) : Outcome := s.act fun s => s.runOp e (.ld .b rt base i) 0

/-- LBU (R98): Short-form zero-extended byte load. -/
def execLbu (e : CoreId) (rt base : GReg) (i : BitVec 16) (s : State) : Outcome := s.act fun s => s.runOp e (.ld .bu rt base i) 0

/-- SW (R98): Short-form word store. -/
def execSw (e : CoreId) (rt base : GReg) (i : BitVec 16) (s : State) : Outcome := s.act fun s => s.runOp e (.st .w rt base i) 0

/-- SH (R98): Short-form halfword store. -/
def execSh (e : CoreId) (rt base : GReg) (i : BitVec 16) (s : State) : Outcome := s.act fun s => s.runOp e (.st .h rt base i) 0

/-- SB (R98): Short-form byte store. -/
def execSb (e : CoreId) (rt base : GReg) (i : BitVec 16) (s : State) : Outcome := s.act fun s => s.runOp e (.st .b rt base i) 0

/-- LW_I (R99): Word load with post-increment of the base by 4. -/
def execLwI (e : CoreId) (rt ra : GReg) (i : BitVec 12) (s : State) : Outcome := s.act fun s => s.runOp e (.ldi .w rt ra i) 0

/-- LH_I (R99): Signed halfword load with post-increment by 2. -/
def execLhI (e : CoreId) (rt ra : GReg) (i : BitVec 12) (s : State) : Outcome := s.act fun s => s.runOp e (.ldi .h rt ra i) 0

/-- LHU_I (R99): Unsigned halfword load with post-increment by 2. -/
def execLhuI (e : CoreId) (rt ra : GReg) (i : BitVec 12) (s : State) : Outcome := s.act fun s => s.runOp e (.ldi .hu rt ra i) 0

/-- LB_I (R99): Signed byte load with post-increment by 1. -/
def execLbI (e : CoreId) (rt ra : GReg) (i : BitVec 12) (s : State) : Outcome := s.act fun s => s.runOp e (.ldi .b rt ra i) 0

/-- LBU_I (R99): Unsigned byte load with post-increment by 1. -/
def execLbuI (e : CoreId) (rt ra : GReg) (i : BitVec 12) (s : State) : Outcome := s.act fun s => s.runOp e (.ldi .bu rt ra i) 0

/-- SW_I (R99): Word store with post-increment by 4. -/
def execSwI (e : CoreId) (rt ra : GReg) (i : BitVec 12) (s : State) : Outcome := s.act fun s => s.runOp e (.sti .w rt ra i) 0

/-- SH_I (R99): Halfword store with post-increment by 2. -/
def execShI (e : CoreId) (rt ra : GReg) (i : BitVec 12) (s : State) : Outcome := s.act fun s => s.runOp e (.sti .h rt ra i) 0

/-- SB_I (R99): Byte store with post-increment by 1. -/
def execSbI (e : CoreId) (rt ra : GReg) (i : BitVec 12) (s : State) : Outcome := s.act fun s => s.runOp e (.sti .b rt ra i) 0

/-- LDL (R99): Word load from a full 32-bit device address. -/
def execLdl (e : CoreId) (rt ra : GReg) (i : BitVec 12) (s : State) : Outcome := s.act fun s => s.runOp e (.ldl .w rt ra i) 0

/-- LDLH (R99): Signed halfword long load. -/
def execLdlh (e : CoreId) (rt ra : GReg) (i : BitVec 12) (s : State) : Outcome := s.act fun s => s.runOp e (.ldl .h rt ra i) 0

/-- LDLHU (R99): Unsigned halfword long load. -/
def execLdlhu (e : CoreId) (rt ra : GReg) (i : BitVec 12) (s : State) : Outcome := s.act fun s => s.runOp e (.ldl .hu rt ra i) 0

/-- LDLB (R99): Signed byte long load. -/
def execLdlb (e : CoreId) (rt ra : GReg) (i : BitVec 12) (s : State) : Outcome := s.act fun s => s.runOp e (.ldl .b rt ra i) 0

/-- LDLBU (R99): Unsigned byte long load. -/
def execLdlbu (e : CoreId) (rt ra : GReg) (i : BitVec 12) (s : State) : Outcome := s.act fun s => s.runOp e (.ldl .bu rt ra i) 0

/-- STL (R99): Word store to a full 32-bit device address. -/
def execStl (e : CoreId) (rt ra : GReg) (i : BitVec 12) (s : State) : Outcome := s.act fun s => s.runOp e (.stl .w rt ra i) 0

/-- STLH (R99): Halfword long store. -/
def execStlh (e : CoreId) (rt ra : GReg) (i : BitVec 12) (s : State) : Outcome := s.act fun s => s.runOp e (.stl .h rt ra i) 0

/-- STLB (R99): Byte long store. -/
def execStlb (e : CoreId) (rt ra : GReg) (i : BitVec 12) (s : State) : Outcome := s.act fun s => s.runOp e (.stl .b rt ra i) 0

/-- LL (R107): Loads a word and reserves its 64-byte granule. -/
def execLl (e : CoreId) (rt ra : GReg) (s : State) : Outcome := s.act fun s => s.runOp e (.ll rt ra) 0

/-- SC (R108): Stores only if the reservation still covers the address, reporting success in rt. -/
def execSc (e : CoreId) (rt ra rb : GReg) (s : State) : Outcome := s.act fun s => s.runOp e (.sc rt ra rb) 0

/-- SWAP (R106): Atomically exchanges a memory word with rb. -/
def execSwap (e : CoreId) (rt ra rb : GReg) (s : State) : Outcome := s.act fun s => s.runOp e (.amo .swap rt ra rb) 0

/-- AADD (R106): Atomic add at memory returning the old value. -/
def execAadd (e : CoreId) (rt ra rb : GReg) (s : State) : Outcome := s.act fun s => s.runOp e (.amo .add rt ra rb) 0

/-- AAND (R106): Atomic AND at memory. -/
def execAand (e : CoreId) (rt ra rb : GReg) (s : State) : Outcome := s.act fun s => s.runOp e (.amo .and rt ra rb) 0

/-- AOR (R106): Atomic OR at memory. -/
def execAor (e : CoreId) (rt ra rb : GReg) (s : State) : Outcome := s.act fun s => s.runOp e (.amo .or rt ra rb) 0

/-- AMIN (R106): Atomic signed minimum at memory. -/
def execAmin (e : CoreId) (rt ra rb : GReg) (s : State) : Outcome := s.act fun s => s.runOp e (.amo .min rt ra rb) 0

/-- AMAX (R106): Atomic signed maximum at memory. -/
def execAmax (e : CoreId) (rt ra rb : GReg) (s : State) : Outcome := s.act fun s => s.runOp e (.amo .max rt ra rb) 0

end Sys2Proof.Machine
end

