-- ==== Sys2Proof/Machine/RowsPins.lean ====
section
/-! DEFINITION. Machine/RowsPins.lean: the meanings of the rows of spec/opcode_table.json for microphones, pins and the line guard (R425, R431, R450 to R461, R519). -/

namespace Sys2Proof.Machine

open Reg

/-- PDM_FRAME (R450): Each FRAME samples per microphone, PDM pushes one item or drops the frame. -/
def execPdmFrame (samples : List (BitVec 16)) (s : State) : Outcome := s.act fun s => s.pdmFrame samples

/-- PDM_ENABLE_SEAM (R451): PDM EN changes at the frame boundary, clearing DROPS and SEQ on rise. -/
def execPdmEnableSeam (s : State) : Outcome := s.act fun s => s.onDev Dev.pdmSeam

/-- OUTSET (R431): Sets GPIO output values. -/
def execOutset (m : Sender) (w : Fin 2) (v : Word) (s : State) : Outcome := s.act fun s => s.rowWrite m (GPIO_OUTSET w) v

/-- OUTCLR (R431): Clears GPIO output values. -/
def execOutclr (m : Sender) (w : Fin 2) (v : Word) (s : State) : Outcome := s.act fun s => s.rowWrite m (GPIO_OUTCLR w) v

/-- LINE_CHANGE (R454): A filtered input's new level passes the glitch filter and its line changes. -/
def execLineChange (i : Fin 68) (level : Bool) (s : State) : Outcome := s.act fun s => s.onDev (·.inChange i level)

/-- STORM (R455): An input passing more than STORMN edges in 10 ms is masked. -/
def execStorm (i : Fin 68) (s : State) : Outcome := s.act fun s => s.onDev (·.storm i)

/-- STUCK (R455): An input asserted for STUCK × 100 ms is masked. -/
def execStuck (i : Fin 68) (s : State) : Outcome := s.act fun s => s.onDev (·.stuck i)

/-- UNMASK (R455): Writing 1 to a STORM or STUCK bit unmasks the input and restarts its timers. -/
def execUnmask (m : Sender) (w : Fin 3) (stuckReg : Bool) (v : Word) (s : State) : Outcome :=
  s.act fun s => s.rowWrite m (if stuckReg then GPIO_STUCK w else GPIO_STORM w) v

/-- KEYBOARD_SCAN (R456): The keyboard scanner runs one scan and updates debounced keys. -/
def execKeyboardScan (keys : BitVec 128) (s : State) : Outcome := s.act fun s => s.onDev (·.kbdScan keys)

/-- TACH_UPDATE (R457): Each second TACH COUNT is updated and a stall may signal source 147. -/
def execTachUpdate (n0 n1 : BitVec 16) (s : State) : Outcome := s.act fun s => s.onDev (·.tach n0.toNat n1.toNat)

/-- SHORT_TEST (R459): Every 500 µs driven guarded pins are compared with read-back and shorts turned off. -/
def execShortTest (g : Fin 5) (pin : Fin 16) (drive : PadDrive) (reads : Bool) (s : State) : Outcome :=
  s.act fun s => s.onDev (·.shortTest g pin drive reads)

/-- OPEN_TEST (R460): Every OPER ms guarded inputs are tested for a lost external load. -/
def execOpenTest (g : Fin 5) (pin : Fin 16) (follows : Bool) (s : State) : Outcome := s.act fun s => s.onDev (·.openTest g pin follows)

/-- REVERSAL_PROBE (R461): On BAT_PRES assertion the guard probes both battery orientations and may swap them. -/
def execReversalProbe (cur swapped : Bool) (s : State) : Outcome := s.act fun s => s.onDev (·.reversal cur swapped)

/-- SHORT_CLEAR (R459): Writing 1 to GSTAT.SHORT re-enables the shorted pin. -/
def execShortClear (m : Sender) (g : Fin 5) (v : Word) (s : State) : Outcome :=
  s.act fun s => s.rowWrite m (PAD_GSTAT g) (withField v (PAD_GSTAT_SHORT g) 1)

/-- HOLDREL (R425): Releases every held pad to its owning unit's value. -/
def execHoldrel (m : Sender) (s : State) : Outcome := s.act fun s => s.rowWrite m PAD_HOLDREL 1

/-- VIO33_DROP (R519): VIO33 below 2.90 V for 10 µs disables guarded pins and suspends guard tests. -/
def execVio33Drop (s : State) : Outcome := s.act fun s => s.onDev Dev.vio33Drop

/-- VIO33_RETURN (R519): 1 ms after VIO33 returns above 3.00 V guarded pins resume. -/
def execVio33Return (s : State) : Outcome := s.act fun s => s.onDev Dev.vio33Return

end Sys2Proof.Machine
end

