-- ==== Sys2Proof/Machine/RowsPwr.lean ====
section
/-! DEFINITION. Machine/RowsPwr.lean: the meanings of the rows of spec/opcode_table.json for power states (R403 to R428). -/

namespace Sys2Proof.Machine

open Reg

/-- ENTER_SLEEP (R408): PWR.ENTER with target SLEEP starts the entry handshake. -/
def execEnterSleep (m : Sender) (s : State) : Outcome := s.act fun s => s.rowWrite m PWR_ENTER (keyed 0x2D57 3)

/-- ENTER_DEEP_SLEEP (R408): PWR.ENTER with target DEEP_SLEEP starts the entry handshake. -/
def execEnterDeepSleep (m : Sender) (s : State) : Outcome := s.act fun s => s.rowWrite m PWR_ENTER (keyed 0x2D57 2)

/-- ENTER_OFF (R408): PWR.ENTER with target OFF starts the entry handshake. -/
def execEnterOff (m : Sender) (s : State) : Outcome := s.act fun s => s.rowWrite m PWR_ENTER (keyed 0x2D57 1)

/-- HANDSHAKE_ANSWER (R410): A unit answers ACK, DELAY or REFUSE to the entry query. -/
def execHandshakeAnswer (u : BitVec 8) (s : State) : Outcome := s.act fun s => s.answerQuery u.toNat

/-- HSTMO_EXPIRY (R409): The handshake time limit expires with a unit still in DELAY. -/
def execHstmoExpiry (s : State) : Outcome := s.act fun s => s.onDev Dev.handshakeTimeout

/-- WAKE_ACCEPT (R420): A held wake condition is accepted and the exit from the current state begins. -/
def execWakeAccept (s : State) : Outcome := s.act fun s => s.wakeAccept

/-- EXIT_RETRY (R418): A failed exit rail request is repeated 100 µs later. -/
def execExitRetry (s : State) : Outcome := s.act fun s => s.onDev Dev.exitRetry

/-- IDLE_ENTRY (R407): With AUTOIDLE set and every engine and the curator waiting, the device enters Idle. -/
def execIdleEntry (s : State) : Outcome := s.act fun s => s.idleEntry

/-- IDLE_EXIT (R407): An engine or the curator begins a handshake and Idle ends. -/
def execIdleExit (s : State) : Outcome := s.act fun s => s.idleExit

/-- ON_N (R419): ON_N low at two consecutive 32 kHz edges raises a wake or starts the boot. -/
def execOnN (s : State) : Outcome := s.act fun s => s.onN

/-- WAKE_PIN (R419): A WAKE0–WAKE3 pin goes low and raises an enabled wake. -/
def execWakePin (k : Fin 4) (low : Bool) (s : State) : Outcome := s.act fun s => s.onDev (·.wakePin k low)

/-- LISTENER_MATCH (R423): The sleeping listener matches an address, ACKs or NACKs it and raises a wake. -/
def execListenerMatch (p : Fin 2) (byte : BitVec 8) (s : State) : Outcome := s.act fun s => s.onDev (·.listener p byte)

/-- VAD_FIRE (R452): The voice-activity detector's block means cross the threshold and it fires. -/
def execVadFire (s : State) : Outcome := s.act fun s => s.onDev Dev.vadFire

/-- PDOWN_SEAM (R427): A block requested off finishes its transfer and is switched off. -/
def execPdownSeam (i : Fin 11) (s : State) : Outcome := s.act fun s => s.onDev (·.pdownSeam i)

/-- PDOWN_POWER_UP (R427): A block requested on is powered at reset values and EFF clears. -/
def execPdownPowerUp (i : Fin 11) (s : State) : Outcome := s.act fun s => s.onDev (·.pdownUp i)

end Sys2Proof.Machine
end

