-- ==== Sys2Proof/Machine/RowsRing.lean ====
section
/-! DEFINITION. Machine/RowsRing.lean: the meanings of the rows of spec/opcode_table.json for rings, doorbells and movers (R307 to R336). -/

namespace Sys2Proof.Machine

open Reg

/-- SUBMISSION_DOORBELL (R309): A host doorbell write sets the SQ tail, or puts the SQ in ERROR. -/
def execSubmissionDoorbell (n : Fin 64) (v : Word) (s : State) : Outcome := s.act fun s => s.bar0Write (0x20000 + 0x40 * n.val) 4 v

/-- COMPLETION_DOORBELL (R310): A host doorbell write releases CQ records up to the new head. -/
def execCompletionDoorbell (c : Fin 64) (v : Word) (s : State) : Outcome := s.act fun s => s.bar0Write (0x21000 + 0x40 * c.val) 4 v

/-- DESCRIPTOR_FETCH (R311): The ring engine reserves a CQ slot and table entry and fetches descriptors. -/
def execDescriptorFetch (ds : List (BitVec 512)) (s : State) : Outcome := s.act fun s => s.onDev (·.fetchTurn ds)

/-- FETCH_FAILURE (R313): A failed fetch returns its reservations and puts the SQ in ERROR. -/
def execFetchFailure (s : State) : Outcome := s.act fun s => s.onDev Dev.fetchFail

/-- NOP (R324): A NOP descriptor completes DONE at dispatch. -/
def execNop (n : Fin 64) (s : State) : Outcome := s.act fun s => s.onDev (·.ringNop n)

/-- RUN (R318): A RUN descriptor is handed to the registrar with its deadline and buffers. -/
def execRun (n : Fin 64) (s : State) : Outcome := s.act fun s => s.onDev (·.ringRun n)

/-- COPY (R319): A COPY descriptor is queued on a mover. -/
def execCopy (n : Fin 64) (s : State) : Outcome := s.act fun s => s.onDev (·.ringCopy n)

/-- QPUSH (R322): A QPUSH descriptor reads its item data into the staging buffer. -/
def execQpush (n : Fin 64) (s : State) : Outcome := s.act fun s => s.ringQpush n

/-- ITEM_PUSH (R322): The staged QPUSH data is pushed as one depot item and the outcome recorded. -/
def execItemPush (s : State) : Outcome := s.act fun s => s.itemPush

/-- TIME (R323): CTRL TIME completes DONE carrying the device timebase. -/
def execTime (n : Fin 64) (s : State) : Outcome := s.act fun s => s.onDev (·.ringTime n)

/-- EVENT (R323): CTRL EVENT sends an event as SEV would. -/
def execEvent (n : Fin 64) (s : State) : Outcome := s.act fun s => s.onDev (·.ringEvent n)

/-- SWINT (R323): CTRL SWINT sets a software interrupt source pending. -/
def execSwint (n : Fin 64) (s : State) : Outcome := s.act fun s => s.onDev (·.ringSwint n)

/-- FENCE (R324): A FENCE descriptor dispatches and waits for earlier descriptors of its SQ. -/
def execFence (n : Fin 64) (s : State) : Outcome := s.act fun s => s.onDev (·.ringFence n)

/-- FENCE_COMPLETE (R324): Every earlier descriptor's record is written and the FENCE completes DONE. -/
def execFenceComplete (n : Fin 64) (s : State) : Outcome := s.act fun s => s.onDev (·.ringFenceDone n)

/-- COPY_START (R319): A mover takes the next queued COPY and issues its line transfers. -/
def execCopyStart (mv : Fin 2) (s : State) : Outcome := s.act fun s => s.copyStart mv

/-- COPY_COMPLETE (R321): A COPY's writes are performed or a line fails, and it completes DONE or FAULT. -/
def execCopyComplete (mv : Fin 2) (s : State) : Outcome := s.act fun s => s.copyDone mv

/-- MODERATION_TIMER (R327): The CQ timer reaches TIME and the vector is sent. -/
def execModerationTimer (c : Fin 64) (s : State) : Outcome := s.act fun s => s.onDev (·.cqTimer c)

/-- SQ_ENABLE (R307): SQ EN_REQ rising enables the SQ if its CQ is enabled, else sets CQOFF. -/
def execSqEnable (m : Sender) (n : Fin 64) (v : Word) (s : State) : Outcome :=
  s.act fun s => s.rowWrite m (RNG_SQCTL n) (withField v (RNG_SQCTL_EN_REQ n) 1)

/-- SQ_DISABLE (R330): SQ EN_REQ falling stops fetching and cancels unadmitted descriptors. -/
def execSqDisable (m : Sender) (n : Fin 64) (v : Word) (s : State) : Outcome :=
  s.act fun s => s.rowWrite m (RNG_SQCTL n) (withField v (RNG_SQCTL_EN_REQ n) 0)

/-- SQ_DISABLE_SEAM (R330): No fetch or waiting descriptor remains and the SQ's EN_EFF falls. -/
def execSqDisableSeam (n : Fin 64) (s : State) : Outcome := s.act fun s => s.onDev (·.sqSeam n)

/-- CQ_ENABLE (R307): CQ EN_REQ rising enables the CQ with counters zeroed and phase 1. -/
def execCqEnable (m : Sender) (c : Fin 64) (v : Word) (s : State) : Outcome :=
  s.act fun s => s.rowWrite m (RNG_CQCTL c) (withField v (RNG_CQCTL_EN_REQ c) 1)

/-- CQ_DISABLE (R331): CQ EN_REQ falling discards every further record for the CQ. -/
def execCqDisable (m : Sender) (c : Fin 64) (v : Word) (s : State) : Outcome :=
  s.act fun s => s.rowWrite m (RNG_CQCTL c) (withField v (RNG_CQCTL_EN_REQ c) 0)

/-- CQ_DISABLE_SEAM (R331): No enabled SQ names the CQ and RSV is 0, so EN_EFF falls. -/
def execCqDisableSeam (c : Fin 64) (s : State) : Outcome := s.act fun s => s.onDev (·.cqSeam c)

/-- RESUME_GO (R329): Writing RNG.RESUME.GO while present clears PAUSED and writes held records. -/
def execResumeGo (m : Sender) (s : State) : Outcome := s.act fun s => s.rowWrite m RNG_RESUME 1

/-- MOVER_DISABLE_SEAM (R336): A mover with an empty queue and nothing running becomes disabled. -/
def execMoverDisableSeam (mv : Fin 2) (s : State) : Outcome := s.act fun s => s.onDev (·.moverSeam mv)

end Sys2Proof.Machine
end

