-- ==== Sys2Proof/Machine/RowsSerial.lean ====
section
/-! DEFINITION. Machine/RowsSerial.lean: the meanings of the rows of spec/opcode_table.json for serial ports, the rail sequencer, eSPI and the boot flash (R432 to R449). -/

namespace Sys2Proof.Machine

open Reg

/-- CONTROLLER_TRANSFER (R436): SPk.CMD with GO starts a controller transfer. -/
def execControllerTransfer (m : Sender) (k : Fin 8) (v : Word) (s : State) : Outcome :=
  s.act fun s => s.rowWrite m (SP_CMD k) (withField v (SP_CMD_GO k) 1)

/-- TRANSFER_DONE (R436): A controller transfer ends by STOP, NACK, arbitration loss or underflow and sets DONE. -/
def execTransferDone (k : Fin 8) (how : SpEnd) (data : List Byte) (pecBad : Bool) (s : State) : Outcome :=
  s.act fun s => s.onDev (·.spEnd k how data pecBad)

/-- TARGET_ADDRESSED (R437): A port in target role is addressed on its bus and sets ADDR. -/
def execTargetAddressed (k : Fin 8) (call : SpCall) (s : State) : Outcome := s.act fun s => s.onDev (·.spAddressed k call)

/-- TARGET_TIMEOUT (R437): A target read stretching for 25 ms sends 0xFF and sets TIMEOUT. -/
def execTargetTimeout (k : Fin 8) (s : State) : Outcome := s.act fun s => s.onDev (·.spTimeout k)

/-- SP_DATA_WRITE (R436): Pushes a byte to the port's TX FIFO or sets OVR. -/
def execSpDataWrite (m : Sender) (k : Fin 8) (b : Byte) (s : State) : Outcome := s.act fun s => s.rowWrite m (SP_DATA k) (0#24 ++ b)

/-- SP_DATA_READ (R436): Pops a byte from the port's RX FIFO. -/
def execSpDataRead (m : Sender) (k : Fin 8) (s : State) : Outcome := s.act fun s => s.rowRead m (SP_DATA k)

/-- SP_ENABLE_SEAM (R435): A port's EN change takes effect at the end of its current transfer. -/
def execSpEnableSeam (k : Fin 8) (s : State) : Outcome := s.act fun s => s.onDev (·.spSeam k)

/-- UART_RECEIVE (R432): A UART port receives a character on RXD into its RX FIFO, setting FRAME, OVR or RXHIGH as the character requires. -/
def execUartReceive (k : Fin 8) (b : Byte) (bad : Bool) (s : State) : Outcome := s.act fun s => s.onDev (·.uartReceive k b bad)

/-- IN_BAND_INTERRUPT (R432): An I3C target on the bus raises an in-band interrupt that the controller port takes, setting IRQ bit IBI. -/
def execInBandInterrupt (k : Fin 8) (s : State) : Outcome := s.act fun s => s.onDev (·.spIbi k)

/-- RSEQ_POINT (R439): Firmware requests a table point on a wing through SP0.RSEQREQ. -/
def execRseqPoint (m : Sender) (w : Fin 2) (i : Fin 16) (s : State) : Outcome := s.act fun s => s.rowWrite m SP_RSEQREQ (rseqWord 0 w i)

/-- RSEQ_ON (R439): Firmware requests a wing rail on. -/
def execRseqOn (m : Sender) (w : Fin 2) (s : State) : Outcome := s.act fun s => s.rowWrite m SP_RSEQREQ (rseqWord 1 w 0)

/-- RSEQ_OFF (R439): Firmware requests a wing rail off. -/
def execRseqOff (m : Sender) (w : Fin 2) (s : State) : Outcome := s.act fun s => s.rowWrite m SP_RSEQREQ (rseqWord 2 w 0)

/-- SEQUENCER_WRITE (R440): At a transfer boundary the rail sequencer performs a PMIC write and reports its outcome. -/
def execSequencerWrite (acked : Bool) (status : BitVec 8) (s : State) : Outcome := s.act fun s => s.onDev (·.seqWrite acked status)

/-- IO_WRITE (R444): A host eSPI I/O write is stored in a window mailbox or port 0x80. -/
def execIoWrite (port : BitVec 16) (data : List Byte) (s : State) : Outcome := s.act fun s => s.onDev (·.espiIoWrite port.toNat data)

/-- IO_READ (R444): A host eSPI I/O read returns mailbox bytes or 0xFF. -/
def execIoRead (port : BitVec 16) (n : Fin 5) (s : State) : Outcome := s.act fun s => s.onDev (·.espiIoRead port.toNat n)

/-- MEMORY_CYCLE (R443): A host eSPI memory cycle is answered with an unsuccessful completion. -/
def execMemoryCycle (s : State) : Outcome := s.act fun s => s.onDev Dev.espiMemory

/-- SET_CONFIGURATION (R443): The host chooses frequency, I/O mode and channels within the advertised set. -/
def execSetConfiguration (freq : Fin 8) (mode : Fin 4) (chans : BitVec 3) (s : State) : Outcome :=
  s.act fun s => s.onDev (·.espiConfig freq mode chans)

/-- VIRTUAL_WIRE (R445): A host virtual-wire change is stored, including THERM into ADM.THERM.HOST. -/
def execVirtualWire (sys : BitVec 8) (host : BitVec 4) (s : State) : Outcome := s.act fun s => s.virtualWire sys host

/-- VWOUT (R445): A VWOUT write changes device wires, sent at the next opportunity with Alert. -/
def execVwout (m : Sender) (v : Word) (s : State) : Outcome := s.act fun s => s.rowWrite m ESPI_VWOUT v

/-- OOB_PACKET (R446): A host OOB packet enters the RX buffer or is deferred. -/
def execOobPacket (data : List Byte) (s : State) : Outcome := s.act fun s => s.onDev (·.oobPacket data)

/-- OOB_SEND (R446): OOBCTL GO offers the TX buffer to the host with Alert. -/
def execOobSend (m : Sender) (v : Word) (s : State) : Outcome := s.act fun s => s.rowWrite m ESPI_OOBCTL (withField v ESPI_OOBCTL_GO 1)

/-- TXDONE (R446): The host takes the OOB packet and TXDONE is set. -/
def execTxdone (s : State) : Outcome := s.act fun s => s.onDev Dev.oobTaken

/-- ESPI_RST_N (R447): ESPI_RST_N low resets the eSPI channels and host-chosen configuration. -/
def execEspiRstN (s : State) : Outcome := s.act fun s => s.onDev Dev.espiReset

/-- ESPI_RST_N_RISE (R419): ESPI_RST_N rises: the eSPI CTL fields take effect and, while enabled, a wake is raised. -/
def execEspiRstNRise (s : State) : Outcome := s.act fun s => s.onDev Dev.espiRise

/-- FSPI_READ (R448): Issues a flash read command into the DATA FIFO. -/
def execFspiRead (m : Sender) (v : Word) (s : State) : Outcome := s.act fun s => s.rowWrite m FSPI_CMD (flashWord 0 v)

/-- FSPI_WRITE (R449): Issues a flash program command unless write-protected. -/
def execFspiWrite (m : Sender) (v : Word) (s : State) : Outcome := s.act fun s => s.rowWrite m FSPI_CMD (flashWord 1 v)

/-- FSPI_ERASE (R449): Issues a flash erase command unless write-protected. -/
def execFspiErase (m : Sender) (v : Word) (s : State) : Outcome := s.act fun s => s.rowWrite m FSPI_CMD (flashWord 2 v)

/-- FSPI_OTHER (R448): Issues any other flash command. -/
def execFspiOther (m : Sender) (v : Word) (s : State) : Outcome := s.act fun s => s.rowWrite m FSPI_CMD (flashWord 3 v)

/-- FLASH_POLL (R449): Every 16 µs the controller polls flash status, ending the command when ready. -/
def execFlashPoll (status : Byte) (s : State) : Outcome := s.act fun s => s.onDev (·.flashPoll status)

/-- POLL_TIMEOUT (R449): Polling lasting 8 s sets PTMO and clears BUSY. -/
def execPollTimeout (s : State) : Outcome := s.act fun s => s.onDev Dev.flashTimeout

/-- FSPI_DATA_WRITE (R448): Pushes four bytes into the FSPI FIFO. -/
def execFspiDataWrite (m : Sender) (v : Word) (s : State) : Outcome := s.act fun s => s.rowWrite m FSPI_DATA v

/-- FSPI_DATA_READ (R448): Pops four bytes from the FSPI FIFO. -/
def execFspiDataRead (m : Sender) (s : State) : Outcome := s.act fun s => s.rowRead m FSPI_DATA

end Sys2Proof.Machine
end

