-- ==== Sys2Proof/Machine/RowsSys.lean ====
section
/-! DEFINITION. Machine/RowsSys.lean: the meanings of the rows of spec/opcode_table.json for system instructions, waits, repeat prefixes, custom instructions, and what befalls an engine's stores and boundary (R60 to R78, R104, R109 to R126, R141 to R144, R362). -/

namespace Sys2Proof.Machine

open Reg

/-- MFS (R60): Reads a system register into rd, checking user-mode permission. -/
def execMfs (e : CoreId) (rd : GReg) (sr : BitVec 8) (s : State) : Outcome := s.act fun s => s.runOp e (.mfs rd sr) 0

/-- MTS (R64): Writes a system register with its shadow or serialising timing. -/
def execMts (e : CoreId) (sr : BitVec 8) (ra : GReg) (s : State) : Outcome := s.act fun s => s.runOp e (.mts sr ra) 0

/-- TRAP (R69): Raises the TRAP cause with the immediate in EVAL. -/
def execTrap (e : CoreId) (i : BitVec 16) (s : State) : Outcome := s.act fun s => s.runOp e (.trap i) 0

/-- BKPT (R69): Raises BREAK, or halts when BKHALT is set. -/
def execBkpt (e : CoreId) (i : BitVec 16) (s : State) : Outcome := s.act fun s => s.runOp e (.bkpt i) 0

/-- RFE (R77): Returns from an exception by restoring the frame, or tail-chains. -/
def execRfe (e : CoreId) (s : State) : Outcome := s.act fun s => s.runOp e .rfe 0

/-- FENCE_A (R159): Load barrier that invalidates clean data-cache lines. -/
def execFenceA (e : CoreId) (s : State) : Outcome := s.act fun s => s.runOp e .fenceA 0

/-- FENCE_R (R158): Full barrier that drains the store buffer and write-through traffic. -/
def execFenceR (e : CoreId) (s : State) : Outcome := s.act fun s => s.runOp e .fenceR 0

/-- INVAL (R120): Invalidates the line at ra in the selected caches and the far cache. -/
def execInval (e : CoreId) (ra : GReg) (sel : BitVec 2) (s : State) : Outcome := s.act fun s => s.runOp e (.inval ra sel) 0

/-- FLUSH (R120): Writes the line at ra home and invalidates it. -/
def execFlush (e : CoreId) (ra : GReg) (s : State) : Outcome := s.act fun s => s.runOp e (.flush ra) 0

/-- WFE (R116): Clears a set event latch and continues, or begins waiting for an event. -/
def execWfe (e : CoreId) (s : State) : Outcome := s.act fun s => s.runOp e .wfe 0

/-- WFE_WAKE (R116): An arriving event ends a waiting WFE, clearing the latch. -/
def execWfeWake (e : CoreId) (s : State) : Outcome := s.act fun s => s.eventWake e

/-- SEV (R117): Sends an event to the engines of the chosen scope after older stores complete. -/
def execSev (e : CoreId) (scope : BitVec 3) (rg : Bool) (ra : GReg) (target : BitVec 6) (s : State) : Outcome :=
  s.act fun s => s.runOp e (if rg then .sevr scope ra else .sev scope target) 0

/-- WAITT (R118): Waits until the timebase reaches a pair value or an event arrives. -/
def execWaitt (e : CoreId) (rd ra : GReg) (s : State) : Outcome := s.act fun s => s.runOp e (.waitt rd ra) 0

/-- WAITT_TIMEOUT (R118): The timebase reaches T and a waiting WAITT completes, writing rd. -/
def execWaittTimeout (e : CoreId) (s : State) : Outcome := s.act fun s => s.timeWake e

/-- REPN (R110): Repeats the next instruction 1 to 32 times without interruption. -/
def execRepn (e : CoreId) (n : BitVec 5) (body : Word) (s : State) : Outcome := s.act fun s => s.runOp e (.repn n) body

/-- REPI (R110): Repeats the next instruction interruptibly, counting in RC. -/
def execRepi (e : CoreId) (rg : Bool) (n : BitVec 16) (ra : GReg) (body : Word) (s : State) : Outcome :=
  s.act fun s => s.runOp e (if rg then .repr ra else .repi n) body

/-- CUSTOM_INSTRUCTION (R121): Executes the cabinet's loaded custom slot as one instruction. -/
def execCustomInstruction (e : CoreId) (slot : Fin 8) (rd ra rb : GReg) (i : BitVec 11) (s : State) : Outcome :=
  s.act fun s => s.runOp e (.cx slot rd ra rb i) 0

/-- STORE_DRAIN (R141): A retired store leaves the store buffer for its target in program order. -/
def execStoreDrain (e : CoreId) (s : State) : Outcome := s.act fun s => s.storeDrain e

/-- STORE_ERROR_REPLY (R72): An error reply to a retired store is taken as an imprecise BUS_ERROR. -/
def execStoreErrorReply (e : CoreId) (s : State) : Outcome := s.act fun s => s.storeError e

/-- PARTIAL_OVERLAP_RETRY (R142): A load waiting on a partially overlapping store executes again after its acknowledgement. -/
def execPartialOverlapRetry (e : CoreId) (s : State) : Outcome := s.act fun s => s.overlapRetry e

/-- MEMORY_ORDER_REPLAY (R144): A resolved store address invalidates an early load, which replays with younger instructions. -/
def execMemoryOrderReplay (e : CoreId) (s : State) : Outcome := s.act fun s => s.replay e

/-- INTERRUPT_ACCEPT (R362): An engine or the curator latches the standing offer at a boundary and enters its handler. -/
def execInterruptAccept (e : CoreId) (s : State) : Outcome := s.act fun s => s.interrupt e

end Sys2Proof.Machine
end

