-- ==== Sys2Proof/Machine/RowsTbs.lean ====
section
/-! DEFINITION. Machine/RowsTbs.lean: the meanings of the rows of spec/opcode_table.json for the timebase, alarms, watchdogs and clocks (R171, R354, R376, R377, R390 to R399). -/

namespace Sys2Proof.Machine

open Reg

/-- WDE_EXPIRY (R171): An engine watchdog expires, setting WDX and optionally resetting the engine. -/
def execWdeExpiry (n : Fin 64) (s : State) : Outcome := s.act fun s => s.wdeExpiry n

/-- WDEKICK (R396): An engine write with the correct code reloads its own watchdog. -/
def execWdekick (n : Fin 64) (s : State) : Outcome := s.act fun s => s.rowWrite (.core (eng n)) TBS_WDEKICK (keyed 0x4B1C 0)

/-- WDC_EXPIRY (R354): The curator watchdog reaches 0 and enters the safe state with code WDC. -/
def execWdcExpiry (s : State) : Outcome := s.act fun s => s.wdcExpiry

/-- WDKICK (R354): A curator write with code 0x4B1C restarts WDC. -/
def execWdkick (m : Sender) (s : State) : Outcome := s.act fun s => s.rowWrite m CUR_WDKICK (keyed 0x4B1C 0)

/-- WDP_EXPIRY (R399): The platform watchdog expires and pulses PLTRST_N low. -/
def execWdpExpiry (s : State) : Outcome := s.act fun s => s.onDev Dev.wdpExpiry

/-- WDPKICK (R396): A curator write with the correct code reloads WDP. -/
def execWdpkick (m : Sender) (s : State) : Outcome := s.act fun s => s.rowWrite m TBS_WDPKICK (keyed 0x4B1C 0)

/-- WDP_WARNING (R399): WDP's remaining count reaches WDPWARN and sets WDPW. -/
def execWdpWarning (s : State) : Outcome := s.act fun s => s.onDev Dev.wdpWarn

/-- PLTRST_PULSE_END (R399): The PLTRST_N pulse ends and the pin returns to its drive, with optional system reset. -/
def execPltrstPulseEnd (s : State) : Outcome := s.act fun s => s.onDev Dev.pulseEnd

/-- TBL_READ (R390): A TBS.TBL read returns the timebase and latches its high word for the reader. -/
def execTblRead (m : Sender) (s : State) : Outcome := s.act fun s => s.rowRead m TBS_TBL

/-- ALARM_COMMIT (R391): A CMPH write commits the 64-bit compare value and arms the alarm if enabled. -/
def execAlarmCommit (m : Sender) (a : Fin 4) (v : Word) (s : State) : Outcome := s.act fun s => s.rowWrite m (TBS_ALM_CMPH a) v

/-- ALARM_ENABLE (R391): A CTL write setting EN arms the alarm at its committed value; clearing EN disarms it. -/
def execAlarmEnable (m : Sender) (a : Fin 4) (v : Word) (s : State) : Outcome := s.act fun s => s.rowWrite m (TBS_ALM_CTL a) v

/-- ALARM_FIRE (R392): The timebase reaches NEXT and the alarm sets ISTAT, sends its event and may wake. -/
def execAlarmFire (a : Fin 4) (s : State) : Outcome := s.act fun s => s.onDev (·.almFire a)

/-- HFOSC_LOCK (R376): The FLL locks HFOSC, sets LOCK and starts the derived clocks. -/
def execHfoscLock (s : State) : Outcome := s.act fun s => s.clocksBack

/-- XTALF (R377): Four LFRC periods without an XOSC edge switch the reference to LFRC. -/
def execXtalf (s : State) : Outcome := s.act fun s => s.onDev Dev.xtalFail

/-- XTALOK (R377): 32,768 qualifying XOSC edges switch the reference back to XOSC. -/
def execXtalok (s : State) : Outcome := s.act fun s => s.onDev Dev.xtalGood

end Sys2Proof.Machine
end

