-- ==== Sys2Proof/Machine/Dispatch.lean ====
section
/-! DEFINITION. Machine/Dispatch.lean: which meaning each command has. -/

namespace Sys2Proof.Machine

def exec (i : Instr) (s : State) : Host.Outcome State Fault Refusal :=
  match i with
  | .add e rd ra rb => Sys2Proof.Machine.execAdd e rd ra rb s
  | .sub e rd ra rb => Sys2Proof.Machine.execSub e rd ra rb s
  | .and e rd ra rb => Sys2Proof.Machine.execAnd e rd ra rb s
  | .or e rd ra rb => Sys2Proof.Machine.execOr e rd ra rb s
  | .xor e rd ra rb => Sys2Proof.Machine.execXor e rd ra rb s
  | .andn e rd ra rb => Sys2Proof.Machine.execAndn e rd ra rb s
  | .shl e rd ra rb => Sys2Proof.Machine.execShl e rd ra rb s
  | .shr e rd ra rb => Sys2Proof.Machine.execShr e rd ra rb s
  | .sra e rd ra rb => Sys2Proof.Machine.execSra e rd ra rb s
  | .ror e rd ra rb => Sys2Proof.Machine.execRor e rd ra rb s
  | .slt e rd ra rb => Sys2Proof.Machine.execSlt e rd ra rb s
  | .sltu e rd ra rb => Sys2Proof.Machine.execSltu e rd ra rb s
  | .min e rd ra rb => Sys2Proof.Machine.execMin e rd ra rb s
  | .max e rd ra rb => Sys2Proof.Machine.execMax e rd ra rb s
  | .minu e rd ra rb => Sys2Proof.Machine.execMinu e rd ra rb s
  | .maxu e rd ra rb => Sys2Proof.Machine.execMaxu e rd ra rb s
  | .sextb e rd ra => Sys2Proof.Machine.execSextb e rd ra s
  | .sexth e rd ra => Sys2Proof.Machine.execSexth e rd ra s
  | .zexth e rd ra => Sys2Proof.Machine.execZexth e rd ra s
  | .clz e rd ra => Sys2Proof.Machine.execClz e rd ra s
  | .ctz e rd ra => Sys2Proof.Machine.execCtz e rd ra s
  | .popc e rd ra => Sys2Proof.Machine.execPopc e rd ra s
  | .bswap e rd ra => Sys2Proof.Machine.execBswap e rd ra s
  | .mul e rd ra rb => Sys2Proof.Machine.execMul e rd ra rb s
  | .mulh e rd ra rb => Sys2Proof.Machine.execMulh e rd ra rb s
  | .mulhu e rd ra rb => Sys2Proof.Machine.execMulhu e rd ra rb s
  | .macc e rd ra rb => Sys2Proof.Machine.execMacc e rd ra rb s
  | .div e rd ra rb => Sys2Proof.Machine.execDiv e rd ra rb s
  | .divu e rd ra rb => Sys2Proof.Machine.execDivu e rd ra rb s
  | .rem e rd ra rb => Sys2Proof.Machine.execRem e rd ra rb s
  | .remu e rd ra rb => Sys2Proof.Machine.execRemu e rd ra rb s
  | .dot8 e rd ra rb => Sys2Proof.Machine.execDot8 e rd ra rb s
  | .dot8u e rd ra rb => Sys2Proof.Machine.execDot8u e rd ra rb s
  | .dot16 e rd ra rb => Sys2Proof.Machine.execDot16 e rd ra rb s
  | .addi e rd ra imm => Sys2Proof.Machine.execAddi e rd ra imm s
  | .andi e rd ra imm => Sys2Proof.Machine.execAndi e rd ra imm s
  | .ori e rd ra imm => Sys2Proof.Machine.execOri e rd ra imm s
  | .xori e rd ra imm => Sys2Proof.Machine.execXori e rd ra imm s
  | .slti e rd ra imm => Sys2Proof.Machine.execSlti e rd ra imm s
  | .sltiu e rd ra imm => Sys2Proof.Machine.execSltiu e rd ra imm s
  | .addhi e rd ra imm => Sys2Proof.Machine.execAddhi e rd ra imm s
  | .shli e rd ra n => Sys2Proof.Machine.execShli e rd ra n s
  | .shri e rd ra n => Sys2Proof.Machine.execShri e rd ra n s
  | .srai e rd ra n => Sys2Proof.Machine.execSrai e rd ra n s
  | .rori e rd ra n => Sys2Proof.Machine.execRori e rd ra n s
  | .lw e rt base imm => Sys2Proof.Machine.execLw e rt base imm s
  | .lh e rt base imm => Sys2Proof.Machine.execLh e rt base imm s
  | .lhu e rt base imm => Sys2Proof.Machine.execLhu e rt base imm s
  | .lb e rt base imm => Sys2Proof.Machine.execLb e rt base imm s
  | .lbu e rt base imm => Sys2Proof.Machine.execLbu e rt base imm s
  | .sw e rt base imm => Sys2Proof.Machine.execSw e rt base imm s
  | .sh e rt base imm => Sys2Proof.Machine.execSh e rt base imm s
  | .sb e rt base imm => Sys2Proof.Machine.execSb e rt base imm s
  | .lwI e rt ra imm => Sys2Proof.Machine.execLwI e rt ra imm s
  | .lhI e rt ra imm => Sys2Proof.Machine.execLhI e rt ra imm s
  | .lhuI e rt ra imm => Sys2Proof.Machine.execLhuI e rt ra imm s
  | .lbI e rt ra imm => Sys2Proof.Machine.execLbI e rt ra imm s
  | .lbuI e rt ra imm => Sys2Proof.Machine.execLbuI e rt ra imm s
  | .swI e rt ra imm => Sys2Proof.Machine.execSwI e rt ra imm s
  | .shI e rt ra imm => Sys2Proof.Machine.execShI e rt ra imm s
  | .sbI e rt ra imm => Sys2Proof.Machine.execSbI e rt ra imm s
  | .ldl e rt ra imm => Sys2Proof.Machine.execLdl e rt ra imm s
  | .ldlh e rt ra imm => Sys2Proof.Machine.execLdlh e rt ra imm s
  | .ldlhu e rt ra imm => Sys2Proof.Machine.execLdlhu e rt ra imm s
  | .ldlb e rt ra imm => Sys2Proof.Machine.execLdlb e rt ra imm s
  | .ldlbu e rt ra imm => Sys2Proof.Machine.execLdlbu e rt ra imm s
  | .stl e rt ra imm => Sys2Proof.Machine.execStl e rt ra imm s
  | .stlh e rt ra imm => Sys2Proof.Machine.execStlh e rt ra imm s
  | .stlb e rt ra imm => Sys2Proof.Machine.execStlb e rt ra imm s
  | .ll e rt ra => Sys2Proof.Machine.execLl e rt ra s
  | .sc e rt ra rb => Sys2Proof.Machine.execSc e rt ra rb s
  | .swap e rt ra rb => Sys2Proof.Machine.execSwap e rt ra rb s
  | .aadd e rt ra rb => Sys2Proof.Machine.execAadd e rt ra rb s
  | .aand e rt ra rb => Sys2Proof.Machine.execAand e rt ra rb s
  | .aor e rt ra rb => Sys2Proof.Machine.execAor e rt ra rb s
  | .amin e rt ra rb => Sys2Proof.Machine.execAmin e rt ra rb s
  | .amax e rt ra rb => Sys2Proof.Machine.execAmax e rt ra rb s
  | .beq e ra rb off => Sys2Proof.Machine.execBeq e ra rb off s
  | .bne e ra rb off => Sys2Proof.Machine.execBne e ra rb off s
  | .blt e ra rb off => Sys2Proof.Machine.execBlt e ra rb off s
  | .bge e ra rb off => Sys2Proof.Machine.execBge e ra rb off s
  | .bltu e ra rb off => Sys2Proof.Machine.execBltu e ra rb off s
  | .bgeu e ra rb off => Sys2Proof.Machine.execBgeu e ra rb off s
  | .beqi e ra imm off => Sys2Proof.Machine.execBeqi e ra imm off s
  | .bnei e ra imm off => Sys2Proof.Machine.execBnei e ra imm off s
  | .blti e ra imm off => Sys2Proof.Machine.execBlti e ra imm off s
  | .bgei e ra imm off => Sys2Proof.Machine.execBgei e ra imm off s
  | .jmp e off => Sys2Proof.Machine.execJmp e off s
  | .call e off => Sys2Proof.Machine.execCall e off s
  | .jmpr e ra => Sys2Proof.Machine.execJmpr e ra s
  | .callr e ra => Sys2Proof.Machine.execCallr e ra s
  | .ret e => Sys2Proof.Machine.execRet e s
  | .mfs e rd sr => Sys2Proof.Machine.execMfs e rd sr s
  | .mts e sr ra => Sys2Proof.Machine.execMts e sr ra s
  | .trap e imm => Sys2Proof.Machine.execTrap e imm s
  | .bkpt e imm => Sys2Proof.Machine.execBkpt e imm s
  | .rfe e => Sys2Proof.Machine.execRfe e s
  | .fenceA e => Sys2Proof.Machine.execFenceA e s
  | .fenceR e => Sys2Proof.Machine.execFenceR e s
  | .inval e ra sel => Sys2Proof.Machine.execInval e ra sel s
  | .flush e ra => Sys2Proof.Machine.execFlush e ra s
  | .wfe e => Sys2Proof.Machine.execWfe e s
  | .wfeWake e => Sys2Proof.Machine.execWfeWake e s
  | .sev e scope rg ra target => Sys2Proof.Machine.execSev e scope rg ra target s
  | .waitt e rd ra => Sys2Proof.Machine.execWaitt e rd ra s
  | .waittTimeout e => Sys2Proof.Machine.execWaittTimeout e s
  | .repn e n body => Sys2Proof.Machine.execRepn e n body s
  | .repi e rg n ra body => Sys2Proof.Machine.execRepi e rg n ra body s
  | .customInstruction e slot rd ra rb imm => Sys2Proof.Machine.execCustomInstruction e slot rd ra rb imm s
  | .storeDrain e => Sys2Proof.Machine.execStoreDrain e s
  | .storeErrorReply e => Sys2Proof.Machine.execStoreErrorReply e s
  | .partialOverlapRetry e => Sys2Proof.Machine.execPartialOverlapRetry e s
  | .memoryOrderReplay e => Sys2Proof.Machine.execMemoryOrderReplay e s
  | .interruptAccept e => Sys2Proof.Machine.execInterruptAccept e s
  | .pulse m k hold engines => Sys2Proof.Machine.execPulse m k hold engines s
  | .hold m k hold => Sys2Proof.Machine.execHold m k hold s
  | .cxtab m k imm j v => Sys2Proof.Machine.execCxtab m k imm j v s
  | .cxctlCommit m k imm v => Sys2Proof.Machine.execCxctlCommit m k imm v s
  | .commitCheckComplete k imm => Sys2Proof.Machine.execCommitCheckComplete k imm s
  | .cxctlUnload m k imm v => Sys2Proof.Machine.execCxctlUnload m k imm v s
  | .slotSeam k imm => Sys2Proof.Machine.execSlotSeam k imm s
  | .canaryReading k ps => Sys2Proof.Machine.execCanaryReading k ps s
  | .calibration live => Sys2Proof.Machine.execCalibration live s
  | .wdeExpiry n => Sys2Proof.Machine.execWdeExpiry n s
  | .wdekick n => Sys2Proof.Machine.execWdekick n s
  | .wdcExpiry => Sys2Proof.Machine.execWdcExpiry s
  | .wdkick m => Sys2Proof.Machine.execWdkick m s
  | .wdpExpiry => Sys2Proof.Machine.execWdpExpiry s
  | .wdpkick m => Sys2Proof.Machine.execWdpkick m s
  | .wdpWarning => Sys2Proof.Machine.execWdpWarning s
  | .pltrstPulseEnd => Sys2Proof.Machine.execPltrstPulseEnd s
  | .subGo m v => Sys2Proof.Machine.execSubGo m v s
  | .subRes m => Sys2Proof.Machine.execSubRes m s
  | .admissionDecision => Sys2Proof.Machine.execAdmissionDecision s
  | .result m v => Sys2Proof.Machine.execResult m v s
  | .done m v => Sys2Proof.Machine.execDone m v s
  | .deadlineBreach pid => Sys2Proof.Machine.execDeadlineBreach pid s
  | .stubReady n => Sys2Proof.Machine.execStubReady n s
  | .thermalEmergencyStart => Sys2Proof.Machine.execThermalEmergencyStart s
  | .thermalEmergencyEnd => Sys2Proof.Machine.execThermalEmergencyEnd s
  | .profileCommit m p v => Sys2Proof.Machine.execProfileCommit m p v s
  | .profileCheckComplete p => Sys2Proof.Machine.execProfileCheckComplete p s
  | .profileUnload m p v => Sys2Proof.Machine.execProfileUnload m p v s
  | .head m q v => Sys2Proof.Machine.execHead m q v s
  | .body m q v => Sys2Proof.Machine.execBody m q v s
  | .last m q v => Sys2Proof.Machine.execLast m q v s
  | .poph m q => Sys2Proof.Machine.execPoph m q s
  | .peekh m q => Sys2Proof.Machine.execPeekh m q s
  | .pop m q => Sys2Proof.Machine.execPop m q s
  | .peek m q => Sys2Proof.Machine.execPeek m q s
  | .mark m q v => Sys2Proof.Machine.execMark m q v s
  | .rewind m q v => Sys2Proof.Machine.execRewind m q v s
  | .release m q v => Sys2Proof.Machine.execRelease m q v s
  | .queueFlush m q v => Sys2Proof.Machine.execQueueFlush m q v s
  | .skip m q v => Sys2Proof.Machine.execSkip m q v s
  | .dstat m q => Sys2Proof.Machine.execDstat m q s
  | .qcmdFlush m q => Sys2Proof.Machine.execQcmdFlush m q s
  | .depotEnable m v => Sys2Proof.Machine.execDepotEnable m v s
  | .depotDisableSeam => Sys2Proof.Machine.execDepotDisableSeam s
  | .queueDisableSeam q => Sys2Proof.Machine.execQueueDisableSeam q s
  | .scrubLine => Sys2Proof.Machine.execScrubLine s
  | .ownershipRelease line => Sys2Proof.Machine.execOwnershipRelease line s
  | .ownershipTimeout line => Sys2Proof.Machine.execOwnershipTimeout line s
  | .pgateOffSeam h => Sys2Proof.Machine.execPgateOffSeam h s
  | .pgateOnComplete h => Sys2Proof.Machine.execPgateOnComplete h s
  | .normal m v => Sys2Proof.Machine.execNormal m v s
  | .clr m v => Sys2Proof.Machine.execClr m v s
  | .wipe m => Sys2Proof.Machine.execWipe m s
  | .wipeComplete good => Sys2Proof.Machine.execWipeComplete good s
  | .wprot m v => Sys2Proof.Machine.execWprot m v s
  | .tokenCompare t => Sys2Proof.Machine.execTokenCompare t s
  | .delayRelease => Sys2Proof.Machine.execDelayRelease s
  | .lag => Sys2Proof.Machine.execLag s
  | .comparatorExercise r => Sys2Proof.Machine.execComparatorExercise r s
  | .safecmd m => Sys2Proof.Machine.execSafecmd m s
  | .pendset m w v => Sys2Proof.Machine.execPendset m w v s
  | .pendclr m w v => Sys2Proof.Machine.execPendclr m w v s
  | .enset m w v => Sys2Proof.Machine.execEnset m w v s
  | .enclr m w v => Sys2Proof.Machine.execEnclr m w v s
  | .srcWrite m n v => Sys2Proof.Machine.execSrcWrite m n v s
  | .claim m => Sys2Proof.Machine.execClaim m s
  | .eoi m v => Sys2Proof.Machine.execEoi m v s
  | .lineAssert n => Sys2Proof.Machine.execLineAssert n s
  | .lineDeassert n => Sys2Proof.Machine.execLineDeassert n s
  | .msiXSend => Sys2Proof.Machine.execMsiXSend s
  | .tblRead m => Sys2Proof.Machine.execTblRead m s
  | .alarmCommit m a v => Sys2Proof.Machine.execAlarmCommit m a v s
  | .alarmEnable m a v => Sys2Proof.Machine.execAlarmEnable m a v s
  | .alarmFire a => Sys2Proof.Machine.execAlarmFire a s
  | .hfoscLock => Sys2Proof.Machine.execHfoscLock s
  | .xtalf => Sys2Proof.Machine.execXtalf s
  | .xtalok => Sys2Proof.Machine.execXtalok s
  | .enterSleep m => Sys2Proof.Machine.execEnterSleep m s
  | .enterDeepSleep m => Sys2Proof.Machine.execEnterDeepSleep m s
  | .enterOff m => Sys2Proof.Machine.execEnterOff m s
  | .handshakeAnswer u => Sys2Proof.Machine.execHandshakeAnswer u s
  | .hstmoExpiry => Sys2Proof.Machine.execHstmoExpiry s
  | .wakeAccept => Sys2Proof.Machine.execWakeAccept s
  | .exitRetry => Sys2Proof.Machine.execExitRetry s
  | .idleEntry => Sys2Proof.Machine.execIdleEntry s
  | .idleExit => Sys2Proof.Machine.execIdleExit s
  | .onN => Sys2Proof.Machine.execOnN s
  | .wakePin k low => Sys2Proof.Machine.execWakePin k low s
  | .listenerMatch p byte => Sys2Proof.Machine.execListenerMatch p byte s
  | .vadFire => Sys2Proof.Machine.execVadFire s
  | .pdownSeam imm => Sys2Proof.Machine.execPdownSeam imm s
  | .pdownPowerUp imm => Sys2Proof.Machine.execPdownPowerUp imm s
  | .controllerTransfer m k v => Sys2Proof.Machine.execControllerTransfer m k v s
  | .transferDone k how data pecBad => Sys2Proof.Machine.execTransferDone k how data pecBad s
  | .targetAddressed k call => Sys2Proof.Machine.execTargetAddressed k call s
  | .targetTimeout k => Sys2Proof.Machine.execTargetTimeout k s
  | .spDataWrite m k b => Sys2Proof.Machine.execSpDataWrite m k b s
  | .spDataRead m k => Sys2Proof.Machine.execSpDataRead m k s
  | .spEnableSeam k => Sys2Proof.Machine.execSpEnableSeam k s
  | .rseqPoint m w imm => Sys2Proof.Machine.execRseqPoint m w imm s
  | .rseqOn m w => Sys2Proof.Machine.execRseqOn m w s
  | .rseqOff m w => Sys2Proof.Machine.execRseqOff m w s
  | .sequencerWrite acked status => Sys2Proof.Machine.execSequencerWrite acked status s
  | .ioWrite port data => Sys2Proof.Machine.execIoWrite port data s
  | .ioRead port n => Sys2Proof.Machine.execIoRead port n s
  | .memoryCycle => Sys2Proof.Machine.execMemoryCycle s
  | .setConfiguration freq mode chans => Sys2Proof.Machine.execSetConfiguration freq mode chans s
  | .virtualWire sys host => Sys2Proof.Machine.execVirtualWire sys host s
  | .vwout m v => Sys2Proof.Machine.execVwout m v s
  | .oobPacket data => Sys2Proof.Machine.execOobPacket data s
  | .oobSend m v => Sys2Proof.Machine.execOobSend m v s
  | .txdone => Sys2Proof.Machine.execTxdone s
  | .espiRstN => Sys2Proof.Machine.execEspiRstN s
  | .fspiRead m v => Sys2Proof.Machine.execFspiRead m v s
  | .fspiWrite m v => Sys2Proof.Machine.execFspiWrite m v s
  | .fspiErase m v => Sys2Proof.Machine.execFspiErase m v s
  | .fspiOther m v => Sys2Proof.Machine.execFspiOther m v s
  | .flashPoll status => Sys2Proof.Machine.execFlashPoll status s
  | .pollTimeout => Sys2Proof.Machine.execPollTimeout s
  | .fspiDataWrite m v => Sys2Proof.Machine.execFspiDataWrite m v s
  | .fspiDataRead m => Sys2Proof.Machine.execFspiDataRead m s
  | .pdmFrame samples => Sys2Proof.Machine.execPdmFrame samples s
  | .pdmEnableSeam => Sys2Proof.Machine.execPdmEnableSeam s
  | .outset m w v => Sys2Proof.Machine.execOutset m w v s
  | .outclr m w v => Sys2Proof.Machine.execOutclr m w v s
  | .lineChange imm level => Sys2Proof.Machine.execLineChange imm level s
  | .storm imm => Sys2Proof.Machine.execStorm imm s
  | .stuck imm => Sys2Proof.Machine.execStuck imm s
  | .unmask m w stuckReg v => Sys2Proof.Machine.execUnmask m w stuckReg v s
  | .keyboardScan keys => Sys2Proof.Machine.execKeyboardScan keys s
  | .tachUpdate n0 n1 => Sys2Proof.Machine.execTachUpdate n0 n1 s
  | .shortTest g pin drive reads => Sys2Proof.Machine.execShortTest g pin drive reads s
  | .openTest g pin follows => Sys2Proof.Machine.execOpenTest g pin follows s
  | .reversalProbe cur swapped => Sys2Proof.Machine.execReversalProbe cur swapped s
  | .shortClear m g v => Sys2Proof.Machine.execShortClear m g v s
  | .holdrel m => Sys2Proof.Machine.execHoldrel m s
  | .vio33Drop => Sys2Proof.Machine.execVio33Drop s
  | .vio33Return => Sys2Proof.Machine.execVio33Return s
  | .vaonDrop => Sys2Proof.Machine.execVaonDrop s
  | .vphyDrop => Sys2Proof.Machine.execVphyDrop s
  | .configurationRequest write reg v => Sys2Proof.Machine.execConfigurationRequest write reg v s
  | .perstNAssert => Sys2Proof.Machine.execPerstNAssert s
  | .perstNDeassert => Sys2Proof.Machine.execPerstNDeassert s
  | .lten m v => Sys2Proof.Machine.execLten m v s
  | .hotReset => Sys2Proof.Machine.execHotReset s
  | .linkUp u => Sys2Proof.Machine.execLinkUp u s
  | .linkDown => Sys2Proof.Machine.execLinkDown s
  | .busMasterEnableClear => Sys2Proof.Machine.execBusMasterEnableClear s
  | .dStateChange d0 => Sys2Proof.Machine.execDStateChange d0 s
  | .holdTimeout => Sys2Proof.Machine.execHoldTimeout s
  | .hmem m v => Sys2Proof.Machine.execHmem m v s
  | .availSeam => Sys2Proof.Machine.execAvailSeam s
  | .farWindowDisableSeam b => Sys2Proof.Machine.execFarWindowDisableSeam b s
  | .farCacheFlush m => Sys2Proof.Machine.execFarCacheFlush m s
  | .farCacheFlushDone => Sys2Proof.Machine.execFarCacheFlushDone s
  | .snpdata line => Sys2Proof.Machine.execSnpdata line s
  | .snpinv line => Sys2Proof.Machine.execSnpinv line s
  | .snpcur line => Sys2Proof.Machine.execSnpcur line s
  | .apertureWrite off data => Sys2Proof.Machine.execApertureWrite off data s
  | .apertureRead off n => Sys2Proof.Machine.execApertureRead off n s
  | .submissionDoorbell n v => Sys2Proof.Machine.execSubmissionDoorbell n v s
  | .completionDoorbell c v => Sys2Proof.Machine.execCompletionDoorbell c v s
  | .descriptorFetch ds => Sys2Proof.Machine.execDescriptorFetch ds s
  | .fetchFailure => Sys2Proof.Machine.execFetchFailure s
  | .nop n => Sys2Proof.Machine.execNop n s
  | .run n => Sys2Proof.Machine.execRun n s
  | .copy n => Sys2Proof.Machine.execCopy n s
  | .qpush n => Sys2Proof.Machine.execQpush n s
  | .itemPush => Sys2Proof.Machine.execItemPush s
  | .time n => Sys2Proof.Machine.execTime n s
  | .event n => Sys2Proof.Machine.execEvent n s
  | .swint n => Sys2Proof.Machine.execSwint n s
  | .fence n => Sys2Proof.Machine.execFence n s
  | .fenceComplete n => Sys2Proof.Machine.execFenceComplete n s
  | .copyStart mv => Sys2Proof.Machine.execCopyStart mv s
  | .copyComplete mv => Sys2Proof.Machine.execCopyComplete mv s
  | .moderationTimer c => Sys2Proof.Machine.execModerationTimer c s
  | .sqEnable m n v => Sys2Proof.Machine.execSqEnable m n v s
  | .sqDisable m n v => Sys2Proof.Machine.execSqDisable m n v s
  | .sqDisableSeam n => Sys2Proof.Machine.execSqDisableSeam n s
  | .cqEnable m c v => Sys2Proof.Machine.execCqEnable m c v s
  | .cqDisable m c v => Sys2Proof.Machine.execCqDisable m c v s
  | .cqDisableSeam c => Sys2Proof.Machine.execCqDisableSeam c s
  | .resumeGo m => Sys2Proof.Machine.execResumeGo m s
  | .moverDisableSeam mv => Sys2Proof.Machine.execMoverDisableSeam mv s
  | .prd imm crc => Sys2Proof.Machine.execPrd imm crc s
  | .pwr imm v crc => Sys2Proof.Machine.execPwr imm v crc s
  | .srd addr inTime crc => Sys2Proof.Machine.execSrd addr inTime crc s
  | .swr addr data inTime crc => Sys2Proof.Machine.execSwr addr data inTime crc s
  | .systemAccessComplete => Sys2Proof.Machine.execSystemAccessComplete s
  | .lineReset => Sys2Proof.Machine.execLineReset s
  | .activationSequence => Sys2Proof.Machine.execActivationSequence s
  | .abort adly => Sys2Proof.Machine.execAbort adly s
  | .dormant adly => Sys2Proof.Machine.execDormant adly s
  | .chal => Sys2Proof.Machine.execChal s
  | .authSig level => Sys2Proof.Machine.execAuthSig level s
  | .authPwd level => Sys2Proof.Machine.execAuthPwd level s
  | .authDrop level => Sys2Proof.Machine.execAuthDrop level s
  | .verifyComplete => Sys2Proof.Machine.execVerifyComplete s
  | .halt target => Sys2Proof.Machine.execHalt target s
  | .haltEffect e => Sys2Proof.Machine.execHaltEffect e s
  | .resume target => Sys2Proof.Machine.execResume target s
  | .step target => Sys2Proof.Machine.execStep target s
  | .feed w => Sys2Proof.Machine.execFeed w s
  | .hpc a => Sys2Proof.Machine.execHpc a s
  | .stim m p v => Sys2Proof.Machine.execStim m p v s
  | .sync => Sys2Proof.Machine.execSync s
  | .powerOnReset => Sys2Proof.Machine.execPowerOnReset s
  | .sysRstN => Sys2Proof.Machine.execSysRstN s
  | .systemReset m => Sys2Proof.Machine.execSystemReset m s
  | .fabricReset m => Sys2Proof.Machine.execFabricReset m s
  | .bootImageLoad a b => Sys2Proof.Machine.execBootImageLoad a b s
  | .recoveryFlagPoll => Sys2Proof.Machine.execRecoveryFlagPoll s
  | .lcreq m t => Sys2Proof.Machine.execLcreq m t s
  | .lcFuseProgram got => Sys2Proof.Machine.execLcFuseProgram got s
  | .tamper => Sys2Proof.Machine.execTamper s
  | .ver m n => Sys2Proof.Machine.execVer m n s
  | .verFuseProgram ok held => Sys2Proof.Machine.execVerFuseProgram ok held s
  | .ack m n => Sys2Proof.Machine.execAck m n s
  | .readToClear m a n => Sys2Proof.Machine.execReadToClear m a n s
  | .registerWrite m a n v => Sys2Proof.Machine.execRegisterWrite m a n v s
  | .linkPowerStateChange st clkreq => Sys2Proof.Machine.execLinkPowerStateChange st clkreq s
  | .msiXUnmask v addr data mask => Sys2Proof.Machine.execMsiXUnmask v addr data mask s
  | .uartReceive k b bad => Sys2Proof.Machine.execUartReceive k b bad s
  | .inBandInterrupt k => Sys2Proof.Machine.execInBandInterrupt k s
  | .vphyReturn => Sys2Proof.Machine.execVphyReturn s
  | .espiRstNRise => Sys2Proof.Machine.execEspiRstNRise s
  | .withholdingTimeEnd => Sys2Proof.Machine.execWithholdingTimeEnd s
  | .completionTimeout => Sys2Proof.Machine.execCompletionTimeout s

end Sys2Proof.Machine
end

