-- ==== Sys2Proof/WellFormed.lean ====
section
/-! DEFINITION. WellFormed.lean: which commands are well formed: an instruction row's operands make an encoding that is assigned, and the
data and indices of the other rows lie in the ranges the spec gives them. step does not ask for it: every command has its effect, that of
an encoding that is not assigned being its trap (R85). -/

namespace Sys2Proof

open Machine

/-- The instruction an instruction row executes, by its operation and operands. -/
def Instr.op : Instr → Option Op
  | .add _ rd ra rb => some (.alu .add rd ra rb)
  | .sub _ rd ra rb => some (.alu .sub rd ra rb)
  | .and _ rd ra rb => some (.alu .and rd ra rb)
  | .or _ rd ra rb => some (.alu .or rd ra rb)
  | .xor _ rd ra rb => some (.alu .xor rd ra rb)
  | .andn _ rd ra rb => some (.alu .andn rd ra rb)
  | .shl _ rd ra rb => some (.alu .shl rd ra rb)
  | .shr _ rd ra rb => some (.alu .shr rd ra rb)
  | .sra _ rd ra rb => some (.alu .sra rd ra rb)
  | .ror _ rd ra rb => some (.alu .ror rd ra rb)
  | .slt _ rd ra rb => some (.alu .slt rd ra rb)
  | .sltu _ rd ra rb => some (.alu .sltu rd ra rb)
  | .min _ rd ra rb => some (.alu .min rd ra rb)
  | .max _ rd ra rb => some (.alu .max rd ra rb)
  | .minu _ rd ra rb => some (.alu .minu rd ra rb)
  | .maxu _ rd ra rb => some (.alu .maxu rd ra rb)
  | .sextb _ rd ra => some (.alu .sextb rd ra 0)
  | .sexth _ rd ra => some (.alu .sexth rd ra 0)
  | .zexth _ rd ra => some (.alu .zexth rd ra 0)
  | .clz _ rd ra => some (.alu .clz rd ra 0)
  | .ctz _ rd ra => some (.alu .ctz rd ra 0)
  | .popc _ rd ra => some (.alu .popc rd ra 0)
  | .bswap _ rd ra => some (.alu .bswap rd ra 0)
  | .mul _ rd ra rb => some (.alu .mul rd ra rb)
  | .mulh _ rd ra rb => some (.alu .mulh rd ra rb)
  | .mulhu _ rd ra rb => some (.alu .mulhu rd ra rb)
  | .macc _ rd ra rb => some (.alu .macc rd ra rb)
  | .div _ rd ra rb => some (.alu .div rd ra rb)
  | .divu _ rd ra rb => some (.alu .divu rd ra rb)
  | .rem _ rd ra rb => some (.alu .rem rd ra rb)
  | .remu _ rd ra rb => some (.alu .remu rd ra rb)
  | .dot8 _ rd ra rb => some (.alu .dot8 rd ra rb)
  | .dot8u _ rd ra rb => some (.alu .dot8u rd ra rb)
  | .dot16 _ rd ra rb => some (.alu .dot16 rd ra rb)
  | .addi _ rd ra i => some (.imm .addi rd ra i)
  | .andi _ rd ra i => some (.imm .andi rd ra i)
  | .ori _ rd ra i => some (.imm .ori rd ra i)
  | .xori _ rd ra i => some (.imm .xori rd ra i)
  | .slti _ rd ra i => some (.imm .slti rd ra i)
  | .sltiu _ rd ra i => some (.imm .sltiu rd ra i)
  | .addhi _ rd ra i => some (.imm .addhi rd ra i)
  | .shli _ rd ra n => some (.shi .shl rd ra n)
  | .shri _ rd ra n => some (.shi .shr rd ra n)
  | .srai _ rd ra n => some (.shi .sra rd ra n)
  | .rori _ rd ra n => some (.shi .ror rd ra n)
  | .lw _ rt base i => some (.ld .w rt base i)
  | .lh _ rt base i => some (.ld .h rt base i)
  | .lhu _ rt base i => some (.ld .hu rt base i)
  | .lb _ rt base i => some (.ld .b rt base i)
  | .lbu _ rt base i => some (.ld .bu rt base i)
  | .sw _ rt base i => some (.st .w rt base i)
  | .sh _ rt base i => some (.st .h rt base i)
  | .sb _ rt base i => some (.st .b rt base i)
  | .lwI _ rt ra i => some (.ldi .w rt ra i)
  | .lhI _ rt ra i => some (.ldi .h rt ra i)
  | .lhuI _ rt ra i => some (.ldi .hu rt ra i)
  | .lbI _ rt ra i => some (.ldi .b rt ra i)
  | .lbuI _ rt ra i => some (.ldi .bu rt ra i)
  | .swI _ rt ra i => some (.sti .w rt ra i)
  | .shI _ rt ra i => some (.sti .h rt ra i)
  | .sbI _ rt ra i => some (.sti .b rt ra i)
  | .ldl _ rt ra i => some (.ldl .w rt ra i)
  | .ldlh _ rt ra i => some (.ldl .h rt ra i)
  | .ldlhu _ rt ra i => some (.ldl .hu rt ra i)
  | .ldlb _ rt ra i => some (.ldl .b rt ra i)
  | .ldlbu _ rt ra i => some (.ldl .bu rt ra i)
  | .stl _ rt ra i => some (.stl .w rt ra i)
  | .stlh _ rt ra i => some (.stl .h rt ra i)
  | .stlb _ rt ra i => some (.stl .b rt ra i)
  | .ll _ rt ra => some (.ll rt ra)
  | .sc _ rt ra rb => some (.sc rt ra rb)
  | .swap _ rt ra rb => some (.amo .swap rt ra rb)
  | .aadd _ rt ra rb => some (.amo .add rt ra rb)
  | .aand _ rt ra rb => some (.amo .and rt ra rb)
  | .aor _ rt ra rb => some (.amo .or rt ra rb)
  | .amin _ rt ra rb => some (.amo .min rt ra rb)
  | .amax _ rt ra rb => some (.amo .max rt ra rb)
  | .beq _ ra rb off => some (.br .eq ra rb off)
  | .bne _ ra rb off => some (.br .ne ra rb off)
  | .blt _ ra rb off => some (.br .lt ra rb off)
  | .bge _ ra rb off => some (.br .ge ra rb off)
  | .bltu _ ra rb off => some (.br .ltu ra rb off)
  | .bgeu _ ra rb off => some (.br .geu ra rb off)
  | .beqi _ ra i off => some (.bri 0 ra i off)
  | .bnei _ ra i off => some (.bri 1 ra i off)
  | .blti _ ra i off => some (.bri 2 ra i off)
  | .bgei _ ra i off => some (.bri 3 ra i off)
  | .jmp _ off => some (.jmp off)
  | .call _ off => some (.call off)
  | .jmpr _ ra => some (.jmpr ra)
  | .callr _ ra => some (.callr ra)
  | .ret _ => some .ret
  | .mfs _ rd sr => some (.mfs rd sr)
  | .mts _ sr ra => some (.mts sr ra)
  | .trap _ i => some (.trap i)
  | .bkpt _ i => some (.bkpt i)
  | .rfe _ => some .rfe
  | .fenceA _ => some .fenceA
  | .fenceR _ => some .fenceR
  | .inval _ ra sel => some (.inval ra sel)
  | .flush _ ra => some (.flush ra)
  | .wfe _ => some .wfe
  | .sev _ scope rg ra target => some (if rg then .sevr scope ra else .sev scope target)
  | .waitt _ rd ra => some (.waitt rd ra)
  | .repn _ n _ => some (.repn n)
  | .repi _ rg n ra _ => some (if rg then .repr ra else .repi n)
  | .customInstruction _ slot rd ra rb i => some (.cx slot rd ra rb i)
  | _ => none

/-- A size the host's link can carry in one request to BAR0 (R281). -/
def hostSize (n : Nat) : Bool := 1 ≤ n && n ≤ 64

/-- A size at an address that a sender can make: a word at a word address of bank 0x04, or any size for the host. -/
def senderSize (m : Sender) (a n : Nat) : Bool :=
  match m with
  | .host => hostSize n && a < 0x100000
  | _ => n == 4 && a % 4 == 0

/-- Bytes inside BAR2: two registers and the aperture (R296). -/
def inAperture (off n : Nat) : Bool := 1 ≤ n && off + n ≤ 0x10000

/-- The ranges of the rows that are no instructions. -/
def Instr.dataOk : Instr → Bool
  | .calibration live => live.length == 32
  | .pdmFrame samples => samples.length ≤ 8 * 240
  | .pdownSeam i => i != 0
  | .pdownPowerUp i => i != 0
  | .ioWrite _ data => 1 ≤ data.length && data.length ≤ 4
  | .ioRead _ n => n != 0
  | .oobPacket data => 1 ≤ data.length && data.length ≤ 64
  | .farWindowDisableSeam b => 16 ≤ b.val
  | .apertureWrite off data => inAperture off.toNat data.length
  | .apertureRead off n => inAperture off.toNat n
  | .descriptorFetch ds => 1 ≤ ds.length && ds.length ≤ 4
  | .halt t => t.toNat ≤ 65
  | .resume t => t.toNat ≤ 65
  | .step t => t.toNat ≤ 65
  | .readToClear m a n => senderSize m a.toNat n
  | .registerWrite m a n _ => senderSize m a.toNat n
  | _ => true

/-- A command is well formed. -/
def Instr.wf (i : Instr) : Bool := i.dataOk && (match i.op with | some o => o.wf | none => true)

end Sys2Proof
end

