-- ==== Sys2Proof/Safety.lean ====
section
/-! DEFINITION. Safety.lean: the terms claims about the block are stated in: states at rest, cores with nothing but their own next
instruction due, and the canonical form of the sparse maps. -/

namespace Sys2Proof.Machine

open Reg

/-! ### States at rest -/

/-- Nothing is under way beside what commands ask for: no consequence is left over, no raise of a rail is deferred (R259), the power
controller is in no transition and keeps no wake conditions (R420), and the far-memory wake wire shows HOLD.WAKE while the eSPI target
is enabled (R445). A step ends with its consequences; in such a state it has none. -/
structure Calm (d : Dev) : Prop where
  todo : d.todo = []
  defer : d.adm.defer = []
  awake : d.watching = false
  phase : d.get PWR_STAT_PHASE = 0
  wire : d.flag ESPI_CTL_EN = true → d.bit ESPI_VWOUT_HWW 1 = d.flag HPT_HOLD_WAKE

/-! ### A core with nothing but its own next instruction due -/

/-- Core e stands at an instruction boundary and nothing but its next instruction is due: the device is at rest and not Idle, the core
can run, no error reply and no write shadow is outstanding, a deterministic core has performed its stores, its counters and comparators
are off, no halt is asked for, and the fetch at its pc is answered and changes nothing. -/
structure Steady (s : Chip) (e : CoreId) : Prop where
  calm : Calm s.dev
  runs : s.canRun e = true
  awake : s.dev.get PWR_STAT_STATE ≠ 1
  replies : s.cores[e].impErr = []
  shadows : s.cores[e].shadows = []
  stores : s.cores[e].det = true → s.cores[e].sb = [] ∧ s.cores[e].sbErr = []
  counters : isCur e = false → s.dev.get (CAB_PMCTL_EN (cabOf e) (slotOf e)) = 0
  comparators : ∀ c ∈ cmpsOf e, s.dev.get c.action = 0
  halts : s.dev.dbg.haltReq.getLsbD e.val = false
  fetched : ∃ w, s.fetch e s.cores[e].pc = (s, .ok w)

/-- A core goes on at an offset after an instruction that has changed its registers by f. -/
def Core.goOn (f : Core → Core) (next : Core → BitVec 24) (c : Core) : Core :=
  { f c with off := next c, wait := .none, resumed := false, tblPair := false }

/-- The instruction after the one at a core's pc (R55). -/
def Core.nextOff (c : Core) : BitVec 24 := c.off + 4

/-- Core e has done an instruction that changes its registers by f and goes on at an offset: nothing else of the device has changed. -/
def State.went (s : State) (e : CoreId) (f : Core → Core) (next : Core → BitVec 24) : State :=
  { s with chip := s.chip.onCore e (Core.goOn f next) }

/-- Core e has written rd and goes on with the next instruction (R55): nothing else of the device has changed. -/
def State.sets (s : State) (e : CoreId) (rd : GReg) (v : Core → Word) : Outcome :=
  .next (s.went e (fun c => c.wr rd (v c)) Core.nextOff)

/-! ### Data accesses -/

/-- After an access of core e its counters and comparators are off as before, no write shadow stands and no halt is asked for. -/
structure Quiet (t : Chip) (e : CoreId) : Prop where
  shadows : t.cores[e].shadows = []
  counters : isCur e = false → t.dev.get (CAB_PMCTL_EN (cabOf e) (slotOf e)) = 0
  comparators : ∀ c ∈ cmpsOf e, t.dev.get c.action = 0
  halts : t.dev.dbg.haltReq.getLsbD e.val = false

/-- Core e's next load of n bytes at a passes the core's own checks (R70) and is answered with v, t being the device after it, with the
tokens of a curator's access passed (R343); stk says
that its base is g31 in a short or post-increment form (R81, R93). -/
structure Loads (s : Chip) (e : CoreId) (a n : Nat) (stk : Bool) (t : Chip) (v : Word) : Prop where
  may : ownCheck e s.cores[e] (ownCtx e s.cores[e]) ⟨a, n, true, false, false, stk⟩ = none
  answer : ∃ u : Chip, s.load e (ownCtx e s.cores[e]) a n = (u, .val v)
    ∧ t = u.accessTokens e (ownCtx e s.cores[e]) .load a n [] (.val v)
  quiet : Quiet t e

/-- Core e's next store of the low n bytes of w at a passes the core's own checks and is taken, t being the device after it. -/
structure Stores (s : Chip) (e : CoreId) (a n : Nat) (w : Word) (stk : Bool) (t : Chip) : Prop where
  may : ownCheck e s.cores[e] (ownCtx e s.cores[e]) ⟨a, n, false, true, false, stk⟩ = none
  answer : ∃ (u : Chip) (v : Word), s.store e (ownCtx e s.cores[e]) a n w = (u, .val v)
    ∧ t = u.accessTokens e (ownCtx e s.cores[e]) .store a n [w] (.val v)
  quiet : Quiet t e

/-- Core e has done its instruction after an access that left the device t: its registers change by f and it goes on at an offset. -/
def State.after (s : State) (t : Chip) (e : CoreId) (f : Core → Core) (next : BitVec 24) : Outcome :=
  .next { s with chip := (t.onCore e (Core.goOn f fun _ => next)).settle }

/-- The offset of core e's next instruction. -/
def State.following (s : State) (e : CoreId) : BitVec 24 := s.chip.cores[e].off + 4

/-- The bytes [a, a + n) lie in an own scratch, the gallery or another scratch, each byte powered and without an inverted bit, outside what
core e's data cache may hold, no buffered store of core e writes one of them, and no conflicts are counted, which are a matter of timing
(R186). -/
structure Plain (s : Chip) (e : CoreId) (a n : Nat) : Prop where
  array : a / 0x1000000 < 3
  inside : implemented e a n = true
  powered : ∀ k < n, s.dev.galleryOff (canon e (a + k)) = false
  clean : ∀ k < n, s.mem.flip (canon e (a + k)) = 0
  uncached : ∀ k < n, dataCached s.dev e s.cores[e] (a + k) = false
  unbuffered : s.cores[e].sbFind e (canon e a) n = none
  unwatched : s.dev.flag GAL_CCTL_EN = false

/-- Core e's accesses to [a, a + n) in a mode are allowed by its protection entries (R79, R80) and, for a base g31, by its stack limit
(R81). -/
structure Allowed (s : Chip) (e : CoreId) (k : Kind) (a n : Nat) (stk : Bool) : Prop where
  entry : s.cores[e].allowed s.cores[e].km k a n = true
  stack : stk = true → s.cores[e].spCheck = true → s.cores[e].spLimit ≤ a % 0x1000000

/-! ### Exceptions -/

/-- Core e as the checks of an exception entry find it (R74, R107): its reservation gone, and no longer waiting. -/
def Chip.entering (s : Chip) (e : CoreId) : Chip := s.onCore e fun c => { c with resv := none, wait := .none, tblPair := false }

/-- The core after a successful entry (R74 step 4 and 5): the frame below sp, the new cause and return address, kernel mode with
interrupts off, and fetch at the vector slot of the cause. -/
def Core.entered (c : Core) (ecause epc eval : Word) (pri : Option (BitVec 5)) : Core :=
  { c.wr 31 (c.sp - (if c.rx then 20 else 16)) with
      ecause := ecause, epc := epc, eval := eval, km := true, ie := false, rx := false, rc := 0, pri := pri.getD c.pri
      cb := c.vbase.extractLsb' 24 8, off := c.vbase.extractLsb' 0 24 + BitVec.ofNat 24 (4 * (ecause.toNat % 256)) }

/-- An exception of core e is entered without a frame fault (R74, R76): its stores are done, the checks of step 2 pass, the frame words
are written, and the slot it goes to is fetched; t with the core's new registers is the device after that. -/
structure Enters (s : Chip) (e : CoreId) (sec : Bool) (ecause epc eval : Word) (pri : Option (BitVec 5)) (t : Chip) : Prop where
  drained : s.cores[e].sb = [] ∧ s.cores[e].sbErr = []
  counters : isCur e = false → s.dev.get (CAB_PMCTL_EN (cabOf e) (slotOf e)) = 0
  checked : frameOk e (s.entering e).cores[e] sec = true
  pushed : ∃ (r : Chip) (w : Word), (s.entering e).pushFrame e (s.cores[e]).frameOff 0 (s.cores[e]).frameWords = (r, true)
    ∧ (r.onCore e (·.entered ecause epc eval pri)).fetch e (r.cores[e].entered ecause epc eval pri).pc
      = (t.onCore e (·.entered ecause epc eval pri), .ok w)
  alive : t.cores[e].df = false

/-- Core e as an exception of its own instruction finds it (R483: it is no longer just resumed). -/
def Chip.trapping (s : Chip) (e : CoreId) : Chip := s.onCore e fun c => { c with resumed := false }

/-- Core e waits, and but for that it would be steady. -/
structure Waiting (s : Chip) (e : CoreId) (w : Wait) : Prop where
  wait : s.cores[e].wait = w
  steady : Steady (s.onCore e fun c => { c with wait := .none }) e

/-! ### Commands of the units -/

/-- A command leaves the device as t, with what follows from it in the same step. -/
def State.leaves (s : State) (t : Chip) : Outcome := .next { s with chip := t.settle }

/-- A command changes the device outside the cores and the arrays by f, with what follows from it in the same step. -/
def State.becomes (s : State) (f : Dev → Dev) : Outcome := s.leaves (s.chip.onDev f)

/-- The master a sender is at the registers (R6, R209). -/
def Chip.asMaster (s : Chip) : Sender → Master
  | .core e => s.master e
  | .debugger => Master.debugger
  | .host => Master.host

/-- A sender's write of v reaches register a: the block is listed and on (R8, R428), its access rule lets the master write (R124 and the
rule of each block), the clock of its island runs (R383), the debugger's level is enough (R477), and the host has a BAR0 offset for it while
the port is configured (R276, R280). -/
structure Hears (s : Chip) (m : Sender) (a : Nat) (v : Word) : Prop where
  listed : blockListed (a / 0x10000) = true
  on : s.dev.regOff a = false
  clock : s.dev.islandShut a = false
  may : s.dev.mayWrite (s.asMaster m) a v = true
  level : m = .debugger → s.dev.debuggerMay true (0x4000000 + a) = true
  bar : m = .host → s.dev.flag HPT_CTL_CFGRDY = true ∧ bar0Of a ≠ none

/-- A sender's read reaches register a. -/
structure Shows (s : Chip) (m : Sender) (a : Nat) : Prop where
  listed : blockListed (a / 0x10000) = true
  on : s.dev.regOff a = false
  clock : s.dev.islandShut a = false
  may : mayRead (s.asMaster m) a = true
  level : m = .debugger → s.dev.debuggerMay false (0x4000000 + a) = true
  bar : m = .host → s.dev.flag HPT_CTL_CFGRDY = true ∧ bar0Of a ≠ none

/-- The registers after register a has taken a sender's write of v field by field, with the log entry of a set-up write; what the write
starts beside that is not in it. -/
def Chip.takes (s : Chip) (m : Sender) (a : Nat) (v : Word) : Chip :=
  match findReg a with
  | some (r, _) => s.storeReg (s.asMaster m) r a v
  | none => s

/-- The unit ID under which a sender's depot window operation is performed (R209, R219, R477); the host reaches no window (R280). -/
def Chip.wields (s : Chip) (m : Sender) (op : WinOp) (q : Nat) : Option Nat :=
  match m with
  | .core e => some (uidOf e)
  | .debugger => if s.dev.debuggerMay op.writes (winAddr op q) then some 0x19 else none
  | .host => none

/-- Target e's stack of running priorities and sources (R362). -/
def Dev.stackOf (d : Dev) (e : CoreId) : List (Nat × Nat) := d.itc.running[e]

/-- Target e's stack is l. -/
def Dev.stackIs (d : Dev) (e : CoreId) (l : List (Nat × Nat)) : Dev := { d with itc := { d.itc with running := d.itc.running.set e l } }

/-- The cores are as before, but for reservations that are gone. -/
def SameCores (s t : Chip) : Prop := ∀ e : CoreId, t.cores[e] = s.cores[e] ∨ t.cores[e] = { s.cores[e] with resv := none }

/-- The word a sender is answered with. -/
def Dev.answers (d : Dev) (w : Word) : Dev := d.emit (.reply (leBytes 4 w.toNat))

end Sys2Proof.Machine
end

