-- ==== Sys2Proof/Certificates/Slice0/Obligations.lean ====
section
/-! DEFINITION. Obligations.lean: what is claimed of the block, each statement with the rules of spec/ it comes from. Facts of one command
hold at a device at rest (`Calm`) or for a core with nothing else due (`Steady`), and say the whole next state. -/

namespace Sys2Proof

open Machine Machine.Reg

end Sys2Proof

open Sys2Proof Sys2Proof.Machine Sys2Proof.Machine.Reg

/-! ### The block as a whole -/

/-- A step takes the command at the front of the queue and performs it with the rest of the queue behind it. -/
def Obligations.StepRunsTheFront : Prop :=
  ∀ (c : Instr) (rest : List Instr) (s : State), s.pending = c :: rest → step s = exec c { s with pending := rest }

/-- With nothing commanded one fine-clock cycle passes: the fine count goes on by one; at 998 and 999 the edge may come, which raises the coarse
count and clears the fine one, and at 999 the fine count holds until it does (R387); while the fine clock does not run, the coarse count goes
on (R388). That a tick passes exactly then is the model's choice (notes/assumptions/3.md). -/
def Obligations.EmptyQueueTicks : Prop :=
  ∀ s : State, s.pending = [] →
    ∃ t : Chip, step s = .next { s with chip := t.settle } ∧ t.cores = s.chip.cores ∧ t.mem = s.chip.mem
      ∧ (s.chip.dev.tbs.fine = true → s.chip.dev.tbF < 998 → t.dev.tbF = s.chip.dev.tbF + 1 ∧ t.dev.tbC = s.chip.dev.tbC)
      ∧ (s.chip.dev.tbs.fine = true → s.chip.dev.tbF = 998 ∨ s.chip.dev.tbF = 999 →
          (t.dev.tbF = 999 ∧ t.dev.tbC = s.chip.dev.tbC) ∨ (t.dev.tbF = 0 ∧ t.dev.tbC = s.chip.dev.tbC + 1))
      ∧ (s.chip.dev.tbs.fine = true → s.chip.dev.tbF = 999 → s.chip.dev.tbs.late = true → t.dev.tbF = 0 ∧ t.dev.tbC = s.chip.dev.tbC + 1)
      ∧ (s.chip.dev.tbs.fine = false → t.dev.tbF = 0 ∧ t.dev.tbC = s.chip.dev.tbC + 1
          ∧ t.dev.tbs.fine = (s.chip.dev.tbs.hfosc && s.chip.dev.flag TBS_STAT_LOCK))

/-- Every command is performed in every state: it ends in a next state, changes no command that waits, and leaves no consequence behind. -/
def Obligations.EveryCommandAnswers : Prop :=
  ∀ (i : Instr) (s : State), ∃ t : State, exec i s = .next t ∧ t.pending = s.pending ∧ t.chip.dev.todo = []

/-- R7, R83, R204, R493, R496, R498: after power-on no engine runs and every core's registers are 0 but g31; the curator pair stands in the boot
ROM; registers hold their reset values but for the power-on bit of RSTCAUSE and the wipe of the vault that goes on; memory is clear, nothing is
under way, and the boot waits for ON_N. Memory and registers after power-on are in canonical form. -/
def Obligations.ResetState : Prop :=
  (let c := State.reset.chip
  let d := c.dev
  State.reset.pending = [] ∧ c.mem = { cells := [], flips := [], owned := [] }
  ∧ (∀ n : Fin 64, (c.cores[eng n]).run = false)
  ∧ (∀ (e : CoreId) (r : GReg), (c.cores[e]).rd r = if r = 31 then 0x8000 else 0)
  ∧ (∀ e : CoreId, (c.cores[e]).km = true ∧ (c.cores[e]).ie = false ∧ (c.cores[e]).df = false ∧ (c.cores[e]).pri = 16 ∧ (c.cores[e]).sb = [])
  ∧ (c.cores[curator]).run = true ∧ (c.cores[curator]).pc = 0x03080000
  ∧ (∀ a, a ≠ SYS_RSTCAUSE → a ≠ VLT_STAT → d.word a = resetWord a)
  ∧ d.get ⟨SYS_RSTCAUSE, 7, 0⟩ = 1 ∧ d.flag VLT_STAT_WIPING = true
  ∧ d.pwr.parked = true ∧ d.now = 0 ∧ d.latch = 0 ∧ d.todo = [] ∧ d.rng.infl = [] ∧ d.adm.proms = [] ∧ d.hpt.fc = [] ∧ d.hpt.held = [])
  ∧ (State.reset.chip.mem.wf = true ∧ State.reset.chip.dev.regsWf = true)
/-- The sparse memory stays in its one canonical form, from every state whose memory is in it. -/
def Obligations.MemoryStaysCanonical : Prop :=
  ∀ s t : State, s.chip.mem.wf = true → step s = .next t → t.chip.mem.wf = true

/-- R84, R85, R87, R95, R97 to R104, R109, R117, R121: an instruction word and the instruction it spells determine each other: every instruction whose
operands the encoding admits is read back from its word, and a word that spells an instruction is the word of that one, with operands the encoding
admits; so no reserved bit of it is set. -/
def Obligations.WordsAndInstructionsAgree : Prop :=
  (∀ op : Op, op.wf = true → Op.decode op.encode = some op)
  ∧ (∀ (w : Word) (op : Op), Op.decode w = some op → op.wf = true ∧ op.encode = w)

/-- R84, R95, R97, R98, R99, R101, R102, R104, R109, R121: words of each class, written out bit by bit, spell their instructions; unassigned ones spell
none. -/
def Obligations.WordsAreRead : Prop :=
  Op.decode 0b000_00011_00001_00010_00000000_000001 = some (.alu .sub 3 1 2)
  ∧ Op.decode 0b000_00011_00001_00010_00000000_100011 = some (.alu .macc 3 1 2)
  ∧ Op.decode 0b001_00100_00101_000_1111111111111110 = some (.imm .addi 4 5 0xFFFE)
  ∧ Op.decode 0b001_00100_00101_111_010_00000000_00111 = some (.shi .sra 4 5 7)
  ∧ Op.decode 0b010_00110_11101_010_0000000000001000 = some (.ld .hu 6 29 8)
  ∧ Op.decode 0b010_00110_11101_101_0000000000001000 = some (.st .w 6 29 8)
  ∧ Op.decode 0b011_00110_00111_10011_01000_000000000 = some (.amo .add 6 7 8)
  ∧ Op.decode 0b100_0001_01001_01010_000000000000100 = some (.br .ne 9 10 4)
  ∧ Op.decode 0b101_000_0000_0000000000000000000011 = some (.jmp 3)
  ∧ Op.decode 0b111_101_00001_00010_00011_00000000001 = some (.cx 5 1 2 3 1)
  ∧ Op.decode 0b000_00011_00001_00010_00000000_101011 = none
  ∧ Op.decode 0b000_00011_00001_00010_00000000_010000 = none
  ∧ Op.decode 0xDFFFFFFF = none

/-! ### Engines and the curator: computing -/

/-- R95, R51: what the class 000 instructions of one mark put into rd; all else but the pc stays. R95: extending, counting and reversing. R97: computing with an immediate. -/
def Obligations.IntegerOperations : Prop :=
  (∀ (s : State) (e : CoreId) (rd ra rb : GReg), Steady s.chip e →
    exec (.add e rd ra rb) s = s.sets e rd (fun c => c.rd ra + c.rd rb)
    ∧ exec (.sub e rd ra rb) s = s.sets e rd (fun c => c.rd ra - c.rd rb)
    ∧ exec (.and e rd ra rb) s = s.sets e rd (fun c => c.rd ra &&& c.rd rb)
    ∧ exec (.or e rd ra rb) s = s.sets e rd (fun c => c.rd ra ||| c.rd rb)
    ∧ exec (.xor e rd ra rb) s = s.sets e rd (fun c => c.rd ra ^^^ c.rd rb)
    ∧ exec (.andn e rd ra rb) s = s.sets e rd (fun c => c.rd ra &&& ~~~(c.rd rb))
    ∧ exec (.shl e rd ra rb) s = s.sets e rd (fun c => BitVec.ofNat 32 ((c.rd ra).toNat * 2 ^ ((c.rd rb).toNat % 32)))
    ∧ exec (.shr e rd ra rb) s = s.sets e rd (fun c => BitVec.ofNat 32 ((c.rd ra).toNat / 2 ^ ((c.rd rb).toNat % 32)))
    ∧ exec (.sra e rd ra rb) s = s.sets e rd (fun c => BitVec.ofInt 32 ((c.rd ra).toInt / 2 ^ ((c.rd rb).toNat % 32)))
    ∧ exec (.ror e rd ra rb) s = s.sets e rd (fun c =>
        c.rd ra >>> ((c.rd rb).toNat % 32) ||| c.rd ra <<< ((32 - (c.rd rb).toNat % 32) % 32))
    ∧ exec (.slt e rd ra rb) s = s.sets e rd (fun c => if (c.rd ra).toInt < (c.rd rb).toInt then 1 else 0)
    ∧ exec (.sltu e rd ra rb) s = s.sets e rd (fun c => if (c.rd ra).toNat < (c.rd rb).toNat then 1 else 0)
    ∧ exec (.min e rd ra rb) s = s.sets e rd (fun c => BitVec.ofInt 32 (min (c.rd ra).toInt (c.rd rb).toInt))
    ∧ exec (.max e rd ra rb) s = s.sets e rd (fun c => BitVec.ofInt 32 (max (c.rd ra).toInt (c.rd rb).toInt))
    ∧ exec (.minu e rd ra rb) s = s.sets e rd (fun c => BitVec.ofNat 32 (min (c.rd ra).toNat (c.rd rb).toNat))
    ∧ exec (.maxu e rd ra rb) s = s.sets e rd (fun c => BitVec.ofNat 32 (max (c.rd ra).toNat (c.rd rb).toNat)))
  ∧ (∀ (s : State) (e : CoreId) (rd ra : GReg), Steady s.chip e →
    exec (.sextb e rd ra) s = s.sets e rd (fun c => ((c.rd ra).setWidth 8).signExtend 32)
    ∧ exec (.sexth e rd ra) s = s.sets e rd (fun c => ((c.rd ra).setWidth 16).signExtend 32)
    ∧ exec (.zexth e rd ra) s = s.sets e rd (fun c => BitVec.ofNat 32 ((c.rd ra).toNat % 65536))
    ∧ (∃ n : Nat, n ≤ 32 ∧ (s.chip.cores[e].rd ra).toNat < 2 ^ (32 - n) ∧ (n < 32 → 2 ^ (31 - n) ≤ (s.chip.cores[e].rd ra).toNat)
        ∧ exec (.clz e rd ra) s = s.sets e rd (fun _ => BitVec.ofNat 32 n))
    ∧ (∃ n : Nat, n ≤ 32 ∧ (s.chip.cores[e].rd ra).toNat % 2 ^ n = 0 ∧ (n < 32 → (s.chip.cores[e].rd ra).getLsbD n = true)
        ∧ exec (.ctz e rd ra) s = s.sets e rd (fun _ => BitVec.ofNat 32 n))
    ∧ exec (.popc e rd ra) s = s.sets e rd (fun c => BitVec.ofNat 32 ((List.range 32).countP fun i => (c.rd ra).getLsbD i))
    ∧ exec (.bswap e rd ra) s = s.sets e rd (fun c =>
        (c.rd ra <<< 24) ||| ((c.rd ra <<< 8) &&& 0xFF0000#32) ||| ((c.rd ra >>> 8) &&& 0xFF00#32) ||| (c.rd ra >>> 24)))
  ∧ (∀ (s : State) (e : CoreId) (rd ra : GReg) (i : BitVec 16) (n : BitVec 5), Steady s.chip e →
    exec (.addi e rd ra i) s = s.sets e rd (fun c => c.rd ra + i.signExtend 32)
    ∧ exec (.andi e rd ra i) s = s.sets e rd (fun c => c.rd ra &&& i.zeroExtend 32)
    ∧ exec (.ori e rd ra i) s = s.sets e rd (fun c => c.rd ra ||| i.zeroExtend 32)
    ∧ exec (.xori e rd ra i) s = s.sets e rd (fun c => c.rd ra ^^^ i.zeroExtend 32)
    ∧ exec (.slti e rd ra i) s = s.sets e rd (fun c => if (c.rd ra).toInt < i.toInt then 1 else 0)
    ∧ exec (.sltiu e rd ra i) s = s.sets e rd (fun c => if (c.rd ra).toNat < (i.signExtend 32).toNat then 1 else 0)
    ∧ exec (.addhi e rd ra i) s = s.sets e rd (fun c => c.rd ra + i.zeroExtend 32 * 65536#32)
    ∧ exec (.shli e rd ra n) s = s.sets e rd (fun c => BitVec.ofNat 32 ((c.rd ra).toNat * 2 ^ n.toNat))
    ∧ exec (.shri e rd ra n) s = s.sets e rd (fun c => BitVec.ofNat 32 ((c.rd ra).toNat / 2 ^ n.toNat))
    ∧ exec (.srai e rd ra n) s = s.sets e rd (fun c => BitVec.ofInt 32 ((c.rd ra).toInt / 2 ^ n.toNat))
    ∧ exec (.rori e rd ra n) s = s.sets e rd (fun c => c.rd ra >>> n.toNat ||| c.rd ra <<< ((32 - n.toNat) % 32)))

/-- R95: the products. R95, R96: division never traps. -/
def Obligations.ProductsAndQuotients : Prop :=
  (∀ (s : State) (e : CoreId) (rd ra rb : GReg), Steady s.chip e →
    exec (.mul e rd ra rb) s = s.sets e rd (fun c => c.rd ra * c.rd rb)
    ∧ exec (.mulh e rd ra rb) s = s.sets e rd (fun c => BitVec.ofInt 32 ((c.rd ra).toInt * (c.rd rb).toInt / 2 ^ 32))
    ∧ exec (.mulhu e rd ra rb) s = s.sets e rd (fun c => BitVec.ofNat 32 ((c.rd ra).toNat * (c.rd rb).toNat / 2 ^ 32))
    ∧ exec (.macc e rd ra rb) s = s.sets e rd (fun c => c.rd rd + c.rd ra * c.rd rb)
    ∧ (ra ≠ 31 → rb ≠ 31 →
        exec (.dot8 e rd ra rb) s = s.sets e rd (fun c => c.rd rd + BitVec.ofInt 32
          (∑ i ∈ Finset.range 8, ((c.pair ra).extractLsb' (8 * i) 8).toInt * ((c.pair rb).extractLsb' (8 * i) 8).toInt))
        ∧ exec (.dot8u e rd ra rb) s = s.sets e rd (fun c => c.rd rd + BitVec.ofInt 32
          (∑ i ∈ Finset.range 8, (((c.pair ra).extractLsb' (8 * i) 8).toNat : Int) * ((c.pair rb).extractLsb' (8 * i) 8).toInt))
        ∧ exec (.dot16 e rd ra rb) s = s.sets e rd (fun c => c.rd rd + BitVec.ofInt 32
          (∑ i ∈ Finset.range 4, ((c.pair ra).extractLsb' (16 * i) 16).toInt * ((c.pair rb).extractLsb' (16 * i) 16).toInt))))
  ∧ (∀ (s : State) (e : CoreId) (rd ra rb : GReg), Steady s.chip e →
    exec (.div e rd ra rb) s = s.sets e rd (fun c =>
      if c.rd rb = 0 then 0xFFFFFFFF else if c.rd ra = 0x80000000 ∧ c.rd rb = 0xFFFFFFFF then 0x80000000
      else BitVec.ofInt 32 ((c.rd ra).toInt.tdiv (c.rd rb).toInt))
    ∧ exec (.divu e rd ra rb) s = s.sets e rd (fun c =>
      if c.rd rb = 0 then 0xFFFFFFFF else BitVec.ofNat 32 ((c.rd ra).toNat / (c.rd rb).toNat))
    ∧ exec (.rem e rd ra rb) s = s.sets e rd (fun c =>
      if c.rd rb = 0 then c.rd ra else if c.rd ra = 0x80000000 ∧ c.rd rb = 0xFFFFFFFF then 0
      else BitVec.ofInt 32 ((c.rd ra).toInt - (c.rd ra).toInt.tdiv (c.rd rb).toInt * (c.rd rb).toInt))
    ∧ exec (.remu e rd ra rb) s = s.sets e rd (fun c =>
      if c.rd rb = 0 then c.rd ra else BitVec.ofNat 32 ((c.rd ra).toNat % (c.rd rb).toNat)))

/-- R101, R55: the target of a branch is the pc with four times the offset, where the condition holds, else the next instruction; nothing
but the fetch offset changes. R102: JMP goes to the pc with four times its offset, JMPR to ra with bits [1:0] ignored. R53, R102: CALL and CALLR push the return word 4 below sp and jump; RET pops it, and takes CB and the offset from it. -/
def Obligations.BranchesAndJumps : Prop :=
  (∀ (s : State) (e : CoreId) (ra rb : GReg) (i : BitVec 5) (off : BitVec 15), Steady s.chip e →
    let go (taken : Core → Prop) [∀ c, Decidable (taken c)] : Outcome :=
      .next (s.went e id fun c => if taken c then c.off + BitVec.ofInt 24 (4 * off.toInt) else c.off + 4)
    exec (.beq e ra rb off) s = go (fun c => c.rd ra = c.rd rb)
    ∧ exec (.bne e ra rb off) s = go (fun c => c.rd ra ≠ c.rd rb)
    ∧ exec (.blt e ra rb off) s = go (fun c => (c.rd ra).toInt < (c.rd rb).toInt)
    ∧ exec (.bge e ra rb off) s = go (fun c => (c.rd rb).toInt ≤ (c.rd ra).toInt)
    ∧ exec (.bltu e ra rb off) s = go (fun c => (c.rd ra).toNat < (c.rd rb).toNat)
    ∧ exec (.bgeu e ra rb off) s = go (fun c => (c.rd rb).toNat ≤ (c.rd ra).toNat)
    ∧ exec (.beqi e ra i off) s = go (fun c => c.rd ra = i.signExtend 32)
    ∧ exec (.bnei e ra i off) s = go (fun c => c.rd ra ≠ i.signExtend 32)
    ∧ exec (.blti e ra i off) s = go (fun c => (c.rd ra).toInt < i.toInt)
    ∧ exec (.bgei e ra i off) s = go (fun c => i.toInt ≤ (c.rd ra).toInt))
  ∧ (∀ (s : State) (e : CoreId) (ra : GReg) (off : BitVec 22), Steady s.chip e →
    exec (.jmp e off) s = .next (s.went e id fun c => c.off + BitVec.ofInt 24 (4 * off.toInt))
    ∧ exec (.jmpr e ra) s = .next (s.went e id fun c => BitVec.ofNat 24 ((c.rd ra).toNat / 4 * 4)))
  ∧ (∀ (s : State) (e : CoreId) (ra : GReg) (off : BitVec 22) (t : Chip) (v : Word), Steady s.chip e →
    let c := s.chip.cores[e]
    let slot := devAddr c.spBank (c.sp - 4).toNat
    let pushed (k : Core) : Core := k.wr 31 (k.sp - 4)
    (Stores s.chip e slot 4 (c.cb ++ (c.off + 4)) true t →
      exec (.call e off) s = s.after t e pushed (c.off + BitVec.ofInt 24 (4 * off.toInt))
      ∧ exec (.callr e ra) s = s.after t e pushed (BitVec.ofNat 24 ((c.rd ra).toNat / 4 * 4)))
    ∧ (Loads s.chip e (devAddr c.spBank c.sp.toNat) 4 false t v →
      exec (.ret e) s = s.after t e (fun k => { k.wr 31 (k.sp + 4) with cb := v.extractLsb' 24 8 })
        (BitVec.ofNat 24 (v.toNat % 0x1000000 / 4 * 4))))

/-! ### Engines and the curator: memory -/

/-- R98, R99, R54, R56, R86: loads extend what memory answers and write rt; the post-increment forms add the access size to ra before rt is
written; the short forms take their bank from DB, or from SPLIM for the bases g29 and g31. R86, R98, R99, R57: a load from an array finds the bytes there, the lowest address lowest, extended as the instruction says, and
changes nothing but rt (and the base of a post-increment form); on the curator the access passes its tokens (R343). -/
def Obligations.LoadInstructions : Prop :=
  (∀ (s : State) (e : CoreId) (rt ra : GReg) (i : BitVec 16) (j : BitVec 12) (t : Chip) (v : Word), Steady s.chip e →
    let c := s.chip.cores[e]
    let short := c.short ra (i.signExtend 32)
    let inc := c.short ra (j.signExtend 32)
    let long := (c.rd ra + j.signExtend 32).toNat
    let done (w : Word) : Outcome := s.after t e (fun k => k.wr rt w) (s.following e)
    let bump (n : Nat) (w : Word) : Outcome := s.after t e (fun k => (k.wr ra (k.rd ra + BitVec.ofNat 32 n)).wr rt w) (s.following e)
    (Loads s.chip e short 4 (ra == 31) t v → exec (.lw e rt ra i) s = done v)
    ∧ (Loads s.chip e short 2 (ra == 31) t v → exec (.lh e rt ra i) s = done ((v.setWidth 16).signExtend 32)
        ∧ exec (.lhu e rt ra i) s = done ((v.setWidth 16).zeroExtend 32))
    ∧ (Loads s.chip e short 1 (ra == 31) t v → exec (.lb e rt ra i) s = done ((v.setWidth 8).signExtend 32)
        ∧ exec (.lbu e rt ra i) s = done ((v.setWidth 8).zeroExtend 32))
    ∧ (Loads s.chip e inc 4 (ra == 31) t v → rt ≠ ra → exec (.lwI e rt ra j) s = bump 4 v)
    ∧ (Loads s.chip e inc 2 (ra == 31) t v → rt ≠ ra → exec (.lhI e rt ra j) s = bump 2 ((v.setWidth 16).signExtend 32)
        ∧ exec (.lhuI e rt ra j) s = bump 2 ((v.setWidth 16).zeroExtend 32))
    ∧ (Loads s.chip e inc 1 (ra == 31) t v → rt ≠ ra → exec (.lbI e rt ra j) s = bump 1 ((v.setWidth 8).signExtend 32)
        ∧ exec (.lbuI e rt ra j) s = bump 1 ((v.setWidth 8).zeroExtend 32))
    ∧ (Loads s.chip e long 4 false t v → exec (.ldl e rt ra j) s = done v)
    ∧ (Loads s.chip e long 2 false t v → exec (.ldlh e rt ra j) s = done ((v.setWidth 16).signExtend 32)
        ∧ exec (.ldlhu e rt ra j) s = done ((v.setWidth 16).zeroExtend 32))
    ∧ (Loads s.chip e long 1 false t v → exec (.ldlb e rt ra j) s = done ((v.setWidth 8).signExtend 32)
        ∧ exec (.ldlbu e rt ra j) s = done ((v.setWidth 8).zeroExtend 32)))
  ∧ (∀ (s : State) (e : CoreId) (rt ra : GReg) (i : BitVec 16) (j : BitVec 12), Steady s.chip e →
    let a := s.chip.cores[e].short ra (i.signExtend 32)
    let b := s.chip.cores[e].short ra (j.signExtend 32)
    let l := (s.chip.cores[e].rd ra + j.signExtend 32).toNat
    let at' (x k : Nat) : Nat := (s.chip.mem.byte (canon e x + k)).toNat
    let half (x : Nat) : BitVec 16 := BitVec.ofNat 16 (at' x 0 + 256 * at' x 1)
    let word (x : Nat) : Word := BitVec.ofNat 32 (at' x 0 + 256 * at' x 1 + 65536 * at' x 2 + 16777216 * at' x 3)
    let ready (x n : Nat) (stk : Bool) : Prop := Plain s.chip e x n ∧ Allowed s.chip e .read x n stk
    let read (x n : Nat) : Chip := s.chip.accessTokens e (ownCtx e s.chip.cores[e]) .load x n [] (.val (BitVec.ofNat 32 (s.chip.mem.bytesLE (canon e x) n)))
    let sets (x n : Nat) (v : Word) : Outcome := s.after (read x n) e (fun c => c.wr rt v) (s.following e)
    (ready a 4 (ra == 31) → exec (.lw e rt ra i) s = sets a 4 (word a))
    ∧ (ready a 2 (ra == 31) → exec (.lh e rt ra i) s = sets a 2 ((half a).signExtend 32)
        ∧ exec (.lhu e rt ra i) s = sets a 2 ((half a).zeroExtend 32))
    ∧ (ready a 1 (ra == 31) → exec (.lb e rt ra i) s = sets a 1 ((s.chip.mem.byte (canon e a)).signExtend 32)
        ∧ exec (.lbu e rt ra i) s = sets a 1 ((s.chip.mem.byte (canon e a)).zeroExtend 32))
    ∧ (ready b 4 (ra == 31) → rt ≠ ra →
        exec (.lwI e rt ra j) s = s.after (read b 4) e (fun c => (c.wr ra (c.rd ra + 4)).wr rt (word b)) (s.following e))
    ∧ (ready l 4 false → exec (.ldl e rt ra j) s = sets l 4 (word l)))
/-- R98, R99, R100: stores hand rt to memory and write no register but the base of a post-increment form. R140, R141, R107: outside deterministic mode an engine's store to an array retires into its store buffer, behind the older ones; it
ends the engine's own reservation on its granule and changes nothing else, no byte of memory either. R141, R86, R107: the oldest buffered store reaches its array: exactly its bytes change, every reservation on their granules is
cleared, and it leaves the buffer. -/
def Obligations.StoresAndTheStoreBuffer : Prop :=
  (∀ (s : State) (e : CoreId) (rt ra : GReg) (i : BitVec 16) (j : BitVec 12) (t : Chip), Steady s.chip e →
    let c := s.chip.cores[e]
    let short := c.short ra (i.signExtend 32)
    let inc := c.short ra (j.signExtend 32)
    let long := (c.rd ra + j.signExtend 32).toNat
    let done : Outcome := s.after t e id (s.following e)
    let bump (n : Nat) : Outcome := s.after t e (fun k => k.wr ra (k.rd ra + BitVec.ofNat 32 n)) (s.following e)
    (Stores s.chip e short 4 (c.rd rt) (ra == 31) t → exec (.sw e rt ra i) s = done)
    ∧ (Stores s.chip e short 2 (c.rd rt) (ra == 31) t → exec (.sh e rt ra i) s = done)
    ∧ (Stores s.chip e short 1 (c.rd rt) (ra == 31) t → exec (.sb e rt ra i) s = done)
    ∧ (Stores s.chip e inc 4 (c.rd rt) (ra == 31) t → exec (.swI e rt ra j) s = bump 4)
    ∧ (Stores s.chip e inc 2 (c.rd rt) (ra == 31) t → exec (.shI e rt ra j) s = bump 2)
    ∧ (Stores s.chip e inc 1 (c.rd rt) (ra == 31) t → exec (.sbI e rt ra j) s = bump 1)
    ∧ (Stores s.chip e long 4 (c.rd rt) false t → exec (.stl e rt ra j) s = done)
    ∧ (Stores s.chip e long 2 (c.rd rt) false t → exec (.stlh e rt ra j) s = done)
    ∧ (Stores s.chip e long 1 (c.rd rt) false t → exec (.stlb e rt ra j) s = done))
  ∧ (∀ (s : State) (e : CoreId) (rt ra : GReg) (i : BitVec 16) (j : BitVec 12), Steady s.chip e → isCur e = false →
    s.chip.cores[e].det = false → s.chip.cores[e].sb.length < 12 →
    let c := s.chip.cores[e]
    let a := c.short ra (i.signExtend 32)
    let b := c.short ra (j.signExtend 32)
    let l := (c.rd ra + j.signExtend 32).toNat
    let ready (x n : Nat) (stk : Bool) : Prop :=
      x / 0x1000000 < 3 ∧ implemented e x n = true ∧ Allowed s.chip e .write x n stk
    let enters (x n : Nat) (k : Core) : Core :=
      { k with
        sb := k.sb ++ [⟨BitVec.ofNat 32 x, n, k.rd rt, .waiting⟩]
        resv := if k.resv = some (canon e x / 64) then none else k.resv }
    (ready a 4 (ra == 31) → exec (.sw e rt ra i) s = .next (s.went e (enters a 4) Core.nextOff))
    ∧ (ready a 2 (ra == 31) → exec (.sh e rt ra i) s = .next (s.went e (enters a 2) Core.nextOff))
    ∧ (ready a 1 (ra == 31) → exec (.sb e rt ra i) s = .next (s.went e (enters a 1) Core.nextOff))
    ∧ (ready b 4 (ra == 31) → exec (.swI e rt ra j) s = .next (s.went e (fun k => (enters b 4 k).wr ra (k.rd ra + 4)) Core.nextOff))
    ∧ (ready l 4 false → exec (.stl e rt ra j) s = .next (s.went e (enters l 4) Core.nextOff)))
  ∧ (∀ (s : State) (e : CoreId) (st : SbEntry) (rest : List SbEntry), Calm s.chip.dev → isCur e = false →
    s.chip.dev.pwr.hold = false → s.chip.dev.wingRuns (Fin.ofNat 2 (wingOf e)) = true → s.chip.cores[e].sb = st :: rest → (∀ x ∈ st :: rest, x.way = .waiting) →
    st.addr.toNat / 0x1000000 < 3 → implemented e st.addr.toNat st.size = true → 1 ≤ st.size → st.size ≤ 4 →
    (∀ k < st.size, s.chip.dev.galleryOff (canon e (st.addr.toNat + k)) = false) →
    (∀ k < st.size, s.chip.mem.flip (canon e (st.addr.toNat + k)) = 0) → s.chip.mem.owned = [] →
    s.chip.dev.flag GAL_CCTL_EN = false →
    let a := canon e st.addr.toNat
    ∃ t, exec (.storeDrain e) s = .next t ∧ t.pending = s.pending ∧ t.chip.dev = s.chip.dev
      ∧ (∀ b, t.chip.mem.byte b = if a ≤ b ∧ b < a + st.size then st.data.extractLsb' (8 * (b - a)) 8 else s.chip.mem.byte b)
      ∧ t.chip.cores[e].sb = rest
      ∧ ∀ k : CoreId, t.chip.cores[k].g = s.chip.cores[k].g ∧ t.chip.cores[k].off = s.chip.cores[k].off
        ∧ t.chip.cores[k].resv = (if s.chip.cores[k].resv = some (a / 64) ∨ s.chip.cores[k].resv = some ((a + st.size - 1) / 64) then none
            else s.chip.cores[k].resv))

/-- R99, R107, R108: LL reads its word and reserves its granule; SC with the reservation on its granule writes the word and 0 into rt,
else it writes no memory and 1 into rt; after it no reservation is left. R99, R106: an atomic reads its word and writes the word it computes from it and rb, as one operation, and rt takes the old word. -/
def Obligations.ReadModifyWrites : Prop :=
  (∀ (s : State) (e : CoreId) (rt ra rb : GReg), Steady s.chip e → s.chip.cores[e].sb = [] → s.chip.cores[e].sbErr = [] →
    let c := s.chip.cores[e]
    let a := (c.rd ra).toNat
    let m := canon e a
    let old : Word := BitVec.ofNat 32 (s.chip.mem.bytesLE m 4)
    let passes (k : TokKind) (data : List Word) (v : Word) (f : Core → Core) : Chip :=
      (s.chip.onCore e f).accessTokens e (ownCtx e c) k a 4 data (.val v)
    a % 4 = 0 → Plain s.chip e a 4 →
    (Allowed s.chip e .read a 4 false →
      exec (.ll e rt ra) s = s.after (passes .ll [] old fun k => { k with resv := some (m / 64) }) e (fun k => k.wr rt old) (s.following e))
    ∧ (Allowed s.chip e .write a 4 false → c.resv ≠ some (m / 64) →
      exec (.sc e rt ra rb) s = s.after (passes .sc [c.rd rb] 1 fun k => { k.dcDrop a with resv := none }) e (fun k => k.wr rt 1) (s.following e))
    ∧ (Allowed s.chip e .write a 4 false → c.resv = some (m / 64) → isCur e = false → s.chip.mem.owned = [] →
      ∃ t, exec (.sc e rt ra rb) s = .next t ∧ t.chip.dev = s.chip.dev
        ∧ (∀ b, t.chip.mem.byte b = if m ≤ b ∧ b < m + 4 then (c.rd rb).extractLsb' (8 * (b - m)) 8 else s.chip.mem.byte b)
        ∧ (∀ r, t.chip.cores[e].rd r = if r = rt ∧ r ≠ 0 then 0 else c.rd r)
        ∧ t.chip.cores[e].off = c.off + 4 ∧ ∀ k : CoreId, t.chip.cores[k].resv ≠ some (m / 64)))
  ∧ (∀ (s : State) (e : CoreId) (rt ra rb : GReg), Steady s.chip e → s.chip.cores[e].sb = [] → s.chip.cores[e].sbErr = [] →
    isCur e = false → s.chip.mem.owned = [] →
    let c := s.chip.cores[e]
    let a := (c.rd ra).toNat
    let m := canon e a
    let old : Word := BitVec.ofNat 32 (s.chip.mem.bytesLE m 4)
    a % 4 = 0 → Plain s.chip e a 4 → Allowed s.chip e .read a 4 false → Allowed s.chip e .write a 4 false →
    let does (i : Instr) (new : Word) : Prop :=
      ∃ t, exec i s = .next t ∧ t.chip.dev = s.chip.dev
        ∧ (∀ b, t.chip.mem.byte b = if m ≤ b ∧ b < m + 4 then new.extractLsb' (8 * (b - m)) 8 else s.chip.mem.byte b)
        ∧ (∀ r, t.chip.cores[e].rd r = if r = rt ∧ r ≠ 0 then old else c.rd r)
        ∧ t.chip.cores[e].off = c.off + 4 ∧ ∀ k : CoreId, t.chip.cores[k].resv ≠ some (m / 64)
    does (.swap e rt ra rb) (c.rd rb)
    ∧ does (.aadd e rt ra rb) (old + c.rd rb)
    ∧ does (.aand e rt ra rb) (old &&& c.rd rb)
    ∧ does (.aor e rt ra rb) (old ||| c.rd rb)
    ∧ does (.amin e rt ra rb) (BitVec.ofInt 32 (min old.toInt (c.rd rb).toInt))
    ∧ does (.amax e rt ra rb) (BitVec.ofInt 32 (max old.toInt (c.rd rb).toInt)))

/-! ### Engines and the curator: system instructions -/

/-- R60, R63, R104: MFS in kernel mode reads each system register; of TBL it reads the low word of the timebase and latches the high word,
which TBH returns; a curator's read of TBL is a token (R343). R60, R62, R64, R67: MTS in kernel mode writes the writable fields of each system register, clamped; DB, CB and MODE wait in the write
shadow for the fourth instruction after it; ENGID, TBL and TBH stay. R64: a write that waits in its shadow takes effect with the third instruction after the MTS, so that the fourth is the first to see it;
each instruction that runs brings it one nearer. -/
def Obligations.SystemRegisters : Prop :=
  (∀ (s : State) (e : CoreId) (rd : GReg), Steady s.chip e → s.chip.cores[e].km = true →
    exec (.mfs e rd 0x00) s = s.sets e rd Core.status
    ∧ exec (.mfs e rd 0x01) s = s.sets e rd Core.epc
    ∧ exec (.mfs e rd 0x02) s = s.sets e rd Core.ecause
    ∧ exec (.mfs e rd 0x03) s = s.sets e rd Core.eval
    ∧ exec (.mfs e rd 0x04) s = s.sets e rd Core.vbase
    ∧ exec (.mfs e rd 0x05) s = s.sets e rd (fun c => c.db.zeroExtend 32)
    ∧ exec (.mfs e rd 0x06) s = s.sets e rd (fun c => c.cb.zeroExtend 32)
    ∧ exec (.mfs e rd 0x07) s = s.sets e rd (fun c => c.rc.zeroExtend 32)
    ∧ exec (.mfs e rd 0x08) s = s.sets e rd (fun c => c.mode.zeroExtend 32)
    ∧ exec (.mfs e rd 0x09) s = s.sets e rd (fun _ => if isCur e then 0x80180000
        else BitVec.ofNat 32 ((0x40 + e.val) * 0x10000 + e.val / 32 * 0x800 + e.val / 8 * 0x100 + e.val))
    ∧ exec (.mfs e rd 0x0A) s = s.leaves ((s.chip.srTokens e 0x0A).onCore e fun c =>
        { ({ c with tbh := s.chip.dev.now.extractLsb' 32 32 } : Core).wr rd (s.chip.dev.now.extractLsb' 0 32) with
          off := c.off + 4, wait := .none, resumed := false, tblPair := true })
    ∧ exec (.mfs e rd 0x0B) s = s.sets e rd Core.tbh
    ∧ exec (.mfs e rd 0x0C) s = s.sets e rd Core.splim
    ∧ ∀ n : Fin 8, exec (.mfs e rd (BitVec.ofNat 8 (0x20 + 3 * n))) s = s.sets e rd (fun c => c.regions[n].base)
        ∧ exec (.mfs e rd (BitVec.ofNat 8 (0x21 + 3 * n))) s = s.sets e rd (fun c => c.regions[n].limit)
        ∧ exec (.mfs e rd (BitVec.ofNat 8 (0x22 + 3 * n))) s = s.sets e rd (fun c => c.regions[n].attr))
  ∧ (∀ (s : State) (e : CoreId) (ra : GReg), Steady s.chip e → s.chip.cores[e].km = true →
    let v := s.chip.cores[e].rd ra
    let does (n : Nat) (f : Core → Core) : Prop := exec (.mts e (BitVec.ofNat 8 n) ra) s = .next (s.went e f Core.nextOff)
    does 0x00 (fun c => { c with km := v.getLsbD 0, ie := v.getLsbD 1, pri := BitVec.ofNat 5 (min (v.toNat / 65536 % 32) 16) })
    ∧ does 0x01 (fun c => { c with epc := v &&& 0xFFFFFFFC })
    ∧ does 0x02 (fun c => { c with ecause := (v &&& 0xC000FF00) ||| BitVec.ofNat 32 (min (v.toNat % 256) 0x1F) })
    ∧ does 0x03 (fun c => { c with eval := v })
    ∧ does 0x04 (fun c => { c with vbase := v &&& 0xFFFFFF80 })
    ∧ does 0x05 (fun c => { c with shadows := [⟨.db, v.extractLsb' 0 8, 3⟩] })
    ∧ does 0x06 (fun c => { c with shadows := [⟨.cb, v.extractLsb' 0 8, 3⟩] })
    ∧ does 0x07 (fun c => { c with rc := BitVec.ofNat 17 (min (v.toNat % 131072) 65536) })
    ∧ (isCur e = false → does 0x08 (fun c => { c with shadows := [⟨.mode, v.extractLsb' 0 8 &&& 7, 3⟩] }))
    ∧ (isCur e = true → does 0x08 id)
    ∧ does 0x09 id ∧ does 0x0A id ∧ does 0x0B id
    ∧ does 0x0C (fun c => { c with splim := v &&& 0xFFFFFFC1 })
    ∧ ∀ n : Fin 8, does (0x20 + 3 * n) (fun c => { c with regions := c.regions.set n { c.regions[n] with base := v &&& 0xFFFFFFC0 } })
        ∧ does (0x21 + 3 * n) (fun c => { c with regions := c.regions.set n { c.regions[n] with limit := v &&& 0xFFFFFFC0 } })
        ∧ does (0x22 + 3 * n) (fun c => { c with regions := c.regions.set n { c.regions[n] with attr := v &&& 0x800001F7 } }))
  ∧ (∀ (c : Core) (v : BitVec 8),
    c.shadows = [] →
    let w (n : Nat) : Core := { c with shadows := [⟨.db, v, n⟩] }
    (w 3).shadowStep = w 2 ∧ (w 2).shadowStep = w 1 ∧ (w 1).shadowStep = { c with db := v })

/-- R74, R69, R75, R107: TRAP and BKPT enter their exceptions: EPC is the next instruction for TRAP and BKPT itself for BKPT, EVAL the
immediate; the frame lies below sp. R85, R87, R100, R61, R68, R69: encodings that are not assigned trap ILLEGAL and user mode may not name a kernel register or RFE; EPC is
the instruction itself and EVAL its word. -/
def Obligations.ExceptionsTaken : Prop :=
  (∀ (s : State) (e : CoreId) (i : BitVec 16) (t : Chip), Steady s.chip e → s.chip.offer e = none →
    let c := s.chip.cores[e]
    let sec := c.secure e
    let next (w : Word) : Word := c.cb ++ ((c.off + BitVec.ofNat 24 w.toNat) &&& ~~~3#24)
    (Enters (s.chip.trapping e) e sec 0x0A (next 4) (i.zeroExtend 32) none t →
      exec (.trap e i) s = .next { s with chip := (t.onCore e (·.entered 0x0A (next 4) (i.zeroExtend 32) none)).settle })
    ∧ (Enters (s.chip.trapping e) e sec 0x0B (next 0) (i.zeroExtend 32) none t → s.chip.dev.bkptHalts e = false →
      exec (.bkpt e i) s = .next { s with chip := (t.onCore e (·.entered 0x0B (next 0) (i.zeroExtend 32) none)).settle })
    ∧ (s.chip.dev.bkptHalts e = true → exec (.bkpt e i) s = .next { s with chip := (s.chip.halt e).settle }
        ∧ (s.chip.halt e).cores[e].halted = true ∧ (s.chip.halt e).cores[e].off = c.off))
  ∧ (∀ (s : State) (e : CoreId) (rd ra rb : GReg) (i : BitVec 12) (t : Chip), Steady s.chip e → s.chip.offer e = none →
    let c := s.chip.cores[e]
    let here : Word := c.cb ++ (c.off &&& ~~~3#24)
    let traps (x : Instr) (ecause : Word) (op : Op) : Prop :=
      Enters (s.chip.trapping e) e (c.secure e) ecause here op.encode none t →
      exec x s = .next { s with chip := (t.onCore e (·.entered ecause here op.encode none)).settle }
    (ra = 31 ∨ rb = 31 → traps (.dot8 e rd ra rb) 0x01 (.alu .dot8 rd ra rb) ∧ traps (.dot8u e rd ra rb) 0x01 (.alu .dot8u rd ra rb)
      ∧ traps (.dot16 e rd ra rb) 0x01 (.alu .dot16 rd ra rb))
    ∧ traps (.lwI e ra ra i) 0x01 (.ldi .w ra ra i)
    ∧ traps (.inval e ra 0) 0x01 (.inval ra 0)
    ∧ traps (.waitt e rd 31) 0x01 (.waitt rd 31)
    ∧ traps (.mfs e rd 0x0D) 0x01 (.mfs rd 0x0D)
    ∧ (c.km = false → traps (.mfs e rd 0x00) 0x404 (.mfs rd 0x00) ∧ traps (.mts e 0x04 ra) 0x404 (.mts 0x04 ra) ∧ traps (.rfe e) 0x404 .rfe)
    ∧ (isCur e = true → traps (.customInstruction e 0 rd ra rb 0) 0x02 (.cx 0 rd ra rb 0)))

/-- R77, R62, R105, R107: RFE in kernel mode without a tail chain resumes at EPC with the mode, the interrupt enable, the priority, the
cause registers and RX of the frame it pops; the reservation is gone. -/
def Obligations.ReturnFromException : Prop :=
  ∀ (s : State) (e : CoreId), Steady s.chip e → s.chip.cores[e].km = true → s.chip.cores[e].sb = [] →
    s.chip.cores[e].sbErr = [] → isCur e = false →
    let c := s.chip.cores[e]
    let slot (k : Nat) : Nat := frameAddr c (c.sp.toNat % 0x1000000) k
    let w (k : Nat) : Word := BitVec.ofNat 32 (s.chip.mem.bytesLE (canon e (slot k)) 4)
    let w0 := w 0
    let w1 := w 1
    let w2 := w 2
    let w3 := w 3
    w1.getLsbD 30 = false → s.chip.dev.tailOffer e w1 = none →
    (∀ k < 4, frameCause e c false .read (slot k) = none ∧ Plain s.chip e (slot k) 4) →
    exec (.rfe e) s = .next { s with chip := s.chip.onCore e fun k =>
      { k.wr 31 (k.sp + 16) with
        cb := k.epc.extractLsb' 24 8, off := k.epc.extractLsb' 0 24 &&& ~~~3#24
        epc := w0 &&& 0xFFFFFFFC, ecause := ecauseStore w2, eval := w3
        km := w1.getLsbD 0, ie := w1.getLsbD 1, pri := BitVec.ofNat 5 (min (w1.toNat / 65536 % 32) 16), rx := false
        resv := none, wait := .none, resumed := false, tblPair := false } }

/-- R119, R120, R159, R188: FENCE.A drops the cached data lines that have no store of their own on its way; FENCE.R ends once every older
store is done; INVAL drops the line from the caches it names, and FLUSH from the data cache once the stores are done; the curator's pass
tokens (R343). -/
def Obligations.FencesAndLines : Prop :=
  ∀ (s : State) (e : CoreId) (ra : GReg) (sel : BitVec 2), Steady s.chip e →
    let c := s.chip.cores[e]
    let a := (c.rd ra).toNat
    let plain : Prop := a / 0x1000000 < 3 ∧ implemented e a 1 = true ∧ c.allowed c.km .read a 1 = true
    let drop (l : List (Nat × List Byte)) : List (Nat × List Byte) := l.filter fun p => p.1 != a / 64
    let passes (k : TokKind) (data : List Word) (f : Core → Core) : Chip :=
      (s.chip.onCore e f).accessTokens e (ownCtx e c) k (a / 4 * 4) 4 data (.val 0)
    exec (.fenceA e) s = .next (s.went e
      (fun k => { k with dcache := k.dcache.filter fun l => k.sb.any fun st =>
        st.addr.toNat / 64 == l.1 || (st.addr.toNat + st.size - 1) / 64 == l.1 }) Core.nextOff)
    ∧ (c.sb = [] → c.sbErr = [] → exec (.fenceR e) s = .next (s.went e id Core.nextOff))
    ∧ (plain → sel ≠ 0 → exec (.inval e ra sel) s = s.after (passes .inval [sel.zeroExtend 32] (fun k =>
        { k with
          dcache := if sel.getLsbD 0 then drop k.dcache else k.dcache
          icache := if sel.getLsbD 1 then drop k.icache else k.icache })) e id (s.following e))
    ∧ (plain → c.sb = [] → c.sbErr = [] →
        exec (.flush e ra) s = s.after (passes .flush [] fun k => { k with dcache := drop k.dcache }) e id (s.following e))
    ∧ (isIo a = true → sel ≠ 0 → exec (.inval e ra sel) s = s.after (passes .inval [sel.zeroExtend 32] id) e id (s.following e)
        ∧ exec (.flush e ra) s = s.after (passes .flush [] id) e id (s.following e))

/-- R116, R117, R118: WFE with the latch set clears it and goes on, else waits; WAITT goes on at once where the timebase has reached its
time or the latch is set, telling which, else waits; SEV of scope 1 sets the target's latch, or counts a merge where it is set. The curator's pass tokens (R343). R116, R118, R72, R142: what ends a wait: an event ends WFE and WAITT, the timebase WAITT, and an access that waited for older stores is
executed again. -/
def Obligations.WaitsAndEvents : Prop :=
  (∀ (s : State) (e : CoreId) (rd ra : GReg) (n : Fin 64), Steady s.chip e → ra ≠ 31 →
    let c := s.chip.cores[e]
    let set := s.chip.dev.latch.getLsbD e.val
    let past : Bool := c.pair ra ≤ s.chip.dev.now
    let asleep (k : TokKind) (data : List Word) (w : Wait) : Chip := (s.chip.sysToken e k data).onCore e fun k => { k with wait := w, resumed := false, tblPair := false }
    let unlatched (k : TokKind) (data : List Word) : Chip := (s.chip.sysToken e k data).onDev fun d => { d with latch := d.latch &&& ~~~(1#65 <<< e.val) }
    let until' : List Word := [(c.pair ra).extractLsb' 0 32, (c.pair ra).extractLsb' 32 32]
    let tells : Word := BitVec.ofNat 32 ((if past then 1 else 0) + (if set then 2 else 0))
    let event (n : Nat) (d : Dev) : Dev :=
      if d.latch.getLsbD n then d.put EVN_MERGE_COUNT (min 0xFFFFFFFF (d.get EVN_MERGE_COUNT + 1)) else { d with latch := d.latch ||| (1#65 <<< n) }
    (set = true → exec (.wfe e) s = s.after ((unlatched .wfe []).leaveToken e .event .wfeEnd []) e id (s.following e))
    ∧ (set = false → exec (.wfe e) s = .next { s with chip := asleep .wfe [] .wfe })
    ∧ (set = true ∨ past = true → exec (.waitt e rd ra) s = s.after
        ((unlatched .waitt until').leaveToken e (if past then .timeout else .event) .waittEnd [tells]) e (fun k => k.wr rd tells) (s.following e))
    ∧ (set = false → past = false → exec (.waitt e rd ra) s = .next { s with chip := asleep .waitt until' (.waitt rd (c.pair ra)) })
    ∧ (c.sb = [] → c.sbErr = [] →
        exec (.sev e 1 false ra (BitVec.ofNat 6 n)) s = s.after ((s.chip.sysToken e .sev [1, BitVec.ofNat 32 n]).onDev (event n)) e id (s.following e)
        ∧ exec (.sev e 1 true ra 0) s = s.after ((s.chip.sysToken e .sev [1, BitVec.ofNat 32 ((c.rd ra).toNat % 64)]).onDev
          (event ((c.rd ra).toNat % 64))) e id (s.following e)))
  ∧ (∀ (s : State) (e : CoreId) (rd : GReg) (t : BitVec 64) (op : Op) (body : Word),
    let c := s.chip.cores[e]
    let set := s.chip.dev.latch.getLsbD e.val
    let past : Bool := t ≤ s.chip.dev.now
    let unlatched : Chip := s.chip.onDev fun d => { d with latch := d.latch &&& ~~~(1#65 <<< e.val) }
    let word : Word := BitVec.ofNat 32 ((if past then 1 else 0) + (if set then 2 else 0))
    let tells : Core → Core := fun k => k.wr rd word
    let awoke : Chip := unlatched.leaveToken e .event .wfeEnd []
    let timed : Chip := unlatched.leaveToken e (if past then .timeout else .event) .waittEnd [word]
    (Waiting s.chip e .wfe → set = true → exec (.wfeWake e) s = s.after awoke e id (c.off + 4))
    ∧ (Waiting s.chip e (.waitt rd t) → set = true → exec (.wfeWake e) s = s.after timed e tells (c.off + 4))
    ∧ (Waiting s.chip e (.waitt rd t) → past = true → exec (.waittTimeout e) s = s.after timed e tells (c.off + 4))
    ∧ (Waiting s.chip e (.waitt rd t) → past = false → exec (.waittTimeout e) s = .next s)
    ∧ (Waiting s.chip e (.overlap op body none) →
        let awake : Chip := (s.chip.onDev (·.forget e)).onCore e fun k => { k with wait := .none }
        (awake.fromBoundary e op body).cores[e].wait = .none →
        exec (.partialOverlapRetry e) s = .next { s with chip := (awake.fromBoundary e op body).settle }))

/-- R109 to R113: REPN runs its instruction n + 1 times, or RC times while RX is 1, and goes on behind the pair; REPI runs it once and, with
iterations left, keeps their count in RC with RX set and stays at the prefix. R121, R122, R123, R69: a custom instruction of a loaded slot runs the slot's micro-operations on its operands; one of an empty slot traps
CUSTOM_EMPTY. -/
def Obligations.RepeatsAndCustomInstructions : Prop :=
  (∀ (s : State) (e : CoreId) (n5 : BitVec 5) (n16 : BitVec 16) (ra : GReg) (b : Op) (f : Core → Core) (w : Word), Steady s.chip e →
    let c := s.chip.cores[e]
    (match b with
      | .alu g rd x y => b.wf = true ∧ f = fun k => k.wr rd (g.eval (k.rd rd) (k.rd x) (k.rd y) (k.pair x) (k.pair y))
      | .imm g rd x i => f = fun k => k.wr rd (g.eval (k.rd x) i)
      | .shi g rd x i => f = fun k => k.wr rd (g.eval (k.rd x) i)
      | _ => False) →
    s.chip.fetch e c.pc4 = (s.chip, .ok w) →
    let ended (k : Core) : Core := if k.rx then { k with rx := false, rc := 0 } else k
    let runs (m : Nat) : Nat := if c.rx then c.rc.toNat else m
    let once (m : Nat) : Outcome :=
      if m = 0 then .next (s.went e ended fun k => k.off + 8)
      else if m = 1 then .next (s.went e (fun k => { f k with rx := false, rc := 0 }) fun k => k.off + 8)
      else .next (s.went e (fun k => { f k with rx := true, rc := BitVec.ofNat 17 (m - 1) }) Core.off)
    Op.decode b.encode = some b →
    exec (.repn e n5 b.encode) s = .next (s.went e (fun k => ended (f^[runs (n5.toNat + 1)] k)) fun k => k.off + 8)
    ∧ exec (.repi e false n16 ra b.encode) s = once (runs (n16.toNat + 1))
    ∧ exec (.repi e true n16 ra b.encode) s = once (runs (min (c.rd ra).toNat 65536)))
  ∧ (∀ (s : State) (e : CoreId) (slot : Fin 8) (rd ra rb : GReg) (i : BitVec 11) (t : Chip) (w : Word), Steady s.chip e → isCur e = false →
    let c := s.chip.cores[e]
    let ws := s.chip.dev.slotOps (cabOf e) slot
    let here : Word := c.cb ++ (c.off &&& ~~~3#24)
    (s.chip.dev.flag (CAB_CXCTL_STATE_EFF (cabOf e) slot) = true → cxIllegal ws rd ra rb = false →
      exec (.customInstruction e slot rd ra rb i) s = .next (s.went e (fun k => k.cxRun ws rd ra rb i) Core.nextOff))
    ∧ (s.chip.dev.flag (CAB_CXCTL_STATE_EFF (cabOf e) slot) = true → ws = [w] → bits w 31 26 = 0x00 → bits w 25 21 = 8 →
        bits w 20 16 = 10 → bits w 15 11 = 12 →
      exec (.customInstruction e slot rd ra rb i) s = s.sets e rd (fun k => k.rd ra + k.rd rb))
    ∧ (s.chip.dev.flag (CAB_CXCTL_STATE_EFF (cabOf e) slot) = false → s.chip.offer e = none →
        Enters (s.chip.trapping e) e (c.secure e) 0x02 here (Op.cx slot rd ra rb i).encode none t →
      exec (.customInstruction e slot rd ra rb i) s =
        .next { s with chip := (t.onCore e (·.entered 0x02 here (Op.cx slot rd ra rb i).encode none)).settle }))

/-- R72, R73, R144, R362: an error reply to a retired store joins the replies that wait for a boundary; a replay shows in a counter only; an
interrupt that is offered below STATUS.PRI with IE set is entered with its priority, at the next instruction not executed, and comes before the
cause that instruction would raise (R71). -/
def Obligations.ReportsAndInterrupts : Prop :=
  ∀ (s : State) (e : CoreId) (a : Word) (rest : List Word) (p n : Nat) (t : Chip), Calm s.chip.dev →
    let c := s.chip.cores[e]
    (c.sbErr = a :: rest → s.chip.ready e = false →
      exec (.storeErrorReply e) s = .next { s with chip := s.chip.onCore e fun k => { k with sbErr := rest, impErr := k.impErr ++ [a] } })
    ∧ (Steady s.chip e → c.sbErr = a :: rest → c.sb = [] → rest = [] → c.tblPair = false →
        Enters (((s.chip.onCore e fun k => { k with sbErr := [], impErr := [] }).onDev (·.discard e))) e (c.secure e)
          0x80000007 (c.cb ++ c.off) a none t →
      exec (.storeErrorReply e) s = .next { s with chip := (t.onCore e (·.entered 0x80000007 (c.cb ++ c.off) a none)).settle })
    ∧ (s.chip.ready e = true → c.det = false → exec (.memoryOrderReplay e) s = .next { s with chip := (s.chip.count e 12 1).settle })
    ∧ (Steady s.chip e → exec (.memoryOrderReplay e) s = .next s)
    ∧ (c.det = true → exec (.memoryOrderReplay e) s = .next { s with chip := s.chip.settle })
    ∧ (∀ (x : Chip) (k : Fin 8) (j : Fin 8), e.val = 8 * k + j → isCur e = false → x.cores[e].halted = false → x.dev.get (CAB_PMCTL_EN k j) = 1 →
        x.dev.get (CAB_PMCTL_FILT k j) = 0 → bits (x.dev.word (CAB_PMSEL k j)) 7 0 = 12 → x.dev.word (CAB_PMCNT k j 0) ≠ 0xFFFFFFFF →
        x.count e 12 1 = x.onDev fun d => d.setWord (CAB_PMCNT k j 0) (d.word (CAB_PMCNT k j 0) + 1))
    ∧ (Steady s.chip e → c.tblPair = false → s.chip.dev.wouldOffer e = some (p, n) → c.ie = true → p < c.pri.toNat →
        Enters (((s.chip.onDev (·.discard e)).onDev (·.accept e p n)).acceptTokens e p n) e (c.secure e) (BitVec.ofNat 32 (0x10 + p)) (c.cb ++ c.off)
          (BitVec.ofNat 32 n) (some (BitVec.ofNat 5 p)) t →
      exec (.interruptAccept e) s = .next { s with
        chip := (t.onCore e (·.entered (BitVec.ofNat 32 (0x10 + p)) (c.cb ++ c.off) (BitVec.ofNat 32 n)
          (some (BitVec.ofNat 5 p)))).settle })
    ∧ (∀ i : BitVec 16, Steady s.chip e → c.tblPair = false → s.chip.offer e = some (p, n) →
        Enters ((s.chip.onDev (·.accept e p n)).acceptTokens e p n) e (c.secure e) (BitVec.ofNat 32 (0x10 + p)) (c.cb ++ c.off)
          (BitVec.ofNat 32 n) (some (BitVec.ofNat 5 p)) t →
      exec (.trap e i) s = .next { s with
        chip := (t.onCore e (·.entered (BitVec.ofNat 32 (0x10 + p)) (c.cb ++ c.off) (BitVec.ofNat 32 n)
          (some (BitVec.ofNat 5 p)))).settle })

/-! ### Interrupts -/

/-- R359, R358, R360, R363, R366: PENDSET and PENDCLR set and clear the pending or soft bits written 1, reserved sources apart; ENSET and
ENCLR set and clear enables; a write of ITC.SRC stores its fields. R357, R359, R363, R379, R539: what stands behind a source's line asserts it, a rise setting the pending bit in edge mode; a pulse on
its way arrives as a pending bit; with nothing behind it, the line de-asserts. -/
def Obligations.InterruptSources : Prop :=
  (∀ (s : State) (m : Sender) (w : Fin 8) (n : Fin 256) (v : Word),
    let old := s.chip.dev.itc.pend
    let en := s.chip.dev.word (ITC_ENSET w)
    (Hears s.chip m (ITC_PENDSET w) v → ∃ p : BitVec 256,
      (∀ k : Fin 256, p.getLsbD k = (old.getLsbD k || (k.val / 32 == w && v.getLsbD (k % 32) && !srcReserved k)))
      ∧ exec (.pendset m w v) s
        = s.leaves ((s.chip.takes m (ITC_PENDSET w) v).onDev fun d => { d with itc := { d.itc with pend := p } }))
    ∧ (Hears s.chip m (ITC_PENDCLR w) v → ∃ p : BitVec 256,
      (∀ k : Fin 256, p.getLsbD k = (old.getLsbD k && !(k.val / 32 == w && v.getLsbD (k % 32))))
      ∧ exec (.pendclr m w v) s
        = s.leaves ((s.chip.takes m (ITC_PENDCLR w) v).onDev fun d => { d with itc := { d.itc with pend := p } }))
    ∧ (Hears s.chip m (ITC_ENSET w) v → exec (.enset m w v) s = s.leaves (s.chip.takes m (ITC_ENSET w) v)
        ∧ (s.chip.takes m (ITC_ENSET w) v).dev.word (ITC_ENSET w) = en ||| v)
    ∧ (Hears s.chip m (ITC_ENCLR w) v → exec (.enclr m w v) s = s.leaves (s.chip.takes m (ITC_ENCLR w) v)
        ∧ (s.chip.takes m (ITC_ENCLR w) v).dev.word (ITC_ENSET w) = en &&& ~~~v)
    ∧ (Hears s.chip m (ITC_SRC n) v → exec (.srcWrite m n v) s = s.leaves (s.chip.takes m (ITC_SRC n) v)
        ∧ let t := (s.chip.takes m (ITC_SRC n) v).dev
          t.flag (ITC_SRC_FC n) = v.getLsbD 31 ∧ t.get (ITC_SRC_TKIND n) = min (bits v 25 24) 2 ∧ t.get (ITC_SRC_ENG n) = bits v 21 16
          ∧ t.get (ITC_SRC_VEC n) = bits v 13 8 ∧ t.flag (ITC_SRC_LVL n) = (n.val ≥ 32 && v.getLsbD 4) ∧ t.get (ITC_SRC_PRI n) = bits v 3 0))
  ∧ (∀ (s : State) (n : Fin 256),
    let d := s.chip.dev
    let cond := s.chip.lineCond n
    let set (v : BitVec 256) : BitVec 256 := v ||| (1#256 <<< n.val)
    let cleared (v : BitVec 256) : BitVec 256 := v &&& ~~~(1#256 <<< n.val)
    (cond = true → d.itc.pulse.getLsbD n = false → exec (.lineAssert n) s = s.becomes fun d => { d with itc := { d.itc with
      line := set d.itc.line
      pend := if d.itc.line.getLsbD n || d.srcLevel n || srcReserved n then d.itc.pend else set d.itc.pend } })
    ∧ (cond = false → d.itc.pulse.getLsbD n = true → srcReserved n = false → exec (.lineAssert n) s = s.becomes fun d =>
        { d with itc := { d.itc with pulse := cleared d.itc.pulse, pend := set d.itc.pend } })
    ∧ (cond = false → d.itc.pulse.getLsbD n = false → exec (.lineAssert n) s = s.leaves s.chip)
    ∧ (cond = false → exec (.lineDeassert n) s = s.becomes fun d => { d with itc := { d.itc with
        line := cleared d.itc.line, sent := cleared d.itc.sent } })
    ∧ (cond = true → exec (.lineDeassert n) s = s.leaves s.chip))
/-- R361: what a target is offered is its eligible source of the lowest priority number, then of the lowest number. -/
def Obligations.TheOfferIsTheBest : Prop :=
  ∀ (d : Dev) (t : CoreId) (p n : Nat),
    d.wouldOffer t = some (p, n) ↔ d.flag ITC_CTL_EN = true ∧ n < 256 ∧ d.eligible t n = true ∧ p = d.get (ITC_SRC_PRI n)
      ∧ ∀ k < 256, d.eligible t k = true → p < d.get (ITC_SRC_PRI k) ∨ (p = d.get (ITC_SRC_PRI k) ∧ n ≤ k)

/-- R362, R364, R365, R366: a claim by an engine or the curator accepts what it is offered and answers with it, or with the spurious
vector; an EOI pops its stack and ends the source's active state, or, on an empty stack, shows in ERR. R367, R328: the port takes the message of the best host-routed source, whose pending bit is cleared, and whose line, in level mode,
has to be seen de-asserted before it is pending again; the message of a masked vector waits in the pending-bit array. -/
def Obligations.InterruptDelivery : Prop :=
  (∀ (s : State) (e : CoreId) (v : Word) (p n : Nat) (rest : List (Nat × Nat)),
    let d := s.chip.dev
    (Shows s.chip (.core e) ITC_CLAIM → d.wouldOffer e = none → exec (.claim (.core e)) s = s.becomes (·.answers 0xFF))
    ∧ (Shows s.chip (.core e) ITC_CLAIM → d.wouldOffer e = some (p, n) → exec (.claim (.core e)) s = s.becomes fun d =>
        (({ d with itc := { d.itc with
            pend := d.itc.pend &&& ~~~(1#256 <<< n)
            active := d.itc.active ||| (1#256 <<< n) } } : Dev).stackIs e ((p, n) :: d.stackOf e)).answers
          (BitVec.ofNat 32 (0x80000000 + 0x100 * p + n)))
    ∧ (Hears s.chip (.core e) ITC_EOI v → d.stackOf e = (p, n) :: rest → exec (.eoi (.core e) v) s = s.leaves
        ((s.chip.takes (.core e) ITC_EOI v).onDev fun d => ({ d with itc := { d.itc with
            active := d.itc.active &&& ~~~(1#256 <<< n) } } : Dev).stackIs e rest))
    ∧ (Hears s.chip (.core e) ITC_EOI v → d.stackOf e = [] → exec (.eoi (.core e) v) s = s.leaves
        ((s.chip.takes (.core e) ITC_EOI v).onDev fun d => (d.put ITC_ERR_EOIEMPTY 1).put ITC_ERR_UID (uidOf e))))
  ∧ (∀ (s : State) (p n : Nat) (v : Fin 64),
    let d := s.chip.dev
    let taken (d : Dev) : Dev := { d with itc := { d.itc with
        pend := d.itc.pend &&& ~~~(1#256 <<< n)
        sent := if d.srcLevel n && d.itc.line.getLsbD n then d.itc.sent ||| (1#256 <<< n) else d.itc.sent } }
    d.canSend = true → d.hostSource = some (p, n) → v.val = d.get (ITC_SRC_VEC n) →
    (d.hpt.msix[v].mask = false → d.msixFnMask = false → exec .msiXSend s = s.becomes fun d =>
      (taken d).emit (.msix v d.hpt.msix[v].addr d.hpt.msix[v].data))
    ∧ (d.hpt.msix[v].mask = true ∨ d.msixFnMask = true → exec .msiXSend s = s.becomes fun d =>
      { taken d with hpt := { d.hpt with pba := d.hpt.pba ||| (1#64 <<< v.val) } }))

/-! ### Timebase, alarms and watchdogs -/

/-- R386, R390: TBL answers with the low word of the timebase and latches the high word for its reader, which TBH then shows it. R376, R377, R383: the FLL's lock of a running HFOSC sets LOCK, and what waited for the islands' clocks is delivered, oldest first; a failing crystal gives the reference to LFRC with XTALF, a good one takes it
back. -/
def Obligations.TimebaseAndClocks : Prop :=
  (∀ (s : State) (m : Sender), s.chip.dev.regsWf = true → Shows s.chip m TBS_TBL →
    let uid := (s.chip.asMaster m).uid
    let lo := s.chip.dev.now.extractLsb' 0 32
    let hi := s.chip.dev.now.extractLsb' 32 32
    let latched (d : Dev) : Dev := { d with tbs := { d.tbs with tblLatch := amapSet 0 uid hi d.tbs.tblLatch } }
    s.chip.dev.now.toNat = (1000 * s.chip.dev.tbC.toNat + s.chip.dev.tbF) % 2 ^ 64
    ∧ exec (.tblRead m) s = s.becomes (fun d => (latched (if m = .debugger then d.tick1 else d)).answers lo)
    ∧ ∀ t : State, t.chip.dev = latched s.chip.dev → t.chip.cores = s.chip.cores → t.chip.view (s.chip.asMaster m) TBS_TBH = hi)
  ∧ (∀ (s : State),
    let d := s.chip.dev
    (d.tbs.hfosc = true → exec .hfoscLock s = s.leaves (d.crossing.foldl Chip.deliver (s.chip.onDev fun d =>
      { d.put TBS_STAT_LOCK 1 with crossing := [] })))
    ∧ (d.tbs.hfosc = false → exec .hfoscLock s = s.leaves s.chip)
    ∧ (d.get TBS_STAT_SRC = 0 → exec .xtalf s = s.becomes fun d => ((d.put TBS_STAT_SRC 1).put TBS_STAT_XTALOK 0).put TBS_ISTAT_XTALF 1)
    ∧ (d.get TBS_STAT_SRC = 1 → exec .xtalok s = s.becomes fun d => (d.put TBS_STAT_SRC 0).put TBS_STAT_XTALOK 1)
    ∧ (d.get TBS_STAT_SRC ≠ 0 → exec .xtalf s = s.leaves s.chip)
    ∧ (d.get TBS_STAT_SRC ≠ 1 → exec .xtalok s = s.leaves s.chip))
/-- R391, R393: CMPH commits both halves, clears MISS and, where EN is 1, arms the alarm; CTL arms an alarm whose EN rises at the committed
value and disarms one whose EN is 0; an alarm armed in the past fires at once (within the write: notes/assumptions/15.md). R392, R115: an alarm that is due sets its ISTAT bit and sends its event; a one-shot alarm is disarmed, a periodic one goes to the first
multiple of its period in the future and counts the periods skipped. -/
def Obligations.Alarms : Prop :=
  (∀ (s : State) (m : Sender) (a : Fin 4) (v : Word),
    let d := s.chip.dev
    let tH := s.chip.takes m (TBS_ALM_CMPH a) v
    let cmp : BitVec 64 := v ++ d.word (TBS_ALM_CMPL a)
    let cleared (t : Dev) : Dev := (t.setAlarm a ⟨cmp, cmp⟩).put (TBS_ALM_CTL_MISS a) 0
    let tC := s.chip.takes m (TBS_ALM_CTL a) v
    let x := d.tbs.alarms[a]
    (Hears s.chip m (TBS_ALM_CMPH a) v → d.flag (TBS_ALM_CTL_EN a) = false →
      exec (.alarmCommit m a v) s = s.leaves (tH.onDev cleared))
    ∧ (Hears s.chip m (TBS_ALM_CMPH a) v → d.flag (TBS_ALM_CTL_EN a) = true → d.now < cmp →
      exec (.alarmCommit m a v) s = s.leaves (tH.onDev fun t => (cleared t).put (TBS_ALM_CTL_ARMED a) 1))
    ∧ (Hears s.chip m (TBS_ALM_CMPH a) v → d.flag (TBS_ALM_CTL_EN a) = true → cmp ≤ d.now →
      exec (.alarmCommit m a v) s = s.leaves (tH.onDev fun t => ((cleared t).put (TBS_ALM_CTL_ARMED a) 1).almFire a))
    ∧ (Hears s.chip m (TBS_ALM_CTL a) v → v.getLsbD 31 = false →
      exec (.alarmEnable m a v) s = s.leaves (tC.onDev (·.put (TBS_ALM_CTL_ARMED a) 0)))
    ∧ (Hears s.chip m (TBS_ALM_CTL a) v → v.getLsbD 31 = true → d.flag (TBS_ALM_CTL_EN a) = true →
      exec (.alarmEnable m a v) s = s.leaves tC)
    ∧ (Hears s.chip m (TBS_ALM_CTL a) v → v.getLsbD 31 = true → d.flag (TBS_ALM_CTL_EN a) = false → d.now < x.cmp →
      exec (.alarmEnable m a v) s = s.leaves
        (tC.onDev fun t => (t.setAlarm a ⟨x.cmp, x.cmp⟩).put (TBS_ALM_CTL_ARMED a) 1)))
  ∧ (∀ (s : State) (a : Fin 4),
    let d := s.chip.dev
    let x := d.tbs.alarms[a]
    let per := d.get (TBS_ALM_PER_TICKS a)
    let missed := (d.now.toNat - x.next.toNat) / per
    let t := d.get (EVN_ALMRT_TARGET a)
    let quiet : Prop := d.flag (TBS_ALM_CTL_WAKE a) = false
    (d.flag (TBS_ALM_CTL_EN a) = false ∨ d.flag (TBS_ALM_CTL_ARMED a) = false ∨ d.now < x.next →
      exec (.alarmFire a) s = s.leaves s.chip)
    ∧ (d.almDue a = true → quiet → d.flag (EVN_ALMRT_EN a) = false → per = 0 →
      exec (.alarmFire a) s = s.becomes fun d => (d.putBit TBS_ISTAT_ALM a true).put (TBS_ALM_CTL_ARMED a) 0)
    ∧ (d.almDue a = true → quiet → d.flag (EVN_ALMRT_EN a) = false → per ≠ 0 →
      exec (.alarmFire a) s = s.becomes fun d =>
        ((d.putBit TBS_ISTAT_ALM a true).setAlarm a { x with next := BitVec.ofNat 64 (x.next.toNat + (missed + 1) * per) }).put
          (TBS_ALM_CTL_MISS a) (min 0xFFFF (d.get (TBS_ALM_CTL_MISS a) + missed)))
    ∧ (d.almDue a = true → quiet → d.flag (EVN_ALMRT_EN a) = true → d.get (EVN_ALMRT_KIND a) = 0 → d.latch.getLsbD (t % 64) = false →
        per = 0 →
      exec (.alarmFire a) s = s.becomes fun d =>
        ({ d.putBit TBS_ISTAT_ALM a true with latch := d.latch ||| (1#65 <<< (t % 64)) } : Dev).put (TBS_ALM_CTL_ARMED a) 0))

/-- R396, R397, R401, R354: a kick with the key reloads a watchdog that counts with its period: 1,024 ticks a unit for WDE, 32,768 a
millisecond for WDC and WDP; one that does not count stays. R171, R354, R398, R399: an expired engine watchdog sets WDX, is told to the registrar and resets the engine where RST asks for it; an
expired WDC enters the safe state with code WDC; WDP warns once at its level, and its expiry pulses PLTRST_N, the end of which resets the
system where SYSRST asks for it. -/
def Obligations.Watchdogs : Prop :=
  (∀ (s : State) (n : Fin 64) (m : Sender),
    let d := s.chip.dev
    let key : Word := 0x4B1C0000
    let tE := s.chip.takes (.core (eng n)) TBS_WDEKICK key
    let tC := s.chip.takes m CUR_WDKICK key
    let tP := s.chip.takes m TBS_WDPKICK key
    let loaded (t : Nat) : Wd := { left := t, spent := false, warned := false }
    let warns (t : Nat) : Bool := d.flag TBS_WDPWARN_MS && t ≤ d.get TBS_WDPWARN_MS * 32768
    (Hears s.chip (.core (eng n)) TBS_WDEKICK key →
      exec (.wdekick n) s = s.leaves (tE.onDev fun t => if d.flag (TBS_WDE_CTL_EN n) then
        { t with tbs := { t.tbs with
          wde := amapSet (loaded 0) n.val (loaded (d.get (TBS_WDE_CTL_PERIOD n) * 1024)) t.tbs.wde } } else t))
    ∧ (Hears s.chip m CUR_WDKICK key →
      exec (.wdkick m) s = s.leaves (tC.onDev fun t => if d.flag CUR_WDCTL_EN then
        { t with tbs := { t.tbs with wdc := loaded (d.get CUR_WDCTL_PERIOD * 32768) } } else t))
    ∧ (Hears s.chip m TBS_WDPKICK key → warns (d.get TBS_WDPCTL_PERIOD * 32768) = false →
      exec (.wdpkick m) s = s.leaves (tP.onDev fun t => if d.flag TBS_WDPCTL_EN then
        { t with tbs := { t.tbs with wdp := loaded (d.get TBS_WDPCTL_PERIOD * 32768) } } else t)))
  ∧ (∀ (s : State) (n : Fin 64) (t : Nat),
    let d := s.chip.dev
    let w := d.wde n
    let wdx : Chip := (s.chip.onDev fun d => (d.setWde n { w with spent := true }).put (CAB_ESTAT_WDX (n.val / 8) (n.val % 8)) 1).engineFault n.val
    let p := d.tbs.wdp
    let calm (d : Dev) : Dev := { d with tbs := { d.tbs with pulse := none } }
    let engineDue : Prop := d.flag (TBS_WDE_CTL_EN n) = true ∧ w.left = 0 ∧ w.spent = false ∧ d.get PWR_STAT_STATE < 2
    (engineDue → wdx.dev.flag (TBS_WDE_CTL_RST n) = false → exec (.wdeExpiry n) s = s.leaves wdx)
    ∧ (engineDue → wdx.dev.flag (TBS_WDE_CTL_RST n) = true → wdx.dev.todo.length = d.todo.length →
      exec (.wdeExpiry n) s = s.leaves (wdx.onDev (·.later (.engineReset n 0x02))))
    ∧ (d.flag (TBS_WDE_CTL_EN n) = false ∨ w.left ≠ 0 ∨ w.spent = true → exec (.wdeExpiry n) s = s.leaves s.chip)
    ∧ (d.flag CUR_WDCTL_EN = true → d.tbs.wdc.left = 0 → d.tbs.wdc.spent = false → d.curPowered = true →
      exec .wdcExpiry s = s.becomes fun d =>
        ({ d with tbs := { d.tbs with wdc := { d.tbs.wdc with spent := true } } } : Dev).safeState 4
          (if s.chip.cores[curator].halted then 1 else 0) none)
    ∧ (d.flag TBS_WDPCTL_EN = true → d.flag TBS_WDPWARN_MS = true → p.warned = false → p.left ≤ d.get TBS_WDPWARN_MS * 32768 →
      exec .wdpWarning s = s.becomes fun d =>
        ({ d with tbs := { d.tbs with wdp := { p with warned := true } } } : Dev).put TBS_ISTAT_WDPW 1)
    ∧ (d.flag TBS_WDPCTL_EN = true → p.left = 0 → p.spent = false → d.watching = false →
      exec .wdpExpiry s = s.becomes fun d => { d with tbs := { d.tbs with
        wdp := { p with spent := true }, pulse := some (d.now.toNat + d.get TBS_WDPCTL_PULSE * 32768) } })
    ∧ (d.tbs.pulse = some t → t ≤ d.now.toNat → d.flag TBS_WDPCTL_SYSRST = false → exec .pltrstPulseEnd s = s.becomes calm)
    ∧ (d.tbs.pulse = some t → t ≤ d.now.toNat → d.flag TBS_WDPCTL_SYSRST = true →
      exec .pltrstPulseEnd s = s.becomes fun d => (calm d).later (.sysReset 4))
    ∧ (d.tbs.pulse = some t → d.now.toNat < t → exec .pltrstPulseEnd s = s.leaves s.chip))

/-! ### The depot -/

/-- R215: what a HEAD is checked against, in order. -/
def Obligations.HeadChecks : Prop :=
  ∀ (d : Dev) (q len : Nat),
    let n := (len + 15) / 15
    let on : Prop := d.flag DPT_CTL_EN_REQ = true ∧ d.flag DPT_CTL_EN_EFF = true ∧ d.flag (DPT_QCFG_EN_REQ q) = true
      ∧ d.flag (DPT_QCFG_EN_EFF q) = true
    let roomy : Prop := d.held q + n ≤ d.get (DPT_QLIM_QUOTA q) ∧ n + (if q < 16 then 0 else 64) ≤ d.freeCells
      ∧ (d.dpt.opens.length < 64 ∨ ∃ o ∈ d.dpt.opens, o.broken = true)
    (d.headCheck q len = .ok ↔ on ∧ d.flag (DPT_QCFG_LERR q) = false ∧ len ≤ 959 ∧ roomy)
    ∧ (d.headCheck q len = .disabled ↔ ¬ on)
    ∧ (d.headCheck q len = .linkErr ↔ on ∧ d.flag (DPT_QCFG_LERR q) = true)
    ∧ (d.headCheck q len = .badHead ↔ on ∧ d.flag (DPT_QCFG_LERR q) = false ∧ 959 < len)
    ∧ (d.headCheck q len = .full ↔ on ∧ d.flag (DPT_QCFG_LERR q) = false ∧ len ≤ 959 ∧ ¬ roomy)

/-- R213, R215 to R218, R222, R231, R232: a HEAD abandons the producer's open item on the queue; with room it opens an item with all its
cells, or seals an empty one, and without it is recorded and counted; BODY adds a word, and writes the cell it completes; LAST, or the word that completes the item, seals it behind the queue's items; a word without an open item is recorded. -/
def Obligations.QueuePushes : Prop :=
  ∀ (s : State) (m : Sender) (q : Fin 1024) (v : Word) (uid : Nat) (o : OpenItem),
    let c := s.chip
    let d := c.dev
    let thr (t : Chip) : Chip := if !d.threshold q && t.dev.threshold q && t.dev.flag (DPT_QTHR_EEN q)
      then t.onDev (·.event (t.dev.get (DPT_QTHR_ENG q))) else t
    let base : Chip := match d.openOf uid q with | some o => c.abandon o | none => c
    let len := bits v 9 0
    let n := (len + 15) / 15
    let took := (base.dev.takeCells n).1
    let cells := (base.dev.takeCells n).2
    let added (d : Dev) : Dev := { d with dpt := { d.dpt with
      opens := d.dpt.opens.map fun x => if x.uid = uid ∧ x.q = q.val then { x with words := o.words ++ [v] } else x } }
    let full := (o.words.length + 2) / 15
    let opened : OpenItem := { uid := uid, q := q, broken := false, tag := bits v 31 16, len := len, words := [], cells := cells }
    let item (ws : List Word) : DItem :=
      { cells := o.cells.take (cellsFor ws.length), freed := 0, tag := o.tag, len := ws.length, launch := false }
    let joins (t : Chip) (y : DItem) : Prop := (t.dev.queue q).items.map DItem.kind = (d.queue q).items.map DItem.kind ++ [y.kind]
      ∧ (80 ≤ q.val ∨ (d.queue q).items = [] → (t.dev.queue q).items = (d.queue q).items ++ [y])
    let opening (t : Chip) : Chip := if (o.words.length + 1) % 15 = 0 then t.onDev Dev.slowWait else t
    let sealed (x : Instr) : Prop := ∃ t, exec x s = s.leaves (thr t) ∧ joins t (item (o.words ++ [v]))
      ∧ (t.dev.queue q).cursor = (d.queue q).cursor ∧ (t.dev.queue q).mark = (d.queue q).mark ∧ t.dev.openOf uid q = none ∧ SameCores c t
    (c.wields m .head q = some uid → d.flag DPT_CTL_EN_EFF = true → base.dev.headCheck q len = .ok → 0 < len →
        base.dev.dpt.opens.length < 64 →
      cells.length = n
      ∧ exec (.head m q v) s = s.leaves (thr (base.onDev fun _ =>
          { took with dpt := { took.dpt with opens := took.dpt.opens ++ [opened] } })))
    ∧ (c.wields m .head q = some uid → d.flag DPT_CTL_EN_EFF = true → base.dev.headCheck q len = .ok → len = 0 →
      ∃ t, exec (.head m q v) s = s.leaves (thr t) ∧ SameCores c t
        ∧ joins t { cells := cells, freed := 0, tag := bits v 31 16, len := 0, launch := false }
        ∧ t.dev.dpt.opens = if base.dev.dpt.opens.length < 64 then base.dev.dpt.opens else dropBroken base.dev.dpt.opens)
    ∧ (c.wields m .head q = some uid → d.flag DPT_CTL_EN_EFF = true → base.dev.headCheck q len = .full →
      exec (.head m q v) s = s.leaves (thr (base.onDev fun d =>
        ((d.record uid q .full true).bumpSat DPT_FULLCNT_COUNT 1 0xFFFFFFFF).put DPT_ISTAT_FULL 1)))
    ∧ (d.openOf uid q = some o → o.broken = false → base.dev.openOf uid q = none
      ∧ base.dev.dpt.free.length = d.dpt.free.length + o.cells.length
      ∧ base.dev.get DPT_ABNCNT_COUNT = min 0xFFFFFFFF (d.get DPT_ABNCNT_COUNT + 1) ∧ base.dev.flag DPT_ISTAT_ABANDON = true)
    ∧ (c.wields m .body q = some uid → d.flag DPT_CTL_EN_EFF = true → d.openOf uid q = some o → o.broken = false →
        o.words.length + 1 < o.len → (o.words.length + 2) % 15 ≠ 0 → exec (.body m q v) s = s.leaves (thr ((opening c).onDev added)))
    ∧ (c.wields m .body q = some uid → d.flag DPT_CTL_EN_EFF = true → d.openOf uid q = some o → o.broken = false →
        o.words.length + 1 < o.len → (o.words.length + 2) % 15 = 0 → exec (.body m q v) s = s.leaves (thr
          ((c.onDev added).writeCells (headerWord o.len o.tag :: (o.words ++ [v])) o.cells [full - 1])))
    ∧ (c.wields m .body q = some uid → d.flag DPT_CTL_EN_EFF = true → d.openOf uid q = some o → o.broken = false →
        o.len ≤ o.words.length + 1 → sealed (.body m q v))
    ∧ (c.wields m .last q = some uid → d.flag DPT_CTL_EN_EFF = true → d.openOf uid q = some o → o.broken = false → sealed (.last m q v))
    ∧ (c.wields m .body q = some uid → d.flag DPT_CTL_EN_EFF = true → d.openOf uid q = none →
      exec (.body m q v) s = s.leaves (thr (c.onDev (·.record uid q .noItem true))))

/-- R212, R216, R217: an item of one cell sealed into an empty queue whose cell is powered stands in the pool: the stored header, which
shows the number of data words and the tag, then the data words. -/
def Obligations.SealedItemsStandInThePool : Prop :=
  ∀ (s : Chip) (q tag c : Nat) (words : List Word) (launch : Bool),
    (s.dev.queue q).items = [] → words.length ≤ 14 → tag < 0x10000 → s.dev.cellAddr c + 64 ≤ 0x2000000 →
    (∀ k < 64, s.dev.galleryOff (s.dev.cellAddr c + k) = false) →
    let t := s.seal q tag words [c] launch
    t.mem.bytesLE (s.dev.cellAddr c) 4 = 0x80000000 + 0x10000 * words.length + tag
    ∧ (∀ i, (h : i < words.length) → t.mem.bytesLE (s.dev.cellAddr c + 4 * (i + 1)) 4 = words[i].toNat)
    ∧ t.mem.bytesLE (s.dev.cellAddr c + 60) 4 = 0x80000000

/-- R221 to R223, R234, R236: POPH and POP answer with the word at the cursor and move it on, PEEKH and PEEK leave it; on an empty queue,
or away from a header or a data word, they answer with their status, which is recorded; DSTAT answers with the recorded status and clears
it. A debugger's pops are peeks, and its DSTAT clears nothing. -/
def Obligations.QueueReads : Prop :=
  ∀ (s : State) (m : Sender) (q : Fin 1024) (uid : Nat) (it : DItem) (t : Chip) (w : Word),
    let c := s.chip
    let d := c.dev
    let x := d.queue q
    let p := x.cursor
    let next : DPos := if p.word + 1 ≤ it.len then { p with word := p.word + 1 } else { item := p.item + 1, word := 0 }
    let found : Prop := d.consumerGate uid q true = .ok ∧ x.items[p.item]? = some it ∧ c.enterCell q p = (c, true)
      ∧ c.wordAt q p = (t, .ok w) ∧ (t.dev.queue q).items = x.items
    let leads : Prop := uid = 0x19 ∨ c.enterCell q next = (c, true)
    let moved (u : Chip) : Chip := if uid = 0x19 then u else u.moveCursor q next
    let fails (st : DStatus) (w : Word) : Outcome := s.becomes fun d => (d.record uid q st false).answers w
    (c.wields m .poph q = some uid → p.word = 0 → found → leads → exec (.poph m q) s = s.leaves ((moved t).onDev (·.answers w)))
    ∧ (c.wields m .peekh q = some uid → p.word = 0 → found → exec (.peekh m q) s = s.leaves (t.onDev (·.answers w)))
    ∧ (c.wields m .pop q = some uid → p.word ≠ 0 → found → leads → exec (.pop m q) s = s.leaves ((moved t).onDev (·.answers w)))
    ∧ (c.wields m .peek q = some uid → p.word ≠ 0 → found → exec (.peek m q) s = s.leaves (t.onDev (·.answers w)))
    ∧ (80 ≤ q.val → t.moveCursor q next = t.onDev fun d => d.setQueue q { d.queue q with cursor := next })
    ∧ (c.wields m .poph q = some uid → d.consumerGate uid q true = .ok → p.word = 0 → x.items.length ≤ p.item →
        exec (.poph m q) s = fails .empty 1)
    ∧ (c.wields m .poph q = some uid → d.consumerGate uid q true = .ok → p.word ≠ 0 → exec (.poph m q) s = fails .position 7)
    ∧ (c.wields m .pop q = some uid → d.consumerGate uid q true = .ok → p.word = 0 → exec (.pop m q) s = fails .position 0)
    ∧ (c.wields m .dstat q = some uid → exec (.dstat m q) s = s.becomes fun d =>
        (if uid = 0x19 then d else d.setSlot uid ⟨0, 0, 0⟩).answers
          (BitVec.ofNat 32 (0x10000000 * (d.slot uid).code + 0x40000 * (d.slot uid).queue + (d.slot uid).dropped)))

/-- R223, R224, R226, R230, R231, R232, R236: MARK saves the cursor and REWIND restores it; SKIP goes to the next header; RELEASE gives up
every cell whose words all lie before the cursor; a flush empties the queue, marks its open items broken and clears LERR. R215, R240: a rise of EN_REQ enables the depot with the pool asked for, if it lies in the gallery; the falls of EN take effect at their
seams: for the depot once no unbroken item is open and no cell is reserved, for a queue once no item is open on it. -/
def Obligations.QueueControlAndEnables : Prop :=
  (∀ (s : State) (m : Sender) (q : Fin 1024) (v : Word) (uid : Nat),
    let c := s.chip
    let d := c.dev
    let x := d.queue q
    let thr (t : Chip) : Chip := if !d.threshold q && t.dev.threshold q && t.dev.flag (DPT_QTHR_EEN q)
      then t.onDev (·.event (t.dev.get (DPT_QTHR_ENG q))) else t
    let gate : Prop := d.consumerGate uid q false = .ok
    let gone := x.cursor.word / 15
    let qcmd : Word := 0x80000000 ||| BitVec.ofNat 32 q.val
    let told := c.takes m DPT_QCMD qcmd
    let flushed (u t : Chip) : Prop := (t.dev.queue q).items = [] ∧ (t.dev.queue q).cursor = ⟨0, 0⟩ ∧ (t.dev.queue q).mark = ⟨0, 0⟩
      ∧ (t.dev.queue q).staged = none ∧ t.dev.flag (DPT_QCFG_LERR q) = false ∧ SameCores u t
      ∧ t.dev.dpt.opens = u.dev.dpt.opens.map (fun o => if o.q = q.val then { o with broken := true, cells := [], words := [] } else o)
      ∧ ∀ p : Nat, p ≠ q → t.dev.queue p = u.dev.queue p
    (c.wields m .mark q = some uid → gate → exec (.mark m q v) s = s.becomes fun d => d.setQueue q { d.queue q with mark := x.cursor })
    ∧ (c.wields m .rewind q = some uid → gate → 80 ≤ q.val → exec (.rewind m q v) s = s.leaves (thr (c.onDev fun d =>
        d.setQueue q { d.queue q with cursor := x.mark, staged := none })))
    ∧ (c.wields m .rewind q = some uid → gate → ∃ t, exec (.rewind m q v) s = s.leaves (thr t) ∧ (t.dev.queue q).cursor = x.mark
        ∧ (t.dev.queue q).items.map DItem.kind = x.items.map DItem.kind
        ∧ ((∀ it ∈ x.items, ∀ b ∈ it.cells, b ∈ x.known) → (t.dev.queue q).items = x.items))
    ∧ (c.wields m .skip q = some uid → d.consumerGate uid q true = .ok → x.cursor.word ≠ 0 → x.cursor.item < x.items.length →
        (∀ it ∈ x.items, ∀ b ∈ it.cells, b ∈ x.known) →
        ∃ t, exec (.skip m q v) s = s.leaves t ∧ (t.dev.queue q).cursor = ⟨x.cursor.item + 1, 0⟩ ∧ (t.dev.queue q).items = x.items)
    ∧ (c.wields m .skip q = some uid → d.consumerGate uid q true = .ok → x.cursor.word = 0 → exec (.skip m q v) s = s.leaves c)
    ∧ (c.wields m .release q = some uid → gate → (∀ it ∈ x.items, it.launch = false) →
        ∃ t, exec (.release m q v) s = s.leaves (thr t)
        ∧ (t.dev.queue q).items = (match x.items[x.cursor.item]? with
            | some it => { it with freed := max it.freed gone } :: x.items.drop (x.cursor.item + 1)
            | none => x.items.drop x.cursor.item)
        ∧ (t.dev.queue q).cursor = { x.cursor with item := 0 }
        ∧ t.dev.dpt.free.length = d.dpt.free.length + ((x.items.take x.cursor.item).map (·.live.length)).sum
            + (match x.items[x.cursor.item]? with | some it => ((it.cells.take gone).drop it.freed).length | none => 0))
    ∧ (c.wields m .flush q = some uid → gate → ∃ t, exec (.queueFlush m q v) s = s.leaves (thr t) ∧ flushed c t)
    ∧ (Hears c m DPT_QCMD qcmd → exec (.qcmdFlush m q) s = s.leaves (told.flush q) ∧ flushed told (told.flush q)))
  ∧ (∀ (s : State) (m : Sender) (q : Fin 1024) (v : Word),
    let d := s.chip.dev
    let w := withField v DPT_CTL_EN_REQ 1
    let u := s.chip.takes m DPT_CTL w
    let fits : Bool := d.get DPT_POOL_BASE_REQ + d.get DPT_POOL_SIZE_REQ ≤ 64
    let rise : Prop := Hears s.chip m DPT_CTL w ∧ d.flag DPT_CTL_EN_REQ = false ∧ d.flag DPT_CTL_EN_EFF = false
    (rise → fits = true → exec (.depotEnable m v) s = s.leaves (u.onDev fun t =>
      (((t.put DPT_POOL_SIZE_EFF (d.get DPT_POOL_SIZE_REQ)).put DPT_POOL_BASE_EFF (d.get DPT_POOL_BASE_REQ)).put DPT_CTL_ERR 0).put
        DPT_CTL_EN_EFF 1))
    ∧ (rise → fits = false → exec (.depotEnable m v) s = s.leaves (u.onDev fun t => (t.put DPT_CTL_ERR 1).put DPT_ISTAT_POOLERR 1))
    ∧ (d.flag DPT_CTL_EN_REQ = false → d.flag DPT_CTL_EN_EFF = true → (∀ o ∈ d.dpt.opens, o.broken = true) → d.noReserved = true →
        ∃ t, exec .depotDisableSeam s = s.becomes (fun _ => t) ∧ t.dpt.queues = [] ∧ t.dpt.opens = [] ∧ t.dpt.walk = 0 ∧ t.dpt.free = []
        ∧ t.flag DPT_CTL_EN_EFF = false ∧ (∀ k : Fin 1024, t.flag (DPT_QCFG_LERR k) = false) ∧ t.dpt.slots = d.dpt.slots)
    ∧ (d.flag DPT_CTL_EN_REQ = true ∨ d.flag DPT_CTL_EN_EFF = false ∨ (∃ o ∈ d.dpt.opens, o.broken = false) →
        exec .depotDisableSeam s = s.leaves s.chip)
    ∧ (d.flag (DPT_QCFG_EN_REQ q) = false → d.flag (DPT_QCFG_EN_EFF q) = true → (∀ o ∈ d.dpt.opens, o.q = q → o.broken = true) →
        exec (.queueDisableSeam q) s = s.becomes (·.put (DPT_QCFG_EN_EFF q) 0))
    ∧ (d.flag (DPT_QCFG_EN_REQ q) = true ∨ d.flag (DPT_QCFG_EN_EFF q) = false ∨ (∃ o ∈ d.dpt.opens, o.q = q ∧ o.broken = false) →
        exec (.queueDisableSeam q) s = s.leaves s.chip))

/-! ### The registrar -/

/-- R251 to R253: a write of SUB_GO submits the staged request to the input stage, or behind it while it is full, and shows PEND; with PEND
set it is ignored. SUB_RES answers with the submitter's result word and clears a final one. R256, R263: the admission test refuses in the order of its checks: no eligible engine or admission off, profile not committed, buffers
badly placed, no room for the promise or its record. R252, R253, R256 to R258, R263: the decision on the oldest request: a refusal counts and shows its reason; a promise counts, shows its
engine and a number no outstanding promise bears, and joins the promises; with nothing in the input stage nothing happens. -/
def Obligations.Admission : Prop :=
  (∀ (s : State) (e : CoreId) (v : Word),
    let d := s.chip.dev
    let uid := uidOf e
    let w := d.stagedWord uid
    let r : Request := { src := .queue uid (bits v 9 0), prof := bits (w 0) 7 0, tag := w 1, deadline := (w 2).toNat + (w 3).toNat * 2 ^ 32
                         bufs := [(w 4, w 5), (w 6, w 7)], args := [w 8, w 9, w 10, w 11, w 12, w 13], hostBuf := false }
    (Hears s.chip (.core e) ADM_SUB_GO v → (d.subResult uid).getLsbD 30 = false → exec (.subGo (.core e) v) s = s.becomes fun d =>
      { d with adm := { d.adm with
        stage := if d.adm.stage.length < 4 && d.adm.waiting.isEmpty then d.adm.stage ++ [r] else d.adm.stage
        waiting := if d.adm.stage.length < 4 && d.adm.waiting.isEmpty then d.adm.waiting else d.adm.waiting ++ [r]
        results := amapSet 0 uid 0x40000000 d.adm.results } })
    ∧ (Hears s.chip (.core e) ADM_SUB_GO v → (d.subResult uid).getLsbD 30 = true → exec (.subGo (.core e) v) s = s.leaves s.chip)
    ∧ (Shows s.chip (.core e) ADM_SUB_RES → exec (.subRes (.core e)) s = s.becomes fun d =>
        (if (d.subResult uid).getLsbD 31 then d.setResult uid 0 else d).answers (d.subResult uid)))
  ∧ (∀ (d : Dev) (r : Request),
    let closed : Prop := d.flag ADM_CTL_EN_REQ = false ∨ d.flag ADM_CTL_EN_EFF = false ∨ d.flag ADM_STAT_ENTRY = true ∨ d.eligEngines r.prof = []
    let uncommitted : Prop := d.flag (ADM_CAT_CTL_STATE_REQ r.prof) = false ∨ d.flag (ADM_CAT_CTL_STATE_EFF r.prof) = false
    let misplaced : Prop := r.hostBuf = true ∨ ∃ b ∈ r.bufs, d.placed b = false
    let crowded : Prop := 4096 ≤ d.adm.proms.length ∨ ∃ uid q, r.src = .queue uid q ∧ d.canReserve q = false
    (closed → d.admTest r = .inr 6)
    ∧ (¬ closed → uncommitted → d.admTest r = .inr 3)
    ∧ (¬ closed → ¬ uncommitted → misplaced → d.admTest r = .inr 4)
    ∧ (¬ closed → ¬ uncommitted → ¬ misplaced → crowded → d.admTest r = .inr 7)
    ∧ ∀ f, d.admTest r = .inl f → ¬ closed ∧ ¬ uncommitted ∧ ¬ misplaced ∧ ¬ crowded)
  ∧ (∀ (s : State) (r : Request) (rest : List Request) (uid q reason : Nat) (f : Fit),
    let d := s.chip.dev
    let taken (d : Dev) : Dev := { d with adm := { d.adm with stage := rest ++ d.adm.waiting.take 1, waiting := d.adm.waiting.drop 1 } }
    (d.adm.stage = [] → exec .admissionDecision s = s.leaves s.chip)
    ∧ (d.adm.stage = r :: rest → r.src = .queue uid q → (taken d).admTest r = .inr reason →
      exec .admissionDecision s = s.becomes fun d => ((taken d).bumpSat (ADM_CNT_COUNT reason) 1 0xFFFFFFFF).setResult uid
        (BitVec.ofNat 32 (0x80000000 + 0x1000000 * reason)))
    ∧ (d.adm.stage = r :: rest → r.src = .queue uid q → (taken d).admTest r = .inl f → ∃ t pid, exec .admissionDecision s = s.leaves t
      ∧ (∀ x ∈ d.adm.proms, x.pid ≠ pid)
      ∧ t.dev.subResult uid = BitVec.ofNat 32 (0x80000000 + 0x10000 * f.eng + pid)
      ∧ t.dev.adm.proms.length = d.adm.proms.length + 1
      ∧ (∃ x ∈ t.dev.adm.proms, x.req = r ∧ x.eng = f.eng ∧ x.pid = pid ∧ x.order = d.adm.nextOrder)
      ∧ t.dev.get (ADM_CNT_COUNT 0) = min 0xFFFFFFFF (d.get (ADM_CNT_COUNT 0) + 1)))

/-- R255, R257: a promise admitted at the committed points is on an eligible engine, all of whose launches, the new one among them, have
finish bounds 66 ticks before their deadlines. -/
def Obligations.AdmittedPromisesFit : Prop :=
  ∀ (d : Dev) (r : Request) (f : Fit), d.admTest r = .inl f → f.point = 16 →
    let w := engWing f.eng
    let line := timelineOf (d.adm.proms.filter (·.eng == f.eng) ++ [d.newPromise r f.eng])
    f.eng ∈ d.eligEngines r.prof ∧ ∃ sp, d.stagePoint w = some sp
      ∧ ∀ x ∈ (d.testAt w sp d.now.toNat (if f.also.isNone then 1 else 2)).finishes d.now.toNat line, x.2 + 66 ≤ x.1.req.deadline

/-- R246, R248, R260, R263: a promise that ends leaves the promises, and its record of eight words is sealed into its reserved cell; the next
launch of an owned engine, whose stub is ready, is sealed into the engine's reserved cell and starts. R250, R260 to R263: RESULT is kept with the running launch of an owned engine; a DONE that bears its number ends the promise with its
status and starts the next; a deadline less 66 ticks breaches it, and a running engine is reset; a stub that is ready again goes on. -/
def Obligations.Launches : Prop :=
  (∀ (s : Chip) (x : Promise) (rest : List Promise) (status reason uid q c n : Nat) (cs : List Nat) (result : Word),
    let d := s.dev
    let t := s.retire x status reason result
    let u := s.dispatch n
    (t.dev.adm.proms = d.adm.proms.filter (·.order != x.order))
    ∧ (x.req.src = .queue uid q → (d.queue q).compl = c :: cs → q ≠ 16 + x.eng →
      (t.dev.queue q).compl = cs
      ∧ (t.dev.queue q).items.map DItem.kind = (d.queue q).items.map DItem.kind ++ [(0, x.req.prof, 8, false)]
      ∧ (80 ≤ q →
        (t.dev.queue q).items = (d.queue q).items ++ [{ cells := [c], freed := 0, tag := x.req.prof, len := 8, launch := false }]))
    ∧ (d.owned n = true → d.adm.unready.getLsbD n = false → d.timeline n = x :: rest → x.start = none → x.req.args.length = 6 →
        (d.queue (16 + n)).standing = some c →
      (u.dev.queue (16 + n)).standing = none
      ∧ (u.dev.queue (16 + n)).items.map DItem.kind = (d.queue (16 + n)).items.map DItem.kind ++ [(0, x.req.prof, 12, true)]
      ∧ ((d.queue (16 + n)).items = [] →
        (u.dev.queue (16 + n)).items = [{ cells := [c], freed := 0, tag := x.req.prof, len := 12, launch := true }])
      ∧ u.dev.adm.proms = d.adm.proms.map fun y => if y.order = x.order then { y with start := some d.now.toNat } else y))
  ∧ (∀ (s : State) (n : Fin 64) (v : Word) (x : Promise) (pid : BitVec 12),
    let d := s.chip.dev
    let m : Sender := .core (eng n)
    let tR := s.chip.takes m ADM_RESULT v
    let tD := s.chip.takes m ADM_DONE v
    let runs : Prop := d.owned n = true ∧ d.running n = some x
    let named : Prop := d.adm.proms.find? (·.pid == pid.toNat) = some x
    let overdue : Prop := x.req.deadline ≤ d.now.toNat + 66
    let why : Nat := if x.therm then 4 else if x.railf then 3 else 1
    let breached : Chip := (s.chip.onDev fun d =>
      ((((d.put ADM_ISTAT_BREACH 1).put ADM_LASTB_REASON why).put ADM_LASTB_ENG x.eng).put ADM_LASTB_PID x.pid).bumpSat
        (ADM_CNT_COUNT 9) 1 0xFFFFFFFF).retire x 2 why 0
    let ready (d : Dev) : Dev := { d with adm := { d.adm with unready := d.adm.unready &&& ~~~(1#64 <<< n.val) } }
    (Hears s.chip m ADM_RESULT v → runs → exec (.result m v) s = s.leaves (tR.onDev fun d => { d with adm := { d.adm with
      proms := d.adm.proms.map fun y => if y.eng = n.val ∧ y.start.isSome = true then { y with result := v } else y } }))
    ∧ (Hears s.chip m ADM_RESULT v → d.owned n = false → exec (.result m v) s = s.leaves tR)
    ∧ (Hears s.chip m ADM_DONE v → runs → bits v 11 0 = x.pid → v.getLsbD 31 = false → exec (.done m v) s = s.leaves
      (((tD.onDev (·.bumpSat (ADM_CNT_COUNT 8) 1 0xFFFFFFFF)).retire x 0 0 x.result).afterEnd n))
    ∧ (Hears s.chip m ADM_DONE v → runs → bits v 11 0 = x.pid → v.getLsbD 31 = true → exec (.done m v) s = s.leaves
      (((tD.onDev (·.bumpSat (ADM_CNT_COUNT 10) 1 0xFFFFFFFF)).retire x 3 (min (bits v 23 16) 0x1F) 0).afterEnd n))
    ∧ (Hears s.chip m ADM_DONE v → runs → bits v 11 0 ≠ x.pid → exec (.done m v) s = s.leaves tD)
    ∧ (named → overdue → x.start.isSome = true → exec (.deadlineBreach pid) s = s.leaves (breached.onDev fun d =>
      { d with todo := d.todo ++ [.engineReset (Fin.ofNat 64 x.eng) 0x0B]
               adm := { d.adm with unready := d.adm.unready ||| (1#64 <<< x.eng) } }))
    ∧ (named → overdue → x.start.isSome = false → exec (.deadlineBreach pid) s = s.leaves (breached.afterEnd x.eng))
    ∧ (named → ¬ overdue → exec (.deadlineBreach pid) s = s.leaves s.chip)
    ∧ (d.adm.unready.getLsbD n = true → (∀ y ∈ d.adm.proms, y.eng ≠ n.val) →
      exec (.stubReady n) s = s.leaves ((s.chip.onDev ready).afterEnd n))
    ∧ (d.adm.unready.getLsbD n = false → exec (.stubReady n) s = s.leaves s.chip))

/-- R266, R267: the thermal pin, while PINEN lets it count, starts and ends a thermal emergency: ACTIVE and the status bits, the effective
ceilings at VTHERM or below, every promise marked; while it does not count it only shows in PIN. R245: a rise of STATE_REQ of a profile without LOCK starts its commit check, whose end shows ERR and, without an error, STATE_EFF; a fall
ends the check and, once no promise of the profile is outstanding, STATE_EFF. -/
def Obligations.ThermalAndProfiles : Prop :=
  (∀ (s : State),
    let d := s.chip.dev
    let byHost : Bool := d.flag ADM_THERM_HOST && d.flag ADM_THERM_HOSTEN
    (d.flag ADM_THERM_PINEN = true → d.flag ADM_THERM_ACTIVE = false → ∃ t, exec .thermalEmergencyStart s = s.leaves t
      ∧ t.dev.flag ADM_THERM_PIN = true ∧ t.dev.flag ADM_THERM_ACTIVE = true ∧ t.dev.flag ADM_STAT_THERM = true
      ∧ t.dev.flag ADM_ISTAT_THERM = true ∧ (∀ w : Fin 2, t.dev.get (ADM_VCEIL_VCEIL_EFF w) ≤ d.get ADM_VTHERM_POINT)
      ∧ ∀ x ∈ t.dev.adm.proms, x.therm = true)
    ∧ (d.flag ADM_THERM_PINEN = false → byHost = d.flag ADM_THERM_ACTIVE →
      exec .thermalEmergencyStart s = s.becomes (·.put ADM_THERM_PIN 1) ∧ exec .thermalEmergencyEnd s = s.becomes (·.put ADM_THERM_PIN 0))
    ∧ (d.flag ADM_THERM_ACTIVE = true → byHost = false → exec .thermalEmergencyEnd s = s.becomes fun d =>
      ((((d.put ADM_THERM_PIN 0).put ADM_THERM_ACTIVE 0).put ADM_STAT_THERM 0).ceilWrite 0).ceilWrite 1))
  ∧ (∀ (s : State) (m : Sender) (p : Fin 256) (v : Word),
    let d := s.chip.dev
    let up := withField v (ADM_CAT_CTL_STATE_REQ p) 1
    let dn := withField v (ADM_CAT_CTL_STATE_REQ p) 0
    let tU := s.chip.takes m (ADM_CAT_CTL p) up
    let tD := s.chip.takes m (ADM_CAT_CTL p) dn
    let req := d.flag (ADM_CAT_CTL_STATE_REQ p)
    let others (d : Dev) : List Nat := d.adm.checks.filter (· != p.val)
    let err := if 2 < (d.word (ADM_CAT_ENTRY p)).toNat / 0x1000000 then 1 else if d.get (ADM_CAT_SET_CABS p) = 0 then 2 else 0
    d.flag (ADM_CAT_CTL_LOCK p) = false →
    (Hears s.chip m (ADM_CAT_CTL p) up → req = false → exec (.profileCommit m p v) s = s.leaves (tU.onDev fun t =>
      { t with adm := { t.adm with checks := others t ++ [p.val] } }) ∧ tU.dev.flag (ADM_CAT_CTL_STATE_REQ p) = true)
    ∧ (Hears s.chip m (ADM_CAT_CTL p) up → req = true → exec (.profileCommit m p v) s = s.leaves tU)
    ∧ (p.val ∈ d.adm.checks → exec (.profileCheckComplete p) s = s.becomes fun t =>
      let t := ({ t with adm := { t.adm with checks := others t } } : Dev).put (ADM_CAT_CTL_ERR p) err
      if err = 0 then t.put (ADM_CAT_CTL_STATE_EFF p) 1 else t)
    ∧ (p.val ∉ d.adm.checks → exec (.profileCheckComplete p) s = s.leaves s.chip)
    ∧ (Hears s.chip m (ADM_CAT_CTL p) dn → req = true → exec (.profileUnload m p v) s = s.leaves (tD.onDev fun t =>
      let t : Dev := { t with adm := { t.adm with checks := others t } }
      if d.adm.proms.any (·.req.prof == p.val) then t else t.put (ADM_CAT_CTL_STATE_EFF p) 0)
      ∧ tD.dev.flag (ADM_CAT_CTL_STATE_REQ p) = false)
    ∧ (Hears s.chip m (ADM_CAT_CTL p) dn → req = false → exec (.profileUnload m p v) s = s.leaves tD))

/-! ### Arrays and the vault -/

/-- R190, R195, R196: once its interval has passed, the conservator reads its next line, which changes no stored byte, corrects a single inverted bit, and goes on to the
line after it, after the last to the first with one more pass, and its next interval starts with STEP as it stands; within the interval and
switched off it stands. R182, R184, R186, R203, R206, R207: an owned line returns to the home role by its release, or once its burst has sent no beat for 66
ticks; NORMAL changes the service phase once and switches off the
halves asked for; a half goes off at its seam in the NORMAL phase alone and comes on with its bytes 0; CLR clears the conflict counts. -/
def Obligations.ArrayUpkeep : Prop :=
  (∀ (s : State),
    let d := s.chip.dev
    let i := d.get GAL_SCRPOS_LINE
    let a := if i < 262144 then 0x1000000 + 64 * i else if i < 294912 then 0x2000000 + 64 * (i - 262144) else 0x3000000 + 64 * (i - 294912)
    let due : Prop := d.scrub.since + 32 * d.scrub.step ≤ d.tb
    let runs : Prop := d.flag GAL_SCRUB_EN = true ∧ d.get PWR_STAT_STATE < 2 ∧ d.pwr.parked = false ∧ due
    let on (d : Dev) : Dev :=
      let e := if i + 1 < 303104 then d.put GAL_SCRPOS_LINE (i + 1)
        else (d.put GAL_SCRPOS_LINE 0).put GAL_SCRPOS_PASS (d.get GAL_SCRPOS_PASS + 1)
      { e with scrub := ⟨d.tb, d.get GAL_SCRUB_STEP⟩ }
    let word (j : Nat) : Nat := d.place (a + 8 * j)
    (runs → (∀ j < 8, onesFrom (s.chip.mem.flip (word j)) 72 ≤ 2) → ∃ t : Chip, exec .scrubLine s = s.leaves (t.onDev on)
      ∧ t.mem.cells = s.chip.mem.cells ∧ t.cores = s.chip.cores
      ∧ (d.galleryOff a = false → d.vaultShut a = false → ∀ j < 8,
          t.mem.flip (word j) = if onesFrom (s.chip.mem.flip (word j)) 72 = 1 then 0 else s.chip.mem.flip (word j)))
    ∧ (runs → d.flag GAL_CCTL_EN = false → (∀ j < 8, s.chip.mem.flip (word j) = 0) → exec .scrubLine s = s.becomes on)
    ∧ (¬ due → exec .scrubLine s = s.leaves s.chip)
    ∧ (d.flag GAL_SCRUB_EN = false → exec .scrubLine s = s.leaves s.chip))
  ∧ (∀ (s : State) (m : Sender) (line : BitVec 26) (h : Fin 16) (v : Word),
    let d := s.chip.dev
    let home : Chip := { s.chip with mem := { s.chip.mem with owned := s.chip.mem.owned.filter (·.1 != line.toNat) } }
    let late : Chip := { s.chip with mem := { s.chip.mem with
      owned := s.chip.mem.owned.filter (fun l => l.1 != line.toNat || d.tb < l.2 + 66) } }
    let n := withField v GAL_SVC_NORMAL 1
    let c := withField v GAL_CCTL_CLR 1
    let half (a : Nat) : Prop := 0x1000000 + 0x100000 * h.val ≤ a ∧ a < 0x1000000 + 0x100000 * (h.val + 1)
    exec (.ownershipRelease line) s = s.leaves home
    ∧ exec (.ownershipTimeout line) s = s.leaves late
    ∧ (Hears s.chip m GAL_SVC n → d.get GAL_SVC_PHASE = 0 → exec (.normal m v) s = s.leaves ((s.chip.takes m GAL_SVC n).onDev fun t =>
      ((t.put GAL_SVC_PHASE 1).put GAL_SVC_NORMAL 1).put GAL_PGATE_GH_EFF (d.get GAL_PGATE_GH_EFF ||| d.get GAL_PGATE_GH_REQ)))
    ∧ (Hears s.chip m GAL_SVC n → d.get GAL_SVC_PHASE ≠ 0 → exec (.normal m v) s = s.leaves (s.chip.takes m GAL_SVC n))
    ∧ (d.get GAL_SVC_PHASE = 1 → d.bit GAL_PGATE_GH_REQ h = true → d.bit GAL_PGATE_GH_EFF h = false → s.chip.mem.halfBusy h = false →
      exec (.pgateOffSeam h) s = s.becomes (·.putBit GAL_PGATE_GH_EFF h true))
    ∧ (d.bit GAL_PGATE_GH_REQ h = false ∨ d.get GAL_SVC_PHASE ≠ 1 ∨ s.chip.mem.halfBusy h = true →
      exec (.pgateOffSeam h) s = s.leaves s.chip)
    ∧ (d.bit GAL_PGATE_GH_REQ h = false ∨ d.get GAL_SVC_PHASE ≠ 1 → d.bit GAL_PGATE_GH_EFF h = true → ∃ t, exec (.pgateOnComplete h) s = s.leaves t
      ∧ t.dev = d.putBit GAL_PGATE_GH_EFF h false
      ∧ (∀ a, half a → t.mem.byte a = 0) ∧ (∀ a, ¬ half a → t.mem.byte a = s.chip.mem.byte a)
      ∧ SameCores s.chip t)
    ∧ (d.bit GAL_PGATE_GH_REQ h = true → d.get GAL_SVC_PHASE = 1 → exec (.pgateOnComplete h) s = s.leaves s.chip)
    ∧ (Hears s.chip m GAL_CCTL c → ∃ t, exec (.clr m v) s = s.leaves t ∧ (∀ i < 8, ∀ j < 128, t.dev.word (GAL_CONF i j) = 0)
      ∧ t.mem = s.chip.mem ∧ t.cores = s.chip.cores))

/-- R198, R200, R201: a wipe commanded with its code clears the vault, draws a new key and shuts it, RESTART no longer valid; its end with a good read-back
opens the vault, counts and shows its cause, with a bad one it stays shut; write protection is only ever added. -/
def Obligations.VaultWipes : Prop :=
  ∀ (s : State) (m : Sender) (v : Word),
    let d := s.chip.dev
    let key : Word := 0x7A5E0001
    let u := s.chip.takes m VLT_WIPE key
    let inside (a : Nat) : Prop := 0x3000000 ≤ a ∧ a < 0x3080000
    let secured (d : Dev) : Dev := { d with sec := { d.sec with wipeFailed := true } }
    (Hears s.chip m VLT_WIPE key → d.flag VLT_STAT_WIPING = false → d.flag CUR_RESTART_VALID = false → ∃ t, exec (.wipe m) s = s.leaves t
      ∧ t.dev = (({ u.dev with
          sec := { u.dev.sec with wipe := 4, key := some (Config.random u.dev.fresh ++ Config.random (u.dev.fresh + 1)) }
          fresh := u.dev.fresh + 2 } : Dev).put VLT_STAT_WIPING 1).put VLT_STAT_READY 0
      ∧ (∀ a, inside a → t.mem.byte a = 0) ∧ (∀ a, ¬ inside a → t.mem.byte a = s.chip.mem.byte a))
    ∧ (Hears s.chip m VLT_WIPE key → d.flag VLT_STAT_WIPING = true → exec (.wipe m) s = s.leaves (u.onDev fun t =>
      { t with sec := { t.sec with wipe := 4 } }))
    ∧ (d.flag VLT_STAT_WIPING = true → d.sec.wipeFailed = false → d.sec.tamper = false → exec (.wipeComplete true) s = s.becomes fun d =>
      ((((d.put VLT_WPROT_WP 0).put VLT_STAT_WIPING 0).put VLT_STAT_READY 1).put VLT_STAT_WIPES (d.get VLT_STAT_WIPES + 1)).put
        VLT_STAT_CAUSE d.sec.wipe)
    ∧ (d.flag VLT_STAT_WIPING = true → d.sec.wipeFailed = false → d.sec.tamper = false → d.cur.boot = false →
      exec (.wipeComplete false) s = s.becomes fun d => (secured d).putBit SEC_IRQ_ISTAT 1 true)
    ∧ (d.flag VLT_STAT_WIPING = false → ∀ good, exec (.wipeComplete good) s = s.leaves s.chip)
    ∧ (Hears s.chip m VLT_WPROT v → exec (.wprot m v) s = s.leaves (s.chip.takes m VLT_WPROT v)
      ∧ (s.chip.takes m VLT_WPROT v).dev.get VLT_WPROT_WP = d.get VLT_WPROT_WP ||| bits v 15 0)

/-! ### Registers at large -/

/-- R9 to R14, R16, R19, R537: what a write of v leaves in a field of a register: RW and RWL take the clamped value unless a rule holds the field
back, RO, RC and WO stay, W1C clears and W1S sets the bits written 1. -/
def Obligations.RegisterFields : Prop :=
  ∀ (s : Chip) (m : Sender) (a i : Nat) (v : Word) (r : RegRow) (f : FldSpec),
    findReg a = some (r, i) → f ∈ r.flds → notStored a = false → r.back = 0 →
    let old := bits (s.dev.word a) f.hi f.lo
    let new := bits ((s.takes m a v).dev.word a) f.hi f.lo
    let asked := bits v f.hi f.lo
    let clamped := match f.clamp with
      | .raw | .key => asked
      | .range lo hi => max lo (min hi asked)
      | .enum n => min n asked
    match f.acc with
    | .rw | .rwl => new = if s.dev.frozen a f.hi f.lo then old else clamped
    | .ro | .wo | .rc => new = old
    | .w1c => ∀ k, new.testBit k = (old.testBit k && !asked.testBit k)
    | .w1s => new = old ||| asked

/-- R507 to R510: a write to a set-up register is recorded: time, address, the word before, asked for and stored, its writer, CLAMPED where
asked and stored differ and IGNORED where a rule held it back; with 2,048 entries unread the oldest is overwritten and counted; a write to
another register is not recorded. -/
def Obligations.SetUpWritesAreRecorded : Prop :=
  ∀ (s : Chip) (m : Sender) (a i : Nat) (v : Word) (r : RegRow), findReg a = some (r, i) → a / 0x10000 ≠ 0x0C →
    let t := s.takes m a v
    let old := s.view (s.asMaster m) a
    let new := (s.onDev fun d => d.setWord (a - r.back) (d.storeWord r a v)).view (s.asMaster m) a
    let entry : PrvEnt :=
      { tb := s.dev.now, addr := BitVec.ofNat 32 (0x4000000 + a), old := old, req := v, stored := new, origin := BitVec.ofNat 8 (s.asMaster m).uid
        flags := BitVec.ofNat 8 ((if s.dev.heldBack r a v then 2 else 0) + (if v = new then 0 else 1)), seq := s.dev.prv.seq }
    (r.setup = false → t.dev.prv = s.dev.prv)
    ∧ (r.setup = true → s.dev.prv.unread.length < 2048 →
        t.dev.prv = { s.dev.prv with unread := s.dev.prv.unread ++ [entry], seq := s.dev.prv.seq + 1 })
    ∧ (r.setup = true → 2048 ≤ s.dev.prv.unread.length →
        t.dev.prv = { unread := s.dev.prv.unread.drop 1 ++ [entry], rp := (s.dev.prv.rp + 1) % 2048, seq := s.dev.prv.seq + 1 }
        ∧ t.dev.get PRV_OVF_COUNT = (s.dev.get PRV_OVF_COUNT + 1) % 2 ^ 32)
    ∧ t.mem = s.mem ∧ t.cores = s.cores

/-- R6, R8, R280, R281, R507: a write at any register address stores its fields and does what it starts; one that a rule makes do nothing
only stores; one that a rule refuses changes nothing but the log; the host's address is its offset in BAR0. A read clears the fields that
are read to clear and answers with what stood in them. -/
def Obligations.RegisterAccesses : Prop :=
  ∀ (s : State) (m : Sender) (e : CoreId) (a : BitVec 24) (off : BitVec 24) (v : Word) (r : RegRow) (i : Nat),
    let c := s.chip
    let plain : Prop := findReg a.toNat = some (r, i) ∧ a.toNat % 4 = 0 ∧ ¬ (a.toNat / 0x10000 = 0x05 ∧ inSubmit (a.toNat % 0x10000) = true)
    let done : Chip := (c.takes m a.toNat v).hook (c.asMaster m) a.toNat c.dev.inLine (c.dev.word (a.toNat - r.back)) (r.taken v)
    let quiet : Prop := a.toNat / 0x10000 ≠ 2 ∧ a.toNat ≠ ITC_CLAIM ∧ a.toNat / 0x10000 ≠ 0x10 ∧ a.toNat ≠ FSPI_DATA ∧ a.toNat / 0x10000 ≠ 0x0B
    (m ≠ .host → Hears c m a.toNat v → plain → thrQueue a.toNat = none → c.dev.ignores a.toNat (r.taken v) = false →
      exec (.registerWrite m a 4 v) s = s.leaves done)
    ∧ (m ≠ .host → Hears c m a.toNat v → plain → thrQueue a.toNat = none → c.dev.ignores a.toNat (r.taken v) = true →
      exec (.registerWrite m a 4 v) s = s.leaves (c.takes m a.toNat v))
    ∧ (Hears c .host a.toNat v → plain → thrQueue a.toNat = none → c.dev.ignores a.toNat (r.taken v) = false →
        bar0Of a.toNat = some off.toNat → m = .host →
      exec (.registerWrite m off 4 v) s = s.leaves done)
    ∧ (m = .core e → c.dev.mayWrite (c.master e) a.toNat v = false → c.dev.regOff a.toNat = false → plain → r.setup = false →
      exec (.registerWrite m a 4 v) s = s.leaves c)
    ∧ (blockListed (a.toNat / 0x10000) = false → m = .core e →
      exec (.registerWrite m a 4 v) s = s.leaves c ∧ exec (.readToClear m a 4) s = s.leaves c)
    ∧ (Shows c (.core e) a.toNat → plain → quiet → exec (.readToClear (.core e) a 4) s = s.becomes fun d =>
        (d.setWord (a.toNat - r.back) (r.afterRead (d.word (a.toNat - r.back)))).answers (c.view (c.master e) a.toNat))
    ∧ (Shows c .host a.toNat → plain → quiet → bar0Of a.toNat = some off.toNat → exec (.readToClear .host off 4) s = s.becomes fun d =>
        (d.setWord (a.toNat - r.back) (r.afterRead (d.word (a.toNat - r.back)))).answers (c.view Master.host a.toNat))
    ∧ (∀ f ∈ r.flds, findReg a.toNat = some (r, i) → f.acc = .rc → ∀ w : Word, bits (r.afterRead w) f.hi f.lo = 0)

/-! ### Resets, boot and security -/

/-- R493, R404, R494, R200: power-on, or a drop of the VAON supply, clears the arrays and every core, wipes the vault, holds the engines in
reset with the curator in the boot ROM, and leaves one log entry; the 32 kHz domain runs on. SYS_RST_N resets an awake system; the two
reset commands are carried out with their key. R493: what a command set going is carried out in its step. -/
def Obligations.Resets : Prop :=
  (∀ (s : State) (m : Sender),
    let c := s.chip
    let on := c.powerOn false false
    let sys := c.systemReset 1
    let key (n : Nat) : Word := BitVec.ofNat 32 (0x7E570000 + n)
    exec .powerOnReset s = s.leaves on
    ∧ exec .vaonDrop s = s.leaves on
    ∧ (∀ a, on.mem.byte a = 0) ∧ on.cores = bootCores false ∧ on.dev.tbC = c.dev.tbC ∧ on.dev.tbF = c.dev.tbF
    ∧ on.dev.flag VLT_STAT_WIPING = true ∧ on.dev.flag VLT_STAT_READY = false ∧ on.dev.word SYS_RSTCAUSE = 1
    ∧ (∀ a, a / 0x10000 ∈ [0x03, 0x04, 0x05, 0x06, 0x07, 0x09, 0x0A, 0x0B, 0x0D, 0x0E, 0x10, 0x11, 0x13, 0x15] →
        on.dev.word a = resetWord a)
    ∧ on.dev.prv.unread.length = 1 ∧ on.dev.prv.seq = 1 ∧ on.dev.pwr.parked = true ∧ on.dev.sec.fuses = c.dev.sec.fuses
    ∧ (c.dev.pwr.parked = false → c.dev.get PWR_STAT_STATE < 2 → c.dev.get PWR_STAT_PHASE < 2 → exec .sysRstN s = s.leaves sys)
    ∧ ((∀ e : CoreId, c.cores[e].sb = []) → sys.mem.cells = c.mem.cells ∧ sys.mem.flips = c.mem.flips)
    ∧ sys.mem.owned = [] ∧ sys.dev.dpt = Dpt.empty ∧ sys.dev.latch = 0 ∧ sys.dev.itc.pend = 0
    ∧ sys.dev.bit ⟨SYS_RSTCAUSE, 7, 0⟩ 1 = true
    ∧ (∀ e : CoreId, sys.cores[e].run = isCur e) ∧ sys.cores[curator].pc = 0x03080000
    ∧ (Hears c m SYS_RSTCMD (key 2) → exec (.systemReset m) s = s.leaves ((c.takes m SYS_RSTCMD (key 2)).onDev (·.later (.sysReset 2))))
    ∧ (Hears c m SYS_RSTCMD (key 1) → exec (.fabricReset m) s = s.leaves ((c.takes m SYS_RSTCMD (key 1)).onDev (·.later .fabReset)))
    ∧ (∀ n : Fin 64, c.fabricReset.cores[eng n].run = !c.dev.heldInReset n)
    ∧ (∀ n : Fin 64, c.dev.heldInReset n = true → (c.engineReset n).cores[eng n].run = false ∧ (c.engineReset n).cores[eng n].km = true
        ∧ (c.engineReset n).cores[eng n].ie = false ∧ (c.engineReset n).dev.itc.running[eng n] = []))
  ∧ (∀ (s : Chip) (x : Todo), s.dev.todo = [x] →
    let t := (s.onDev fun d => { d with todo := [] }).handle x
    t.dev.todo = [] → s.settle = t.settle
    ∧ (x = .sysReset 2 → s.dev.pwr.parked = false → s.dev.get PWR_STAT_STATE < 2 → s.dev.get PWR_STAT_PHASE < 2 →
        t = (s.onDev fun d => { d with todo := [] }).systemReset 2))

/-- R497 to R501: the boot ROM, waiting for an image with the vault open, loads a signed image from a slot with a good header and jumps to
its entry; with no good slot it stops with the error and lets the host in, unless the straps ask for recovery; a good header keeps the
rules of R499. The recovery flag is taken when it reads 0x6418. -/
def Obligations.BootImages : Prop :=
  ∀ (s : State) (a b x : Slot) (n : Nat) (rest : List (Nat × Slot)) (data : List (List Byte)) (u : Chip) (w : Word) (h : List Byte),
    let d := s.chip.dev
    let awaits (stage : Nat) : Prop := d.cur.boot = true ∧ d.cur.stop = .none ∧ d.get SYS_BOOT_STAGE = stage ∧ d.flag VLT_STAT_READY = true
    let head := x.bytes.take 256
    let j := u.bootJump head
    (awaits 2 → d.slotOrder a b = (n, x) :: rest → x.data = some data →
        (s.chip.onDev (·.put SYS_BOOT_SLOT n)).loadSections ((hdrSections head).zip data) = (u, true) → u.dev.imageSigned head data = true →
      exec (.bootImageLoad a.bytes b.bytes) s = s.leaves j)
    ∧ (j.dev.get SYS_BOOT_STAGE = 5 ∧ j.dev.get SYS_BOOT_ERR = 0 ∧ j.dev.cur.boot = false
      ∧ j.cores[curator].run = true ∧ j.cores[curator].cb ++ j.cores[curator].off = BitVec.ofNat 32 (hdrEntry head) &&& ~~~3#32
      ∧ j.cores[curator].km = true ∧ j.cores[curator].splim = 0x03000000 ∧ j.cores[curator].g[31] = 0x03080000)
    ∧ (awaits 2 → d.slotErr a ≠ 0 → d.slotErr b ≠ 0 → d.bootMode ≠ 3 → exec (.bootImageLoad a.bytes b.bytes) s = s.becomes fun d =>
        ((d.put SYS_BOOT_STAGE 6).put SYS_BOOT_ERR (d.slotErr b)).bootWrite HPT_CTL_CFGRDY 1)
    ∧ (d.get SYS_BOOT_STAGE ≠ 2 → exec (.bootImageLoad a.bytes b.bytes) s = s.leaves s.chip)
    ∧ (d.hdrErr h = 0 → hdrWord h 0 = 0x52596418 ∧ hdrWord h 4 = 1 ∧ 1 ≤ hdrWord h 12 ∧ hdrWord h 12 ≤ 8
      ∧ d.sec.fuses.verMin ≤ hdrVersion h
      ∧ (∀ y ∈ hdrSections h, y.len ≠ 0 ∧ y.len % 4 = 0 ∧ y.flags < 2
        ∧ ((0x3000000 ≤ y.dst ∧ y.dst + y.len ≤ 0x3080000) ∨ (0x1000000 ≤ y.dst ∧ y.dst + y.len ≤ 0x1100000)))
      ∧ ∃ y ∈ hdrSections h, 0x3000000 ≤ y.dst ∧ y.dst ≤ hdrEntry h ∧ hdrEntry h < y.dst + y.len)
    ∧ (awaits 3 → (s.chip.asks 0x18 0x11FFFFC).memRead 0x11FFFFC 4 = (u, .ok w) → exec .recoveryFlagPoll s = s.leaves (if w = 0x6418 then u.stageTake else u))
    ∧ (d.get SYS_BOOT_STAGE ≠ 3 → exec .recoveryFlagPoll s = s.leaves s.chip)

/-- R502 to R506, R511: a life-cycle request that R502 allows stops the curator, resets the debug island and wipes the vault, another one
shows LCERR; the fuses' programming takes the new state and resets the system; a tamper event stops the curator and wipes; a new minimum
version is kept, refused or ignored; ACK consumes log entries. -/
def Obligations.SecurityCommands : Prop :=
  ∀ (s : State) (m : Sender) (t : BitVec 3) (n6 : BitVec 6) (n12 : BitVec 12) (got : BitVec 3) (ok : Bool) (tgt vmin : Nat),
    let c := s.chip
    let d := c.dev
    let lk : Word := 0x4C430000 ||| t.zeroExtend 32
    let vk : Word := 0x56450000 ||| (n6.zeroExtend 32 <<< 8)
    let uL := c.takes m SEC_LCREQ lk
    let uV := c.takes m SEC_VER vk
    let uA := c.takes m PRV_ACK (n12.zeroExtend 32)
    let keys : Bool := Config.fuseBootKey && Config.fuseDbgKey
    let asked := min t.toNat 4
    let may : Bool := d.sec.target.isNone && lcAllowed d.lcState asked && ((asked != 1 && asked != 2) || keys)
    let shows (b : Nat) (d : Dev) : Dev := d.putBit SEC_IRQ_ISTAT b true
    let fuses := d.sec.fuses.program tgt got
    let k := min (min n12.toNat 2048) d.prv.unread.length
    let newMin := if ok then vmin else max d.sec.fuses.verMin n6.toNat
    let verEnd (d : Dev) : Dev := { d with sec := { d.sec with newMin := none, fuses := { d.sec.fuses with verMin := newMin } } }
    (Hears c m SEC_LCREQ lk → may = true → exec (.lcreq m t) s = s.leaves ((uL.onDev fun d => ({ d with
        sec := { d.sec with target := some asked }, cur := { d.cur with stop := .trans } } : Dev).later .dbgReset).wipe 3))
    ∧ (Hears c m SEC_LCREQ lk → may = false → exec (.lcreq m t) s = s.leaves (uL.onDev (shows 2)))
    ∧ (d.sec.target = some tgt → d.flag VLT_STAT_WIPING = false → exec (.lcFuseProgram got) s = s.becomes fun d =>
        let d : Dev := { d with sec := { d.sec with fuses := fuses, target := none } }
        (if fuses.copies tgt = 7 then d else shows 2 d).later (.sysReset 6))
    ∧ (d.sec.target = none → exec (.lcFuseProgram got) s = s.leaves c)
    ∧ (d.flag SEC_TCTL_EN = true → d.pwr.parked = false → d.get PWR_STAT_STATE ≤ 2 → exec .tamper s = s.leaves ((c.onDev fun d => { d with
        sec := { d.sec with tamper := true }, cur := { d.cur with stop := if d.cur.stop = .trans then .trans else .tamper } }).wipe 2))
    ∧ (d.flag SEC_TCTL_EN = false → exec .tamper s = s.leaves c)
    ∧ (Hears c m SEC_VER vk → d.sec.newMin = none → d.sec.fuses.verMin < n6.toNat → n6.toNat ≤ d.get SYS_BOOT_VERSION →
        exec (.ver m n6) s = s.leaves (uV.onDev fun d => { d with sec := { d.sec with newMin := some n6.toNat } }))
    ∧ (Hears c m SEC_VER vk → d.sec.newMin = none → d.sec.fuses.verMin < n6.toNat → d.get SYS_BOOT_VERSION < n6.toNat →
        exec (.ver m n6) s = s.leaves (uV.onDev (shows 3)))
    ∧ (Hears c m SEC_VER vk → d.sec.newMin.isSome = true ∨ n6.toNat ≤ d.sec.fuses.verMin → exec (.ver m n6) s = s.leaves uV)
    ∧ (d.sec.newMin = some vmin → exec (.verFuseProgram ok n6) s = s.becomes fun d => if ok then verEnd d else shows 3 (verEnd d))
    ∧ (d.sec.newMin = none → exec (.verFuseProgram ok n6) s = s.leaves c)
    ∧ (Hears c m PRV_ACK (n12.zeroExtend 32) → exec (.ack m n12) s = s.leaves (uA.onDev fun d =>
        { d with prv := { d.prv with unread := d.prv.unread.drop k, rp := (d.prv.rp + k) % 2048 } }))

/-! ### Cabinets and the curator pair -/

/-- R121, R123 to R126, R493, R496: RST resets the engines it pulses and lets those go that it no longer holds; an open slot takes its image; a
commit starts a check, whose end shows what is wrong or loads the slot; an unload ends the check, and its seam the loading. R23, R24, R27, R498: a cabinet on a wing at 0.42 V or above that is not about to fall takes a reading; calibration sets every point's pace
from the fuses and the readings and its place among the usable points, and the boot ROM goes on as the straps say. -/
def Obligations.CabinetCommands : Prop :=
  (∀ (s : State) (m : Sender) (k i : Fin 8) (j : Fin 64) (hold engines : BitVec 8) (v : Word),
    let c := s.chip
    let d := c.dev
    let vP : Word := 0#16 ++ engines ++ hold
    let vH : Word := 0#24 ++ hold
    let up := withField v (CAB_CXCTL_STATE_REQ k i) 1
    let dn := withField v (CAB_CXCTL_STATE_REQ k i) 0
    let uU := c.takes m (CAB_CXCTL k i) up
    let uD := c.takes m (CAB_CXCTL k i) dn
    let key := 8 * k.val + i.val
    let unloaded (t : Chip) : Chip := if (t.cabCores k).all Core.quiet then t.onDev (·.put (CAB_CXCTL_STATE_EFF k i) 0) else t
    let req := d.flag (CAB_CXCTL_STATE_REQ k i)
    let locked := d.flag (CAB_CXCTL_LOCK k i)
    let uT := c.takes m (CAB_CXTAB k i j) v
    let found := d.slotCheck k i
    (Hears c m (CAB_RST k) vP → ∃ t, exec (.pulse m k hold engines) s = s.leaves t ∧ t = (c.takes m (CAB_RST k) vP).rstWrite k engines.toNat
      ∧ ∀ n : Fin 64, t.cores[eng n].run = if n.val / 8 = k.val
          then (if engines.getLsbD (n % 8) then !hold.getLsbD (n % 8) else (c.cores[eng n].run || !hold.getLsbD (n % 8)))
          else c.cores[eng n].run)
    ∧ (Hears c m (CAB_RST k) vH → ∃ t, exec (.hold m k hold) s = s.leaves t ∧ t = (c.takes m (CAB_RST k) vH).rstWrite k 0
      ∧ ∀ n : Fin 64, t.cores[eng n].run = if n.val / 8 = k.val then (c.cores[eng n].run || !hold.getLsbD (n % 8)) else c.cores[eng n].run)
    ∧ (Hears c m (CAB_CXTAB k i j) v → exec (.cxtab m k i j v) s = s.leaves uT
      ∧ (j.val ≤ 32 → d.slotOpen k i = true → uT.dev.word (CAB_CXTAB k i j) = v)
      ∧ (d.slotOpen k i = false → uT.dev.word (CAB_CXTAB k i j) = d.word (CAB_CXTAB k i j)))
    ∧ (Hears c m (CAB_CXCTL k i) up → locked = false → req = false → exec (.cxctlCommit m k i v) s = s.leaves (uU.onDev fun d =>
      { d with cx := d.cx.filter (· != key) ++ [key] }))
    ∧ (Hears c m (CAB_CXCTL k i) up → locked = false → req = true → exec (.cxctlCommit m k i v) s = s.leaves uU)
    ∧ (Hears c m (CAB_CXCTL k i) dn → locked = false → req = true → exec (.cxctlUnload m k i v) s = s.leaves (unloaded (uD.onDev fun d =>
      { d with cx := d.cx.filter (· != key) })))
    ∧ (Hears c m (CAB_CXCTL k i) dn → locked = false → req = false → exec (.cxctlUnload m k i v) s = s.leaves (unloaded uD))
    ∧ (key ∈ d.cx → exec (.commitCheckComplete k i) s = s.becomes fun d =>
      let d := ((({ d with cx := d.cx.filter (· != key) } : Dev).put (CAB_CXCTL_ERR k i) found.1).put (CAB_CXCTL_ERRIDX k i) found.2.1).put
        (CAB_CXCTL_COMP k i) found.2.2
      if found.1 = 0 then d.put (CAB_CXCTL_STATE_EFF k i) 1 else d)
    ∧ (key ∉ d.cx → exec (.commitCheckComplete k i) s = s.leaves c)
    ∧ (found.1 = 0 → 1 ≤ d.slotN k i ∧ d.slotN k i ≤ 32 ∧ (∀ w ∈ d.slotOps k i, uopErr w = 0)
      ∧ found.2.2 = 2 + ((d.slotOps k i).map fun w => (uopMarks (bits w 31 26)).getD 0).sum ∧ found.2.2 ≤ d.slotDecl k i)
    ∧ (req = false → exec (.slotSeam k i) s = s.becomes (·.put (CAB_CXCTL_STATE_EFF k i) 0))
    ∧ (req = true → exec (.slotSeam k i) s = s.leaves c))
  ∧ (∀ (s : State) (k : Fin 8) (ps : BitVec 16) (live : List (BitVec 16)),
    let d := s.chip.dev
    let w := engWing (8 * k)
    let readings := live.map (·.toNat)
    let ready : Prop := d.cur.boot = true ∧ d.cur.stop = .none ∧ d.get SYS_BOOT_STAGE = 0 ∧ d.get PWR_STAT_STATE = 0
      ∧ d.flag PWR_STAT_BUSY = false ∧ d.pwr.parked = false ∧ d.clocksOn = true ∧ d.rseq = []
    (d.canaryRuns w = true → ∃ t, exec (.canaryReading k ps) s = s.becomes (fun _ => t) ∧ t.get (CAB_PACE_PACE k) = ps.toNat
      ∧ t.flag (CAB_PACE_VALID k) = true ∧ t.get (CAB_PACE_SEQ k) = (d.get (CAB_PACE_SEQ k) + 1) % 256)
    ∧ (d.canaryRuns w = true → d.flag ADM_CTL_EN_EFF = false → d.railPoint w = none →
      exec (.canaryReading k ps) s = s.becomes (·.canaryRead k ps.toNat))
    ∧ (d.railMv w < 420 → exec (.canaryReading k ps) s = s.leaves s.chip)
    ∧ (ready → d.bootMode ≠ 2 → d.bootMode ≠ 4 →
      exec (.calibration live) s = s.becomes fun d => ((d.put SYS_BOOT_STAGE 1).calibrate readings).put SYS_BOOT_STAGE 2)
    ∧ (ready → d.bootMode = 2 → exec (.calibration live) s = s.leaves ((s.chip.onDev fun d => (d.put SYS_BOOT_STAGE 1).calibrate readings).recovery))
    ∧ (d.get SYS_BOOT_STAGE ≠ 0 → exec (.calibration live) s = s.leaves s.chip)
    ∧ (∀ (x : Fin 2) (i : Fin 16),
      let fuse := Config.fusePace i
      let scaled := (readings.getD (16 * x.val + i) 0 * Config.tcNum i + Config.tcDen i) / (Config.tcDen i + 1)
      (d.calibrate readings).get (ADM_PTAB_PACE x i) = min (max fuse scaled) 0xFFFF
      ∧ ((d.calibrate readings).flag (ADM_PTAB_USABLE x i) = true ↔ max fuse scaled ≤ paceLimit i)
      ∧ (d.calibrate readings).get (if x = 0 then ADM_STAT_RAIL_W0 else ADM_STAT_RAIL_W1) = 8
      ∧ (d.flag SP_RSEQCTL_EN = true → d.rseq = [] → (d.calibrate readings).rails[x].mv = d.get (ADM_PTAB_MV x 8))))

/-- R343 to R351: the main's tokens are numbered and held until the checker, two behind, has passed them; 100 ns without one release them. Tokens
that differ, a checker that lags 1 µs behind a release, a failed exercise of the comparator and a command drive the safe state, which stops the
pair, records the fault and asks for the reset SAFE.RST chooses; after an earlier fault it only notes that there is more. A parity error without
a mismatch, and an exercise that passes, count. WAKE_N is low while the pair or the host port drives it. -/
def Obligations.CuratorPair : Prop :=
  ∀ (s : State) (m : Sender) (t : TokenPair) (r : Fin 3) (code hint : Nat) (rec : Option (Nat × Word × Word))
      (x : DelayEntry) (rest : List DelayEntry) (tok : Token) (core : Core) (t0 : Nat),
    let c := s.chip
    let d := c.dev
    let cmd : Word := 0x5AFE0001
    let u := d.safeState code hint rec
    let rst := d.get CUR_SAFE_RST
    let esc := d.get CUR_SAFE_ESC
    let hitIn : Nat := if d.cur.took.any (·.bad t.flipIn) then 1 else 0
    let hitOut : Nat := if x.bad t.flipOut then 1 else 0
    let due : Prop := d.curRuns = true ∧ d.cur.held = x :: rest ∧ x.tok.chan.isInput = false ∧ d.cur.release = none ∧ 2 ≤ rest.length
    let differs : Prop := t.made.words ≠ (x.read t.flipOut).1
    let faddr : Word := if x.tok.chan = .ireq ∨ x.tok.chan = .dreq then x.tok.addr else 0
    let passed (d : Dev) : Dev := { d with cur := { d.cur with held := rest } }
    let counted (d : Dev) : Dev := d.bumpSat CUR_DPCNT_COUNT (hitIn + hitOut) 0xFFFFFFFF
    let tested (d : Dev) : Dev := { d with cur := { d.cur with testBit := (d.cur.testBit + 1) % Config.comparedBits, exercised := d.now.toNat } }
    let dueX : Prop := d.cur.exercised + (d.get CUR_CMPX_PERIOD * 32768 + 999) / 1000 ≤ d.now.toNat
    (due → differs → t.copies = false → exec (.tokenCompare t) s = s.becomes fun d =>
        passed (d.safeState 1 (hitIn + 2 * hitOut) (some (x.tok.chan.code, x.seq, faddr))))
    ∧ (due → ¬ differs → t.copies = false → exec (.tokenCompare t) s = s.becomes fun d => passed (counted d))
    ∧ (due → ¬ differs → t.copies = true → exec (.tokenCompare t) s = s.becomes fun d => passed ((counted d).safeState 3 3 none))
    ∧ (d.curRuns = false → exec (.tokenCompare t) s = s.leaves c ∧ exec .lag s = s.leaves c ∧ exec .delayRelease s = s.leaves c)
    ∧ (d.cur.release = none → d.cur.held.length ≤ 2 → exec (.tokenCompare t) s = s.leaves c)
    ∧ (d.curRuns = true → d.cur.release = none → d.cur.last + 4 ≤ d.now.toNat → d.cur.held.any (fun y => !y.tok.chan.isInput) = true →
        exec .delayRelease s = s.becomes fun d => { d with cur := { d.cur with release := some d.now.toNat } })
    ∧ (d.curRuns = true → d.now.toNat < d.cur.last + 4 → exec .delayRelease s = s.leaves c)
    ∧ (d.curRuns = true → d.cur.release = some t0 → d.cur.held ≠ [] → t0 + 33 ≤ d.now.toNat → exec .lag s = s.becomes (·.safeState 2 0 none))
    ∧ (d.cur.release = none ∨ d.cur.held = [] → exec .lag s = s.leaves c)
    ∧ (d.curPowered = true → dueX → exec (.comparatorExercise 0) s = s.becomes fun d =>
        (tested d).put CUR_CMPXCNT_COUNT (d.get CUR_CMPXCNT_COUNT + 1))
    ∧ (d.curPowered = true → dueX → r ≠ 0 → exec (.comparatorExercise r) s = s.becomes fun d => (tested d).safeState 3 r.val none)
    ∧ (d.curPowered = false ∨ ¬ dueX → exec (.comparatorExercise r) s = s.leaves c)
    ∧ ((d.pass tok core).cur.seq = d.cur.seq + 1 ∧ (d.pass tok core).cur.held.length ≤ 3
      ∧ (d.pass tok core).cur.held.getLast? = some ⟨d.cur.seq, tok, parityBits tok.words, core⟩)
    ∧ (d.wakeNLow = true ↔ d.cur.wakeN = true ∨ d.flag HPT_HOLD_WAKE = true)
    ∧ (Hears c m CUR_SAFECMD cmd → exec (.safecmd m) s = s.leaves ((c.takes m CUR_SAFECMD cmd).onDev (·.later (.safeState 6 0))))
    ∧ (d.cur.stop = .fault → u = d.put CUR_FAULT_MORE 1)
    ∧ (d.cur.stop ≠ .fault → code < 8 → hint < 4 → u.cur.stop = .fault ∧ u.flag CUR_FAULT_VALID = true ∧ u.get CUR_FAULT_CODE = code
      ∧ u.get CUR_FAULT_HINT = hint
      ∧ u.todo = d.todo ++ (if rst = 0 then (if d.lcState = 1 then [] else [.sysReset 3])
          else if rst = 1 then (if esc ≠ 0 ∧ esc ≤ d.get CUR_FAULT_RSTCNT then [.sysReset 3] else [.curReset]) else [.sysReset 3]))

/-! ### The debug port -/

/-- R465 to R471, R477: every request carries the CRC-8 of R466 over its CMD, ADDR and WDATA and every word read is answered with its own; a dormant or unpowered port ignores frames, a frame with a wrong CRC is counted, and neither is answered; the port
registers answer with their words and take theirs; unassigned ones are refused. ABORT marks an access, DORMANT locks the port and the
activation sequence wakes it; a line reset counts and drops an access. R465, R467, R468, R472, R477: a system access needs its level; a new one is refused while the fabric is held, outside the targets and
misaligned; else it is performed, in time or later, but not before the clock of the island it reaches runs (R383), and a repeated request
collects what it ended with. -/
def Obligations.DebugPort : Prop :=
  (∀ (s : State) (i : BitVec 8) (v a w : Word) (inTime : Bool) (crc bad : BitVec 8) (adly : BitVec 6) (x : SysAccess),
    let c := s.chip
    let d := c.dev
    let b := d.dbg
    let ok (v : Option Word) (d : Dev) : Dev := d.emit (.hdw 3 (v.map fun w => (w, crc8 (lsbFirst w))))
    let fault (n : Nat) (d : Dev) : Dev := ({ d with dbg := { d.dbg with freason := n } } : Dev).emit (.hdw 9 none)
    let reads (w : Word) : Prop := exec (.prd i (crc8 (lsbFirst 1#4 ++ lsbFirst i))) s = s.becomes (ok (some w))
    let silent : Outcome := s.becomes (·.emit .silent)
    let dead : Prop := d.islandOn = false ∨ b.dormant = true
    let busy := match b.access with | some a => (if a.done.isNone then 1 else 0) | none => 0
    (dead → exec (.prd i crc) s = silent ∧ exec (.pwr i v crc) s = silent ∧ exec (.srd a inTime crc) s = silent
      ∧ exec (.swr a w inTime crc) s = silent ∧ exec (.abort adly) s = silent ∧ exec (.dormant adly) s = silent ∧ exec .lineReset s = s.leaves c)
    ∧ (¬ dead →
      let counted : Outcome := s.becomes fun d => ({ d with dbg := { d.dbg with crcErr := min 255 (b.crcErr + 1) } } : Dev).emit .silent
      (bad ≠ crc8 (lsbFirst 1#4 ++ lsbFirst i) → exec (.prd i bad) s = counted)
      ∧ (bad ≠ crc8 (lsbFirst 2#4 ++ lsbFirst i ++ lsbFirst v) → exec (.pwr i v bad) s = counted)
      ∧ (bad ≠ crc8 (lsbFirst 3#4 ++ lsbFirst a) → exec (.srd a inTime bad) s = counted)
      ∧ (bad ≠ crc8 (lsbFirst 4#4 ++ lsbFirst a ++ lsbFirst w) → exec (.swr a w inTime bad) s = counted)
      ∧ (i = 0x00 → reads 0x64181101)
      ∧ (i = 0x01 → reads (BitVec.ofNat 32 b.adly))
      ∧ (i = 0x02 → exec (.prd i (crc8 (lsbFirst 1#4 ++ lsbFirst i))) s = s.becomes fun d => ok (some (BitVec.ofNat 32 (0x40000000 * b.level + 0x20000000 * busy
          + 0x100000 * b.freason + 0x100 * b.resets + b.crcErr))) { d with dbg := { d.dbg with crcErr := 0 } })
      ∧ (i = 0x04 → reads (BitVec.ofNat 32 (0x10000 * b.authState + b.failCnt)))
      ∧ (∀ k : Fin 8, i.toNat = 8 + k → reads b.chal[k])
      ∧ (0x10 ≤ i.toNat → i.toNat < 0x20 → reads 0)
      ∧ (i = 0x20 → reads (Config.fuseSerial 0)) ∧ (i = 0x21 → reads (Config.fuseSerial 1))
      ∧ (i = 0x03 ∨ 0x05 ≤ i.toNat ∧ i.toNat < 8 ∨ 0x22 ≤ i.toNat →
          exec (.prd i (crc8 (lsbFirst 1#4 ++ lsbFirst i))) s = s.becomes (fault 2) ∧ exec (.pwr i v (crc8 (lsbFirst 2#4 ++ lsbFirst i ++ lsbFirst v))) s = s.becomes (fault 2))
      ∧ (∀ k : Fin 16, i.toNat = 0x10 + k →
          exec (.pwr i v (crc8 (lsbFirst 2#4 ++ lsbFirst i ++ lsbFirst v))) s = s.becomes fun d => ok none { d with dbg := { d.dbg with resp := d.dbg.resp.set k v } })
      ∧ (i = 0x01 → v.getLsbD 31 = false → v.getLsbD 30 = false →
          exec (.pwr i v (crc8 (lsbFirst 2#4 ++ lsbFirst i ++ lsbFirst v))) s = s.becomes fun d => ok none { d with dbg := { d.dbg with adly := bits v 5 0 } })
      ∧ exec (.abort adly) s = s.becomes (fun d => ok none { d with dbg := { d.dbg with
          adly := adly.toNat, access := d.dbg.access.map fun a => { a with aborted := true } } })
      ∧ exec (.dormant adly) s = s.leaves (((c.onDev fun d => { d with dbg := { d.dbg with adly := adly.toNat, dormant := true } }).setLevel 0).onDev
          (ok none))
      ∧ (b.access = none ∨ (∃ x, b.access = some x ∧ x.done.isSome = true) → exec .lineReset s = s.becomes fun d =>
          { d with dbg := { d.dbg with resets := min 255 (b.resets + 1), access := none } })
      ∧ (b.access = some x → x.done = none → exec .lineReset s = s.becomes fun d =>
          { d with dbg := { d.dbg with resets := min 255 (b.resets + 1), access := some { x with dropped := true } } })
      ∧ exec .activationSequence s = s.leaves c)
    ∧ (d.islandOn = true → b.dormant = true → exec .activationSequence s = s.becomes fun d => { d with dbg := { d.dbg with dormant := false } }))
  ∧ (∀ (s : State) (write : Bool) (a v : Word) (inTime : Bool) (u : Chip) (r : SysEnd) (x : SysAccess),
    let c := s.chip
    let d := c.dev
    let b := d.dbg
    let fault (n : Nat) (d : Dev) : Dev := ({ d with dbg := { d.dbg with freason := n } } : Dev).emit (.hdw 9 none)
    let ends (r : SysEnd) (d : Dev) : Dev := match r with
      | .ok w => d.emit (.hdw 3 (if write then none else some (w, crc8 (lsbFirst w))))
      | .fault n => fault n d
    let free (d : Dev) : Dev := { d with dbg := { d.dbg with access := none } }
    let go : Outcome := exec (if write then .swr a v inTime (crc8 (lsbFirst 4#4 ++ lsbFirst a ++ lsbFirst v)) else .srd a inTime (crc8 (lsbFirst 3#4 ++ lsbFirst a))) s
    d.islandOn = true → b.dormant = false → (write = false → v = 0) →
    (b.level < sysLevel write a.toNat → go = s.becomes (·.emit (.hdw 6 none)))
    ∧ (sysLevel write a.toNat ≤ b.level →
      (b.access = none → d.pwr.hold = true → go = s.becomes (fault 7))
      ∧ (b.access = none → d.pwr.hold = false → sysTarget a.toNat = false → go = s.becomes (fault 2))
      ∧ (b.access = none → d.pwr.hold = false → sysTarget a.toNat = true → a.toNat % 4 ≠ 0 → go = s.becomes (fault 3))
      ∧ (b.access = none → d.pwr.hold = false → sysTarget a.toNat = true → a.toNat % 4 = 0 → inTime = true → d.accessWaits a.toNat = false →
          c.sysPerform write a.toNat v = (u, r) → go = s.leaves (u.onDev (ends r)))
      ∧ (b.access = none → d.pwr.hold = false → sysTarget a.toNat = true → a.toNat % 4 = 0 → inTime = false ∨ d.accessWaits a.toNat = true →
          go = s.becomes fun d => ({ d with dbg := { d.dbg with access := some ⟨write, a, v, none, false, false⟩ } } : Dev).emit (.hdw 5 none))
      ∧ (b.access = some x → x.done = none → go = s.becomes (·.emit (.hdw 5 none)))
      ∧ (b.access = some x → x.done = some r → x.write = write → x.addr = a → x.data = v → x.aborted = false →
          go = s.becomes fun d => ends r (free d))
      ∧ (b.access = some x → x.done = some r → x.write = write → x.addr = a → x.data = v → x.aborted = true →
          go = s.becomes fun d => fault 8 (free d)))
    ∧ (b.access = some x → x.done = none → d.accessWaits x.addr.toNat = true → exec .systemAccessComplete s = s.leaves c)
    ∧ (b.access = some x → x.done = none → d.accessWaits x.addr.toNat = false → c.sysPerform x.write x.addr.toNat x.data = (u, r) →
      exec .systemAccessComplete s = s.leaves (u.onDev fun d =>
        { d with dbg := { d.dbg with access := if x.dropped then none else some { x with done := some r } } }))
    ∧ (b.access = none → exec .systemAccessComplete s = s.leaves c))

/-- R473 to R476: CHAL draws a challenge unless one is withheld; a verification needs it and ends with the level raised or with a failure
counted and the next challenge withheld; DROP lowers the level; the withholding time ends. -/
def Obligations.Authentication : Prop :=
  ∀ (s : State) (level : BitVec 2) (method l : Nat),
    let c := s.chip
    let d := c.dev
    let b := d.dbg
    let ok (d : Dev) : Dev := d.emit (.hdw 3 none)
    let set (f : Dbg → Dbg) (d : Dev) : Dev := { d with dbg := f d.dbg }
    let tries (m : Nat) (x : Instr) : Prop :=
      (b.authState = 2 → exec x s = s.becomes fun d => ok (set (fun b => { b with authState := 3, verify := some (m, level.toNat) }) d))
      ∧ (b.authState ≠ 2 → exec x s = s.becomes ok)
    let good : Bool := methodOk d.lcState method && l ≤ (if d.lcState = 4 then 0 else 3)
      && (if method = 1 then Config.debugSigned b.chal.toList l b.resp.toList else Config.debugPassword (b.resp.toList.take 8))
    let f := min 255 (b.failCnt + 1)
    (d.islandOn = true → b.dormant = false →
      (b.withheld ≠ 0 → exec .chal s = s.becomes fun d => ok (set (fun b => { b with authState := 1 }) d))
      ∧ (b.withheld = 0 → exec .chal s = s.becomes fun d => ok { set (fun b =>
          { b with authState := 2, chal := Vector.ofFn fun i => Config.random (d.fresh + i.val) }) d with fresh := d.fresh + 8 })
      ∧ tries 1 (.authSig level) ∧ tries 2 (.authPwd level)
      ∧ (b.level ≤ level.toNat → exec (.authDrop level) s = s.becomes ok)
      ∧ (level.toNat < b.level → exec (.authDrop level) s = s.leaves ((c.setLevel level.toNat).onDev ok)))
    ∧ (b.verify = some (method, l) → good = true → exec .verifyComplete s = s.leaves ((c.onDev (set fun b =>
        { b with authState := 4, failCnt := 0, verify := none })).setLevel l))
    ∧ (b.verify = some (method, l) → good = false → exec .verifyComplete s = s.becomes (set fun b => { b with
        authState := 5, failCnt := f, verify := none, withheld := d.now.toNat + 3276800 * 2 ^ min (f - 1) 6 }))
    ∧ (b.verify = none → exec .verifyComplete s = s.leaves c)
    ∧ (b.withheld ≠ 0 → b.withheld ≤ d.now.toNat → exec .withholdingTimeEnd s = s.becomes (set fun b =>
        { b with withheld := 0, authState := if b.authState = 1 then 0 else b.authState }))
    ∧ (b.withheld = 0 ∨ d.now.toNat < b.withheld → exec .withholdingTimeEnd s = s.leaves c)
    ∧ (b.level ≤ l → c.setLevel l = c.onDev (set fun b => { b with level := l }))
    ∧ (l < b.level → (c.setLevel l).dev.dbg.level = l
      ∧ (l < 2 → ∀ n : Fin 64, (c.setLevel l).cores[eng n].halted = false) ∧ (l < 3 → (c.setLevel l).cores[curator].halted = false))

/-- R479 to R483, R489, R490: HALT asks the running targets to halt, which they do at their next open boundary; RESUME and STEP act on halted
ones; a fed instruction runs on a halted target and shows DONE; HPC moves it; stimulus writes and SYNC make packets. -/
def Obligations.RunControl : Prop :=
  ∀ (s : State) (m : Sender) (tg : BitVec 7) (e : CoreId) (n : Fin 64) (w v : Word) (p : Fin 64) (g : ImmFn) (rd ra : GReg) (i : BitVec 16),
    let c := s.chip
    let d := c.dev
    let word (cmd : Nat) : Word := BitVec.ofNat 32 (0x40000000 * cmd + tg.toNat)
    let u (cmd : Nat) : Chip := c.takes .debugger DBG_RCTL (word cmd)
    let may (cmd : Nat) : Prop := Hears c .debugger DBG_RCTL (word cmd) ∧ (if min tg.toNat 65 = 64 then 3 else 2) ≤ d.dbg.level
    let named (e : CoreId) : Bool := e.val == tg.toNat || (e.val < 64 && 65 ≤ tg.toNat)
    let f := d.feedTarget
    let k := c.cores[f]
    let packet (kind : Nat) (w2 w3 : Word) (uid : Nat) : Packet :=
      { w0 := BitVec.ofNat 32 (0x10000000 * kind + 0x10000 * uid + d.now.toNat / 2 ^ 32 % 0x10000), w1 := d.now.extractLsb' 0 32, w2 := w2, w3 := w3 }
    let wp := d.get DBG_TRSTAT_WP
    let records (p : Packet) (t : Dev) : Prop := amapFind wp t.dbg.trace = some p ∧ t.get DBG_TRSTAT_WP = (wp + 1) % 8192
    let recording : Prop := d.flag DBG_TRCTL_EN = true ∧ d.traceStopped = false ∧ d.dbg.lost = 0
    (may 1 → ∃ h : BitVec 65, (∀ x : CoreId, h.getLsbD x.val = (d.dbg.haltReq.getLsbD x.val || (named x && !c.cores[x].halted)))
      ∧ exec (.halt tg) s = s.leaves ((u 1).onDev fun d => { d with dbg := { d.dbg with haltReq := h } }))
    ∧ (d.dbg.haltReq.getLsbD e.val = true → c.haltable e = true → exec (.haltEffect e) s = s.leaves
        ((((c.tokens e [c.cores[e].token .dbgi .halt 0 []]).unwait e).onDev (·.discard e)).halt e)
      ∧ (c.halt e).cores[e] = { c.cores[e] with halted := true, resv := none, wait := .none, tblPair := false }
      ∧ (c.halt e).dev.dbg.haltReq.getLsbD e.val = false)
    ∧ (d.dbg.haltReq.getLsbD e.val = false → exec (.haltEffect e) s = s.leaves c)
    ∧ (may 2 → tg.toNat = n.val → c.cores[eng n].halted = true → exec (.resume tg) s = s.leaves ((u 2).resume (eng n))
      ∧ ((u 2).resume (eng n)).cores[eng n] = { c.cores[eng n] with halted := false, resumed := true, df := false })
    ∧ (may 2 → tg.toNat = n.val → c.cores[eng n].halted = false → exec (.resume tg) s = s.leaves (u 2))
    ∧ (may 3 → tg.toNat = n.val → c.cores[eng n].halted = true → exec (.step tg) s = s.leaves ((u 3).onDev (·.later (.step (eng n)))))
    ∧ (may 3 → tg.toNat = n.val → c.cores[eng n].halted = false → exec (.step tg) s = s.leaves (u 3))
    ∧ (Hears c .debugger DBG_FEED w → (if f.val = 64 then 3 else 2) ≤ d.dbg.level → d.dbg.feeding = none →
      exec (.feed w) s = s.leaves ((c.takes .debugger DBG_FEED w).onDev (·.later (.feed w))))
    ∧ (Op.decode w = some (.imm g rd ra i) → k.halted = true → k.sb = [] → k.sbErr = [] → k.impErr = [] →
      (c.feed w).cores[f] = k.wr rd (g.eval (k.rd ra) i) ∧ (c.feed w).dev.get DBG_FEEDST_STATE = 2)
    ∧ (Hears c .debugger DBG_HPC v → (if f.val = 64 then 3 else 2) ≤ d.dbg.level → k.halted = true →
      exec (.hpc v) s = s.leaves ((c.takes .debugger DBG_HPC v).onCore f fun k =>
        { k with cb := v.extractLsb' 24 8, off := v.extractLsb' 0 24 &&& ~~~3#24 }))
    ∧ (Hears c m (DBG_STIM p) v → d.bit (DBG_STIMEN_EN (p.val / 32)) (p % 32) = false →
      exec (.stim m p v) s = s.leaves (c.takes m (DBG_STIM p) v))
    ∧ (Hears c m (DBG_STIM p) v → d.bit (DBG_STIMEN_EN (p.val / 32)) (p % 32) = true → recording →
      ∃ t, exec (.stim m p v) s = s.leaves ((c.takes m (DBG_STIM p) v).onDev fun _ => t)
        ∧ records (packet 1 (BitVec.ofNat 32 p.val) v (c.asMaster m).uid) t)
    ∧ (d.flag DBG_TRCTL_SYNC = true → recording → ∃ t, exec .sync s = s.becomes (fun _ => t)
      ∧ records (packet 5 (d.now.extractLsb' 32 32) (d.now.extractLsb' 0 32) 2) t)
    ∧ (d.flag DBG_TRCTL_SYNC = false → exec .sync s = s.leaves c)

/-! ### The host port -/

/-- R273 to R279, R291, R292, R329, R519, R521: the link trains where PERST_N, LTEN and its supply let it, comes up with what the host negotiates
below the effective limits, changes its power state, and goes down with LINKDOWN; PRESENT follows the link, Bus Master Enable, D0 and
HMEM, and its fall loses the far cache and pauses the rings. R276, R278, R283, R286, R290 to R294, R107: configuration requests are retried until CFGRDY, then answered; HMEM, the seams and the flush of
the far cache send its lines home; snoops are answered from the line's state; a held access that reaches HOLDMAX fails. -/
def Obligations.HostLink : Prop :=
  (∀ (s : State) (m : Sender) (v : Word) (u : LinkUp) (st : BitVec 3) (ck d0 : Bool) (t : Chip),
    let c := s.chip
    let d := c.dev
    let live : Bool := 2 ≤ d.get HPT_LSTAT_STATE && d.get HPT_LSTAT_STATE ≤ 5
    let down (d : Dev) : Dev := if live then d.put HPT_ISTAT_LINKDOWN 1 else d
    let idle (d : Dev) : Dev := ((((((d.put HPT_LSTAT_STATE 0).put HPT_LSTAT_MODE 0).put HPT_LSTAT_CXLVER 0).put HPT_LSTAT_RATE 0).put
      HPT_LSTAT_WIDTH 0).put HPT_LSTAT_REV 0).put HPT_LSTAT_POL 0
    let trains (d : Dev) : Dev :=
      let d := ((d.put HPT_LINKCFG_RATE_EFF (d.get HPT_LINKCFG_RATE_REQ)).put HPT_LINKCFG_WIDTH_EFF (d.get HPT_LINKCFG_WIDTH_REQ)).put
        HPT_LINKCFG_CXLEN_EFF (d.get HPT_LINKCFG_CXLEN_REQ)
      (idle d).put HPT_LSTAT_STATE 1
    let start (d : Dev) : Dev := if d.hpt.perst && d.flag HPT_CTL_LTEN && d.hpt.vphy then d.train else idle d
    let rate := min u.rate (d.get HPT_LINKCFG_RATE_EFF)
    let cxl : Bool := u.cxl && d.flag HPT_LINKCFG_CXLEN_EFF && 2 ≤ rate
    let vL := withField v HPT_CTL_LTEN 1
    let uL := c.takes m HPT_CTL vL
    let want (t : Chip) : Bool := 2 ≤ t.dev.get HPT_LSTAT_STATE && t.dev.get HPT_LSTAT_STATE ≤ 5 && t.dev.flag HPT_LSTAT_BME
      && t.dev.flag HPT_LSTAT_D0 && t.dev.flag HPT_HMEM_AVAIL_EFF
    let power (d : Dev) : Dev := { d with pwr := { d.pwr with clkreq := ck } }
    let pm := Config.pmCap + 4
    (d.get HPT_LSTAT_STATE = 1 → exec (.linkUp u) s = s.leaves (c.onDev fun d =>
      ((((((((d.put HPT_LSTAT_MODE (if cxl then 2 else 1)).put HPT_LSTAT_CXLVER (if cxl then min 3 (max 1 u.ver) else 0)).put HPT_LSTAT_RATE
        rate).put HPT_LSTAT_WIDTH (min u.width (d.get HPT_LINKCFG_WIDTH_EFF))).put HPT_LSTAT_REV (if u.rev then 1 else 0)).put
        HPT_LSTAT_POL u.pol.toNat).put HPT_LSTAT_D0 (if bits (d.cfgRead (Config.pmCap + 4)) 1 0 = 0 then 1 else 0)).put HPT_LSTAT_STATE 2).put
        HPT_ISTAT_LINKUP 1).presence)
    ∧ (d.get HPT_LSTAT_STATE ≠ 1 → exec (.linkUp u) s = s.leaves c)
    ∧ (live = true → exec .hotReset s = s.leaves (c.onDev fun d => start (down d)).presence
      ∧ exec .linkDown s = s.leaves (c.onDev fun d => start (down d)).presence)
    ∧ (live = false → d.get HPT_LSTAT_STATE ≠ 7 → exec .hotReset s = s.leaves c ∧ exec .linkDown s = s.leaves c)
    ∧ (d.hpt.perst = true → d.flag HPT_CTL_LTEN = true → d.hpt.vphy = true → d.train = trains d)
    ∧ exec .vphyDrop s = s.leaves (c.onDev fun d => idle (down { d with hpt := { d.hpt with vphy := false } })).presence
    ∧ (d.get HPT_LSTAT_STATE = 0 → exec .vphyReturn s = s.becomes fun d => start { d with hpt := { d.hpt with vphy := true } })
    ∧ (d.get HPT_LSTAT_STATE ≠ 0 → exec .vphyReturn s = s.becomes fun d => { d with hpt := { d.hpt with vphy := true } })
    ∧ exec .perstNAssert s = s.leaves (c.onDev fun d => ((idle { down d with hpt := { d.hpt with
        perst := false, cfg := [], msix := Vector.replicate 64 { addr := 0, data := 0, mask := true }, pba := 0 } }).put HPT_LSTAT_BME 0).put
        HPT_LSTAT_D0 0).presence
    ∧ (d.hpt.perst = false → d.watching = false →
      exec .perstNDeassert s = s.becomes fun d => start { d with hpt := { d.hpt with perst := true } })
    ∧ (d.hpt.perst = true → exec .perstNDeassert s = s.leaves c)
    ∧ (Hears c m HPT_CTL vL → d.flag HPT_CTL_LTEN = false → exec (.lten m v) s = s.leaves (uL.onDev fun d => start (down d)).presence)
    ∧ (Hears c m HPT_CTL vL → d.flag HPT_CTL_LTEN = true → exec (.lten m v) s = s.leaves uL)
    ∧ (live = true ∨ d.get HPT_LSTAT_STATE = 7 → 2 ≤ st.toNat → st.toNat ≤ 6 → (ck = true → d.watching = false) → exec (.linkPowerStateChange st ck) s
        = s.leaves (c.onDev fun d => (power d).put HPT_LSTAT_STATE st.toNat).presence)
    ∧ (d.flag HPT_CTL_CFGRDY = false → exec .busMasterEnableClear s = s.becomes (·.emit .retry)
      ∧ exec (.dStateChange d0) s = s.becomes (·.emit .retry))
    ∧ (d.flag HPT_CTL_CFGRDY = true →
      exec .busMasterEnableClear s = s.leaves (c.onDev fun d => (d.cfgPut 4 (d.cfgRead 4 &&& ~~~4#32)).put HPT_LSTAT_BME 0).presence
      ∧ exec (.dStateChange d0) s = s.leaves (c.onDev fun d =>
        (d.cfgPut pm ((d.cfgRead pm &&& ~~~3#32) ||| (if d0 then 0 else 3))).put HPT_LSTAT_D0 (if d0 then 1 else 0)).presence)
    ∧ (t.presence).dev.flag HPT_LSTAT_PRESENT = want t
    ∧ (want t = true → t.dev.flag HPT_LSTAT_PRESENT = false → ∀ e : CoreId, t.presence.cores[e] = { t.cores[e] with present := true })
    ∧ (want t = false → t.dev.flag HPT_LSTAT_PRESENT = true → t.presence.dev.hpt.fc = [] ∧ t.presence.dev.flag HPT_ISTAT_ABSENT = true
      ∧ t.presence.dev.flag RNG_STAT_PAUSED = true ∧ t.presence.dev.flag RNG_ISTAT_PAUSE = true
      ∧ ∀ e : CoreId, t.presence.cores[e] = { t.cores[e] with present := false })
    ∧ (want t = t.dev.flag HPT_LSTAT_PRESENT → t.presence = t))
  ∧ (∀ (s : State) (m : Sender) (write : Bool) (reg : BitVec 10) (v : Word) (b : Fin 256) (line : BitVec 46) (l : FarLine) (h : Held) (e : CoreId)
    (st : SbEntry),
    let c := s.chip
    let d := c.dev
    let off := 4 * reg.toNat
    let uH := c.takes m HPT_HMEM v
    let uF := c.takes m HPT_FCCMD 0x80000000
    let lines := d.hpt.fc
    let inB (l : FarLine) : Bool := l.dev * 64 / 0x1000000 == b.val
    let lost := c.clearResv (lineOf (2 ^ 52 + line.toNat * 64))
    let put (f : List FarLine) (d : Dev) : Dev := { d with hpt := { d.hpt with fc := f } }
    let found : Prop := d.get HPT_LSTAT_MODE = 2 ∧ lines.find? (·.host == line.toNat) = some l
    let dirty : Bool := l.st == .modified
    let due : Option Held := d.hpt.held.find? fun h => h.wake && h.since.toNat + h.limit ≤ d.now.toNat
    let heldIn (p : Held → Bool) : Prop := ∃ h ∈ d.hpt.held, h.wake = true ∧ p h = true
    (d.flag HPT_CTL_CFGRDY = false → exec (.configurationRequest write reg v) s = s.becomes (·.emit .retry))
    ∧ (d.flag HPT_CTL_CFGRDY = true → exec (.configurationRequest false reg v) s = s.becomes (·.answers (d.cfgRead off)))
    ∧ (d.flag HPT_CTL_CFGRDY = true → off ≠ Config.pmCap + 4 → exec (.configurationRequest true reg v) s
        = s.leaves ((c.onDev fun d =>
            let d := (d.cfgPut off v).emit (.reply [])
            d.put HPT_LSTAT_BME (if (d.cfgRead 4).getLsbD 2 then 1 else 0)).presence.onDev Dev.msixFlush))
    ∧ (Hears c m HPT_HMEM v → v.getLsbD 0 = true → ∃ t, exec (.hmem m v) s = s.leaves t ∧ t.dev.flag HPT_HMEM_AVAIL_REQ = true
      ∧ t.dev.flag HPT_HMEM_AVAIL_EFF = true ∧ t.dev.flag HPT_FCSTAT_BUSY = false)
    ∧ (Hears c m HPT_HMEM v → v.getLsbD 0 = false → d.flag HPT_HMEM_AVAIL_EFF = true →
      exec (.hmem m v) s = s.leaves (uH.onDev fun d => (d.put HPT_FCSTAT_BUSY 1).later .rise))
    ∧ (d.flag HPT_HMEM_AVAIL_REQ = false → d.flag HPT_HMEM_AVAIL_EFF = true → ¬ heldIn (fun _ => true) → ∃ t, exec .availSeam s = s.leaves t ∧ t.dev.hpt.fc = []
      ∧ t.dev.flag HPT_HMEM_AVAIL_EFF = false ∧ t.dev.flag HPT_FCSTAT_BUSY = false ∧ t.dev.flag HPT_LSTAT_PRESENT = false)
    ∧ (d.flag HPT_HMEM_AVAIL_REQ = true ∨ d.flag HPT_HMEM_AVAIL_EFF = false ∨ heldIn (fun _ => true) → exec .availSeam s = s.leaves c)
    ∧ (d.flag (HPT_FWT_ATTR_EN_REQ b) = false → d.flag (HPT_FWT_ATTR_EN_EFF b) = true → ¬ heldIn (·.addr / 0x1000000 == b.val) → ∃ t, exec (.farWindowDisableSeam b) s = s.leaves t
      ∧ t.dev.flag (HPT_FWT_ATTR_EN_EFF b) = false ∧ t.dev.hpt.fc = lines.filter (!inB ·)
      ∧ ∀ x ∈ lines, inB x = true → x.st = .modified → .hostWrite (x.host * 64) x.data ∈ t.dev.out)
    ∧ (d.flag (HPT_FWT_ATTR_EN_REQ b) = true ∨ heldIn (·.addr / 0x1000000 == b.val) → exec (.farWindowDisableSeam b) s = s.leaves c)
    ∧ (Hears c m HPT_FCCMD 0x80000000 → ∃ t, exec (.farCacheFlush m) s = s.leaves (uF.onDev fun _ => t) ∧ t.hpt.fc = []
      ∧ t.flag HPT_FCSTAT_BUSY = true ∧ ∀ x ∈ lines, x.st = .modified → .hostWrite (x.host * 64) x.data ∈ t.out)
    ∧ (d.flag HPT_FCSTAT_BUSY = true → d.flag HPT_HMEM_AVAIL_REQ = true ∨ d.flag HPT_HMEM_AVAIL_EFF = false →
      exec .farCacheFlushDone s = s.becomes (·.put HPT_FCSTAT_BUSY 0))
    ∧ (d.flag HPT_FCSTAT_BUSY = false → exec .farCacheFlushDone s = s.leaves c)
    ∧ (found → exec (.snpcur line) s = s.becomes (·.emit (.snoop true true dirty l.data)))
    ∧ (found → exec (.snpdata line) s = s.becomes fun d =>
        (put (lines.map fun x => if x.host = line.toNat then { x with st := .shared } else x) d).emit
          (.snoop true true dirty (if dirty then l.data else [])))
    ∧ (found → exec (.snpinv line) s = s.leaves (lost.onDev fun d =>
        (put (lines.filter fun x => x.host != line.toNat) d).emit (.snoop true false dirty (if dirty then l.data else []))))
    ∧ (d.get HPT_LSTAT_MODE = 2 → lines.find? (·.host == line.toNat) = none →
      exec (.snpcur line) s = s.becomes (·.emit (.snoop false false false [])) ∧ exec (.snpdata line) s = s.becomes (·.emit (.snoop false false false []))
      ∧ exec (.snpinv line) s = s.leaves (lost.onDev (·.emit (.snoop false false false []))))
    ∧ (due = some h → h.who = .post e st → exec .holdTimeout s = s.leaves
        ((((c.onDev (·.put HPT_ISTAT_HOLDTO 1)).dropPost e st).postAnswered e h.id .done).onDev (·.later .rise)))
    ∧ (due = some h → h.who = .core e →
      exec .holdTimeout s = s.leaves (((c.onDev (·.put HPT_ISTAT_HOLDTO 1)).coreTimeout e h.addr).onDev (·.later .rise)))
    ∧ (due = some h → h.who = .sunk e → exec .holdTimeout s = s.leaves
        ((c.onDev fun d => (d.put HPT_ISTAT_HOLDTO 1).dropHeld (·.id == h.id)).onDev (·.later .rise)))
    ∧ (due = none → exec .holdTimeout s = s.leaves c)
    ∧ (∀ (who : HeldWho) (a : Nat) (k : Dev), (k.hold who a true).hpt.held
        = k.hpt.held ++ [{ id := k.hpt.nextId, who := who, addr := a, since := k.now, limit := k.get HPT_HOLDMAX_MS * 32768, wake := true }]
      ∧ (k.hold who a true).flag HPT_HOLD_WAKE = true)
    ∧ ((c.dropPost e st).dev = d.loseWrite st.addr.toNat)
    ∧ exec .completionTimeout s = s.becomes fun d => { d with hpt := { d.hpt with noReply := true } })

/-- R276, R281, R296 to R301, R328: DPADDR and DPCTL take the host's words; an aperture access is served from the arrays and advances DPADDR where
told, a fenced one is counted and aborted; an MSI-X entry takes the host's words, and a pending vector it unmasks is sent. -/
def Obligations.ApertureAndVectors : Prop :=
  ∀ (s : State) (off : BitVec 16) (data bs : List Byte) (n : Nat) (u : Chip) (x : Fin 64) (addr : BitVec 64) (w : Word) (mask : Bool),
    let c := s.chip
    let d := c.dev
    let word : Word := BitVec.ofNat 32 (leNat (data.take 4))
    let port (f : Hpt → Hpt) (d : Dev) : Dev := { d with hpt := f d.hpt }
    let a := d.hpt.dpaddr.toNat + (if d.hpt.dpinc then 0 else off.toNat - 0x8000)
    let on (n : Nat) (d : Dev) : Dev := if d.hpt.dpinc then port (fun h => { h with dpaddr := (h.dpaddr + BitVec.ofNat 32 n) &&& ~~~3#32 }) d else d
    let inAperture (n : Nat) : Prop := 0x8000 ≤ off.toNat ∧ off.toNat + n ≤ 0x10000 ∧ d.flag HPT_CTL_DPEN = true ∧ 0x1000000 ≤ a ∧ a + n ≤ 0x2200000
    let entry : MsixEnt := { addr := addr, data := w, mask := mask }
    let entered : Dev := port (fun h => { h with msix := h.msix.set x entry }) d
    (d.flag HPT_CTL_CFGRDY = false → exec (.apertureWrite off data) s = s.becomes (·.drops false)
      ∧ exec (.msiXUnmask x addr w mask) s = s.becomes (·.drops false)
      ∧ exec (.apertureRead off n) s = s.becomes (·.emit .unsupported))
    ∧ (d.flag HPT_CTL_CFGRDY = true →
      (off = 0 → data.length = 4 → exec (.apertureWrite off data) s = s.becomes (port fun h => { h with dpaddr := word &&& ~~~3#32 }))
      ∧ (off = 4 → data.length = 4 → exec (.apertureWrite off data) s = s.becomes (port fun h => { h with dpinc := word.getLsbD 0 }))
      ∧ (off = 0 → exec (.apertureRead off 4) s = s.becomes (·.answers d.hpt.dpaddr))
      ∧ (off = 4 → exec (.apertureRead off 4) s = s.becomes (·.answers (if d.hpt.dpinc then 1 else 0)))
      ∧ (inAperture data.length → d.fenced true a data.length = false → (c.asks 0x0C a).bulkMay a data.length = (u, none) →
          exec (.apertureWrite off data) s = s.leaves (((u.bulkWrite 0x0C a data.length data).1.burst a data.length).onDev (on data.length)))
      ∧ (inAperture data.length → d.fenced true a data.length = false → (c.asks 0x0C a).bulkMay a data.length = (u, some .offline) →
          exec (.apertureWrite off data) s = s.leaves (u.onDev (·.drops true)) ∧ u.mem.cells = c.mem.cells)
      ∧ (inAperture data.length → d.fenced true a data.length = true → exec (.apertureWrite off data) s = s.becomes fun d =>
          (d.countFence a).drops true)
      ∧ (inAperture n → d.fenced false a n = false → (c.asks 0x0C a).bulkRead a n = (u, .inl bs) →
          exec (.apertureRead off n) s = s.leaves (u.onDev fun d => on n (d.emit (.reply bs))))
      ∧ (inAperture n → d.fenced false a n = true → exec (.apertureRead off n) s = s.becomes fun d => (d.countFence a).emit .abort)
      ∧ (0x8000 ≤ off.toNat → off.toNat + n ≤ 0x10000 → d.flag HPT_CTL_DPEN = false →
          exec (.apertureRead off n) s = s.becomes (·.emit .abort)))
    ∧ (d.flag HPT_CTL_CFGRDY = true → d.hpt.pba = 0 → exec (.msiXUnmask x addr w mask) s = s.becomes fun _ => entered)
    ∧ (d.flag HPT_CTL_CFGRDY = true → d.hpt.pba = 1#64 <<< x.val → mask = false → d.msixFnMask = false → d.canSend = true → exec (.msiXUnmask x addr w mask) s
        = s.becomes fun _ => (port (fun h => { h with pba := 0 }) entered).emit (.msix x addr w))

/-! ### Pins, keyboard, microphones and the line guard -/

/-- R375, R383, R453 to R457: OUTSET and OUTCLR set and clear outputs, or wait while the serial clock is stopped, as a new level does; a new level of an input that works shows and counts as an edge of its window; an input
with too many edges, or asserted too long, is masked, with a log entry and its group's interrupt; a write unmasks; a keyboard scan changes
the keys that have differed often enough; the tachometers show their counts. R425, R433, R453, R461, R495: a serial port's mode gives its pads their functions and leaves the others in high impedance; SP7's SCL and SDA
move to the battery port with ROUTE. A hold latches the words that set the pads, a write of a unit's register then changes no held pad, and
PLTRST_N is driven as SYS.PLTRST, the hold and the watchdog's pulse say. R425, R458 to R463, R519: a guarded pin that agrees with its drive is clean, one that differs twice is short; an open pin that follows the test
pull and a battery that answers only when swapped are found; a write gives shorted pins back and releases held pads; without VIO33 the
guard rests. -/
def Obligations.Pads : Prop :=
  (∀ (s : State) (m : Sender) (w2 : Fin 2) (w : Fin 3) (i : Fin 68) (v : Word) (level : Bool) (keys : BitVec 128) (n0 n1 : BitVec 16),
    let c := s.chip
    let d := c.dev
    let outs := d.word (GPIO_OUTSET w2)
    let uS := c.takes m (GPIO_OUTSET w2) v
    let uC := c.takes m (GPIO_OUTCLR w2) v
    let x := d.inCount i
    let edges := if x.start + 327680 ≤ d.now.toNat then 1 else x.edges + 1
    let ns := d.get (GPIO_PIN_STORMN i)
    let nt := d.get (GPIO_PIN_STUCK i)
    let masks (f : Fld) (d : Dev) : Dev := ((d.putBit f (i % 32) true).logHw f.addr (d.word f.addr)).sendPulse (138 + i.val / 8)
    let uM := c.takes m (GPIO_STORM w) v
    let uT := c.takes m (GPIO_STUCK w) v
    let old := d.word (GPIO_STORM w)
    (Hears c m (GPIO_OUTSET w2) v → exec (.outset m w2 v) s = s.leaves uS ∧ uS.dev.word (GPIO_OUTSET w2) = outs ||| v)
    ∧ (Hears c m (GPIO_OUTCLR w2) v → exec (.outclr m w2 v) s = s.leaves uC ∧ uC.dev.word (GPIO_OUTSET w2) = outs &&& ~~~v)
    ∧ (∀ e : CoreId, d.clocksOn = false → exec (.outset (.core e) w2 v) s = s.becomes fun d =>
      { d with crossing := d.crossing ++ [.write (some e) (GPIO_OUTSET w2) v] })
    ∧ (d.clocksOn = false → exec (.lineChange i level) s = s.becomes fun d =>
      { d with crossing := (d.crossing.filter fun x => match x with | .level j _ => j != i | _ => true) ++ [.level i level] })
    ∧ (d.clocksOn = true → d.inLevel i = level → exec (.lineChange i level) s = s.leaves c)
    ∧ (d.clocksOn = true → 64 ≤ i.val → d.ports.pad.vio33 = false → exec (.lineChange i level) s = s.leaves c)
    ∧ (d.clocksOn = true → d.inLevel i ≠ level → i.val < 64 ∨ d.ports.pad.vio33 = true → ∃ t, exec (.lineChange i level) s = s.becomes (fun _ => t)
      ∧ t.inLevel i = level ∧ (t.inCount i).edges = edges
      ∧ t.itc.pulse = if i.val = 64 ∧ d.inMasked i = false then d.itc.pulse ||| (1#256 <<< 147) else d.itc.pulse)
    ∧ (i.val < 64 → ns ≠ 0 → ns < x.edges → d.inMasked i = false → exec (.storm i) s = s.becomes (masks (GPIO_STORM_MASK (i / 32))))
    ∧ (ns = 0 ∨ x.edges ≤ ns ∨ d.inMasked i = true → exec (.storm i) s = s.leaves c)
    ∧ (i.val < 64 → nt ≠ 0 → d.inLine i = true → x.since + nt * 3276800 ≤ d.now.toNat →
      exec (.stuck i) s = s.becomes (masks (GPIO_STUCK_MASK (i / 32))))
    ∧ (nt = 0 ∨ d.inLine i = false → exec (.stuck i) s = s.leaves c)
    ∧ (Hears c m (GPIO_STORM w) v → ∃ t, exec (.unmask m w false v) s = s.leaves (uM.onDev fun _ => t)
      ∧ t.word (GPIO_STORM w) = old &&& ~~~v
      ∧ ∀ b : Fin 32, 32 * w.val + b.val < 68 → old.getLsbD b = true → v.getLsbD b = true → d.bit (GPIO_STUCK_MASK w) b = false →
          t.inCount (32 * w.val + b.val) = ⟨d.now.toNat, 0, d.now.toNat⟩)
    ∧ (Hears c m (GPIO_STUCK w) v → ∃ t, exec (.unmask m w true v) s = s.leaves (uT.onDev fun _ => t)
      ∧ t.word (GPIO_STUCK w) = d.word (GPIO_STUCK w) &&& ~~~v)
    ∧ (d.flag GPIO_KBDCTL_EN = true → d.clocksOn = true → d.ports.pad.vio33 = true → ∃ t, exec (.keyboardScan keys) s = s.becomes (fun _ => t)
      ∧ ∀ k : Fin 128, t.bit (GPIO_KBD_KEYS (k.val / 32)) (k % 32)
          = if d.get GPIO_KBDCTL_DEB ≤ d.keyCount k + 1 then keys.getLsbD k else d.bit (GPIO_KBD_KEYS (k.val / 32)) (k % 32))
    ∧ (d.flag GPIO_KBDCTL_EN = false → exec (.keyboardScan keys) s = s.leaves c)
    ∧ (d.clocksOn = true → d.ports.pad.vio33 = true → ∃ t, exec (.tachUpdate n0 n1) s = s.becomes (fun _ => t)
      ∧ t.get (GPIO_TACH_COUNT 0) = n0.toNat ∧ t.get (GPIO_TACH_COUNT 1) = n1.toNat)
    ∧ (d.clocksOn = false → exec (.tachUpdate n0 n1) s = s.leaves c))
  ∧ (∀ (d : Dev) (k : Fin 8) (n : Fin 6) (g : Fin 64) (a b : Nat) (w : Word) (cur : Bool) (x : Nat),
    let held : Prop := d.flag PAD_HOLDREL_HELD = true
    let mode := d.get (SP_CTL_MODE k)
    let routed : Prop := k = 7 ∧ n.val < 2 ∧ d.get PAD_BAT_ROUTE = 1
    let wired : List (Option PadFn) :=
      if mode ≤ 2 then [some .scl, some .sda, none, none, none, none]
      else if mode = 3 then [some .sck, some .csN, some (.io 0), some (.io 1), some (.io 2), some (.io 3)]
      else if mode = 4 then [none, none, some .txd, some .rxd, some .rtsN, some .ctsN]
      else [none, none, none, none, none, none]
    let out := d.bit (GPIO_OUTSET_OUT (g.val / 32)) (g % 32)
    let dir := d.get (GPIO_PIN_DIR g)
    (¬ held → ¬ routed → some (d.spPad k n) = wired[n.val]?)
    ∧ (¬ held → routed → d.spPad k n = none)
    ∧ (¬ held → d.get PAD_BAT_ROUTE = 1 → d.ports.pad.vio33 = true → d.ports.pad.shorted = [] → d.get (SP_CTL_MODE 7) ≤ 1 →
        d.batPad 0 = (if d.get (PAD_GSTAT_SWAP 0) = 0 then some .scl else some .sda)
        ∧ d.batPad 1 = (if d.get (PAD_GSTAT_SWAP 0) = 0 then some .sda else some .scl))
    ∧ (∀ pin : Fin 2, pin.val ∈ d.ports.pad.shorted ∨ d.ports.pad.vio33 = false → d.batPad pin = none)
    ∧ (¬ held → d.gpioDrive g = if dir = 1 then some out else if dir = 2 ∧ out = false then some false else none)
    ∧ (¬ held → (d.padHold cur).flag PAD_HOLDREL_HELD = true ∧ (d.padHold cur).flag PAD_HOLDREL_CURF = cur
        ∧ (padReg a = true → (d.padHold cur).padWord a = d.word a))
    ∧ (held → d.padHold cur = d)
    ∧ (held → b ≠ PAD_HOLDREL → (d.setWord b w).padWord a = d.padWord a ∧ (d.setWord b w).gpioDrive g = d.gpioDrive g
        ∧ (3 ≤ k.val → (d.setWord b w).spPad k n = d.spPad k n))
    ∧ (held → k = 0 → some (d.spPad k n) = wired[n.val]?)
    ∧ (d.tbs.pulse = some x → d.pltrst = some false)
    ∧ (d.tbs.pulse = none → ¬ held → d.pltrst = if d.flag SYS_PLTRST_OE = true then some (!d.flag SYS_PLTRST_ASSERT) else none)
    ∧ (d.tbs.pulse = none → held → (d.setWord SYS_PLTRST w).pltrst = d.pltrst))
  ∧ (∀ (s : State) (m : Sender) (g : Fin 5) (pin : Fin 16) (v : Word) (b reads cur : Bool),
    let c := s.chip
    let d := c.dev
    let p := d.ports.pad
    let k := 32 * g.val + pin.val
    let pads (f : Pad → Pad) (d : Dev) : Dev := { d with ports := { d.ports with pad := f d.ports.pad } }
    let clean := pads fun p => { p with differ := p.differ.filter (· != k), low := p.low.filter (·.1 != k) }
    let found (f : Fld) (n : Nat) (d : Dev) : Dev :=
      ((((d.put f 1).put (PAD_GSTAT_PIN g) n).put (PAD_GSTAT_COUNT g) (min 0xFF (d.get (PAD_GSTAT_COUNT g) + 1))).logHw (PAD_GSTAT g)
        (d.word (PAD_GSTAT g))).putBit PAD_IRQ_ISTAT g true
    let tested : Prop := d.flag (PAD_GCFG_SHEN g) = true ∧ p.vio33 = true ∧ pin.val < shortPins g ∧ k ∉ p.shorted
    let short (kind : Nat) (d : Dev) : Dev :=
      let d := (pads (fun p => { p with shorted := p.shorted ++ [k] }) (clean d)).put (PAD_GSTAT_KIND g) kind
      found (PAD_GSTAT_SHORT g) pin d
    let vS := withField v (PAD_GSTAT_SHORT g) 1
    let probing : Prop := p.probe = true ∧ p.vio33 = true ∧ d.ports.sp[(7 : Fin 8)].xfer = none
    let probed := pads fun p => { p with probe := false }
    (tested → exec (.shortTest g pin (.push b) b) s = s.becomes clean)
    ∧ (tested → k ∉ p.differ → exec (.shortTest g pin (.push b) (!b)) s = s.becomes fun d => pads (fun p => { p with differ := k :: p.differ }) (clean d))
    ∧ (tested → k ∈ p.differ → exec (.shortTest g pin (.push b) (!b)) s = s.becomes (short 0))
    ∧ (tested → exec (.shortTest g pin .odLow true) s = s.becomes (short 1))
    ∧ (tested → exec (.shortTest g pin .odLow false) s = s.becomes clean ∧ exec (.shortTest g pin .odFree true) s = s.becomes clean
      ∧ exec (.shortTest g pin .none reads) s = s.becomes clean)
    ∧ (d.flag (PAD_GCFG_SHEN g) = false ∨ p.vio33 = false → ∀ drive, exec (.shortTest g pin drive reads) s = s.leaves c)
    ∧ (d.flag (PAD_GCFG_OPEN g) = true → p.vio33 = true → openPin g pin = true → g ≠ 0 →
      exec (.openTest g pin true) s = s.becomes (found (PAD_GSTAT_OPEN g) pin) ∧ exec (.openTest g pin false) s = s.leaves c)
    ∧ (d.flag (PAD_GCFG_OPEN g) = false → exec (.openTest g pin b) s = s.leaves c)
    ∧ (probing → exec (.reversalProbe true b) s = s.becomes probed ∧ exec (.reversalProbe cur false) s = s.becomes probed)
    ∧ (probing → g = 0 → d.flag (PAD_GCFG_REVDET 0) = true → d.flag PAD_BAT_ROUTE = true → d.flag (PAD_GCFG_AUTOSWAP 0) = false →
      exec (.reversalProbe false true) s = s.becomes fun d => found (PAD_GSTAT_REV 0) (d.get (PAD_GSTAT_PIN 0)) (probed d))
    ∧ (p.probe = false → exec (.reversalProbe cur b) s = s.leaves c)
    ∧ (Hears c m (PAD_GSTAT g) vS → exec (.shortClear m g v) s = s.leaves ((c.takes m (PAD_GSTAT g) vS).onDev
      (pads fun p => { p with shorted := p.shorted.filter fun k => k / 32 != g.val })))
    ∧ (Hears c m PAD_HOLDREL 1 → exec (.holdrel m) s = s.leaves ((c.takes m PAD_HOLDREL 1).onDev fun d =>
      pads (fun p => { p with latched := [] }) ((d.put PAD_HOLDREL_HELD 0).put PAD_HOLDREL_CURF 0)))
    ∧ (∃ t, exec .vio33Drop s = s.becomes (fun _ => t) ∧ t.ports.pad.vio33 = false ∧ t.ports.pad.differ = [] ∧ t.ports.pad.low = []
      ∧ ∀ i : Fin 68, t.inLevel i = if 64 ≤ i.val then false else d.inLevel i)
    ∧ exec .vio33Return s = s.becomes (pads fun p => { p with vio33 := true }))

/-- R450, R451, R216, R218: while PDM is enabled and its clock runs, a frame of samples counts and is one item of its queue, or one more dropped
frame with its event; EN takes effect at its seam. -/
def Obligations.Microphones : Prop :=
  ∀ (s : State) (samples : List (BitVec 16)) (u : Chip) (code : Nat),
    let c := s.chip
    let d := c.dev
    let req := d.flag PDM_CTL_EN_REQ
    let eff := d.flag PDM_CTL_EN_EFF
    let n := ((List.range 4).filter (d.bit PDM_CTL_MICEN)).length * d.get PDM_QCFG_FRAME
    let words := packSamples ((List.range n).map fun i => pdmGain (d.get PDM_CTL_GAIN) (samples.getD i 0))
    let counts (d : Dev) : Dev := d.put PDM_STAT_SEQ (d.get PDM_STAT_SEQ + 1)
    (eff = true → d.clocksOn = true → c.pushItem 0x1C (d.get PDM_QCFG_QUEUE) (d.get PDM_STAT_SEQ) words = (u, 0) →
      exec (.pdmFrame samples) s = s.leaves (u.onDev counts))
    ∧ (eff = true → d.clocksOn = true → c.pushItem 0x1C (d.get PDM_QCFG_QUEUE) (d.get PDM_STAT_SEQ) words = (u, code) → code ≠ 0 →
        u.dev.bit PDM_IRQ_ISTAT 0 = false → u.dev.bit PDM_IRQ_IEN 0 = true →
      exec (.pdmFrame samples) s = s.leaves (u.onDev fun d =>
        (((counts d).put PDM_STAT_DROPS (min 0xFFFF (d.get PDM_STAT_DROPS + 1))).putBit PDM_IRQ_ISTAT 0 true).sendPulse 136))
    ∧ (eff = false → exec (.pdmFrame samples) s = s.leaves c)
    ∧ (req = true → eff = false → exec .pdmEnableSeam s = s.becomes fun d =>
      ((d.put PDM_CTL_EN_EFF 1).put PDM_STAT_DROPS 0).put PDM_STAT_SEQ 0)
    ∧ (req = false → eff = true → exec .pdmEnableSeam s = s.becomes (·.put PDM_CTL_EN_EFF 0))
    ∧ (req = eff → exec .pdmEnableSeam s = s.leaves c)
    ∧ packSamples [] = [] ∧ (∀ x : BitVec 16, packSamples [x] = [x.zeroExtend 32])
    ∧ (∀ (x y : BitVec 16) (r : List (BitVec 16)), packSamples (x :: y :: r) = (y ++ x) :: packSamples r)
    ∧ (∀ (k : Nat) (x : BitVec 16), (pdmGain k x).toInt = max (-32768) (min 32767 (x.toInt * 2 ^ k)))

/-! ### Serial ports, the rail sequencer, eSPI and the boot flash -/

/-- R432, R435, R436, R440: CMD starts a controller transfer on a free enabled port, else sets CMDERR; a transfer's end sets DONE with what ended it, and
what it did not send stays in the FIFO; DATA is pushed and popped in order, OVR marks a full FIFO; a port's levels follow its FIFOs; EN_EFF
falls once nothing is under way. A read of an empty FIFO answers a free value. R432, R437: an enabled port in target role answers at its address, takes and gives bytes and holds SCL where it has none, up to 25 ms, then
sends 0xFF with TIMEOUT; a UART stores a character, FRAME marking a bad one; an I3C controller takes an in-band interrupt. -/
def Obligations.SerialPorts : Prop :=
  (∀ (s : State) (m : Sender) (k : Fin 8) (v : Word) (b : Byte) (pec : Bool) (bs : List Byte) (how : SpEnd) (n n' t : Nat) (x : SpXfer) (y : Sp),
    let c := s.chip
    let d := c.dev
    let p := d.ports.sp[k]
    let event (n : Nat) (d : Dev) : Dev := d.putBit (SP_IRQ_ISTAT k) n true
    let port (y : Sp) (d : Dev) : Dev := d.setSp k y
    let ends (y : Sp) (d : Dev) : Dev := event 0 (port { y with xfer := none } d)
    let w := withField v (SP_CMD_GO k) 1
    let uC := c.takes m (SP_CMD k) w
    let uB := c.takes m (SP_DATA k) (0#24 ++ b)
    let len := bits v 11 0
    let rd := v.getLsbD 29
    let begun : Sp := { p with
      xfer := some ⟨rd, v.getLsbD 30, v.getLsbD 28, v.extractLsb' 16 7, len, if rd then [] else p.tx.take len, []⟩
      tx := if rd then p.tx else p.tx.drop len }
    let got := bs.take x.len
    let fits := got.take (64 - p.rx.length)
    let on : Prop := d.flag (SP_CTL_EN_REQ k) = true ∧ d.flag (SP_CTL_EN_EFF k) = true
    let busy : Prop := p.xfer ≠ none ∨ k = 0 ∧ d.flag SP_RSEQCTL_EN = true ∧ 2 < len
    (Hears c m (SP_CMD k) w →
      (busy → exec (.controllerTransfer m k v) s = s.leaves (uC.onDev (event 10)))
      ∧ (¬ busy → on → d.flag (SP_CTL_ROLE k) = false ∨ d.get (SP_CTL_MODE k) = 4 →
          exec (.controllerTransfer m k v) s = s.leaves (uC.onDev (port begun)))
      ∧ (¬ busy → ¬ on → exec (.controllerTransfer m k v) s = s.leaves uC))
    ∧ (p.xfer = some x → d.clocksOn = true → x.more = [] →
      (x.rd = false →
        (x.len ≤ x.sent.length → exec (.transferDone k .stop bs false) s = s.becomes fun d =>
            ends { p with bus := !x.stop } (d.emit (.serial k x.addr x.sent)))
        ∧ (x.sent.length < x.len → exec (.transferDone k .stop bs false) s = s.becomes fun d =>
            event 7 (ends { p with bus := false } (d.emit (.serial k x.addr x.sent))))
        ∧ exec (.transferDone k (.nack n) bs false) s = (s.becomes fun d => event 1
            (ends { p with bus := false, tx := (x.sent.drop n ++ p.tx).take 64 } (d.emit (.serial k x.addr (x.sent.take n)))))
        ∧ exec (.transferDone k (.arbLost n) bs false) s = (s.becomes fun d => event 2
            (ends { p with bus := false, tx := (x.sent.drop n ++ p.tx).take 64 } (d.emit (.serial k x.addr (x.sent.take n))))))
      ∧ (x.rd = true →
        (got.length ≤ 64 - p.rx.length → exec (.transferDone k .stop bs false) s = s.becomes
            (ends { p with rx := p.rx ++ got, bus := !x.stop }))
        ∧ (64 - p.rx.length < got.length → d.get (SP_CTL_MODE k) = 2 → exec (.transferDone k .stop bs false) s = s.becomes fun d =>
            event 6 (ends { p with rx := p.rx ++ fits, bus := false } d))
        ∧ (64 - p.rx.length < got.length → d.get (SP_CTL_MODE k) ≠ 2 → exec (.transferDone k .stop bs false) s = s.becomes
            (port { p with rx := p.rx ++ fits, xfer := some { x with more := got.drop (64 - p.rx.length) } }))
        ∧ exec (.transferDone k (.nack n) bs false) s = s.becomes (fun d => event 1 (ends { p with bus := false } d))
        ∧ exec (.transferDone k (.arbLost n) bs false) s = s.becomes (fun d => event 2 (ends { p with bus := false } d)))
      ∧ (d.get (SP_CTL_MODE k) = 1 → d.flag (SP_CFG_PEC k) = true →
          exec (.transferDone k how bs true) s = exec (.transferDone k how bs false) { s with chip := c.onDev (event 8) }))
    ∧ (p.xfer = none → exec (.transferDone k how bs pec) s = s.leaves c)
    ∧ (Hears c m (SP_DATA k) (0#24 ++ b) →
      (p.xfer = none → p.stretch = none → p.tx.length < 64 → exec (.spDataWrite m k b) s = s.leaves (uB.onDev (port { p with tx := p.tx ++ [b] })))
      ∧ (p.xfer = none → p.stretch = none → 64 ≤ p.tx.length → exec (.spDataWrite m k b) s = s.leaves (uB.onDev (event 6)))
      ∧ (p.xfer = none → p.stretch = some (n', t) → exec (.spDataWrite m k b) s = s.leaves (uB.onDev fun d =>
          port { p with stretch := if n' ≤ 1 then none else some (n' - 1, d.tb) } (d.emit (.serial k 0 [b]))))
      ∧ (p.xfer = some x → x.rd = false → x.sent.length < x.len →
          exec (.spDataWrite m k b) s = s.leaves (uB.onDev (port { p with xfer := some { x with sent := x.sent ++ [b] } }))))
    ∧ (Shows c m (SP_DATA k) → p.xfer = none →
      (p.rx = b :: bs → m ≠ .debugger → exec (.spDataRead m k) s = s.becomes fun d => (port { p with rx := bs } d).answers (0x100#32 ||| b.zeroExtend 32))
      ∧ (p.rx = [] → exec (.spDataRead m k) s = s.becomes fun d => d.tick1.answers ((Config.fifoEmpty d.fresh).zeroExtend 32)))
    ∧ (d.flag (SP_CTL_EN_REQ k) = false → d.flag (SP_CTL_EN_EFF k) = true →
      (p.xfer = none → p.bus = false → p.stretch = none → exec (.spEnableSeam k) s = s.becomes (·.put (SP_CTL_EN_EFF k) 0))
      ∧ (p.xfer ≠ none ∨ p.bus = true ∨ p.stretch ≠ none → exec (.spEnableSeam k) s = s.leaves c))
    ∧ (y.tx.length ≤ 64 → y.rx.length ≤ 64 → ((port y d).ports.sp[k] = y ∧ (port y d).get (SP_STAT_TXLVL k) = y.tx.length
      ∧ (port y d).get (SP_STAT_RXLVL k) = y.rx.length ∧ (port y d).flag (SP_STAT_BUSY k) = y.xfer.isSome
      ∧ (port y d).flag (SP_STAT_TACT k) = y.stretch.isSome
      ∧ (port y d).bit (SP_IRQ_ISTAT k) 4 = (d.bit (SP_IRQ_ISTAT k) 4 || (decide (16 < p.tx.length) && decide (y.tx.length ≤ 16)))
      ∧ (port y d).bit (SP_IRQ_ISTAT k) 5 = (d.bit (SP_IRQ_ISTAT k) 5 || (decide (p.rx.length < 48) && decide (48 ≤ y.rx.length))))))
  ∧ (∀ (s : State) (k : Fin 8) (b : Byte) (bad : Bool) (call : SpCall) (n t : Nat),
    let c := s.chip
    let d := c.dev
    let p := d.ports.sp[k]
    let mode := d.get (SP_CTL_MODE k)
    let event (n : Nat) (d : Dev) : Dev := d.putBit (SP_IRQ_ISTAT k) n true
    let port (y : Sp) (d : Dev) : Dev := d.setSp k y
    let on : Prop := d.flag (SP_CTL_EN_REQ k) = true ∧ d.flag (SP_CTL_EN_EFF k) = true ∧ d.clocksOn = true
    let target := d.flag (SP_CTL_ROLE k)
    let mine : Prop := mode = 3 ∨ d.get (SP_TADDR_SADDR k) = call.addr.toNat
      ∨ mode = 2 ∧ (call.dyn ≠ none ∨ d.get (SP_TADDR_DYN k) ≠ 0 ∧ d.get (SP_TADDR_DYN k) = call.addr.toNat)
    let answers : Prop := target = true ∧ mode ≠ 4 ∧ p.xfer = none ∧ p.bus = false ∧ p.stretch = none ∧ mine
    let heard (d : Dev) : Dev :=
      match call.dyn with
      | some a => if mode = 2 then (event 3 d).put (SP_TADDR_DYN k) a.toNat else event 3 d
      | none => event 3 d
    let out := p.tx.take call.len
    let short := call.len - out.length
    (on → answers →
      (call.rd = false → call.data.length ≤ 64 - p.rx.length →
        exec (.targetAddressed k call) s = s.becomes fun d => port { p with rx := p.rx ++ call.data } (heard d))
      ∧ (call.rd = false → 64 - p.rx.length < call.data.length →
        exec (.targetAddressed k call) s = s.becomes fun d => event 6 (port { p with rx := p.rx ++ call.data.take (64 - p.rx.length) } (heard d)))
      ∧ (call.rd = true → exec (.targetAddressed k call) s = s.becomes fun d =>
        port { p with tx := p.tx.drop call.len, stretch := if short = 0 ∨ 2 ≤ mode then none else some (short, d.tb) }
          ((heard d).emit (.serial k call.addr out))))
    ∧ (¬ (on ∧ answers) → exec (.targetAddressed k call) s = s.leaves c)
    ∧ (p.stretch = some (n, t) →
      (t + 819200 ≤ d.tb → exec (.targetTimeout k) s = s.becomes fun d =>
        event 12 (port { p with stretch := if n ≤ 1 then none else some (n - 1, d.tb) } (d.emit (.serial k 0 [0xFF]))))
      ∧ (d.tb < t + 819200 → exec (.targetTimeout k) s = s.leaves c))
    ∧ (p.stretch = none → exec (.targetTimeout k) s = s.leaves c)
    ∧ (on → mode = 4 → p.rx.length < 64 → exec (.uartReceive k b bad) s = s.becomes fun d =>
        port { p with rx := p.rx ++ [b] } (if bad then event 9 d else d))
    ∧ (on → mode = 4 → 64 ≤ p.rx.length → exec (.uartReceive k b bad) s = s.becomes fun d => event 6 (if bad then event 9 d else d))
    ∧ (¬ on ∨ mode ≠ 4 → exec (.uartReceive k b bad) s = s.leaves c)
    ∧ (on → mode = 2 → target = false → exec (.inBandInterrupt k) s = s.becomes (event 11))
    ∧ (¬ on ∨ mode ≠ 2 ∨ target = true → exec (.inBandInterrupt k) s = s.leaves c))

/-- R24, R31, R33, R439 to R442: a firmware rail request does nothing while the registrar is enabled; else it is shown, fails at once while the
sequencer is off, and waits in its queue, in place of a waiting one of its wing and register; a request that takes the rail down stops the
wing's canaries. The oldest is written at a transfer boundary: its code is shown, a failing write sets FAIL, a taken one moves the rail. -/
def Obligations.RailRequests : Prop :=
  ∀ (s : State) (m : Sender) (w : Fin 2) (i : Fin 16) (v : Word) (acked : Bool) (status : BitVec 8) (r : RailReq) (rest : List RailReq),
    let c := s.chip
    let d := c.dev
    let word (kind : Nat) : Word := BitVec.ofNat 32 (0x80000000 + 0x20000000 * kind + 0x100 * w.val + i.val)
    let shown (kind : Nat) (d : Dev) : Dev := (d.put SP_RSEQST_WING w).put SP_RSEQST_KIND kind
    let shownAt (d : Dev) : Dev := ((shown 0 d).put SP_RSEQST_POINT i).put (if w = 0 then ADM_STAT_RAIL_W0 else ADM_STAT_RAIL_W1) i
    let fails (d : Dev) : Dev := d.put SP_RSEQST_FAIL 1
    let ask (a : RailAsk) : RailReq := ⟨w, a, .firmware⟩
    let queued (a : RailAsk) (d : Dev) : Dev :=
      let same (x : RailReq) : Bool := x.wing == w && x.ask.isVolt == a.isVolt
      ({ d with rseq := if d.rseq.any same then d.rseq.map fun x => if same x then ask a else x else d.rseq ++ [ask a] } : Dev).put SP_RSEQST_BUSY 1
    let quiet (d : Dev) : Dev := (((d.put (CAB_PACE_VALID (4 * w.val)) 0).put (CAB_PACE_VALID (4 * w.val + 1)) 0).put
      (CAB_PACE_VALID (4 * w.val + 2)) 0).put (CAB_PACE_VALID (4 * w.val + 3)) 0
    let u (w : Word) := c.takes m SP_RSEQREQ w
    let point := exec (.rseqPoint m w i) s
    let up := exec (.rseqOn m w) s
    let down := exec (.rseqOff m w) s
    let first : Prop := d.rseq = r :: rest ∧ d.flag (SP_CTL_EN_EFF 0) = true ∧ d.ports.sp[(0 : Fin 8)].xfer = none ∧ d.clocksOn = true
    let refused : Prop := acked = false ∨ d.flag SP_RSEQCTL_CHK = true ∧ status.toNat &&& d.get SP_RSEQCTL_FMASK ≠ 0
    let base := d.get SP_RSEQMAP_BASE
    let q := d.get SP_RSEQMAP_STEPQ
    let code (mv : Nat) : Nat := if mv ≤ base then 0 else min 255 (((mv - base) * 4 + q - 1) / q)
    let byte : Nat := match r.ask with
      | .on => d.get (SP_RSEQW_ENON r.wing)
      | .off => d.get (SP_RSEQW_ENOFF r.wing)
      | .retain => code 400
      | .point i => code (d.get (ADM_PTAB_MV r.wing i))
    let rail := d.rails[r.wing]
    (Hears c m SP_RSEQREQ (word 0) →
      (d.flag ADM_CTL_EN_EFF = true → point = s.leaves (u (word 0)))
      ∧ (d.flag ADM_CTL_EN_EFF = false → d.flag SP_RSEQCTL_EN = false → point = s.leaves ((u (word 0)).onDev fun d => fails (shownAt d)))
      ∧ (d.flag ADM_CTL_EN_EFF = false → d.flag SP_RSEQCTL_EN = true → point = s.leaves ((u (word 0)).onDev fun d => queued (.point i) (shownAt d))))
    ∧ (i = 0 → Hears c m SP_RSEQREQ (word 1) →
      (d.flag ADM_CTL_EN_EFF = true → up = s.leaves (u (word 1)))
      ∧ (d.flag ADM_CTL_EN_EFF = false → d.flag SP_RSEQCTL_EN = false → up = s.leaves ((u (word 1)).onDev fun d => fails (shown 1 d)))
      ∧ (d.flag ADM_CTL_EN_EFF = false → d.flag SP_RSEQCTL_EN = true → up = s.leaves ((u (word 1)).onDev fun d => queued .on (shown 1 d))))
    ∧ (i = 0 → Hears c m SP_RSEQREQ (word 2) →
      (d.flag ADM_CTL_EN_EFF = true → down = s.leaves (u (word 2)))
      ∧ (d.flag ADM_CTL_EN_EFF = false → d.flag SP_RSEQCTL_EN = false → down = s.leaves ((u (word 2)).onDev fun d => fails (shown 2 d)))
      ∧ (d.flag ADM_CTL_EN_EFF = false → d.flag SP_RSEQCTL_EN = true →
          down = s.leaves ((u (word 2)).onDev fun d => queued .off (quiet (shown 2 d)))))
    ∧ (first → refused → r.src = .firmware → exec (.sequencerWrite acked status) s = s.becomes fun d =>
        fails ((({ d with rseq := rest } : Dev).put SP_RSEQST_CODE byte).put SP_RSEQST_BUSY (if rest = [] then 0 else 1)))
    ∧ (first → ¬ refused → ∃ t : Dev, exec (.sequencerWrite acked status) s = s.becomes (fun _ => t) ∧ t.rseq = rest
      ∧ t.get SP_RSEQST_CODE = byte % 256
      ∧ (t.rails[r.wing]).bad = false
      ∧ (t.rails[r.wing]).on = (match r.ask with | .on => true | .off => false | _ => rail.on)
      ∧ (t.rails[r.wing]).mv = (match r.ask with | .point i => d.get (ADM_PTAB_MV r.wing i) | .retain => 400 | _ => rail.mv))
    ∧ (d.rseq = [] ∨ d.flag (SP_CTL_EN_EFF 0) = false ∨ d.clocksOn = false → exec (.sequencerWrite acked status) s = s.leaves c)

/-- R443 to R447, R419: the eSPI target takes part only in ready channels: an I/O cycle reaches port 0x80 or the mailbox of its window, and one no
window serves reads 0xFF; a memory cycle fails; the host's configuration stays within what is advertised; virtual wires are stored, and
THERM evaluated; an OOB packet enters the buffer or is deferred, and one offered is taken; ESPI_RST_N clears the channels. -/
def Obligations.EspiTarget : Prop :=
  ∀ (s : State) (m : Sender) (port : BitVec 16) (data : List Byte) (n : Fin 5) (i : Fin 4) (freq : Fin 8) (mode : Fin 4) (chans : BitVec 3)
    (sys : BitVec 8) (host : BitVec 4) (v : Word) (k : Nat),
    let c := s.chip
    let d := c.dev
    let e := d.ports.espi
    let ready (ch : Nat) : Prop := d.flag ESPI_CTL_EN = true ∧ e.rstn = true ∧ d.bit ESPI_STAT_RDY ch = true
    let irq (b : Nat) (d : Dev) : Dev :=
      if d.bit ESPI_IRQ_ISTAT b then d
      else if d.bit ESPI_IRQ_IEN b then (d.putBit ESPI_IRQ_ISTAT b true).sendPulse 137
      else d.putBit ESPI_IRQ_ISTAT b true
    let espi (f : Espi → Espi) (d : Dev) : Dev := { d with ports := { d.ports with espi := f d.ports.espi } }
    let base := d.get (ESPI_IOWIN_BASE i)
    let o := port.toNat - base
    let serves (j : Nat) (len : Nat) : Prop := d.flag (ESPI_IOWIN_EN j) = true ∧ d.get (ESPI_IOWIN_BASE j) ≤ port.toNat
      ∧ port.toNat + len ≤ d.get (ESPI_IOWIN_BASE j) + d.get (ESPI_IOWIN_SIZE j)
    let served (len : Nat) : Prop := serves i len ∧ ∀ j < i.val, ¬ serves j len
    let unserved (len : Nat) : Prop := ∀ j < 4, ¬ serves j len
    let byte (d : Dev) (o : Nat) : Byte := (d.word (ESPI_MBX i (o / 4))).extractLsb' (8 * (o % 4)) 8
    let post : Prop := e.ctl.getLsbD 29 = true ∧ port = 0x80
    let therm : Nat := if host.getLsbD 0 then 1 else 0
    let wires (d : Dev) : Dev :=
      let t := (d.put ESPI_VWIN_SYS sys.toNat).put ESPI_VWIN_HOST host.toNat
      if d.get ESPI_VWIN_SYS ≠ sys.toNat ∨ d.get ESPI_VWIN_HOST ≠ host.toNat then irq 5 t else t
    let uW := c.takes m ESPI_VWOUT v
    let uO := c.takes m ESPI_OOBCTL (withField v ESPI_OOBCTL_GO 1)
    d.watching = false →
    (¬ ready 0 → exec (.ioWrite port data) s = s.leaves c ∧ exec (.ioRead port n) s = s.leaves c ∧ exec .memoryCycle s = s.leaves c)
    ∧ (ready 0 →
      (post → exec (.ioWrite port data) s = s.becomes fun d => irq 4 ((d.put ESPI_P80_VALUE (data.headD 0).toNat).put ESPI_P80_VALID 1))
      ∧ (¬ post → served data.length → o + data.length ≤ 16 → ∃ t : Dev, exec (.ioWrite port data) s = s.becomes (fun _ => t)
        ∧ t.bit ESPI_IRQ_ISTAT i = true ∧ (∀ j < data.length, byte t (o + j) = data.getD j 0)
        ∧ ∀ j < 16, j < o ∨ o + data.length ≤ j → byte t j = byte d j)
      ∧ (¬ post → unserved data.length → exec (.ioWrite port data) s = s.leaves c)
      ∧ (served n → exec (.ioRead port n) s = s.becomes (·.emit (.reply ((List.range n).map fun j => byte d (o + j)))))
      ∧ (unserved n → exec (.ioRead port n) s = s.becomes (·.emit (.reply (List.replicate n 0xFF))))
      ∧ exec .memoryCycle s = s.becomes (·.emit .unsuccessful))
    ∧ (d.flag ESPI_CTL_EN = true → e.rstn = true → exec (.setConfiguration freq mode chans) s = s.becomes fun d =>
        espi (fun e => { e with ioMode := min mode.val (bits e.ctl 3 2), chans := chans })
          ((d.put ESPI_STAT_FREQ (min freq.val 4)).put ESPI_STAT_RDY chans.toNat))
    ∧ (d.flag ESPI_CTL_EN = false ∨ e.rstn = false → exec (.setConfiguration freq mode chans) s = s.leaves c)
    ∧ (ready 1 → d.bit ESPI_VWIN_HOST 0 = host.getLsbD 0 → exec (.virtualWire sys host) s = s.becomes wires)
    ∧ (ready 1 → d.bit ESPI_VWIN_HOST 0 ≠ host.getLsbD 0 → exec (.virtualWire sys host) s = s.leaves (c.onDev fun d =>
        ((wires d).put ADM_THERM_HOST therm).log ADM_THERM (d.word ADM_THERM) (setBits (d.word ADM_THERM) 0 0 therm)
          (setBits (d.word ADM_THERM) ADM_THERM_HOST.hi ADM_THERM_HOST.lo therm) 0x81 0).thermEval)
    ∧ (¬ ready 1 → exec (.virtualWire sys host) s = s.leaves c)
    ∧ (Hears c m ESPI_VWOUT v → ready 1 → exec (.vwout m v) s = s.leaves (uW.onDev fun d => d.emit (.wires (d.word ESPI_VWOUT))))
    ∧ (Hears c m ESPI_VWOUT v → ¬ ready 1 → exec (.vwout m v) s = s.leaves uW)
    ∧ (ready 2 → d.flag ESPI_OOBCTL_RXV = false → ∃ t : Dev, exec (.oobPacket data) s = s.becomes (fun _ => t)
      ∧ t.flag ESPI_OOBCTL_RXV = true ∧ t.get ESPI_OOBCTL_RXLEN = min 64 data.length ∧ t.bit ESPI_IRQ_ISTAT 6 = true
      ∧ ∀ j < min 64 data.length, (t.word (ESPI_OOBRX (j / 4))).extractLsb' (8 * (j % 4)) 8 = data.getD j 0)
    ∧ (ready 2 → d.flag ESPI_OOBCTL_RXV = true → e.defer = none → exec (.oobPacket data) s = s.becomes (espi fun e => { e with defer := some data }))
    ∧ (¬ ready 2 → exec (.oobPacket data) s = s.leaves c)
    ∧ (Hears c m ESPI_OOBCTL (withField v ESPI_OOBCTL_GO 1) → e.defer = none →
      exec (.oobSend m v) s = s.leaves (uO.onDev (espi fun e => { e with offer := some (min 64 (max 1 (bits v 6 0))) })))
    ∧ (ready 2 → e.offer = some k → exec .txdone s = s.becomes fun d => irq 7 (espi (fun e => { e with offer := none })
        (d.emit (.oob (((List.range 16).map fun j => leBytes 4 (d.word (ESPI_OOBTX j)).toNat).flatten.take k)))))
    ∧ (¬ ready 2 ∨ e.offer = none → exec .txdone s = s.leaves c)
    ∧ (∃ t : Dev, exec .espiRstN s = s.becomes (fun _ => t) ∧ t.ports.espi = { e with rstn := false, ioMode := 0, chans := 0, defer := none, offer := none }
      ∧ t.get ESPI_STAT_RSTN = 0 ∧ t.get ESPI_STAT_FREQ = 0 ∧ t.get ESPI_STAT_RDY = 0 ∧ t.get ESPI_VWOUT_SYS = 0 ∧ t.get ESPI_VWOUT_FW = 0
      ∧ t.flag ESPI_OOBCTL_RXV = false ∧ t.get ESPI_OOBCTL_RXLEN = 0 ∧ t.bit ESPI_IRQ_ISTAT 8 = true
      ∧ t.word ESPI_VWIN = d.word ESPI_VWIN ∧ ∀ o, byte t o = byte d o)
    ∧ (e.rstn = false → exec .espiRstNRise s = s.becomes fun d =>
        espi (fun e => { e with rstn := true, ctl := d.word ESPI_CTL }) (d.put ESPI_STAT_RSTN 1))
    ∧ (e.rstn = true → exec .espiRstNRise s = s.leaves c)

/-- R448, R449: a command of the boot flash with BUSY 0 and EN 1 is performed: a read fills the FIFO with what the flash holds, a write sends the FIFO
and polls, unless it touches the protected granules, which sets WPERR; an erase likewise; a poll that finds bit 0 at 0 ends the command, 8 s end it
with PTMO; DATA moves four bytes. The flash's bytes, the size an erase command has, and the direction of another command are free values. -/
def Obligations.BootFlash : Prop :=
  ∀ (s : State) (m : Sender) (v : Word) (status : Byte) (t : Nat),
    let c := s.chip
    let d := c.dev
    let q := d.ports.fspi.fifo
    let w (kind : Nat) : Word := withField (withField v FSPI_CMD_KIND kind) FSPI_CMD_GO 1
    let u (kind : Nat) : Chip := c.takes m FSPI_CMD (w kind)
    let hears (kind : Nat) : Prop := Hears c m FSPI_CMD (w kind)
    let flash (x : Fspi) (d : Dev) : Dev := ({ d with ports := { d.ports with fspi := x } } : Dev).put FSPI_STAT_LVL x.fifo.length
    let op := bits v 20 13
    let n := min 256 (bits v 8 0)
    let a := if v.getLsbD 26 then (if d.flag FSPI_CTL_ADDR4 then d.get FSPI_ADDR_ADDR else d.get FSPI_ADDR_ADDR % 0x1000000) else 0
    let reads (d : Dev) : Dev := (flash ⟨q ++ ((List.range n).map fun i => Config.flashByte d.fresh (a + i)).take (256 - q.length), d.ports.fspi.since⟩
      (d.emit (.flash op a [])).tick1).put FSPI_STAT_DONE 1
    let writes (d : Dev) : Dev := flash ⟨q.drop n, d.ports.fspi.since⟩ (d.emit (.flash op a (q.take n)))
    let polls (d : Dev) : Dev := (flash ⟨d.ports.fspi.fifo, some d.tb⟩ d).put FSPI_STAT_BUSY 1
    let guarded (size : Nat) : Prop := d.flag FSPI_WP_EN = true ∧ size ≠ 0 ∧ a / 4096 ≤ d.get FSPI_WP_LAST
      ∧ d.get FSPI_WP_FIRST ≤ (a + size - 1) / 4096
    let size := Config.eraseSize (BitVec.ofNat 8 op)
    let done (f : Fld) (d : Dev) : Dev := ((flash ⟨q, none⟩ d).put f 1).put FSPI_STAT_BUSY 0
    (d.flag FSPI_STAT_BUSY = false → d.flag FSPI_CTL_EN = true → d.clocksOn = true →
      (hears 0 → exec (.fspiRead m v) s = s.leaves ((u 0).onDev reads))
      ∧ (hears 1 → guarded n → exec (.fspiWrite m v) s = s.leaves ((u 1).onDev (·.put FSPI_STAT_WPERR 1)))
      ∧ (hears 1 → ¬ guarded n → exec (.fspiWrite m v) s = s.leaves ((u 1).onDev fun d => polls (writes d)))
      ∧ (hears 2 → guarded size → exec (.fspiErase m v) s = s.leaves ((u 2).onDev (·.put FSPI_STAT_WPERR 1)))
      ∧ (hears 2 → ¬ guarded size → exec (.fspiErase m v) s = s.leaves ((u 2).onDev fun d => polls (d.emit (.flash op a []))))
      ∧ (hears 3 → Config.flashSends (BitVec.ofNat 8 op) = true → exec (.fspiOther m v) s = s.leaves ((u 3).onDev fun d => (writes d).put FSPI_STAT_DONE 1))
      ∧ (hears 3 → Config.flashSends (BitVec.ofNat 8 op) = false → exec (.fspiOther m v) s = s.leaves ((u 3).onDev reads)))
    ∧ (d.flag FSPI_STAT_BUSY = true ∨ d.flag FSPI_CTL_EN = false →
      (hears 0 → exec (.fspiRead m v) s = s.leaves (u 0)) ∧ (hears 1 → exec (.fspiWrite m v) s = s.leaves (u 1))
      ∧ (hears 2 → exec (.fspiErase m v) s = s.leaves (u 2)) ∧ (hears 3 → exec (.fspiOther m v) s = s.leaves (u 3)))
    ∧ (d.ports.fspi.since = some t → d.clocksOn = true → status.getLsbD 0 = false → exec (.flashPoll status) s = s.becomes (done FSPI_STAT_DONE))
    ∧ (d.ports.fspi.since = none ∨ status.getLsbD 0 = true → exec (.flashPoll status) s = s.leaves c)
    ∧ (d.ports.fspi.since = some t → t + 262144000 ≤ d.tb → exec .pollTimeout s = s.becomes (done FSPI_STAT_PTMO))
    ∧ (d.ports.fspi.since = some t → d.tb < t + 262144000 → exec .pollTimeout s = s.leaves c)
    ∧ (Hears c m FSPI_DATA v → exec (.fspiDataWrite m v) s = s.leaves ((c.takes m FSPI_DATA v).onDev
        (flash { d.ports.fspi with fifo := q ++ (leBytes 4 v.toNat).take (256 - q.length) })))
    ∧ (Shows c m FSPI_DATA → m ≠ .debugger → 4 ≤ q.length → exec (.fspiDataRead m) s = s.becomes fun d =>
        (flash { d.ports.fspi with fifo := q.drop 4 } d).answers (BitVec.ofNat 32 (leNat (q.take 4))))

/-! ### Power states -/

/-- R408 to R410, R412 to R415, R205, R303, R496: PWR.ENTER asks for a state and the query begins; a unit's ACK is recorded, the last one starts the
entry steps; a DELAY is recorded; a refusal, or a DELAY past HSTMO, ends the entry, is counted and named; an entry request that comes while one
runs does nothing. R410, R238, R270, R303, R333: what units answer: the secure unit refuses during a transition, the depot and the rings while a pool would be lost
or a ring is enabled, the registrar with promises open, the port while an access waits for the host, a cabinet until its engines wait, the curator
until it waits with interrupts on. -/
def Obligations.EntrySequence : Prop :=
  (∀ (s : State) (m : Sender) (i : Fin 3) (u : BitVec 8) (r : Nat) (us : List Nat),
    let c := s.chip
    let d := c.dev
    let p := d.pwr
    let go : Outcome := exec (if i = 0 then .enterOff m else if i = 1 then .enterDeepSleep m else .enterSleep m) s
    let word : Word := BitVec.ofNat 32 (0x2D570001 + i.val)
    let st := d.get PWR_STAT_TARGET
    let asks := d.get PWR_STAT_PHASE = 1 ∧ (2 ≤ u.toNat ∧ u.toNat < 0x1E ∨ 0x20 ≤ u.toNat ∧ u.toNat < 0x28) ∧ u.toNat ∉ p.acks
    let others := p.delays.filter (· != u.toNat)
    let power (f : Pwr → Pwr) (d : Dev) : Dev := { d with pwr := f d.pwr }
    let ended (t : Dev) : Prop := t.flag PWR_STAT_BUSY = false ∧ t.get PWR_STAT_PHASE = 0 ∧ t.get PWR_STAT_TARGET = 0 ∧ t.get PWR_STAT_DLYCNT = 0
      ∧ t.flag PWR_ISTAT_REFUSED = true ∧ t.pwr.acks = [] ∧ t.pwr.delays = [] ∧ t.pwr.wake = 0 ∧ t.pwr.hold = p.hold
      ∧ t.get PWR_LAST_STATE = st ∧ t.word PWR_LASTTL = d.now.extractLsb' 0 32 ∧ t.word PWR_LASTTH = d.now.extractLsb' 32 32
    let rest (x : Nat) : Prop := ∀ v ∈ x :: us, v < 0x28
    (Hears c m PWR_ENTER word →
      (d.flag PWR_STAT_BUSY = true ∨ 2 ≤ d.get PWR_STAT_STATE → go = s.leaves (c.takes m PWR_ENTER word))
      ∧ (d.flag PWR_STAT_BUSY = false → d.get PWR_STAT_STATE < 2 → go = s.leaves ((c.takes m PWR_ENTER word).onDev fun d =>
          power (fun p => { p with ret := d.word GAL_RET, acks := [], delays := [], asked := d.tb, wake := 0, railsUp := false })
            (((((d.put PWR_STAT_STATE 0).put PWR_STAT_BUSY 1).put PWR_STAT_PHASE 1).put PWR_STAT_TARGET (4 - i.val)).put PWR_STAT_DLYCNT 0))))
    ∧ (¬ asks → exec (.handshakeAnswer u) s = s.leaves c)
    ∧ (asks → c.answer u.toNat st = .delay → u ≠ 0x0C → exec (.handshakeAnswer u) s = s.becomes fun d =>
        (power (fun p => { p with delays := others ++ [u.toNat] }) d).put PWR_STAT_DLYCNT (others.length + 1))
    ∧ (asks → c.answer u.toNat st = .refuse r → 1 ≤ st → st ≤ 4 → r < 16 → ∃ t : Dev, exec (.handshakeAnswer u) s = s.becomes (fun _ => t) ∧ ended t
        ∧ t.get PWR_LAST_UID = u.toNat ∧ t.get PWR_LAST_REASON = r
        ∧ t.get (PWR_REFCNT_COUNT (st - 1) u.toNat) = min 0xFFFFFFFF (d.get (PWR_REFCNT_COUNT (st - 1) u.toNat) + 1))
    ∧ (asks → c.answer u.toNat st = .ack → u ≠ 0x0B → (∃ v ∈ pwrUnits, v ∉ p.acks ∧ v ≠ u.toNat) →
        exec (.handshakeAnswer u) s = s.becomes fun d =>
          (power (fun p => { p with delays := others, acks := p.acks ++ [u.toNat] }) d).put PWR_STAT_DLYCNT others.length)
    ∧ (asks → c.answer u.toNat st = .delay → u = 0x0C →
        ∃ t : Dev, exec (.handshakeAnswer u) s = s.becomes (fun _ => t) ∧ t.hpt.fc = [] ∧ t.pwr.delays = others ++ [u.toNat]
          ∧ ∀ l ∈ d.hpt.fc, l.st = .modified → .hostWrite (l.host * 64) l.data ∈ t.out)
    ∧ (asks → c.answer u.toNat st = .ack → 2 ≤ st → st ≤ 4 → (∀ v ∈ pwrUnits, v ∈ p.acks ∨ v = u.toNat) →
        ∃ t : Chip, exec (.handshakeAnswer u) s = s.leaves t ∧ t.dev.get PWR_STAT_PHASE = 2 ∧ t.dev.get PWR_STAT_DLYCNT = 0 ∧ t.dev.pwr.hold = true
          ∧ t.dev.flag PWR_STAT_EMU = d.flag DBG_CTL_EMUSLEEP
          ∧ (3 ≤ st → ∀ n : Fin 64, (t.cores[eng n]).run = false ∧ t.dev.get (CAB_RST_HOLD (n.val / 8)) = 0xFF)
          ∧ (st = 2 → d.flag DBG_CTL_EMUSLEEP = false → d.flag SP_RSEQCTL_EN = true → d.rseq = [] → t.dev.rseq = [⟨0, .retain, .power⟩, ⟨1, .retain, .power⟩])
          ∧ (3 ≤ st → d.flag DBG_CTL_EMUSLEEP = false → d.flag SP_RSEQCTL_EN = true → d.rseq = [] → t.dev.rseq = [⟨0, .off, .power⟩, ⟨1, .off, .power⟩]))
    ∧ (d.get PWR_STAT_PHASE = 1 → p.delays = u.toNat :: us → rest u.toNat → u.toNat ≤ us.foldl min u.toNat → 1 ≤ st → st ≤ 4 → p.asked + usTicks (d.get PWR_HSTMO_US) ≤ d.tb →
        ∃ t : Dev, exec .hstmoExpiry s = s.becomes (fun _ => t) ∧ ended t ∧ t.get PWR_LAST_UID = u.toNat ∧ t.get PWR_LAST_REASON = 15)
    ∧ (d.get PWR_STAT_PHASE ≠ 1 ∨ p.delays = [] ∨ d.tb < p.asked + usTicks (d.get PWR_HSTMO_US) → exec .hstmoExpiry s = s.leaves c))
  ∧ (∀ (c : Chip) (st : Nat) (k : Fin 8),
    let d := c.dev
    let late (us : Nat) : Prop := d.pwr.asked + usTicks us ≤ d.tb
    let off : Bool := 1 ≤ k.val && d.bit PWR_PDOWN_EFF (k.val - 1)
    let p := d.ports.sp[k]
    let engine (j : Fin 8) : Core := c.cores[eng ⟨8 * k.val + j.val, by omega⟩]
    let idle (x : Core) : Prop := (∃ rd t, x.wait = .waitt rd t) ∨ x.wait = .wfe ∨ x.halted = true ∨ x.run = false ∨ x.df = true
    let u := c.cores[curator]
    let ready : Prop := ((∃ rd t, u.wait = .waitt rd t) ∨ u.wait = .wfe) ∧ u.ie = true
    c.answer 0x05 st = (if d.sec.target.isSome then .refuse 1 else .ack)
    ∧ (st = 4 → c.answer 0x0A st = if d.flag DPT_CTL_EN_EFF then .refuse 2 else .ack)
    ∧ (st = 2 → c.answer 0x0A st = .ack)
    ∧ (d.adm.proms ≠ [] → c.answer 0x0B st = .refuse 1)
    ∧ (d.adm.proms = [] → d.adm.stage = [] → (∀ r ∈ d.rseq, r.src ≠ .registrar) → c.answer 0x0B st = .ack)
    ∧ (2 ≤ st → d.hpt.held.any (·.wake) = true → c.answer 0x0C st = .refuse 1)
    ∧ (2 ≤ st → d.hpt.held.any (·.wake) = false → d.hpt.fc ≠ [] ∨ d.hpt.flight ≠ [] → c.answer 0x0C st = .delay)
    ∧ (st < 2 ∨ d.hpt.held.any (·.wake) = false ∧ d.hpt.fc = [] ∧ d.hpt.flight = [] → c.answer 0x0C st = .ack)
    ∧ (3 ≤ st → d.get GAL_SVC_PHASE ≠ 1 → c.answer 0x08 st = .refuse 1)
    ∧ (d.rng.infl = [] → c.answer 0x0E st = .ack ∧ c.answer 0x0F st = .ack
      ∧ (st ≠ 4 → c.answer 0x0D st = .ack)
      ∧ (∀ n < 64, st = 4 → d.flag (RNG_SQCTL_EN_EFF n) = true → c.answer 0x0D st = .refuse 2))
    ∧ ((∃ j, (engine j).halted = true) → d.flag DBG_CTL_EMUSLEEP = false → c.answer (0x10 + k.val) st = .refuse 2)
    ∧ ((∀ j, (engine j).halted = false) → (∀ j, idle (engine j)) → c.answer (0x10 + k.val) st = .ack)
    ∧ ((∀ j, (engine j).halted = false) → (∃ j, ¬ idle (engine j)) → ¬ late 100 → c.answer (0x10 + k.val) st = .delay)
    ∧ ((∀ j, (engine j).halted = false) → (∃ j, ¬ idle (engine j)) → late 100 → c.answer (0x10 + k.val) st = .refuse 1)
    ∧ (u.halted = false → ready → c.answer 0x18 st = .ack)
    ∧ (u.halted = false → ¬ ready → ¬ late 100 → c.answer 0x18 st = .delay)
    ∧ (u.halted = false → ¬ ready → late 100 → c.answer 0x18 st = .refuse 1)
    ∧ (off = true ∨ p.xfer = none ∧ p.bus = false ∧ p.stretch = none → c.answer (0x20 + k.val) st = .ack)
    ∧ (off = false → p.xfer ≠ none ∨ p.bus = true ∨ p.stretch ≠ none → c.answer (0x20 + k.val) st = if late 100 then .refuse 1 else .delay))

/-- R411, R414 to R421, R423, R424, R498, R452: below Idle an enabled wake condition that holds starts the exit and is named in WAKESRC; ON_N starts
the boot of a device that waits for it; pins, the listener and the voice detector raise their wakes, each kept while a transition or a sleep
stands; a rail request of an exit that failed is made again. R407, R427: the device goes to Idle where AUTOIDLE is set and every core waits, and back once one goes on; a block asked off goes off at its
seam with its registers at their reset values, and one asked on comes back so. -/
def Obligations.PowerStates : Prop :=
  (∀ (s : State) (k : Fin 4) (low : Bool) (p : Fin 2) (byte : BitVec 8) (r : RailReq) (rs : List RailReq),
    let c := s.chip
    let d := c.dev
    let st := d.get PWR_STAT_STATE
    let power (f : Pwr → Pwr) (d : Dev) : Dev := { d with pwr := f d.pwr }
    let wakes (b : Nat) (d : Dev) : Dev := if d.watching then power (fun p => { p with wake := p.wake ||| (1#14 <<< b) }) d else d
    let started (t : Chip) (st : Nat) : Prop := t.dev.flag PWR_STAT_BUSY = true ∧ t.dev.get PWR_STAT_PHASE = 3 ∧ t.dev.get PWR_STAT_STATE = st
      ∧ t.dev.tbs.hfosc = true ∧ t.dev.get PWR_WAKESRC_FROM = st ∧ t.dev.flag PWR_WAKESRC_FROMOFF = decide (st = 4)
      ∧ t.dev.flag PWR_WAKESRC_LATE = false ∧ t.dev.pwr.retry = [] ∧ t.dev.pwr.railsUp = false
    let addr := d.get (PWR_LSN_ADDR p)
    let free := d.get (PWR_LSN_MASK p)
    let armed : Prop := d.flag (PWR_LSN_EN p) = true ∧ d.flag (if p = 0 then PWR_WAKEEN_LSN1 else PWR_WAKEEN_LSN2) = true ∧ (st = 2 ∨ st = 3)
    let hit : Prop := (byte.toNat / 2 ^^^ addr) ||| free = free
    (st = 2 → d.flag PWR_STAT_BUSY = false → d.wakes st ≠ 0 → ∃ t, exec .wakeAccept s = s.leaves t ∧ started t st ∧ t.cores = c.cores ∧ t.mem = c.mem
      ∧ t.dev.flag PWR_WAKESRC_ON = (d.wakes st).getLsbD 11 ∧ t.dev.flag PWR_WAKESRC_WDP = (d.wakes st).getLsbD 12)
    ∧ (st = 3 → d.flag PWR_STAT_BUSY = false → d.wakes st ≠ 0 → ∃ t, exec .wakeAccept s = s.leaves t ∧ started t st
      ∧ t.dev.flag PWR_WAKESRC_ON = (d.wakes st).getLsbD 11 ∧ t.dev.flag PWR_WAKESRC_WDP = (d.wakes st).getLsbD 12)
    ∧ (st < 2 ∨ d.flag PWR_STAT_BUSY = true ∨ d.wakes st = 0 → exec .wakeAccept s = s.leaves c)
    ∧ (d.pwr.retry = r :: rs → d.flag SP_RSEQCTL_EN = true → d.rseq = [] → ∃ t : Dev, exec .exitRetry s = s.becomes (fun _ => t)
      ∧ t.rseq = [⟨r.wing, r.ask, .power⟩] ∧ t.pwr.retry = rs ∧ t.flag SP_RSEQST_BUSY = true)
    ∧ (d.pwr.retry = [] → exec .exitRetry s = s.leaves c)
    ∧ (d.pwr.parked = true → ∃ t, exec .onN s = s.leaves t ∧ t.dev.pwr.parked = false ∧ t.dev.pwr.hold = false ∧ t.dev.get PWR_STAT_PHASE = 3
      ∧ t.dev.flag PWR_WAKESRC_ON = true ∧ t.dev.flag PWR_WAKESRC_FROMOFF = true ∧ t.dev.tbs.hfosc = true ∧ t.dev.cur.boot = true)
    ∧ (d.pwr.parked = false → exec .onN s = s.becomes (wakes 11))
    ∧ exec (.wakePin k true) s = s.becomes (fun d => wakes k (power (fun p => { p with wakePins := p.wakePins ||| (1#4 <<< k.val) }) d))
    ∧ exec (.wakePin k false) s = s.becomes (power fun p => { p with wakePins := p.wakePins &&& ~~~(1#4 <<< k.val) })
    ∧ (armed → hit → exec (.listenerMatch p byte) s = s.becomes fun d =>
        (wakes (7 + p.val) (((d.put PWR_LSNHIT_VALID 1).put PWR_LSNHIT_PORT p).put PWR_LSNHIT_BYTE byte.toNat)).emit
          (.listener (p.val + 1) (!d.flag (PWR_LSN_I3C p) && !d.flag (PWR_LSN_NACK p))))
    ∧ (¬ armed ∨ ¬ hit → exec (.listenerMatch p byte) s = s.leaves c)
    ∧ (d.vadRuns = true → exec .vadFire s = s.becomes fun d => wakes 9 (if d.flag PDM_VAD_VEN then d.pdmEvent 1 else d))
    ∧ (d.vadRuns = false → exec .vadFire s = s.leaves c))
  ∧ (∀ (s : State) (i : Fin 11) (a : Nat) (e : Fin 64),
    let c := s.chip
    let d := c.dev
    let waits (x : Core) : Prop := (∃ rd t, x.wait = .waitt rd t) ∨ x.wait = .wfe
    let still (x : Core) : Prop := waits x ∨ x.halted = true ∨ x.run = false ∨ x.df = true
    let quiet : Prop := (∀ n : Fin 64, still c.cores[eng n]) ∧ waits c.cores[curator] ∧ d.cur.boot = false
    let bit := i.val - 1
    let block : Nat := if i.val < 8 then 0x10 else if i.val = 8 then 0x11 else if i.val = 9 then 0x15 else 0x14
    let inside : Prop := a / 0x10000 = block ∧ (i.val < 8 → a % 0x10000 / 0x1000 = i.val) ∧ a ≠ ESPI_STAT
    let free : Prop := (∀ h : i.val < 8, (d.ports.sp[i.val]'h).idle = true) ∧ (i.val = 9 → d.ports.fspi.since = none)
    (d.flag PWR_CTL_AUTOIDLE = true → d.flag PWR_STAT_BUSY = false → d.get PWR_STAT_STATE = 0 → d.curRuns = true → quiet →
      exec .idleEntry s = s.becomes (·.put PWR_STAT_STATE 1))
    ∧ (d.flag PWR_CTL_AUTOIDLE = false ∨ ¬ quiet → exec .idleEntry s = s.leaves c)
    ∧ (d.get PWR_STAT_STATE = 1 → (¬ still c.cores[eng e] ∨ ¬ waits c.cores[curator]) → exec .idleExit s = s.becomes (·.put PWR_STAT_STATE 0))
    ∧ (d.get PWR_STAT_STATE ≠ 1 ∨ quiet → exec .idleExit s = s.leaves c)
    ∧ (1 ≤ i.val → d.bit PWR_PDOWN_REQ bit = true → d.bit PWR_PDOWN_EFF bit = false → free → ∃ t : Dev, exec (.pdownSeam i) s = s.becomes (fun _ => t)
      ∧ t.bit PWR_PDOWN_EFF bit = true ∧ (inside → t.word a = resetWord a))
    ∧ (i.val = 0 ∨ d.bit PWR_PDOWN_REQ bit = false ∨ d.bit PWR_PDOWN_EFF bit = true ∨ ¬ free → exec (.pdownSeam i) s = s.leaves c)
    ∧ (1 ≤ i.val → d.bit PWR_PDOWN_REQ bit = false → d.bit PWR_PDOWN_EFF bit = true → ∃ t : Dev, exec (.pdownPowerUp i) s = s.becomes (fun _ => t)
      ∧ t.bit PWR_PDOWN_EFF bit = false ∧ (inside → t.word a = resetWord a))
    ∧ (i.val = 0 ∨ d.bit PWR_PDOWN_REQ bit = true ∨ d.bit PWR_PDOWN_EFF bit = false → exec (.pdownPowerUp i) s = s.leaves c))

/-! ### Rings, doorbells and movers -/

/-- R307 to R310, R329 to R331, R336: a doorbell of an enabled ring moves the tail, or releases records, within the ring, and puts the ring in error
otherwise; a ring is enabled afresh, a submission ring only on an enabled completion ring; disabling cancels what waits and takes effect at its
seam; RESUME lets a paused engine go on while the host is present; a mover is disabled once it has nothing to do. -/
def Obligations.RingControl : Prop :=
  ∀ (s : State) (m : Sender) (n : Fin 64) (mv : Fin 2) (v : Word),
    let c := s.chip
    let d := c.dev
    let idx := bits v 11 0
    let bell : Prop := d.flag HPT_CTL_CFGRDY = true ∧ d.flag RNG_CTL_HOSTEN = true
    let sqN := 2 ^ d.get (RNG_SQCTL_SIZE n)
    let cqN := 2 ^ d.get (RNG_CQCTL_SIZE n)
    let moved := (idx + cqN - d.get (RNG_CQSTAT_HEAD n)) % cqN
    let unrel := d.get (RNG_CQPEND_UNREL n)
    let submits := exec (.submissionDoorbell n v) s
    let completes := exec (.completionDoorbell n v) s
    let rings (f : Rng → Rng) (d : Dev) : Dev := { d with rng := f d.rng }
    let on (k : Nat) (g : Nat → Fld) : Word := withField v (g n) k
    let uS (k : Nat) : Chip := c.takes m (RNG_SQCTL n) (on k RNG_SQCTL_EN_REQ)
    let uC (k : Nat) : Chip := c.takes m (RNG_CQCTL n) (on k RNG_CQCTL_EN_REQ)
    let hS (k : Nat) : Prop := Hears c m (RNG_SQCTL n) (on k RNG_SQCTL_EN_REQ)
    let hC (k : Nat) : Prop := Hears c m (RNG_CQCTL n) (on k RNG_CQCTL_EN_REQ)
    let its := (uS 1).dev.get (RNG_SQCTL_CQ n)
    let based : Prop := d.flag (RNG_CQCTL_EN_REQ its) = true ∧ d.flag (RNG_CQCTL_EN_EFF its) = true
    let waiting (x : Desc) : Prop := x.sq = n ∧ x.st.waits = true
    let named : Prop := ∃ k < 64, d.get (RNG_SQCTL_CQ k) = n ∧ d.flag (RNG_SQCTL_EN_EFF k) = true
    let cqOpen (busy : Bool) (d : Dev) : Dev :=
      let d := ((d.put (RNG_CQCTL_EN_EFF n) 1).setWord (RNG_CQSTAT n) 0x60000000).put (RNG_CQPEND_UNREL n) 0
      rings (fun r => { r with cqs := amapSet ⟨0, 0, none⟩ n ⟨0, 0, none⟩ r.cqs }) (if busy then d else d.put (RNG_CQPEND_RSV n) 0)
    (d.flag HPT_CTL_CFGRDY = false → submits = s.becomes (·.drops false) ∧ completes = s.becomes (·.drops false))
    ∧ (bell → d.flag (RNG_SQCTL_EN_EFF n) = true → idx < sqN → submits = s.becomes (·.put (RNG_SQSTAT_TAIL n) idx))
    ∧ (bell → d.flag (RNG_SQCTL_EN_EFF n) = true → sqN ≤ idx → submits = s.becomes fun d =>
        ((d.put (RNG_SQSTAT_STATE n) 3).put (RNG_SQSTAT_ERR n) 1).put RNG_ISTAT_SQERR 1)
    ∧ (bell → d.flag (RNG_SQCTL_EN_EFF n) = false → submits = s.leaves c)
    ∧ (bell → d.flag (RNG_CQCTL_EN_EFF n) = true → idx < cqN → moved ≤ unrel → completes = s.becomes fun d =>
        (d.put (RNG_CQSTAT_HEAD n) idx).put (RNG_CQPEND_UNREL n) (unrel - moved))
    ∧ (bell → d.flag (RNG_CQCTL_EN_EFF n) = true → cqN ≤ idx ∨ unrel < moved → completes = s.becomes fun d =>
        (d.put (RNG_CQSTAT_ERR n) 1).put RNG_ISTAT_CQERR 1)
    ∧ (bell → d.flag (RNG_CQCTL_EN_EFF n) = false → completes = s.leaves c)
    ∧ (d.flag HPT_CTL_CFGRDY = true → d.flag RNG_CTL_HOSTEN = false → submits = s.leaves c ∧ completes = s.leaves c)
    ∧ (hS 1 → d.flag (RNG_SQCTL_EN_REQ n) = false → based →
        exec (.sqEnable m n v) s = s.leaves ((uS 1).onDev fun d => (d.put (RNG_SQCTL_EN_EFF n) 1).setWord (RNG_SQSTAT n) 0x40000000))
    ∧ (hS 1 → d.flag (RNG_SQCTL_EN_REQ n) = false → d.flag (RNG_SQCTL_EN_EFF n) = false → ¬ based →
        exec (.sqEnable m n v) s = s.leaves ((uS 1).onDev (·.put (RNG_SQSTAT_ERR n) 3)))
    ∧ (hS 1 → d.flag (RNG_SQCTL_EN_REQ n) = false → d.flag (RNG_SQCTL_EN_EFF n) = true → ¬ based →
        exec (.sqEnable m n v) s = s.leaves ((uS 1).onDev fun d => (d.put (RNG_SQSTAT_STATE n) 1).put (RNG_SQSTAT_ERR n) 3))
    ∧ (hS 1 → d.flag (RNG_SQCTL_EN_REQ n) = true → exec (.sqEnable m n v) s = s.leaves (uS 1))
    ∧ (hS 0 → d.flag (RNG_SQCTL_EN_REQ n) = true → d.flag (RNG_SQCTL_EN_EFF n) = true → (∀ x ∈ d.rng.infl, ¬ waiting x) →
        exec (.sqDisable m n v) s = s.leaves ((uS 0).onDev fun d =>
          ((d.put (RNG_SQSTAT_STATE n) 2).put (RNG_SQCTL_EN_EFF n) 0).put (RNG_SQSTAT_STATE n) 0))
    ∧ (hS 0 → d.flag (RNG_SQCTL_EN_REQ n) = true → d.flag (RNG_SQCTL_EN_EFF n) = true → (∃ x ∈ d.rng.infl, waiting x) → ∃ t : Dev,
        exec (.sqDisable m n v) s = s.leaves ((uS 0).onDev fun _ => t) ∧ t.get (RNG_SQSTAT_STATE n) = 2 ∧ ∀ x ∈ t.rng.infl, ¬ waiting x)
    ∧ (hS 0 → d.flag (RNG_SQCTL_EN_REQ n) = false ∨ d.flag (RNG_SQCTL_EN_EFF n) = false → exec (.sqDisable m n v) s = s.leaves (uS 0))
    ∧ (d.flag (RNG_SQCTL_EN_REQ n) = false → d.flag (RNG_SQCTL_EN_EFF n) = true → (∀ x ∈ d.rng.infl, ¬ waiting x) →
        exec (.sqDisableSeam n) s = s.becomes fun d => (d.put (RNG_SQCTL_EN_EFF n) 0).put (RNG_SQSTAT_STATE n) 0)
    ∧ (d.flag (RNG_SQCTL_EN_REQ n) = true ∨ d.flag (RNG_SQCTL_EN_EFF n) = false ∨ (∃ x ∈ d.rng.infl, waiting x) →
        exec (.sqDisableSeam n) s = s.leaves c)
    ∧ (hC 1 → d.flag (RNG_CQCTL_EN_REQ n) = false →
        exec (.cqEnable m n v) s = s.leaves ((uC 1).onDev (cqOpen (d.flag (RNG_CQCTL_EN_EFF n)))))
    ∧ (hC 0 → d.flag (RNG_CQCTL_EN_REQ n) = true → d.flag (RNG_CQCTL_EN_EFF n) = true → d.get (RNG_CQPEND_RSV n) = 0 → ¬ named → ∃ t : Dev,
        exec (.cqDisable m n v) s = s.leaves ((uC 0).onDev fun _ => t) ∧ t.get (RNG_CQSTAT_STATE n) = 0 ∧ t.flag (RNG_CQCTL_EN_EFF n) = false
          ∧ (t.cqState n).count = 0)
    ∧ (hC 0 → d.flag (RNG_CQCTL_EN_REQ n) = true → d.flag (RNG_CQCTL_EN_EFF n) = true → d.get (RNG_CQPEND_RSV n) ≠ 0 ∨ named → ∃ t : Dev,
        exec (.cqDisable m n v) s = s.leaves ((uC 0).onDev fun _ => t) ∧ t.get (RNG_CQSTAT_STATE n) = 2 ∧ (t.cqState n).count = 0
          ∧ ∀ x ∈ t.rng.infl, x.cq = n → ∀ r i, x.st ≠ .held r i)
    ∧ (d.flag (RNG_CQCTL_EN_REQ n) = false → d.flag (RNG_CQCTL_EN_EFF n) = true → d.get (RNG_CQPEND_RSV n) = 0 →
        (∀ k < 64, d.get (RNG_SQCTL_CQ k) = n → d.flag (RNG_SQCTL_EN_EFF k) = false) →
        exec (.cqDisableSeam n) s = s.becomes fun d => (d.put (RNG_CQCTL_EN_EFF n) 0).put (RNG_CQSTAT_STATE n) 0)
    ∧ (d.flag (RNG_CQCTL_EN_REQ n) = true ∨ d.get (RNG_CQPEND_RSV n) ≠ 0 → exec (.cqDisableSeam n) s = s.leaves c)
    ∧ (Hears c m RNG_RESUME 1 → d.flag HPT_LSTAT_PRESENT = true → d.flag RNG_STAT_PAUSED = true → ∃ t : Dev,
        exec (.resumeGo m) s = s.leaves ((c.takes m RNG_RESUME 1).onDev fun _ => t) ∧ t.flag RNG_STAT_PAUSED = false
          ∧ (d.rng.heldRecs = [] → t = (c.takes m RNG_RESUME 1).dev.put RNG_STAT_PAUSED 0))
    ∧ (Hears c m RNG_RESUME 1 → d.flag HPT_LSTAT_PRESENT = false ∨ d.flag RNG_STAT_PAUSED = false →
        exec (.resumeGo m) s = s.leaves (c.takes m RNG_RESUME 1))
    ∧ (d.flag (MOV_CTL_EN_REQ mv) = false → d.movQueue mv = [] → d.movRunning mv = none →
        exec (.moverDisableSeam mv) s = s.becomes (·.put (MOV_CTL_EN_EFF mv) 0) ∧ d.moverWrite mv = d.put (MOV_CTL_EN_EFF mv) 0)
    ∧ (d.flag (MOV_CTL_EN_REQ mv) = true ∨ d.movQueue mv ≠ [] ∨ d.movRunning mv ≠ none → exec (.moverDisableSeam mv) s = s.leaves c)

/-- R311 to R318, R322 to R324: a turn fetches descriptors into slots of the ring's completion ring, a refused one ends at once, and a failed fetch puts
the ring in error; NOP, TIME, EVENT and SWINT end where they are dispatched, the last two with their event or pending bit; RUN goes to the
registrar while its stage has room; a QPUSH is staged and pushed as an item; a FENCE waits for every earlier descriptor of its ring. R319 to R321, R325 to R329, R337: a COPY is queued on the enabled mover with fewer queued; the mover performs its lines; its completion records what was
copied, a failure with FAULT and its count; a record goes to its ring's tail with SEQ and phase, is held while paused or while no request may be
sent, and dropped for a ring being disabled; the message of a ring is sent at once, at its count, or when its timer has run. How many lines of a
COPY are performed at COPY_START is open, and the others are at COPY_COMPLETE, which is the model's choice (notes/assumptions/16.md). -/
def Obligations.RingWork : Prop :=
  (∀ (s : State) (n : Fin 64) (b : BitVec 512) (ds : List (BitVec 512)) (x : Desc) (k r t : Nat) (u : Chip) (bs : List Byte) (ws : List Word),
    let c := s.chip
    let d := c.dev
    let cq := d.get (RNG_SQCTL_CQ n)
    let head := d.get (RNG_SQSTAT_HEAD n)
    let len := ds.length
    let turn := d.sqTurn n
    let at' (i : Nat) : Nat := (head + i) % 2 ^ d.get (RNG_SQCTL_SIZE n) % 4096
    let base := d.get (RNG_SQBASEH_ADDR n) * 2 ^ 32 + d.get (RNG_SQBASEL_ADDR n) * 64 + 64 * head
    let asksFor (o : List Out) : Prop := if d.isCxl then ∀ i < turn, .hostRead (base + 64 * i) 64 ∈ o else .hostRead base (64 * turn) ∈ o
    let failed (e : Dev) : Prop := e.get (RNG_SQSTAT_STATE n) = 3 ∧ e.get (RNG_SQSTAT_ERR n) = 2 ∧ e.flag RNG_ISTAT_SQERR = true
    let reads : Prop := descBits x.body 223 192 ≠ 0
      ∧ (x.body.getLsbD 191 = true ∨ (d.flag RNG_STAT_PAUSED = false ∧ (d.flag HPT_HMEM_AVAIL_REQ = true ∨ d.flag HPT_HMEM_AVAIL_EFF = false)))
    let unstaged : Prop := ∀ z ∈ d.rng.infl, ∀ l, z.st ≠ .staging l
    let records (status reason result admAt : Nat) (d : Dev) : Dev := d.finish x (recordBytes (descTag x.body) status reason 0xFF 0 admAt d.tb result)
    let done (d : Dev) : Dev := records 0 0 0 d.tb d
    let next (cls op : Nat) : Prop := d.ready n cls op = some x
    let none' (cls op : Nat) : Prop := d.ready n cls op = none
    let becomesSt (st : DescSt) (d : Dev) : Dev :=
      { d with rng := { d.rng with infl := d.rng.infl.map fun y => if y.slot = x.slot then { y with st := st } else y } }
    let w (a : Nat) : Word := BitVec.ofNat 32 a
    let y := x.body
    let host (a len : Nat) : Bool := len != 0 && decide (a < 2 ^ 63)
    let asked : Request := ⟨.ring n x.slot, descBits y 15 8, w (descBits y 63 32), descBits y 127 64 + (if y.getLsbD 17 then d.tb else 0),
      [(w (descBits y 191 128), w (descBits y 223 192)), (w (descBits y 319 256), w (descBits y 255 224))],
      [w (descArg y 0), w (descArg y 1), w (descArg y 2), w (descArg y 3), w (descArg y 4), w (descArg y 5)],
      host (descBits y 191 128) (descBits y 223 192) || host (descBits y 319 256) (descBits y 255 224)⟩
    (d.nextSq = some n.val → d.hpt.noReply = false → len = turn → (∀ b ∈ ds, d.descCheck b = none) → ∃ e : Dev,
      exec (.descriptorFetch ds) s = s.becomes (fun _ => e)
      ∧ e.rng.infl = d.rng.infl ++ ds.mapIdx (fun i b => (⟨d.rng.nextSlot + i, n, cq, b, .fetched⟩ : Desc)) ∧ e.rng.nextSlot = d.rng.nextSlot + len
      ∧ e.get (RNG_SQSTAT_HEAD n) = at' len ∧ e.get (RNG_CQPEND_RSV cq) = (d.get (RNG_CQPEND_RSV cq) + len) % 1024 ∧ asksFor e.out)
    ∧ (d.nextSq = some n.val → d.hpt.noReply = true → ∃ e : Dev,
      exec (.descriptorFetch ds) s = s.becomes (fun _ => e) ∧ failed e ∧ e.get (RNG_SQSTAT_HEAD n) = head ∧ e.rng.infl = d.rng.infl ∧ asksFor e.out)
    ∧ (d.nextSq = some n.val → d.hpt.noReply = false → turn = 1 → d.descCheck b = some (r, none) →
        (∀ z ∈ d.rng.infl, z.slot < d.rng.nextSlot) → ∃ e : Dev,
      exec (.descriptorFetch [b]) s = s.becomes (fun _ => e) ∧ e.rng.infl = d.rng.infl
      ∧ .hostWrite (d.cqEntry cq (d.get (RNG_CQSTAT_TAIL cq))) (recordBytes (descBits b 63 32) 1 r 0xFF 0 d.tb d.tb 0) ∈ e.out)
    ∧ (d.nextSq = none → exec (.descriptorFetch [b]) s = s.leaves c ∧ exec .fetchFailure s = s.leaves c)
    ∧ (d.nextSq = some n.val → ∃ e : Dev, exec .fetchFailure s = s.becomes (fun _ => e) ∧ failed e ∧ asksFor e.out
      ∧ (d.isCxl = false ∨ d.hpt.noReply = true → e.get (RNG_SQSTAT_HEAD n) = head ∧ e.rng.infl = d.rng.infl)
      ∧ (d.isCxl = true → d.hpt.noReply = false → e.get (RNG_SQSTAT_HEAD n) = at' ((Config.free d.fresh).toNat % turn)))
    ∧ (next 0 0 → exec (.nop n) s = s.becomes done) ∧ (none' 0 0 → exec (.nop n) s = s.leaves c)
    ∧ (next 4 1 → exec (.time n) s = s.becomes done) ∧ (none' 4 1 → exec (.time n) s = s.leaves c)
    ∧ (next 4 2 → exec (.event n) s = s.becomes fun d => done
        (if descArg y 1 % 8 = 0 then d else d.sendEvent 0 (descArg y 1 % 8) (descArg y 1 / 256 % 64)))
    ∧ (none' 4 2 → exec (.event n) s = s.leaves c)
    ∧ (next 4 3 → exec (.swint n) s = s.becomes fun d =>
        done { d with itc := { d.itc with pend := d.itc.pend ||| (1#256 <<< (descArg y 1 % 32)) } })
    ∧ (none' 4 3 → exec (.swint n) s = s.leaves c)
    ∧ (next 1 0 → d.adm.stage.length < 4 → d.adm.waiting = [] → exec (.run n) s = s.becomes fun d =>
        { becomesSt .promised d with adm := { d.adm with stage := d.adm.stage ++ [asked] } })
    ∧ (none' 1 0 ∨ 4 ≤ d.adm.stage.length ∨ d.adm.waiting ≠ [] → exec (.run n) s = s.leaves c)
    ∧ (next 3 0 → unstaged → descBits y 223 192 = 0 → exec (.qpush n) s = s.becomes (becomesSt (.staging [])))
    ∧ (next 3 0 → descBits y 223 192 ≠ 0 → ¬ reads → exec (.qpush n) s = s.leaves c)
    ∧ (next 3 0 → unstaged → reads → c.moverRead 0x0D (descBits y 191 128) (descBits y 223 192) = (u, .inl bs) →
        exec (.qpush n) s = s.leaves (u.onDev (becomesSt (.staging (wordsOf (descBits y 223 192 / 4) bs)))))
    ∧ (next 3 0 → unstaged → reads → c.moverRead 0x0D (descBits y 191 128) (descBits y 223 192) = (u, .inr r) →
        exec (.qpush n) s = s.leaves (u.onDev fun d => records 3 r 0 d.tb d))
    ∧ (none' 3 0 ∨ (∃ z ∈ d.rng.infl, ∃ l, z.st = .staging l) → exec (.qpush n) s = s.leaves c)
    ∧ (d.rng.infl = [x] → x.st = .staging ws → c.pushItem 0x0D (descArg y 0) (descArg y 1) ws = (u, k) →
        exec .itemPush s = if k = 0 then s.leaves (u.onDev (records 0 0 ws.length d.tb))
          else s.leaves (u.onDev fun d => records 1 (16 + k) 0 d.tb d))
    ∧ (unstaged → exec .itemPush s = s.leaves c)
    ∧ (next 5 0 → exec (.fence n) s = s.becomes (becomesSt (.fencing d.tb))) ∧ (none' 5 0 → exec (.fence n) s = s.leaves c)
    ∧ (d.rng.infl.find? (fun z => z.sq == n.val) = some x → x.st = .fencing t → exec (.fenceComplete n) s = s.becomes (records 0 0 0 t))
    ∧ ((∀ z ∈ d.rng.infl, z.sq = n → ∀ t, z.st ≠ .fencing t) → exec (.fenceComplete n) s = s.leaves c)
    ∧ (d.rng.infl = [x] → x.sq = n → x.st = .fetched → descBits y 7 0 = k → (k = 4 → descArg y 0 % 256 = r) → d.ready n k r = some x))
  ∧ (∀ (s : State) (n : Fin 64) (mv : Fin 2) (x : Desc) (rest : List Desc) (more : List (Nat × Nat)) (a reason off bytes t : Nat) (res : Word) (u : Chip) (rec : List Byte),
    let c := s.chip
    let d := c.dev
    let y := x.body
    let set (st : DescSt) (d : Dev) : Dev :=
      { d with rng := { d.rng with infl := d.rng.infl.map fun z => if z.slot = x.slot then { z with st := st } else z } }
    let queue (k : Nat) : Nat := (d.movQueue k).length
    let works (k : Nat) : Prop := d.flag (MOV_CTL_EN_REQ k) = true ∧ d.flag (MOV_CTL_EN_EFF k) = true
    let lines := copyLines (addrOf (descBits y 319 256)) (descBits y 223 192)
    let waits : Prop := d.flag HPT_HMEM_AVAIL_REQ = false ∧ d.flag HPT_HMEM_AVAIL_EFF = true ∧ ¬ (y.getLsbD 191 = true ∧ y.getLsbD 319 = true)
    let few := min (d.get (MOV_CTL_MAXOUT mv)) lines.length
    let unqueued : Chip := c.onDev fun d =>
      { d with fresh := d.fresh + 1, rng := { d.rng with movq := d.rng.movq.filter (·.2 != x.slot) } }
    let starts (first : Nat) : Prop := ∃ e : Dev, exec (.copyStart mv) s = s.leaves (u.onDev fun _ => e)
      ∧ e.rng = (set (.moving mv a reason (BitVec.ofNat 32 off) (if reason = 0 then lines.drop first else [])) u.dev).rng
      ∧ e.get (MOV_BYTES_COUNT mv) = min 0xFFFFFFFF (u.dev.get (MOV_BYTES_COUNT mv) + bytes)
    let cq := x.cq
    let tail := d.get (RNG_CQSTAT_TAIL cq)
    let phase := d.get (RNG_CQSTAT_PHASE cq)
    let size := 2 ^ d.get (RNG_CQCTL_SIZE cq)
    let entry := d.get (RNG_CQBASEH_ADDR cq) * 2 ^ 32 + d.get (RNG_CQBASEL_ADDR cq) * 32 + 32 * tail
    let out := d.finish x rec
    let q := d.cqState n
    (d.ready n 2 0 = some x → works mv → descBits y 19 18 = mv.val + 1 → queue mv < 32 → ∃ e : Dev,
      exec (.copy n) s = s.becomes (fun _ => e) ∧ e.rng = { (set (.queued mv d.tb) d).rng with movq := d.rng.movq ++ [(mv.val, x.slot)] } ∧ e.get (MOV_STAT_QUEUED mv) = (e.movQueue mv).length % 64)
    ∧ (d.ready n 2 0 = some x → works 0 → works 1 → descBits y 19 18 = 0 → queue 0 < 32 → queue 1 < 32 → ∃ e : Dev,
      exec (.copy n) s = s.becomes (fun _ => e) ∧ e.rng.infl = (set (.queued (if queue 1 < queue 0 then 1 else 0) d.tb) d).rng.infl
        ∧ e.rng.movq = d.rng.movq ++ [(if queue 1 < queue 0 then 1 else 0, x.slot)])
    ∧ (d.ready n 2 0 = none → exec (.copy n) s = s.leaves c)
    ∧ (d.movRunning mv = none → d.movQueue mv = x :: rest → x.st = .queued mv a → lines ≠ [] → ¬ waits →
        unqueued.copyRun mv y 0 (lines.take ((Config.free d.fresh).toNat % (few + 1))) = (u, reason, off, bytes) →
      starts ((Config.free d.fresh).toNat % (few + 1)))
    ∧ (d.movRunning mv = none → d.movQueue mv = x :: rest → x.st = .queued mv a → lines ≠ [] → waits → u = unqueued → reason = 0 → off = 0 →
        bytes = 0 → starts 0)
    ∧ (d.movRunning mv ≠ none ∨ d.movQueue mv = [] → exec (.copyStart mv) s = s.leaves c)
    ∧ (d.movRunning mv = some x → x.st = .moving mv a 0 res more → more ≠ [] → waits → exec (.copyComplete mv) s = s.leaves c)
    ∧ (d.movRunning mv = some x → x.st = .moving mv a 0 res more → more ≠ [] → ¬ waits → c.copyRun mv y res.toNat more = (u, reason, off, bytes) →
      ∃ e : Dev, exec (.copyComplete mv) s = s.leaves (u.onDev fun _ => e)
      ∧ e.rng = ((set (.moving mv a reason (BitVec.ofNat 32 off) []) u.dev).finish x (recordBytes (descBits y 63 32) (if reason = 0 then 0 else 3) reason
          0xFF mv a u.dev.tb (BitVec.ofNat 32 off : Word).toNat)).rng
      ∧ e.get (MOV_STAT_OUT mv) = 0)
    ∧ (d.movRunning mv = some x → x.st = .moving mv a 0 res [] → ∃ e : Dev, exec (.copyComplete mv) s = s.becomes (fun _ => e)
      ∧ e.rng = (d.finish x (recordBytes (descBits y 63 32) 0 0 0xFF mv a d.tb res.toNat)).rng ∧ e.get (MOV_STAT_OUT mv) = 0
      ∧ e.get (MOV_FAULTS_COUNT mv) = d.get (MOV_FAULTS_COUNT mv))
    ∧ (d.movRunning mv = some x → x.st = .moving mv a reason res [] → reason ≠ 0 → ∃ e : Dev, exec (.copyComplete mv) s = s.becomes (fun _ => e)
      ∧ e.rng = (d.finish x (recordBytes (descBits y 63 32) 3 reason 0xFF mv a d.tb res.toNat)).rng ∧ e.get (MOV_STAT_OUT mv) = 0
      ∧ e.get (MOV_FAULTS_COUNT mv) = min 0xFFFFFFFF (d.get (MOV_FAULTS_COUNT mv) + 1)
      ∧ e.flag (if mv = 0 then MOV_ISTAT_FAULT0 else MOV_ISTAT_FAULT1) = true)
    ∧ (d.movRunning mv = none → exec (.copyComplete mv) s = s.leaves c)
    ∧ (d.flag (RNG_CQCTL_EN_REQ cq) = false → out.get RNG_DROPCNT_COUNT = min 0xFFFFFFFF (d.get RNG_DROPCNT_COUNT + 1) ∧ out.flag RNG_ISTAT_DROP = true
      ∧ out.out = d.out ∧ out.rng.infl = d.rng.infl.filter (·.slot != x.slot))
    ∧ (d.flag (RNG_CQCTL_EN_REQ cq) = true → d.flag RNG_STAT_PAUSED = true ∨ d.mayRequest = false → out.out = d.out ∧ out.rng.heldRecs = d.rng.heldRecs ++ [x.slot]
      ∧ out.rng.infl = (set (.held rec (y.getLsbD 16)) d).rng.infl)
    ∧ (d.flag (RNG_CQCTL_EN_REQ cq) = true → d.flag RNG_STAT_PAUSED = false → d.mayRequest = true → tail < size → phase < 2 →
        out.rng.infl = d.rng.infl.filter (·.slot != x.slot)
        ∧ .hostWrite entry rec ∈ out.out ∧ .hostWrite (entry + 28) (leBytes 4 ((d.cqState cq).seq + phase * 2 ^ 31)) ∈ out.out
        ∧ out.get (RNG_CQSTAT_TAIL cq) = (tail + 1) % size % 4096
        ∧ out.get (RNG_CQSTAT_PHASE cq) = (if (tail + 1) % size = 0 then 1 - phase else phase)
        ∧ out.get (RNG_CQPEND_UNREL cq) = (d.get (RNG_CQPEND_UNREL cq) + 1) % 4096
        ∧ (out.cqState cq).seq = ((d.cqState cq).seq + 1) % 2 ^ 31
        ∧ (d.flag (RNG_CQCTL_IEN cq) = true → y.getLsbD 16 = false → (d.cqState cq).count + 1 < d.get (RNG_CQMOD_COUNT cq) →
            (out.cqState cq).count = (d.cqState cq).count + 1)
        ∧ (d.flag (RNG_CQCTL_IEN cq) = true → y.getLsbD 16 = true ∨ d.get (RNG_CQMOD_COUNT cq) ≤ (d.cqState cq).count + 1 →
            (out.cqState cq).count = 0 ∧ (out.cqState cq).since = none)
        ∧ (d.flag (RNG_CQCTL_IEN cq) = false → (out.cqState cq).count = 0))
    ∧ (q.since = some t → d.flag (RNG_CQCTL_IEN n) = true → d.flag (RNG_CQCTL_EN_REQ n) = true → d.flag RNG_STAT_PAUSED = false → d.mayRequest = true →
        0 < q.count →
        d.get (RNG_CQMOD_TIME n) ≠ 0 → t + usTicks (d.get (RNG_CQMOD_TIME n)) ≤ d.tb →
        exec (.moderationTimer n) s = s.becomes fun d => { d.msix (d.get (RNG_CQCTL_VEC n)) with
          rng := { d.rng with cqs := amapSet ⟨0, 0, none⟩ n { q with count := 0, since := none } d.rng.cqs } })
    ∧ (q.since = none ∨ d.flag RNG_STAT_PAUSED = true ∨ d.mayRequest = false ∨ q.count = 0 ∨ d.get (RNG_CQMOD_TIME n) = 0 → exec (.moderationTimer n) s = s.leaves c))
end

