-- ==== Sys2Proof/Laws/AMap.lean ====
section
/-! SUPPORT. Laws/AMap.lean: sparse maps: a read after a write, and that every operation keeps the canonical form. -/

namespace Sys2Proof.Machine

variable {α : Type}

/-! ### A read after a change -/

theorem amapFind_del {k j : Nat} {m : List (Nat × α)} : amapFind j (amapDel k m) = if k = j then none else amapFind j m := by
  induction m with
  | nil => simp [amapDel, amapFind]
  | cons p m ih =>
    obtain ⟨i, u⟩ := p
    simp only [amapDel]
    split
    · rename_i h
      subst h
      rw [ih]
      by_cases hj : k = j
      · simp [hj]
      · have : ¬ j = k := fun e => hj e.symm
        simp [amapFind, hj, this]
    · rename_i h
      simp only [amapFind]
      by_cases hj : j = i
      · subst hj; simp [h]
      · simp [hj, ih]

theorem amapFind_set [DecidableEq α] {d v : α} {k j : Nat} {m : List (Nat × α)} :
    amapFind j (amapSet d k v m) = if k = j then (if v = d then none else some v) else amapFind j m := by
  induction m with
  | nil =>
    by_cases hv : v = d
    · simp [amapSet, hv, amapFind]
    · by_cases hj : k = j
      · simp [amapSet, hv, amapFind, hj]
      · have : ¬ j = k := fun e => hj e.symm
        simp [amapSet, hv, amapFind, hj, this]
  | cons p m ih =>
    obtain ⟨i, u⟩ := p
    simp only [amapSet]
    split
    · rename_i hki
      split
      · rename_i hv
        simp only [amapFind, amapFind_del]
        by_cases hj : j = i
        · have : ¬ k = j := by omega
          simp [hj, show ¬ k = i by omega]
        · by_cases hk : k = j
          · simp [hj, hk]
          · simp [hj, hk]
      · rename_i hv
        simp only [amapFind, amapFind_del]
        by_cases hk : k = j
        · simp [hk]
        · have : ¬ j = k := fun e => hk e.symm
          simp [hk, this]
    · split
      · rename_i h1 hki
        subst hki
        rw [ih]
        by_cases hj : k = j
        · simp [hj]
        · have : ¬ j = k := fun e => hj e.symm
          simp [hj, amapFind, this]
      · rename_i h1 hki
        simp only [amapFind]
        by_cases hj : j = i
        · subst hj; simp [hki]
        · simp [hj, ih]

/-- A read after a write: the key written gives the value, every other key what it gave. -/
theorem amapGet_set [DecidableEq α] {d d' v : α} {k j : Nat} {m : List (Nat × α)} (hd : k = j → d = d') :
    amapGet d' (amapSet d k v m) j = if k = j then v else amapGet d' m j := by
  simp only [amapGet, amapFind_set]
  by_cases hj : k = j
  · by_cases hv : v = d
    · simp [hj, hv, hd hj]
    · simp [hj, hv]
  · simp [hj]

theorem amapFind_filter {k : Nat} {f : Nat → Bool} {m : List (Nat × α)} :
    amapFind k (m.filter fun p => f p.1) = if f k then amapFind k m else none := by
  induction m with
  | nil => simp [amapFind]
  | cons p m ih =>
    obtain ⟨i, u⟩ := p
    by_cases hi : f i = true <;> by_cases hk : k = i
    · subst hk; simp [List.filter_cons, hi, amapFind]
    · simp [List.filter_cons, hi, amapFind, hk, ih]
    · subst hk; simp [List.filter_cons, hi, ih]
    · simp [List.filter_cons, hi, amapFind, hk, ih]

/-- A key outside the range left out reads as before, one inside as an unlisted key. -/
theorem amapGet_drop {d : α} {lo hi k : Nat} {m : List (Nat × α)} :
    amapGet d (amapDrop lo hi m) k = if lo ≤ k ∧ k < hi then d else amapGet d m k := by
  simp only [amapGet, amapDrop]
  rw [amapFind_filter (f := fun k => !(lo ≤ k && k < hi))]
  by_cases h : lo ≤ k ∧ k < hi
  · simp [h]
  · have : k < lo ∨ hi ≤ k := by omega
    simp [h, this]

/-! ### The canonical form -/

theorem amapAbove_mono {k j : Nat} {m : List (Nat × α)} (h : amapAbove j m = true) (hk : k ≤ j) : amapAbove k m = true := by
  cases m with
  | nil => rfl
  | cons p m =>
    obtain ⟨i, v⟩ := p
    simp only [amapAbove, Bool.and_eq_true, decide_eq_true_eq] at h ⊢
    exact ⟨by omega, h.2⟩

theorem amapSorted_of_above {k : Nat} {m : List (Nat × α)} (h : amapAbove k m = true) : amapSorted m = true := by
  cases m with
  | nil => rfl
  | cons p m =>
    simp only [amapAbove, Bool.and_eq_true] at h
    exact h.2

theorem amapDel_above {k j : Nat} {m : List (Nat × α)} (h : amapAbove j m = true) : amapAbove j (amapDel k m) = true := by
  induction m generalizing j with
  | nil => rfl
  | cons p m ih =>
    obtain ⟨i, u⟩ := p
    simp only [amapAbove, Bool.and_eq_true, decide_eq_true_eq] at h
    simp only [amapDel]
    split
    · exact ih (amapAbove_mono h.2 (by omega))
    · simp only [amapAbove, Bool.and_eq_true, decide_eq_true_eq]
      exact ⟨h.1, ih h.2⟩

theorem amapAbove_set [DecidableEq α] {d v : α} {k j : Nat} {m : List (Nat × α)} (h : amapAbove j m = true) (hj : j < k) :
    amapAbove j (amapSet d k v m) = true := by
  induction m generalizing j with
  | nil =>
    simp only [amapSet]
    split
    · rfl
    · simp [amapAbove, hj]
  | cons p m ih =>
    obtain ⟨i, u⟩ := p
    simp only [amapAbove, Bool.and_eq_true, decide_eq_true_eq] at h
    simp only [amapSet]
    split
    · rename_i hk
      split
      · simp [amapAbove, h.1, amapDel_above h.2]
      · simp [amapAbove, hk, hj, amapDel_above h.2]
    · split
      · exact ih (amapAbove_mono h.2 (by omega)) hj
      · simp only [amapAbove, Bool.and_eq_true, decide_eq_true_eq]
        exact ⟨h.1, ih h.2 (by omega)⟩

/-- A write keeps the keys strictly rising. -/
theorem amapSorted_set [DecidableEq α] {d v : α} {k : Nat} {m : List (Nat × α)} (h : amapSorted m = true) :
    amapSorted (amapSet d k v m) = true := by
  induction m with
  | nil =>
    simp only [amapSet]
    split <;> rfl
  | cons p m ih =>
    obtain ⟨i, u⟩ := p
    simp only [amapSorted] at h
    simp only [amapSet]
    split
    · rename_i hk
      split
      · exact amapDel_above h
      · simp [amapSorted, amapAbove, hk, amapDel_above h]
    · split
      · exact ih (amapSorted_of_above h)
      · exact amapAbove_set h (by omega)

theorem amapDel_mem {k : Nat} {m : List (Nat × α)} {p : Nat × α} (h : p ∈ amapDel k m) : p ∈ m := by
  induction m with
  | nil => exact h
  | cons q m ih =>
    obtain ⟨i, u⟩ := q
    simp only [amapDel] at h
    split at h
    · exact List.mem_cons_of_mem _ (ih h)
    · rcases List.mem_cons.1 h with h | h
      · simp [h]
      · exact List.mem_cons_of_mem _ (ih h)

theorem amapSet_mem [DecidableEq α] {d v : α} {k : Nat} {m : List (Nat × α)} {p : Nat × α} (h : p ∈ amapSet d k v m) :
    p ∈ m ∨ (p = (k, v) ∧ v ≠ d) := by
  induction m with
  | nil =>
    simp only [amapSet] at h
    split at h
    · exact absurd h (by simp)
    · right; simp_all
  | cons q m ih =>
    obtain ⟨i, u⟩ := q
    simp only [amapSet] at h
    split at h
    · split at h
      · rcases List.mem_cons.1 h with h | h
        · left; simp [h]
        · exact .inl (List.mem_cons_of_mem _ (amapDel_mem h))
      · rcases List.mem_cons.1 h with h | h
        · right; simp_all
        · rcases List.mem_cons.1 h with h | h
          · left; simp [h]
          · exact .inl (List.mem_cons_of_mem _ (amapDel_mem h))
    · split at h
      · rcases ih h with h | h
        · exact .inl (List.mem_cons_of_mem _ h)
        · exact .inr h
      · rcases List.mem_cons.1 h with h | h
        · left; simp [h]
        · rcases ih h with h | h
          · exact .inl (List.mem_cons_of_mem _ h)
          · exact .inr h

/-- A write keeps the canonical form. -/
theorem amapWf_set [DecidableEq α] {d : Nat → α} {v : α} {k : Nat} {m : List (Nat × α)} (h : amapWf d m = true) :
    amapWf d (amapSet (d k) k v m) = true := by
  simp only [amapWf, Bool.and_eq_true, List.all_eq_true, decide_eq_true_eq] at h ⊢
  refine ⟨amapSorted_set h.1, fun p hp => ?_⟩
  rcases amapSet_mem hp with hp | ⟨hp, hv⟩
  · exact h.2 p hp
  · subst hp; exact hv

theorem amapAbove_filter {j : Nat} {f : Nat × α → Bool} {m : List (Nat × α)} (h : amapAbove j m = true) :
    amapAbove j (m.filter f) = true := by
  induction m generalizing j with
  | nil => rfl
  | cons p m ih =>
    obtain ⟨i, u⟩ := p
    simp only [amapAbove, Bool.and_eq_true, decide_eq_true_eq] at h
    simp only [List.filter_cons]
    split
    · simp only [amapAbove, Bool.and_eq_true, decide_eq_true_eq]
      exact ⟨h.1, ih h.2⟩
    · exact ih (amapAbove_mono h.2 (by omega))

/-- Leaving out a range of keys keeps the canonical form. -/
theorem amapWf_drop [DecidableEq α] {d : Nat → α} {lo hi : Nat} {m : List (Nat × α)} (h : amapWf d m = true) :
    amapWf d (amapDrop lo hi m) = true := by
  simp only [amapWf, Bool.and_eq_true, List.all_eq_true, decide_eq_true_eq] at h ⊢
  constructor
  · cases m with
    | nil => rfl
    | cons p m =>
      obtain ⟨i, u⟩ := p
      simp only [amapDrop, List.filter_cons]
      split
      · exact amapAbove_filter h.1
      · exact amapSorted_of_above (amapAbove_filter h.1)
  · intro p hp
    exact h.2 p (List.mem_filter.1 hp).1

end Sys2Proof.Machine
end

