-- ==== Sys2Proof/Laws/Regs.lean ====
section
/-! SUPPORT. Laws/Regs.lean: register words and their fields: a read after a write of the same field, of another field and of another
register. -/

namespace Sys2Proof.Machine

/-! ### Bits of a word -/

theorem testBit_setBits {w : Word} {hi lo v : Nat} (h1 : lo ≤ hi) (h2 : hi < 32) (i : Nat) :
    (setBits w hi lo v).toNat.testBit i = if lo ≤ i ∧ i ≤ hi then v.testBit (i - lo) else w.toNat.testBit i := by
  have hw := w.isLt
  obtain ⟨k, rfl⟩ : ∃ k, hi = lo + k := ⟨hi - lo, by omega⟩
  have e : w.toNat / 2 ^ (lo + k + 1) * 2 ^ (lo + k + 1) + v % 2 ^ (lo + k - lo + 1) * 2 ^ lo + w.toNat % 2 ^ lo
      = 2 ^ lo * (2 ^ (k + 1) * (w.toNat / 2 ^ (lo + k + 1)) + v % 2 ^ (k + 1)) + w.toNat % 2 ^ lo := by
    rw [show lo + k - lo + 1 = k + 1 by omega, show lo + k + 1 = lo + (k + 1) by omega, pow_add]; ring
  have hm : v % 2 ^ (k + 1) < 2 ^ (k + 1) := Nat.mod_lt _ (by positivity)
  have hl : w.toNat % 2 ^ lo < 2 ^ lo := Nat.mod_lt _ (by positivity)
  have tb : ∀ j, (2 ^ lo * (2 ^ (k + 1) * (w.toNat / 2 ^ (lo + k + 1)) + v % 2 ^ (k + 1)) + w.toNat % 2 ^ lo).testBit j
      = if lo ≤ j ∧ j ≤ lo + k then v.testBit (j - lo) else w.toNat.testBit j := by
    intro j
    rw [Nat.testBit_two_pow_mul_add _ hl]
    by_cases hj : j < lo
    · rw [if_pos hj, if_neg (by omega), Nat.testBit_mod_two_pow]; simp [hj]
    · rw [if_neg hj, Nat.testBit_two_pow_mul_add _ hm]
      by_cases hk : j - lo < k + 1
      · rw [if_pos hk, if_pos (by omega), Nat.testBit_mod_two_pow]; simp [hk]
      · rw [if_neg hk, if_neg (by omega), Nat.testBit_div_two_pow]; congr 1; omega
  unfold setBits
  rw [e, BitVec.toNat_ofNat, Nat.testBit_mod_two_pow, tb]
  by_cases hi32 : i < 32
  · simp [hi32]
  · have : w.toNat.testBit i = false := Nat.testBit_lt_two_pow (lt_of_lt_of_le hw (Nat.pow_le_pow_right (by norm_num) (by omega)))
    rw [if_neg (by omega), this]; simp

theorem testBit_bits {w : Word} {hi lo : Nat} (i : Nat) :
    (bits w hi lo).testBit i = (decide (i < hi - lo + 1) && w.toNat.testBit (lo + i)) := by
  unfold bits
  rw [Nat.testBit_mod_two_pow, Nat.testBit_div_two_pow, Nat.add_comm i lo]

/-- The field just written reads as the value, taken modulo the field's width. -/
theorem bits_setBits {w : Word} {hi lo v : Nat} (h1 : lo ≤ hi) (h2 : hi < 32) :
    bits (setBits w hi lo v) hi lo = v % 2 ^ (hi - lo + 1) := by
  apply Nat.eq_of_testBit_eq
  intro i
  rw [testBit_bits, testBit_setBits h1 h2, Nat.testBit_mod_two_pow]
  by_cases hi : i < hi - lo + 1
  · rw [if_pos (by omega)]; congr 2; omega
  · simp [hi]

/-- A field that shares no bit with the one written reads as before. -/
theorem bits_setBits_of_disjoint {w : Word} {hi lo v hi' lo' : Nat} (h1 : lo ≤ hi) (h2 : hi < 32) (h3 : lo' ≤ hi')
    (h : hi' < lo ∨ hi < lo') : bits (setBits w hi lo v) hi' lo' = bits w hi' lo' := by
  apply Nat.eq_of_testBit_eq
  intro i
  rw [testBit_bits, testBit_bits, testBit_setBits h1 h2]
  by_cases hi : i < hi' - lo' + 1
  · rw [if_neg (by omega)]
  · simp [hi]

theorem bits_lt (w : Word) (hi lo : Nat) : bits w hi lo < 2 ^ (hi - lo + 1) := Nat.mod_lt _ (by positivity)

/-! ### Stored words -/

@[simp] theorem Dev.word_setWord (d : Dev) (a b : Nat) (w : Word) : (d.setWord a w).word b = if a = b then w else d.word b := by
  unfold Dev.setWord Dev.word
  exact amapGet_set (by rintro rfl; rfl)

theorem Dev.word_put_of_ne {d : Dev} {f : Fld} {v a : Nat} (ha : f.addr ≠ a) : (d.put f v).word a = d.word a := by
  simp [Dev.put, ha]

theorem Dev.word_put (d : Dev) (f : Fld) (v : Nat) : (d.put f v).word f.addr = setBits (d.word f.addr) f.hi f.lo v := by
  simp [Dev.put]

/-- A field put reads as its value modulo its width. -/
theorem Dev.get_put {d : Dev} {f : Fld} {v : Nat} (h1 : f.lo ≤ f.hi) (h2 : f.hi < 32) :
    (d.put f v).get f = v % 2 ^ (f.hi - f.lo + 1) := by
  unfold Dev.get
  rw [Dev.word_put, bits_setBits h1 h2]

/-- A field of another register reads as before. -/
theorem Dev.get_put_of_ne {d : Dev} {f g : Fld} {v : Nat} (ha : f.addr ≠ g.addr) : (d.put f v).get g = d.get g := by
  unfold Dev.get
  rw [Dev.word_put_of_ne ha]

/-- A field of the same register that shares no bit with the one put reads as before. -/
theorem Dev.get_put_of_disjoint {d : Dev} {f g : Fld} {v : Nat} (h1 : f.lo ≤ f.hi) (h2 : f.hi < 32) (h3 : g.lo ≤ g.hi)
    (hd : g.hi < f.lo ∨ f.hi < g.lo) : (d.put f v).get g = d.get g := by
  by_cases ha : f.addr = g.addr
  · unfold Dev.get
    rw [← ha, Dev.word_put, bits_setBits_of_disjoint h1 h2 h3 hd]
  · exact Dev.get_put_of_ne ha

/-- A field of another register reads as before a word is set. -/
theorem Dev.get_setWord_of_ne {d : Dev} {a : Nat} {w : Word} {g : Fld} (ha : a ≠ g.addr) : (d.setWord a w).get g = d.get g := by
  simp [Dev.get, ha]

/-- Registers put back to their reset values read as the reset table says; the others as before. -/
theorem Dev.word_resetRange (d : Dev) (lo hi a : Nat) :
    (d.resetRange lo hi).word a = if lo ≤ a ∧ a < hi then resetWord a else d.word a := by
  unfold Dev.resetRange Dev.word
  exact amapGet_drop

/-! ### The canonical form -/

theorem Dev.setWord_regsWf {d : Dev} (h : d.regsWf = true) (a : Nat) (w : Word) : (d.setWord a w).regsWf = true := by
  unfold Dev.setWord Dev.regsWf
  exact amapWf_set h

theorem Dev.put_regsWf {d : Dev} (h : d.regsWf = true) (f : Fld) (v : Nat) : (d.put f v).regsWf = true := Dev.setWord_regsWf h _ _

theorem Dev.resetRange_regsWf {d : Dev} (h : d.regsWf = true) (lo hi : Nat) : (d.resetRange lo hi).regsWf = true := by
  unfold Dev.resetRange Dev.regsWf
  exact amapWf_drop h

end Sys2Proof.Machine
end

