-- ==== Sys2Proof/Laws/Settle.lean ====
section
/-! SUPPORT. Laws/Settle.lean: what a command ends with: nothing where the device is at rest, and never a consequence left over. -/

namespace Sys2Proof.Machine

open Reg

/-- Consequences carried out leave none over. -/
theorem Chip.handleAll_todo (n : Nat) (s : Chip) : (s.handleAll n).dev.todo = [] := by
  induction n generalizing s with
  | zero => rfl
  | succ n ih =>
    unfold Chip.handleAll
    split
    · assumption
    · exact ih _

theorem Chip.settle_todo (s : Chip) : s.settle.dev.todo = [] := Chip.handleAll_todo _ _

theorem Chip.handleAll_of_nil {n : Nat} {s : Chip} (h : s.dev.todo = []) : s.handleAll (n + 1) = s := by
  unfold Chip.handleAll
  split
  · rfl
  · rename_i h'; rw [h] at h'; cases h'

theorem Dev.runDefer_of_nil {d : Dev} (h : d.adm.defer = []) : d.runDefer = d := by
  have e : (d.onAdm fun a => { a with defer := a.defer.filter (fun x => !(x.2 ≤ d.tb)) }) = d := by
    have h2 : d.adm.defer.filter (fun x => !(x.2 ≤ d.tb)) = d.adm.defer := by rw [h]; rfl
    show { d with adm := { d.adm with defer := d.adm.defer.filter (fun x => !(x.2 ≤ d.tb)) } } = d
    rw [h2]
  unfold Dev.runDefer
  rw [e]
  simp only [h, List.filter_nil, List.foldl_nil]

theorem Dev.sampleItc_of_awake {d : Dev} (h : d.watching = false) : d.sampleItc = d := by
  unfold Dev.sampleItc
  rw [h]
  rfl

theorem Dev.farWakeWire_of_equal {d : Dev} (h : d.flag ESPI_CTL_EN = true → d.bit ESPI_VWOUT_HWW 1 = d.flag HPT_HOLD_WAKE) :
    d.farWakeWire = d := by
  unfold Dev.farWakeWire
  split
  · rename_i hc
    simp only [Bool.and_eq_true] at hc
    unfold Dev.espiHwWire
    rw [if_pos (h hc.1)]
  · rfl

theorem Chip.advance_of_phase {s : Chip} (h : s.dev.get PWR_STAT_PHASE = 0) : s.advance = s := by
  unfold Chip.advance
  simp [h]

/-- A command that leaves the device at rest has no consequences. -/
theorem Chip.settle_of_calm {s : Chip} (h : Calm s.dev) : s.settle = s := by
  unfold Chip.settle
  rw [Chip.handleAll_of_nil h.todo]
  have e : (s.onDev fun d => (d.runDefer.sampleItc).farWakeWire) = s := by
    unfold Chip.onDev
    simp only
    rw [Dev.runDefer_of_nil h.defer, Dev.sampleItc_of_awake h.awake, Dev.farWakeWire_of_equal h.wire]
  simp only [e]
  rw [Chip.advance_of_phase h.phase, Chip.handleAll_of_nil h.todo]

theorem State.act_of_calm {s : State} {f : Chip → Chip} (h : Calm (f s.chip).dev) : s.act f = .next { s with chip := f s.chip } := by
  unfold State.act
  rw [Chip.settle_of_calm h]

end Sys2Proof.Machine
end

