-- ==== Sys2Proof/Laws/State.lean ====
section
/-! SUPPORT. Laws/State.lean: what each update of the state leaves, field by field. -/

namespace Sys2Proof.Machine

variable (s : Chip) (d : Dev) (c : Core) (e : CoreId)

/-! ### The device as a whole -/

@[simp] theorem Chip.onDev_dev (f : Dev → Dev) : (s.onDev f).dev = f s.dev := rfl
@[simp] theorem Chip.onDev_mem (f : Dev → Dev) : (s.onDev f).mem = s.mem := rfl
@[simp] theorem Chip.onDev_cores (f : Dev → Dev) : (s.onDev f).cores = s.cores := rfl
@[simp] theorem Chip.onCore_dev (f : Core → Core) : (s.onCore e f).dev = s.dev := rfl
@[simp] theorem Chip.onCore_mem (f : Core → Core) : (s.onCore e f).mem = s.mem := rfl

theorem Chip.onCore_core (f : Core → Core) : (s.onCore e f).cores[e] = f s.cores[e] := by
  simp [Chip.onCore]

@[simp] theorem Chip.onCore_val (f : Core → Core) : (s.onCore e f).cores[e.val] = f s.cores[e.val] := by
  simp [Chip.onCore]

theorem Chip.onCore_other (f : Core → Core) {k : CoreId} (h : k ≠ e) : (s.onCore e f).cores[k] = s.cores[k] := by
  have : e.val ≠ k.val := fun x => h (Fin.ext x.symm)
  simp [Chip.onCore, Vector.getElem_set, this]

@[simp] theorem Chip.onCore_onCore (f g : Core → Core) : (s.onCore e f).onCore e g = s.onCore e fun c => g (f c) := by
  simp [Chip.onCore]

theorem Chip.onCore_same {f : Core → Core} (h : f s.cores[e] = s.cores[e]) : s.onCore e f = s := by
  unfold Chip.onCore
  rw [h]
  simp

theorem Chip.onCore_congr {f g : Core → Core} (h : f s.cores[e] = g s.cores[e]) : s.onCore e f = s.onCore e g := by
  unfold Chip.onCore
  rw [h]

@[simp] theorem Chip.onDev_onDev (f g : Dev → Dev) : (s.onDev f).onDev g = s.onDev fun d => g (f d) := rfl
theorem Chip.onDev_onCore (f : Dev → Dev) (g : Core → Core) : (s.onDev f).onCore e g = (s.onCore e g).onDev f := rfl

/-! ### Registers of a core -/

@[simp] theorem Core.rd_zero : c.rd 0 = 0 := rfl
@[simp] theorem Core.wr_zero (v : Word) : c.wr 0 v = c := rfl

theorem Core.rd_wr (r k : GReg) (v : Word) : (c.wr r v).rd k = if k = r ∧ r ≠ 0 then v else c.rd k := by
  unfold Core.wr Core.rd
  by_cases hr : r = 0
  · simp [hr]
  · by_cases hk : k = 0
    · subst hk
      have : ¬ (0 : GReg) = r := fun e => hr e.symm
      simp [this]
    · by_cases h : k = r
      · subst h; simp [hk]
      · have : r.val ≠ k.val := fun x => h (Fin.ext x.symm)
        simp [hr, hk, h, Vector.getElem_set, this]

@[simp] theorem Core.wr_cb (r : GReg) (v : Word) : (c.wr r v).cb = c.cb := by unfold Core.wr; split <;> rfl
@[simp] theorem Core.wr_db (r : GReg) (v : Word) : (c.wr r v).db = c.db := by unfold Core.wr; split <;> rfl
@[simp] theorem Core.wr_mode (r : GReg) (v : Word) : (c.wr r v).mode = c.mode := by unfold Core.wr; split <;> rfl
@[simp] theorem Core.wr_off (r : GReg) (v : Word) : (c.wr r v).off = c.off := by unfold Core.wr; split <;> rfl
@[simp] theorem Core.wr_df (r : GReg) (v : Word) : (c.wr r v).df = c.df := by unfold Core.wr; split <;> rfl
@[simp] theorem Core.wr_rx (r : GReg) (v : Word) : (c.wr r v).rx = c.rx := by unfold Core.wr; split <;> rfl
@[simp] theorem Core.wr_pri (r : GReg) (v : Word) : (c.wr r v).pri = c.pri := by unfold Core.wr; split <;> rfl
@[simp] theorem Core.wr_ie (r : GReg) (v : Word) : (c.wr r v).ie = c.ie := by unfold Core.wr; split <;> rfl
@[simp] theorem Core.wr_km (r : GReg) (v : Word) : (c.wr r v).km = c.km := by unfold Core.wr; split <;> rfl
@[simp] theorem Core.wr_epc (r : GReg) (v : Word) : (c.wr r v).epc = c.epc := by unfold Core.wr; split <;> rfl
@[simp] theorem Core.wr_ecause (r : GReg) (v : Word) : (c.wr r v).ecause = c.ecause := by unfold Core.wr; split <;> rfl
@[simp] theorem Core.wr_eval (r : GReg) (v : Word) : (c.wr r v).eval = c.eval := by unfold Core.wr; split <;> rfl
@[simp] theorem Core.wr_vbase (r : GReg) (v : Word) : (c.wr r v).vbase = c.vbase := by unfold Core.wr; split <;> rfl
@[simp] theorem Core.wr_rc (r : GReg) (v : Word) : (c.wr r v).rc = c.rc := by unfold Core.wr; split <;> rfl
@[simp] theorem Core.wr_splim (r : GReg) (v : Word) : (c.wr r v).splim = c.splim := by unfold Core.wr; split <;> rfl
@[simp] theorem Core.wr_regions (r : GReg) (v : Word) : (c.wr r v).regions = c.regions := by unfold Core.wr; split <;> rfl
@[simp] theorem Core.wr_tbh (r : GReg) (v : Word) : (c.wr r v).tbh = c.tbh := by unfold Core.wr; split <;> rfl
@[simp] theorem Core.wr_tblPair (r : GReg) (v : Word) : (c.wr r v).tblPair = c.tblPair := by unfold Core.wr; split <;> rfl
@[simp] theorem Core.wr_shadows (r : GReg) (v : Word) : (c.wr r v).shadows = c.shadows := by unfold Core.wr; split <;> rfl
@[simp] theorem Core.wr_resv (r : GReg) (v : Word) : (c.wr r v).resv = c.resv := by unfold Core.wr; split <;> rfl
@[simp] theorem Core.wr_sb (r : GReg) (v : Word) : (c.wr r v).sb = c.sb := by unfold Core.wr; split <;> rfl
@[simp] theorem Core.wr_sbErr (r : GReg) (v : Word) : (c.wr r v).sbErr = c.sbErr := by unfold Core.wr; split <;> rfl
@[simp] theorem Core.wr_impErr (r : GReg) (v : Word) : (c.wr r v).impErr = c.impErr := by unfold Core.wr; split <;> rfl
@[simp] theorem Core.wr_dcache (r : GReg) (v : Word) : (c.wr r v).dcache = c.dcache := by unfold Core.wr; split <;> rfl
@[simp] theorem Core.wr_icache (r : GReg) (v : Word) : (c.wr r v).icache = c.icache := by unfold Core.wr; split <;> rfl
@[simp] theorem Core.wr_wait (r : GReg) (v : Word) : (c.wr r v).wait = c.wait := by unfold Core.wr; split <;> rfl
@[simp] theorem Core.wr_run (r : GReg) (v : Word) : (c.wr r v).run = c.run := by unfold Core.wr; split <;> rfl
@[simp] theorem Core.wr_halted (r : GReg) (v : Word) : (c.wr r v).halted = c.halted := by unfold Core.wr; split <;> rfl
@[simp] theorem Core.wr_present (r : GReg) (v : Word) : (c.wr r v).present = c.present := by unfold Core.wr; split <;> rfl
@[simp] theorem Core.wr_resumed (r : GReg) (v : Word) : (c.wr r v).resumed = c.resumed := by unfold Core.wr; split <;> rfl

/-! ### Units of the device -/

@[simp] theorem Dev.setWord_prv (a : Nat) (w : Word) : (d.setWord a w).prv = d.prv := rfl
@[simp] theorem Dev.setWord_itc (a : Nat) (w : Word) : (d.setWord a w).itc = d.itc := rfl
@[simp] theorem Dev.setWord_hpt (a : Nat) (w : Word) : (d.setWord a w).hpt = d.hpt := rfl
@[simp] theorem Dev.setWord_dpt (a : Nat) (w : Word) : (d.setWord a w).dpt = d.dpt := rfl
@[simp] theorem Dev.setWord_tbs (a : Nat) (w : Word) : (d.setWord a w).tbs = d.tbs := rfl
@[simp] theorem Dev.setWord_rails (a : Nat) (w : Word) : (d.setWord a w).rails = d.rails := rfl
@[simp] theorem Dev.setWord_rseq (a : Nat) (w : Word) : (d.setWord a w).rseq = d.rseq := rfl
@[simp] theorem Dev.setWord_adm (a : Nat) (w : Word) : (d.setWord a w).adm = d.adm := rfl
@[simp] theorem Dev.setWord_pwr (a : Nat) (w : Word) : (d.setWord a w).pwr = d.pwr := rfl
@[simp] theorem Dev.setWord_rng (a : Nat) (w : Word) : (d.setWord a w).rng = d.rng := rfl
@[simp] theorem Dev.setWord_ports (a : Nat) (w : Word) : (d.setWord a w).ports = d.ports := rfl
@[simp] theorem Dev.setWord_sec (a : Nat) (w : Word) : (d.setWord a w).sec = d.sec := rfl
@[simp] theorem Dev.setWord_cur (a : Nat) (w : Word) : (d.setWord a w).cur = d.cur := rfl
@[simp] theorem Dev.setWord_dbg (a : Nat) (w : Word) : (d.setWord a w).dbg = d.dbg := rfl
@[simp] theorem Dev.setWord_cx (a : Nat) (w : Word) : (d.setWord a w).cx = d.cx := rfl
@[simp] theorem Dev.setWord_todo (a : Nat) (w : Word) : (d.setWord a w).todo = d.todo := rfl
@[simp] theorem Dev.setWord_out (a : Nat) (w : Word) : (d.setWord a w).out = d.out := rfl
@[simp] theorem Dev.setWord_latch (a : Nat) (w : Word) : (d.setWord a w).latch = d.latch := rfl
@[simp] theorem Dev.setWord_tbC (a : Nat) (w : Word) : (d.setWord a w).tbC = d.tbC := rfl
@[simp] theorem Dev.setWord_tbF (a : Nat) (w : Word) : (d.setWord a w).tbF = d.tbF := rfl
@[simp] theorem Dev.setWord_fresh (a : Nat) (w : Word) : (d.setWord a w).fresh = d.fresh := rfl
@[simp] theorem Dev.put_prv (x : Fld) (v : Nat) : (d.put x v).prv = d.prv := rfl
@[simp] theorem Dev.put_itc (x : Fld) (v : Nat) : (d.put x v).itc = d.itc := rfl
@[simp] theorem Dev.put_hpt (x : Fld) (v : Nat) : (d.put x v).hpt = d.hpt := rfl
@[simp] theorem Dev.put_dpt (x : Fld) (v : Nat) : (d.put x v).dpt = d.dpt := rfl
@[simp] theorem Dev.put_tbs (x : Fld) (v : Nat) : (d.put x v).tbs = d.tbs := rfl
@[simp] theorem Dev.put_rails (x : Fld) (v : Nat) : (d.put x v).rails = d.rails := rfl
@[simp] theorem Dev.put_rseq (x : Fld) (v : Nat) : (d.put x v).rseq = d.rseq := rfl
@[simp] theorem Dev.put_adm (x : Fld) (v : Nat) : (d.put x v).adm = d.adm := rfl
@[simp] theorem Dev.put_pwr (x : Fld) (v : Nat) : (d.put x v).pwr = d.pwr := rfl
@[simp] theorem Dev.put_rng (x : Fld) (v : Nat) : (d.put x v).rng = d.rng := rfl
@[simp] theorem Dev.put_ports (x : Fld) (v : Nat) : (d.put x v).ports = d.ports := rfl
@[simp] theorem Dev.put_sec (x : Fld) (v : Nat) : (d.put x v).sec = d.sec := rfl
@[simp] theorem Dev.put_cur (x : Fld) (v : Nat) : (d.put x v).cur = d.cur := rfl
@[simp] theorem Dev.put_dbg (x : Fld) (v : Nat) : (d.put x v).dbg = d.dbg := rfl
@[simp] theorem Dev.put_cx (x : Fld) (v : Nat) : (d.put x v).cx = d.cx := rfl
@[simp] theorem Dev.put_todo (x : Fld) (v : Nat) : (d.put x v).todo = d.todo := rfl
@[simp] theorem Dev.put_out (x : Fld) (v : Nat) : (d.put x v).out = d.out := rfl
@[simp] theorem Dev.put_latch (x : Fld) (v : Nat) : (d.put x v).latch = d.latch := rfl
@[simp] theorem Dev.put_tbC (x : Fld) (v : Nat) : (d.put x v).tbC = d.tbC := rfl
@[simp] theorem Dev.put_tbF (x : Fld) (v : Nat) : (d.put x v).tbF = d.tbF := rfl
@[simp] theorem Dev.put_fresh (x : Fld) (v : Nat) : (d.put x v).fresh = d.fresh := rfl

end Sys2Proof.Machine
end

