-- ==== Sys2Proof/Laws/Core.lean ====
section
/-! SUPPORT. Laws/Core.lean: an instruction of a core that has nothing else due: what stands around its effect changes nothing. -/

namespace Sys2Proof.Machine

open Reg

/-! ### Counters and comparators that are off -/

theorem Dev.bit_of_get_zero {d : Dev} {f : Fld} (h : d.get f = 0) (b : Nat) : d.bit f b = false := by
  simp [Dev.bit, h]

theorem Dev.pmCount1_off {d : Dev} {k j : Nat} (h : d.get (CAB_PMCTL_EN k j) = 0) (km : Bool) (ev n c : Nat) :
    d.pmCount1 k j km ev n c = d := by
  simp [Dev.pmCount1, Dev.bit_of_get_zero h]

theorem Chip.countIn_off {s : Chip} {e : CoreId} (h : isCur e = false → s.dev.get (CAB_PMCTL_EN (cabOf e) (slotOf e)) = 0)
    (km : Bool) (ev n : Nat) : s.countIn e km ev n = s := by
  unfold Chip.countIn
  split
  · rfl
  · rename_i hc
    have hk : isCur e = false := by simp at hc; exact hc.1.1
    have := h hk
    simp [Chip.onDev, List.range_succ, Dev.pmCount1_off this]

theorem Chip.count_off {s : Chip} {e : CoreId} (h : isCur e = false → s.dev.get (CAB_PMCTL_EN (cabOf e) (slotOf e)) = 0)
    (ev n : Nat) : s.count e ev n = s := Chip.countIn_off h _ _ _

theorem Chip.retired_off {s : Chip} {e : CoreId} (h : isCur e = false → s.dev.get (CAB_PMCTL_EN (cabOf e) (slotOf e)) = 0)
    (km : Bool) (op : Op) : s.retired e km op = s := by
  unfold Chip.retired
  generalize op.events = l
  induction l with
  | nil => rfl
  | cons a l ih => rw [List.foldl_cons, Chip.countIn_off h, ih]

theorem Chip.timed_off {s : Chip} {e : CoreId} (h : isCur e = false → s.dev.get (CAB_PMCTL_EN (cabOf e) (slotOf e)) = 0)
    (km : Bool) : s.timed e km = s := by
  unfold Chip.timed
  split
  · rfl
  · rename_i hc
    have hk : isCur e = false := by simpa using hc
    have hz : ∀ ev, s.dev.counts e ev = false := by
      intro ev
      simp [Dev.counts, Dev.bit_of_get_zero (h hk)]
    generalize timedCodes s.cores[e].det = l
    induction l with
    | nil => rfl
    | cons a l ih =>
      rw [List.foldl_cons]
      simp only [hz, Bool.false_eq_true, if_false] at ih ⊢
      exact ih

theorem Dev.fetchHits_off {d : Dev} {e : CoreId} (h : ∀ c ∈ cmpsOf e, d.get c.action = 0) (b a : Nat) : d.fetchHits e b a = [] := by
  unfold Dev.fetchHits
  rw [List.filter_eq_nil_iff]
  intro c hc
  simp [Dev.bit_of_get_zero (h c hc)]

theorem Dev.dataHits_off {d : Dev} {e : CoreId} (h : ∀ c ∈ cmpsOf e, d.get c.action = 0) (b : Nat) (t : Touch) :
    d.dataHits e b t = [] := by
  unfold Dev.dataHits
  rw [List.filter_eq_nil_iff]
  intro c hc
  simp [Dev.bit_of_get_zero (h c hc)]

theorem Chip.traceFetch_off {s : Chip} {e : CoreId} (h : ∀ c ∈ cmpsOf e, s.dev.get c.action = 0) (pc : Nat) (as : List Nat) :
    s.traceFetch e pc as = s := by
  unfold Chip.traceFetch
  induction as with
  | nil => rfl
  | cons a as ih =>
    rw [List.foldl_cons]
    have : (s.onDev fun d => d.cmpPackets e (d.fetchHits e 1 a) a pc) = s := by
      unfold Chip.onDev
      simp only [Dev.fetchHits_off h, Dev.cmpPackets, List.foldl_nil]
    rw [this, ih]

theorem Chip.fetchStop_off {s : Chip} {e : CoreId} (h : ∀ c ∈ cmpsOf e, s.dev.get c.action = 0) (op : Op) : s.fetchStop e op = s := by
  unfold Chip.fetchStop
  simp [Dev.fetchHits_off h]

theorem Chip.touched_off {s : Chip} {e : CoreId} (h : ∀ c ∈ cmpsOf e, s.dev.get c.action = 0)
    (hc : isCur e = false → s.dev.get (CAB_PMCTL_EN (cabOf e) (slotOf e)) = 0) (x : Ctx) (t : DataAcc) : s.touched e x t = s := by
  unfold Chip.touched
  have hn : ∀ km ev n, s.countIn e km ev n = s := Chip.countIn_off hc
  simp only [hn, ite_self]
  split
  · rfl
  · simp [Dev.dataHits_off h, Dev.cmpPackets, Chip.onDev]

theorem Chip.haltEffect_off {s : Chip} {e : CoreId} (h : s.dev.dbg.haltReq.getLsbD e.val = false) : s.haltEffect e = s := by
  unfold Chip.haltEffect
  simp only [h, Bool.false_and, Bool.false_eq_true, if_false]

/-! ### Shadows -/

theorem Chip.counted_none {s : Chip} {e : CoreId} (h : s.cores[e].shadows = []) : s.counted e [] = s := by
  unfold Chip.counted
  have e1 : (s.onCore e fun c =>
      let c := c.shadowStep
      { c with shadows := c.shadows ++ [] }) = s := by
    apply Chip.onCore_same
    generalize s.cores[e] = c at h
    cases c
    simp at h
    subst h
    simp [Core.shadowStep]
  simp only [e1]
  simp

/-! ### Around an instruction -/

theorem Chip.drainAll_empty {s : Chip} {e : CoreId} (h : s.cores[e].sb = []) (h2 : s.cores[e].sbErr = []) : s.drainAll e = s := by
  unfold Chip.drainAll
  rw [h]
  simp only [List.length_nil, Chip.drainN]
  apply Chip.onCore_same
  generalize s.cores[e] = c at h h2
  cases c
  simp at h h2
  subst h h2
  simp

variable {s : Chip} {e : CoreId}

theorem Steady.begin_eq (h : Steady s e) : s.begin e = s := by
  unfold Chip.begin
  rw [if_neg h.awake]

theorem Steady.impDue_eq (h : Steady s e) : s.impDue e = false := by
  unfold Chip.impDue
  rw [h.replies]
  rfl

theorem Steady.halted_eq (h : Steady s e) : s.cores[e].halted = false := by
  have := h.runs
  simp only [Chip.canRun, Chip.ready, Bool.and_eq_true, Bool.not_eq_true'] at this
  exact this.1.1.1.1.2

theorem Steady.wait_eq (h : Steady s e) : s.cores[e].wait = .none := by
  have := h.runs
  simp only [Chip.canRun, Bool.and_eq_true, beq_iff_eq] at this
  exact this.2

theorem Steady.retired_eq (h : Steady s e) (km : Bool) (op : Op) : s.retired e km op = s := Chip.retired_off h.counters km op

theorem Steady.drained_eq (h : Steady s e) : (if s.cores[e].det = true then s.drainAll e else s) = s := by
  split
  · rename_i hdet
    exact Chip.drainAll_empty (h.stores hdet).1 (h.stores hdet).2
  · rfl

theorem Steady.buffer_eq (h : Steady s e) : (s.cores[e].det && !s.cores[e].sb.isEmpty) = false := by
  cases hdet : s.cores[e].det
  · rfl
  · rw [(h.stores hdet).1]
    rfl

theorem Steady.attempt_eq (h : Steady s e) (op : Op) (body : Word) :
    s.attempt e op body = s.effect e (ownCtx e s.cores[e]) op body := by
  obtain ⟨w, hw⟩ := h.fetched
  unfold Chip.attempt
  simp only [hw]
  rw [Chip.timed_off h.counters]

theorem Chip.fromBoundary_eq {op : Op} {body : Word} (h1 : s.begin e = s) (h2 : s.impDue e = false)
    (h3 : (if s.cores[e].det = true then s.drainAll e else s) = s) (h4 : (s.cores[e].det && !s.cores[e].sb.isEmpty) = false)
    (h5 : s.fetchStop e op = s) (h6 : s.cores[e].halted = false) :
    s.fromBoundary e op body = s.decided e op body true (s.attempt e op body) := by
  unfold Chip.fromBoundary
  simp only [h1, h2, h3, h4, h5, h6, Bool.false_eq_true, if_false]

/-- What an instruction ends in stands where it is no cause, or no interrupt can come before it (R71). -/
theorem Chip.decided_eq {op : Op} {body : Word} {offers : Bool} {p : Chip × Ran} (h : p.2.traps = false ∨ s.before e op = none) :
    s.decided e op body offers p = p.1.conclude e (ownCtx e s.cores[e]) op body s.cores[e] p.2 := by
  obtain ⟨t, r⟩ := p
  unfold Chip.decided
  rcases h with h | h
  · simp only at h
    simp only [h, Bool.false_and, Bool.false_eq_true, if_false]
  · rw [h]
    simp only [ite_self]

theorem Chip.before_none {op : Op} (h : s.offer e = none) : s.before e op = none := by
  unfold Chip.before
  rw [h, ite_self]

/-- A core with nothing else due executes its instruction, and nothing comes before it. -/
theorem Steady.runOp_eq (h : Steady s e) (op : Op) (body : Word)
    (hr : (s.effect e (ownCtx e s.cores[e]) op body).2.traps = false ∨ s.offer e = none) :
    s.runOp e op body =
      ((s.effect e (ownCtx e s.cores[e]) op body).1.conclude e (ownCtx e s.cores[e]) op body s.cores[e]
        (s.effect e (ownCtx e s.cores[e]) op body).2) := by
  unfold Chip.runOp
  rw [if_pos h.runs, Chip.fromBoundary_eq h.begin_eq h.impDue_eq h.drained_eq h.buffer_eq (Chip.fetchStop_off h.comparators op)
    h.halted_eq, h.attempt_eq, Chip.decided_eq (hr.imp_right Chip.before_none)]

/-- An instruction that retires and goes on, on a core that had nothing else due and whose device is as it was. -/
theorem Chip.conclude_go {t : Chip} (hs : t.cores[e].shadows = []) (hc : ∀ c ∈ cmpsOf e, t.dev.get c.action = 0)
    (hh : t.dev.dbg.haltReq.getLsbD e.val = false) {op : Op} (hn : op.newShadow e c = []) (hb : op.isTbl = false) (x : Ctx)
    (body : Word) (next : BitVec 24) :
    t.conclude e x op body c (.go next) =
      t.onCore e fun d => { d with off := next, wait := .none, resumed := false, tblPair := false } := by
  unfold Chip.conclude
  simp only [hn, hb]
  rw [Chip.counted_none (by rw [Chip.onCore_core]; exact hs), Chip.traceFetch_off (by exact hc), Chip.haltEffect_off (by exact hh)]

/-- A core's instruction is over at once where it leaves the device at rest. -/
theorem Steady.act_eq {s : State} (op : Op) (body : Word) {t : Chip} (ht : s.chip.runOp e op body = t)
    (hd : Calm t.dev) : (s.act fun c => c.runOp e op body) = .next { s with chip := t } := by
  have hc : Calm ((fun c : Chip => c.runOp e op body) s.chip).dev := by
    show Calm (s.chip.runOp e op body).dev
    rw [ht]
    exact hd
  refine (State.act_of_calm hc).trans ?_
  show Host.Outcome.next { s with chip := s.chip.runOp e op body } = _
  rw [ht]

/-- An instruction that retires and leaves the device at rest. -/
theorem Steady.act_done {s : State} (h : Steady s.chip e) (op : Op) (body : Word) {t : Chip} {next : BitVec 24}
    (he : s.chip.effect e (ownCtx e s.chip.cores[e]) op body = (t, .go next)) (hs : t.cores[e].shadows = [])
    (hc : ∀ c ∈ cmpsOf e, t.dev.get c.action = 0) (hh : t.dev.dbg.haltReq.getLsbD e.val = false) (hd : Calm t.dev)
    (hn : op.newShadow e s.chip.cores[e] = []) (hb : op.isTbl = false) :
    (s.act fun c => c.runOp e op body) =
      .next { s with chip := t.onCore e fun d => { d with off := next, wait := .none, resumed := false, tblPair := false } } := by
  apply Steady.act_eq
  · rw [h.runOp_eq op body (.inl (by rw [he]; rfl)), he]
    exact Chip.conclude_go hs hc hh hn hb _ _ _
  · exact hd

/-- An instruction whose effect is to change its core and go on. -/
theorem Steady.act_go {s : State} (h : Steady s.chip e) (op : Op) (body : Word) (f : Core → Core) (next : Core → BitVec 24)
    (he : s.chip.effect e (ownCtx e s.chip.cores[e]) op body = (s.chip.onCore e f, .go (next s.chip.cores[e])))
    (hf : (f s.chip.cores[e]).shadows = s.chip.cores[e].shadows) (hn : op.newShadow e s.chip.cores[e] = []) (hb : op.isTbl = false) :
    (s.act fun c => c.runOp e op body) = .next (s.went e f next) := by
  rw [h.act_done op body he (by rw [Chip.onCore_core, hf]; exact h.shadows) h.comparators h.halts h.calm hn hb, Chip.onCore_onCore]
  unfold State.went Core.goOn
  rw [Chip.onCore_congr (g := fun c => { f c with off := next c, wait := .none, resumed := false, tblPair := false }) s.chip e rfl]

/-- An instruction that only computes or branches. -/
theorem Steady.act_reg {s : State} (h : Steady s.chip e) (op : Op) (hw : op.wf = true) (hp : op.isPrefix = false)
    (ha : op.acc s.chip.cores[e] = none) (hs : ∀ x, s.chip.sysOp e x op = s.chip.regOp e x op)
    (hf : (op.commit 0 s.chip.cores[e]).shadows = s.chip.cores[e].shadows) (hn : op.newShadow e s.chip.cores[e] = [])
    (hb : op.isTbl = false) : (s.act fun c => c.runOp e op 0) = .next (s.went e (op.commit 0) (fun c => op.nextOff c 0)) := by
  apply h.act_go
  · unfold Chip.effect
    rw [hw, hp]
    unfold Chip.oneOp
    rw [ha]
    simp only [Bool.not_true, Bool.false_eq_true, if_false]
    rw [hs]
    unfold Chip.regOp
    rw [h.retired_eq]
  · exact hf
  · exact hn
  · exact hb

/-! ### The instructions that only compute or branch -/

theorem State.went_congr {s : State} {f g : Core → Core} {n m : Core → BitVec 24} (h : f s.chip.cores[e] = g s.chip.cores[e])
    (h2 : n s.chip.cores[e] = m s.chip.cores[e]) : s.went e f n = s.went e g m := by
  unfold State.went
  rw [Chip.onCore_congr s.chip e (f := Core.goOn f n) (g := Core.goOn g m)]
  unfold Core.goOn
  rw [h, h2]

theorem Chip.sysOp_alu (s : Chip) (e : CoreId) (x : Ctx) (f : AluFn) (rd ra rb : GReg) : s.sysOp e x (.alu f rd ra rb) = s.regOp e x (.alu f rd ra rb) := rfl

theorem Steady.act_alu {s : State} (h : Steady s.chip e) (f : AluFn) (rd ra rb : GReg) (hw : (Op.alu f rd ra rb).wf = true) :
    (s.act fun c => c.runOp e (.alu f rd ra rb) 0) = s.sets e rd (fun c => f.eval (c.rd rd) (c.rd ra) (c.rd rb) (c.pair ra) (c.pair rb)) :=
  h.act_reg (.alu f rd ra rb) hw rfl rfl (fun x => Chip.sysOp_alu s.chip e x f rd ra rb) (Core.wr_shadows _ _ _) rfl rfl

theorem Chip.sysOp_imm (s : Chip) (e : CoreId) (x : Ctx) (f : ImmFn) (rd ra : GReg) (i : BitVec 16) : s.sysOp e x (.imm f rd ra i) = s.regOp e x (.imm f rd ra i) := rfl

theorem Steady.act_imm {s : State} (h : Steady s.chip e) (f : ImmFn) (rd ra : GReg) (i : BitVec 16) :
    (s.act fun c => c.runOp e (.imm f rd ra i) 0) = s.sets e rd (fun c => f.eval (c.rd ra) i) :=
  h.act_reg (.imm f rd ra i) rfl rfl rfl (fun x => Chip.sysOp_imm s.chip e x f rd ra i) (Core.wr_shadows _ _ _) rfl rfl

theorem Chip.sysOp_shi (s : Chip) (e : CoreId) (x : Ctx) (f : ShiftFn) (rd ra : GReg) (n : BitVec 5) : s.sysOp e x (.shi f rd ra n) = s.regOp e x (.shi f rd ra n) := rfl

theorem Steady.act_shi {s : State} (h : Steady s.chip e) (f : ShiftFn) (rd ra : GReg) (n : BitVec 5) :
    (s.act fun c => c.runOp e (.shi f rd ra n) 0) = s.sets e rd (fun c => f.eval (c.rd ra) n) :=
  h.act_reg (.shi f rd ra n) rfl rfl rfl (fun x => Chip.sysOp_shi s.chip e x f rd ra n) (Core.wr_shadows _ _ _) rfl rfl

theorem Chip.sysOp_br (s : Chip) (e : CoreId) (x : Ctx) (f : Cond) (ra rb : GReg) (off : BitVec 15) : s.sysOp e x (.br f ra rb off) = s.regOp e x (.br f ra rb off) := rfl

theorem Steady.act_br {s : State} (h : Steady s.chip e) (f : Cond) (ra rb : GReg) (off : BitVec 15) :
    (s.act fun c => c.runOp e (.br f ra rb off) 0) = .next (s.went e id fun c => if f.eval (c.rd ra) (c.rd rb) then c.off + (off.signExtend 24 <<< 2) else c.off + 4) :=
  h.act_reg (.br f ra rb off) rfl rfl rfl (fun x => Chip.sysOp_br s.chip e x f ra rb off) rfl rfl rfl

theorem Chip.sysOp_bri (s : Chip) (e : CoreId) (x : Ctx) (f : Fin 4) (ra : GReg) (i : BitVec 5) (off : BitVec 15) : s.sysOp e x (.bri f ra i off) = s.regOp e x (.bri f ra i off) := rfl

theorem Steady.act_bri {s : State} (h : Steady s.chip e) (f : Fin 4) (ra : GReg) (i : BitVec 5) (off : BitVec 15) :
    (s.act fun c => c.runOp e (.bri f ra i off) 0) = .next (s.went e id fun c => if (condI f).eval (c.rd ra) (i.signExtend 32) then c.off + (off.signExtend 24 <<< 2) else c.off + 4) :=
  h.act_reg (.bri f ra i off) rfl rfl rfl (fun x => Chip.sysOp_bri s.chip e x f ra i off) rfl rfl rfl

theorem Chip.sysOp_jmp (s : Chip) (e : CoreId) (x : Ctx) (off : BitVec 22) : s.sysOp e x (.jmp off) = s.regOp e x (.jmp off) := rfl

theorem Steady.act_jmp {s : State} (h : Steady s.chip e) (off : BitVec 22) :
    (s.act fun c => c.runOp e (.jmp off) 0) = .next (s.went e id fun c => c.off + (off.signExtend 24 <<< 2)) :=
  h.act_reg (.jmp off) rfl rfl rfl (fun x => Chip.sysOp_jmp s.chip e x off) rfl rfl rfl

theorem Chip.sysOp_jmpr (s : Chip) (e : CoreId) (x : Ctx) (ra : GReg) : s.sysOp e x (.jmpr ra) = s.regOp e x (.jmpr ra) := rfl

theorem Steady.act_jmpr {s : State} (h : Steady s.chip e) (ra : GReg) :
    (s.act fun c => c.runOp e (.jmpr ra) 0) = .next (s.went e id fun c => wordOff (c.rd ra)) :=
  h.act_reg (.jmpr ra) rfl rfl rfl (fun x => Chip.sysOp_jmpr s.chip e x ra) rfl rfl rfl

/-! ### Data accesses -/

/-- An instruction that retires after an effect that leaves the core quiet. -/
theorem Steady.act_next {s : State} (h : Steady s.chip e) (op : Op) (body : Word) {t : Chip} {next : BitVec 24}
    (he : s.chip.effect e (ownCtx e s.chip.cores[e]) op body = (t, .go next)) (q : Quiet t e)
    (hn : op.newShadow e s.chip.cores[e] = []) (hb : op.isTbl = false) :
    (s.act fun c => c.runOp e op body) = s.after t e id next := by
  have hr : s.chip.runOp e op body = t.onCore e (Core.goOn id fun _ => next) := by
    rw [h.runOp_eq op body (.inl (by rw [he]; rfl)), he]
    exact Chip.conclude_go q.shadows q.comparators q.halts hn hb _ _ _
  unfold State.after
  rw [← hr]
  rfl

/-- Two changes of a core in turn. -/
theorem State.after_onCore {s : State} {t : Chip} (f g : Core → Core) (next : BitVec 24) :
    s.after (t.onCore e f) e g next = s.after t e (fun c => g (f c)) next := by
  unfold State.after
  rw [Chip.onCore_onCore]
  rfl

theorem Quiet.onCore {t : Chip} (q : Quiet t e) {f : Core → Core} (hf : (f t.cores[e]).shadows = t.cores[e].shadows) :
    Quiet (t.onCore e f) e :=
  ⟨by rw [Chip.onCore_core, hf]; exact q.shadows, q.counters, q.comparators, q.halts⟩

/-- An instruction with a data access that is answered with a value. -/
theorem Steady.act_mem {s : State} (h : Steady s.chip e) (op : Op) {a : DataAcc} {t : Chip} {v : Word}
    (hw : op.wf = true) (hp : op.isPrefix = false) (ha : op.acc s.chip.cores[e] = some a)
    (ho : ownCheck e s.chip.cores[e] (ownCtx e s.chip.cores[e]) a = none)
    (hv : s.chip.access e (ownCtx e s.chip.cores[e]) op a = (t, .val v)) (q : Quiet t e)
    (hf : (op.commit v t.cores[e]).shadows = t.cores[e].shadows) (hn : op.newShadow e s.chip.cores[e] = []) (hb : op.isTbl = false) :
    (s.act fun c => c.runOp e op 0) = s.after t e (op.commit v) (op.nextOff s.chip.cores[e] v) := by
  have he : s.chip.effect e (ownCtx e s.chip.cores[e]) op 0 =
      (t.onCore e (op.commit v), .go (op.nextOff s.chip.cores[e] v)) := by
    unfold Chip.effect
    rw [hw, hp]
    unfold Chip.oneOp
    rw [ha]
    simp only [Bool.not_true, Bool.false_eq_true, if_false]
    unfold Chip.memOp
    simp only [ho, hv]
    rw [Chip.touched_off q.comparators q.counters, ite_self, Chip.retired_off q.counters]
  rw [h.act_next op 0 he (q.onCore hf) hn hb, State.after_onCore]
  rfl

end Sys2Proof.Machine
end

