-- ==== Sys2Proof/Laws/Lockstep.lean ====
section
/-! SUPPORT. Laws/Lockstep.lean: what passing tokens does (R343): an engine has none, the main's change the pair's own state only, and the delay
registers hold at most three of them (R346). -/

namespace Sys2Proof.Machine

theorem Chip.tokens_engine {s : Chip} {e : CoreId} (h : isCur e = false) (ts : List Token) : s.tokens e ts = s := by
  unfold Chip.tokens
  rw [h]
  rfl

/-- Passing tokens changes the pair's own state only. -/
theorem Chip.tokens_cur (s : Chip) (e : CoreId) (ts : List Token) : ∃ c : Cur, s.tokens e ts = { s with dev := { s.dev with cur := c } } := by
  unfold Chip.tokens
  split
  · have key : ∀ (l : List Token) (d : Dev), ∃ c : Cur, l.foldl (fun d t => d.pass t s.cores[e]) d = { d with cur := c } := by
      intro l
      induction l with
      | nil => exact fun d => ⟨d.cur, rfl⟩
      | cons t l ih =>
        intro d
        obtain ⟨c, hc⟩ := ih (d.pass t s.cores[e])
        exact ⟨c, hc⟩
    obtain ⟨c, hc⟩ := key ts s.dev
    exact ⟨c, congrArg (fun d => ({ s with dev := d } : Chip)) hc⟩
  · exact ⟨s.dev.cur, rfl⟩

theorem Chip.accessTokens_engine {s : Chip} {e : CoreId} (h : isCur e = false) (x : Ctx) (k : TokKind) (a size : Nat) (data : List Word) (g : Got) :
    s.accessTokens e x k a size data g = s := by
  unfold Chip.accessTokens
  cases g <;> simp [Chip.tokens_engine h]

/-- An access's tokens change the pair's own state only. -/
theorem Chip.accessTokens_cur (s : Chip) (e : CoreId) (x : Ctx) (k : TokKind) (a size : Nat) (data : List Word) (g : Got) :
    ∃ c : Cur, s.accessTokens e x k a size data g = { s with dev := { s.dev with cur := c } } := by
  unfold Chip.accessTokens
  cases g <;> first | exact s.tokens_cur e _ | exact ⟨s.dev.cur, rfl⟩

/-- The main leaves at most two tokens behind it beside the newest (R346). -/
theorem Cur.pass_held (c : Cur) (t : Token) (m : Core) (n : Nat) : (c.pass t m n).held.length ≤ 3 := by
  unfold Cur.pass Cur.stay
  simp only [List.length_append, List.length_drop, List.length_cons, List.length_nil]
  split <;> omega

end Sys2Proof.Machine
end

