-- ==== Sys2Proof/Laws/Memory.lean ====
section
/-! SUPPORT. Laws/Memory.lean: the arrays: reads after writes, what a read and a write of clean words do, and that every memory
operation keeps the canonical form. -/

namespace Sys2Proof.Machine

open Reg

/-! ### Bytes -/

theorem Mem.byte_setByte (m : Mem) (a b : Nat) (v : Byte) : (m.setByte a v).byte b = if b = a then v else m.byte b := by
  unfold Mem.byte Mem.setByte
  rw [amapGet_set (fun _ => rfl)]
  by_cases h : a = b
  · rw [if_pos h, if_pos h.symm]
  · rw [if_neg h, if_neg (fun x => h x.symm)]

theorem Mem.flip_setByte (m : Mem) (a b : Nat) (v : Byte) : (m.setByte a v).flip b = m.flip b := rfl

theorem Mem.setBytes_flips (m : Mem) (a n v : Nat) : (m.setBytes a n v).flips = m.flips := by
  induction n generalizing m a v with
  | zero => rfl
  | succ n ih => exact ih _ _ _

theorem Mem.setBytes_owned (m : Mem) (a n v : Nat) : (m.setBytes a n v).owned = m.owned := by
  induction n generalizing m a v with
  | zero => rfl
  | succ n ih => exact ih _ _ _

theorem Mem.flip_setBytes (m : Mem) (a n v b : Nat) : (m.setBytes a n v).flip b = m.flip b := by
  unfold Mem.flip
  rw [Mem.setBytes_flips]

/-- A byte after n bytes have been stored from a upward. -/
theorem Mem.byte_setBytes (m : Mem) (a n v b : Nat) :
    (m.setBytes a n v).byte b = if a ≤ b ∧ b < a + n then BitVec.ofNat 8 (v / 256 ^ (b - a)) else m.byte b := by
  induction n generalizing m a v with
  | zero =>
    have : ¬ (a ≤ b ∧ b < a + 0) := by omega
    rw [if_neg this]
    rfl
  | succ n ih =>
    show ((m.setByte a (BitVec.ofNat 8 v)).setBytes (a + 1) n (v / 256)).byte b = _
    rw [ih, Mem.byte_setByte]
    by_cases h0 : b = a
    · subst h0
      rw [if_neg (by omega), if_pos rfl, if_pos (by omega)]
      simp
    · by_cases h1 : a ≤ b ∧ b < a + (n + 1)
      · rw [if_pos (by omega), if_pos h1, Nat.div_div_eq_div_mul, ← Nat.pow_succ']
        congr 3
        omega
      · rw [if_neg (by omega), if_neg h0, if_neg h1]

theorem Mem.bytesLE_lt (m : Mem) (a n : Nat) : m.bytesLE a n < 256 ^ n := by
  induction n generalizing a with
  | zero => exact Nat.one_pos
  | succ n ih =>
    have h := ih (a + 1)
    have hb := (m.byte a).isLt
    show (m.byte a).toNat + 256 * m.bytesLE (a + 1) n < 256 ^ (n + 1)
    rw [Nat.pow_succ]
    omega

/-- The bytes of two neighbouring ranges. -/
theorem Mem.bytesLE_add (m : Mem) (a n k : Nat) : m.bytesLE a (n + k) = m.bytesLE a n + 256 ^ n * m.bytesLE (a + n) k := by
  induction n generalizing a with
  | zero => simp [Mem.bytesLE]
  | succ n ih =>
    rw [show n + 1 + k = (n + k) + 1 by omega]
    show (m.byte a).toNat + 256 * m.bytesLE (a + 1) (n + k) = (m.byte a).toNat + 256 * m.bytesLE (a + 1) n + _
    rw [ih, show a + 1 + n = a + (n + 1) by omega, Nat.pow_succ', Nat.mul_add, ← Nat.mul_assoc, Nat.add_assoc]

/-! ### Clean words -/

theorem onesFrom_zero (n : Nat) : onesFrom (0#72) n = 0 := by
  induction n with
  | zero => rfl
  | succ n ih => simp [onesFrom, ih]

/-- A word without an inverted bit reads as it is. -/
theorem Chip.fetch64_clean {s : Chip} {a : Nat} (h : s.mem.flip (s.dev.place a) = 0) : s.fetch64 a = (s, true) := by
  unfold Chip.fetch64
  have h1 : onesFrom (s.mem.flip (s.dev.place a)) 72 = 0 := by
    rw [h]
    exact onesFrom_zero 72
  simp only [h1]

theorem inRom_low {a : Nat} (h : a < 0x3000000) : inRom a = false := by
  unfold inRom
  simp only [Bool.and_eq_false_iff, decide_eq_false_iff_not]
  omega

theorem inVault_low {a : Nat} (h : a < 0x3000000) : inVault a = false := by
  unfold inVault
  simp only [Bool.and_eq_false_iff, decide_eq_false_iff_not]
  omega

/-- The gallery and the scratches are stored where they are addressed. -/
@[simp] theorem Dev.place_low {d : Dev} {a : Nat} (h : a < 0x3000000) : d.place a = a := by
  unfold Dev.place
  rw [inVault_low h]
  rfl

/-- A request to an array while no conflicts are counted changes nothing (R186). -/
theorem Chip.asks_off {s : Chip} (h : s.dev.flag GAL_CCTL_EN = false) (uid a n : Nat) : s.asks uid a n = s := by
  unfold Chip.asks Chip.onDev Dev.conflict
  simp [h]

/-- A read of clean, powered bytes of the gallery or a scratch. -/
theorem Chip.memRead_clean {s : Chip} {a : Nat} (n : Nat) (h : a < 0x3000000) (hp : s.dev.galleryOff a = false)
    (hf : s.mem.flip a = 0) : s.memRead a n = (s, .ok (BitVec.ofNat 32 (s.mem.bytesLE a n))) := by
  unfold Chip.memRead
  rw [inRom_low h, hp, Dev.vaultShut, inVault_low h, Chip.fetch64_clean (by rwa [Dev.place_low h])]
  simp only [Bool.false_eq_true, if_false, Bool.false_and, if_true, Dev.place_low h]

theorem Dev.writeShut_low {d : Dev} {a : Nat} (h : a < 0x3000000) : d.writeShut a = false := by
  unfold Dev.writeShut
  rw [inRom_low h, inVault_low h]
  rfl

theorem Mem.disown_none {m : Mem} (h : m.owned = []) (l : Nat) : m.disown l = m := by
  cases m
  simp_all [Mem.disown]

theorem Chip.takeLine_none {s : Chip} {p : Port} {a : Nat} (h : s.mem.owned = []) : s.takeLine p a = s := by
  unfold Chip.takeLine
  rw [Mem.disown_none h]
  simp

theorem Chip.inject_other {s : Chip} {a : Nat} {f : BitVec 72} : s.inject false a f = s := by
  unfold Chip.inject
  simp

/-- A write of clean, powered bytes of the gallery or a scratch by a master other than the curator. -/
theorem Chip.memWrite_clean {s : Chip} {p : Port} {a : Nat} (n : Nat) (v : Word) (h : a < 0x3000000)
    (hp : s.dev.galleryOff a = false) (hf : s.mem.flip a = 0) (ho : s.mem.owned = []) (hc : p.uid ≠ 0x18) :
    s.memWrite p a n v =
      ({ s with mem := s.mem.setBytes a n v.toNat, cores := (s.clearResv (lineOf a)).cores }, .ok 0) := by
  unfold Chip.memWrite
  have hu : (p.uid == 0x18) = false := by simpa using hc
  rw [Dev.writeShut_low h, hp, Dev.vaultShut, inVault_low h, Chip.fetch64_clean (by rwa [Dev.place_low h]), hu]
  simp only [Bool.false_and, Bool.false_eq_true, if_false, if_true, Dev.place_low h]
  rw [Chip.takeLine_none ho, Chip.inject_other]
  rfl

/-- An atomic on a clean, powered word of the gallery or a scratch. -/
theorem Chip.memAtomic_clean {s : Chip} {p : Port} {a : Nat} (f : Word → Word) (h : a < 0x3000000)
    (hp : s.dev.galleryOff a = false) (hf : s.mem.flip a = 0) (ho : s.mem.owned = []) (hc : p.uid ≠ 0x18) :
    s.memAtomic p a f =
      ({ s with mem := s.mem.setBytes a 4 (f (BitVec.ofNat 32 (s.mem.bytesLE a 4))).toNat
                cores := (s.clearResv (lineOf a)).cores }, .ok (BitVec.ofNat 32 (s.mem.bytesLE a 4))) := by
  unfold Chip.memAtomic
  have hu : (p.uid == 0x18) = false := by simpa using hc
  rw [Dev.writeShut_low h, hp, Dev.vaultShut, inVault_low h, Chip.fetch64_clean (by rwa [Dev.place_low h]), hu]
  simp only [Bool.false_and, Bool.false_eq_true, if_false, if_true, Dev.place_low h]
  rw [Chip.takeLine_none ho, Chip.inject_other]
  rfl

/-! ### The canonical form -/

theorem Mem.wf_iff {m : Mem} :
    m.wf = true ↔ amapWf (fun _ => (0 : Byte)) m.cells = true ∧ amapWf (fun _ => (0 : BitVec 72)) m.flips = true := by
  unfold Mem.wf
  rw [Bool.and_eq_true]

theorem Mem.wf_setByte {m : Mem} (h : m.wf = true) (a : Nat) (b : Byte) : (m.setByte a b).wf = true :=
  Mem.wf_iff.2 ⟨amapWf_set (d := fun _ => (0 : Byte)) (Mem.wf_iff.1 h).1, (Mem.wf_iff.1 h).2⟩

theorem Mem.wf_setBytes {m : Mem} (h : m.wf = true) (a n v : Nat) : (m.setBytes a n v).wf = true := by
  induction n generalizing m a v with
  | zero => exact h
  | succ n ih => exact ih (Mem.wf_setByte h a _) _ _

theorem Mem.wf_setFlip {m : Mem} (h : m.wf = true) (a : Nat) (f : BitVec 72) : (m.setFlip a f).wf = true :=
  Mem.wf_iff.2 ⟨(Mem.wf_iff.1 h).1, amapWf_set (d := fun _ => (0 : BitVec 72)) (Mem.wf_iff.1 h).2⟩

theorem Mem.wf_clear {m : Mem} (h : m.wf = true) (lo hi : Nat) : (m.clear lo hi).wf = true :=
  Mem.wf_iff.2 ⟨amapWf_drop (Mem.wf_iff.1 h).1, amapWf_drop (Mem.wf_iff.1 h).2⟩

theorem Chip.fetch64_wf {s : Chip} (h : s.mem.wf = true) (a : Nat) : (s.fetch64 a).1.mem.wf = true := by
  unfold Chip.fetch64
  simp only
  split
  · exact h
  · exact Mem.wf_setFlip h _ _
  · exact h
  · split
    · exact h
    · exact Mem.wf_setFlip (Mem.wf_setBytes h _ _ _) _ _
    · exact Mem.wf_setFlip (Mem.wf_setBytes h _ _ _) _ _

theorem Chip.memRead_wf {s : Chip} (h : s.mem.wf = true) (a n : Nat) : (s.memRead a n).1.mem.wf = true := by
  unfold Chip.memRead
  have hf := Chip.fetch64_wf h a
  generalize s.fetch64 a = p at hf
  obtain ⟨t, g⟩ := p
  simp only at hf ⊢
  split_ifs <;> first | exact h | exact hf

theorem Chip.inject_wf {s : Chip} (h : s.mem.wf = true) (cur : Bool) (a : Nat) (old : BitVec 72) :
    (s.inject cur a old).mem.wf = true := by
  unfold Chip.inject
  split
  · exact Mem.wf_setFlip h _ _
  · exact h

theorem Chip.takeLine_wf {s : Chip} (h : s.mem.wf = true) (p : Port) (a : Nat) : (s.takeLine p a).mem.wf = true := by
  unfold Chip.takeLine
  split <;> exact h

theorem Chip.memWrite_wf {s : Chip} (h : s.mem.wf = true) (p : Port) (a n : Nat) (v : Word) :
    (s.memWrite p a n v).1.mem.wf = true := by
  unfold Chip.memWrite
  have hf := Chip.fetch64_wf h a
  generalize s.fetch64 a = q at hf
  obtain ⟨t, g⟩ := q
  simp only at hf ⊢
  split_ifs
  · exact h
  · exact h
  · exact h
  · exact Chip.inject_wf (Mem.wf_setBytes (Chip.takeLine_wf hf p a) _ _ _) _ _ _
  · exact Chip.inject_wf (Mem.wf_setBytes (Chip.takeLine_wf hf p a) _ _ _) _ _ _
  · exact hf

theorem Chip.memAtomic_wf {s : Chip} (h : s.mem.wf = true) (p : Port) (a : Nat) (f : Word → Word) :
    (s.memAtomic p a f).1.mem.wf = true := by
  unfold Chip.memAtomic
  have hf := Chip.fetch64_wf h a
  generalize s.fetch64 a = q at hf
  obtain ⟨t, g⟩ := q
  simp only at hf ⊢
  split_ifs
  · exact h
  · exact h
  · exact h
  · exact Chip.inject_wf (Mem.wf_setBytes (Chip.takeLine_wf hf p a) _ _ _) _ _ _
  · exact Chip.inject_wf (Mem.wf_setBytes (Chip.takeLine_wf hf p a) _ _ _) _ _ _
  · exact hf

theorem Chip.memWrite64_wf {s : Chip} (h : s.mem.wf = true) (a v : Nat) : (s.memWrite64 a v).1.mem.wf = true := by
  unfold Chip.memWrite64
  split_ifs
  · exact h
  · exact h
  · exact Mem.wf_setFlip (Mem.wf_setBytes h _ _ _) _ _

theorem Chip.bulkRead_wf {s : Chip} (h : s.mem.wf = true) (a n : Nat) : (s.bulkRead a n).1.mem.wf = true := by
  induction n generalizing s a with
  | zero => exact h
  | succ n ih =>
    unfold Chip.bulkRead
    have hm := Chip.memRead_wf h a 1
    generalize s.memRead a 1 = q at hm
    obtain ⟨t, r⟩ := q
    cases r with
    | ok v =>
      simp only at hm ⊢
      have hi := ih hm (a + 1)
      generalize t.bulkRead (a + 1) n = q at hi
      obtain ⟨u, r⟩ := q
      cases r <;> exact hi
    | err c => exact hm
    | held => exact hm

theorem Chip.bulkWrite_wf {s : Chip} (h : s.mem.wf = true) (uid a n : Nat) (bs : List Byte) :
    (s.bulkWrite uid a n bs).1.mem.wf = true := by
  induction n generalizing s a bs with
  | zero => exact h
  | succ n ih =>
    cases bs with
    | nil => exact h
    | cons b bs =>
      unfold Chip.bulkWrite
      simp only
      split
      · have hm := Chip.memWrite64_wf h a (((b :: bs).take 8).foldr (fun x n => x.toNat + 256 * n) 0)
        generalize s.memWrite64 a _ = q at hm
        obtain ⟨t, r⟩ := q
        cases r
        · exact ih hm _ _
        · exact hm
        · exact hm
      · have hm := Chip.memWrite_wf h { uid := uid, home := false } a 1 (b.zeroExtend 32)
        generalize s.memWrite _ a 1 _ = q at hm
        obtain ⟨t, r⟩ := q
        cases r
        · exact ih hm _ _
        · exact hm
        · exact hm

end Sys2Proof.Machine
end

