-- ==== Sys2Proof/Laws/Access.lean ====
section
/-! SUPPORT. Laws/Access.lean: loads, stores, LL, SC and atomics in plain memory (Safety.lean): what each answers and what it changes. -/

namespace Sys2Proof.Machine

open Reg

/-! ### Addresses -/

theorem canon_add {e : CoreId} {a k : Nat} (h : (a + k) / 0x1000000 = a / 0x1000000) : canon e (a + k) = canon e a + k := by
  unfold canon
  split_ifs <;> omega

theorem same_bank {e : CoreId} {a n k : Nat} (h : implemented e a n = true) (hb : a / 0x1000000 < 3) (hk : k < n) :
    (a + k) / 0x1000000 = a / 0x1000000 := by
  unfold implemented bankEnd at h
  simp only [decide_eq_true_eq] at h
  split_ifs at h <;> omega

theorem canon_low {e : CoreId} {a n k : Nat} (h : implemented e a n = true) (hb : a / 0x1000000 < 3) (hk : k < n) :
    canon e a + k < 0x3000000 := by
  have := e.isLt
  unfold implemented bankEnd at h
  simp only [decide_eq_true_eq] at h
  unfold canon
  split_ifs at h ⊢ <;> omega

theorem isIo_low {a : Nat} (h : a / 0x1000000 < 3) : isIo a = false := by
  unfold isIo
  simp
  omega

theorem isFar_low {a : Nat} (h : a / 0x1000000 < 3) : isFar a = false := by
  unfold isFar
  simp
  omega

theorem Chip.countPort_off {s : Chip} {e : CoreId} (h : isCur e = false → s.dev.get (CAB_PMCTL_EN (cabOf e) (slotOf e)) = 0) (a : Nat) :
    s.countPort e a = s := by
  unfold Chip.countPort
  split
  · exact Chip.count_off h _ _
  · rfl

/-! ### A core's own checks -/

theorem stack_ok {c : Core} {a : Nat} {stk : Bool} (h : stk = true → c.spCheck = true → c.spLimit ≤ a % 0x1000000) :
    (stk && c.spCheck && decide (a % 0x1000000 < c.spLimit)) = false := by
  cases hst : stk
  · rfl
  · cases hsp : c.spCheck
    · rfl
    · have := h hst hsp
      simp
      omega

/-- An access to plain memory passes the core's own checks (R70) where its entries and stack limit allow it. -/
theorem ownCheck_plain {s : Chip} {e : CoreId} {t : DataAcc} (hb : t.addr / 0x1000000 < 3) (hi : implemented e t.addr t.size = true)
    (ha : t.atom = true → t.addr % 4 = 0) (hr : t.rd = true → Allowed s e .read t.addr t.size t.stk)
    (hw : t.wr = true → Allowed s e .write t.addr t.size t.stk)
    (hs : t.stk = true → s.cores[e].spCheck = true → s.cores[e].spLimit ≤ t.addr % 0x1000000) :
    ownCheck e s.cores[e] (ownCtx e s.cores[e]) t = none := by
  have h3 : (t.addr / 0x1000000 == 3) = false := by
    simp
    omega
  have hm : t.misaligned = false := by
    unfold DataAcc.misaligned
    rw [isIo_low hb, isFar_low hb]
    cases hat : t.atom
    · rfl
    · simp [ha hat]
  have hk : (ownCtx e s.cores[e]).km = s.cores[e].km := rfl
  have hr' : (t.rd && !s.cores[e].allowed s.cores[e].km .read t.addr t.size) = false := by
    cases h : t.rd
    · rfl
    · rw [(hr h).entry]
      rfl
  have hw' : (t.wr && !s.cores[e].allowed s.cores[e].km .write t.addr t.size) = false := by
    cases h : t.wr
    · rfl
    · rw [(hw h).entry]
      rfl
  unfold ownCheck
  rw [hm, stack_ok hs, hi, h3, isIo_low hb, isFar_low hb, hk, hr', hw']
  rfl

/-! ### Loads -/

theorem Chip.loadPiece_plain {s : Chip} {e : CoreId} {a : Nat} (n : Nat)
    (hc : isCur e = false → s.dev.get (CAB_PMCTL_EN (cabOf e) (slotOf e)) = 0) (h1 : a / 0x1000000 < 3) (hl : canon e a < 0x3000000)
    (hp : s.dev.galleryOff (canon e a) = false) (hf : s.mem.flip (canon e a) = 0) (hu : dataCached s.dev e s.cores[e] a = false)
    (hw : s.dev.flag GAL_CCTL_EN = false) :
    s.loadPiece e a n = (s, .val (BitVec.ofNat 32 (s.mem.bytesLE (canon e a) n))) := by
  unfold Chip.loadPiece Chip.arrPiece
  simp only [hu, isFar_low h1, Bool.false_eq_true, if_false, Chip.parityOk, Chip.atPort, Chip.countPort_off hc, Chip.asks_off hw, Chip.memRead_clean n hl hp hf]
  rfl

/-- Two neighbouring values joined little-endian. -/
theorem joined {u v k m : Nat} (hu : u < 256 ^ k) (hv : v < 256 ^ m) (h : k + m ≤ 4) :
    BitVec.ofNat 32 u ||| (BitVec.ofNat 32 v <<< (8 * k)) = BitVec.ofNat 32 (u + 256 ^ k * v) := by
  have e1 : (256 : Nat) ^ k = 2 ^ (8 * k) := by rw [show (256 : Nat) = 2 ^ 8 from rfl, ← Nat.pow_mul]
  have e2 : (256 : Nat) ^ m = 2 ^ (8 * m) := by rw [show (256 : Nat) = 2 ^ 8 from rfl, ← Nat.pow_mul]
  rw [e1] at hu ⊢
  rw [e2] at hv
  have hpos : 0 < 2 ^ (8 * k) := Nat.two_pow_pos _
  have hvl : v * 2 ^ (8 * k) < 2 ^ 32 :=
    calc v * 2 ^ (8 * k) < 2 ^ (8 * m) * 2 ^ (8 * k) := Nat.mul_lt_mul_of_pos_right hv hpos
      _ = 2 ^ (8 * m + 8 * k) := (Nat.pow_add 2 _ _).symm
      _ ≤ 2 ^ 32 := Nat.pow_le_pow_right (by decide) (by omega)
  have hv32 : v < 2 ^ 32 := lt_of_le_of_lt (Nat.le_mul_of_pos_right v hpos) hvl
  have hu32 : u < 2 ^ 32 := lt_of_lt_of_le hu (Nat.pow_le_pow_right (by decide) (by omega))
  apply BitVec.eq_of_toNat_eq
  rw [BitVec.toNat_or, BitVec.toNat_shiftLeft, BitVec.toNat_ofNat, BitVec.toNat_ofNat, BitVec.toNat_ofNat, Nat.mod_eq_of_lt hu32,
    Nat.mod_eq_of_lt hv32, Nat.shiftLeft_eq, Nat.mod_eq_of_lt hvl, ← Nat.shiftLeft_eq, Nat.or_comm, ← Nat.shiftLeft_add_eq_or_of_lt hu,
    Nat.shiftLeft_eq, Nat.add_comm, Nat.mul_comm v]
  have hsum : u + 2 ^ (8 * k) * v < 2 ^ 32 := by
    have h1 : u + 2 ^ (8 * k) * v < 2 ^ (8 * k) * (v + 1) := by
      rw [Nat.mul_add, Nat.mul_one]
      omega
    have h2 : 2 ^ (8 * k) * (v + 1) ≤ 2 ^ (8 * k) * 2 ^ (8 * m) := Nat.mul_le_mul_left _ hv
    have h3 : 2 ^ (8 * k) * 2 ^ (8 * m) ≤ 2 ^ 32 := by
      rw [← Nat.pow_add]
      exact Nat.pow_le_pow_right (by decide) (by omega)
    omega
  rw [Nat.mod_eq_of_lt hsum]

/-- A load of plain memory finds its bytes and changes nothing (R86, R147). -/
theorem Chip.load_plain {s : Chip} {e : CoreId} {a n : Nat} (x : Ctx)
    (hc : isCur e = false → s.dev.get (CAB_PMCTL_EN (cabOf e) (slotOf e)) = 0) (p : Plain s e a n) (hn : 1 ≤ n) (hn4 : n ≤ 4) :
    s.load e x a n = (s, .val (BitVec.ofNat 32 (s.mem.bytesLE (canon e a) n))) := by
  have hb := p.array
  have g : ∀ k < n, ∀ m, s.loadPiece e (a + k) m = (s, .val (BitVec.ofNat 32 (s.mem.bytesLE (canon e a + k) m))) := by
    intro k hk m
    have hcan := canon_add (e := e) (same_bank p.inside hb hk)
    rw [← hcan]
    apply Chip.loadPiece_plain m hc
    · rw [same_bank p.inside hb hk]
      exact hb
    · rw [hcan]
      exact canon_low p.inside hb hk
    · exact p.powered k hk
    · exact p.clean k hk
    · exact p.uncached k hk
    · exact p.unwatched
  have g0 := g 0 (by omega)
  simp only [Nat.add_zero] at g0
  unfold Chip.load
  rw [isIo_low hb]
  simp only [Bool.false_eq_true, if_false]
  unfold Chip.memLoad
  rw [p.unbuffered]
  simp only
  unfold piecesOf pieces
  rw [isFar_low hb]
  simp only [Bool.false_eq_true, if_false]
  split
  · simp only [Chip.loadPieces, g0]
    simp
  · have g1 := g (4 - a % 4) (by omega) (n - (4 - a % 4))
    simp only [Chip.loadPieces, g0, g1]
    have e2 := s.mem.bytesLE_add (canon e a) (4 - a % 4) (n - (4 - a % 4))
    rw [show (4 - a % 4) + (n - (4 - a % 4)) = n by omega] at e2
    rw [e2]
    congr 2
    have e3 : ∀ w : Word, (w ||| ((0 : Word) <<< (8 * (n - (4 - a % 4))))) = w := by
      intro w
      simp
    rw [e3]
    exact joined (s.mem.bytesLE_lt _ _) (s.mem.bytesLE_lt _ _) (by omega)

theorem Steady.quiet {s : Chip} {e : CoreId} (h : Steady s e) : Quiet s e := ⟨h.shadows, h.counters, h.comparators, h.halts⟩

/-- A load of plain memory that is allowed. -/
theorem Loads.plain {s : Chip} {e : CoreId} {a n : Nat} {stk : Bool} (h : Steady s e) (p : Plain s e a n) (al : Allowed s e .read a n stk)
    (hn : 1 ≤ n) (hn4 : n ≤ 4) :
    Loads s e a n stk (s.accessTokens e (ownCtx e s.cores[e]) .load a n [] (.val (BitVec.ofNat 32 (s.mem.bytesLE (canon e a) n))))
      (BitVec.ofNat 32 (s.mem.bytesLE (canon e a) n)) := by
  refine ⟨ownCheck_plain p.array p.inside (fun h => nomatch h) (fun _ => al) (fun h => nomatch h) al.stack,
    ⟨s, Chip.load_plain _ h.counters p hn hn4, rfl⟩, ?_⟩
  obtain ⟨c, hc⟩ := s.accessTokens_cur e (ownCtx e s.cores[e]) .load a n [] (.val (BitVec.ofNat 32 (s.mem.bytesLE (canon e a) n)))
  rw [hc]
  exact ⟨h.shadows, h.counters, h.comparators, h.halts⟩

/-- An uncached fetch of a clean, powered word of the gallery or a scratch changes nothing; on the curator the line buffer must hold its line (R167). -/
theorem Chip.fetch_plain {s : Chip} {e : CoreId} {a : Nat} (own : fetchOwn e s.cores[e] a = none) (hu : fetchCached e s.cores[e] a = false)
    (ha : a < 0x10000000) (hb : canon e a < 0x3000000) (hc : isCur e = false → s.dev.get (CAB_PMCTL_EN (cabOf e) (slotOf e)) = 0)
    (hw : s.dev.flag GAL_CCTL_EN = false) (hp : s.dev.galleryOff (canon e a) = false) (hf : s.mem.flip (canon e a) = 0)
    (hl : isCur e = true → s.dev.cur.line = some (a / 64)) : s.fetch e a = (s, .ok (BitVec.ofNat 32 (s.mem.bytesLE (canon e a) 4))) := by
  have h1 : s.arrFetch e a = (s, .ok (BitVec.ofNat 32 (s.mem.bytesLE (canon e a) 4))) := by
    unfold Chip.arrFetch Chip.atPort
    rw [Chip.countPort_off hc, Chip.asks_off hw, Chip.memRead_clean 4 hb hp hf]
    simp only [hu, Bool.false_eq_true, if_false]
  have h2 : s.enterLine e a true = s := by
    unfold Chip.enterLine
    cases he : isCur e with
    | false => simp
    | true => simp [hl he]
  unfold Chip.fetch
  simp only [own, hu, Chip.parityOk, Bool.false_eq_true, if_false, ha, if_true, h1, h2]

/-! ### Stores -/

theorem Chip.countStore_off {s : Chip} {e : CoreId} (h : isCur e = false → s.dev.get (CAB_PMCTL_EN (cabOf e) (slotOf e)) = 0)
    (a n : Nat) : s.countStore e a n = s := by
  unfold Chip.countStore
  split
  · exact Chip.count_off h _ _
  · generalize pieces a n = l
    induction l with
    | nil => rfl
    | cons p l ih => rw [List.foldl_cons, Chip.countPort_off h, ih]

/-- What a store that enters the buffer does to its core (R107, R140). -/
def Core.buffered (e : CoreId) (a n : Nat) (w : Word) (c : Core) : Core :=
  { c with
    sb := c.sb ++ [⟨BitVec.ofNat 32 a, n, w, .waiting⟩]
    resv := if c.resv = some (canon e a / 64) then none else c.resv }

theorem Dev.granule_low {d : Dev} {a : Nat} (h : a < 0x10000000) : d.granule a = a / 64 := by
  unfold Dev.granule
  rw [if_pos h]
  rfl

/-- A store of an engine outside deterministic mode enters its store buffer (R140, R141). -/
theorem Chip.store_buffers {s : Chip} {e : CoreId} {a n : Nat} (x : Ctx) (w : Word)
    (hc : isCur e = false → s.dev.get (CAB_PMCTL_EN (cabOf e) (slotOf e)) = 0) (he : isCur e = false) (hd : s.cores[e].det = false)
    (hl : s.cores[e].sb.length < 12) (hb : a / 0x1000000 < 3) (hi : implemented e a n = true) (hn : 1 ≤ n) :
    s.store e x a n w = (s.onCore e (Core.buffered e a n w), .val 0) := by
  have hcl := canon_low hi hb (k := 0) (by omega)
  unfold Chip.store
  rw [isIo_low hb]
  simp only [Bool.false_eq_true, if_false]
  unfold Chip.dropOwnResv
  rw [isFar_low hb, Dev.granule_low (by omega)]
  simp only [Bool.false_and, Bool.false_eq_true, if_false]
  have e1 : (s.onCore e fun c => if c.resv = some (canon e a / 64) then { c with resv := none } else c).cores[e].det = false := by
    rw [Chip.onCore_core]
    split <;> exact hd
  have e2 : (s.onCore e fun c => if c.resv = some (canon e a / 64) then { c with resv := none } else c).cores[e].sb.length < 12 := by
    rw [Chip.onCore_core]
    split <;> exact hl
  rw [he, e1]
  simp only [Bool.or_false, Bool.false_eq_true, if_false]
  unfold Chip.storeBuffer
  simp only [e2, if_true]
  rw [Chip.countStore_off (s := s.onCore e _) hc, Chip.onCore_onCore]
  congr 1
  apply Chip.onCore_congr
  unfold Core.buffered
  split <;> rfl

/-- What a write to two granules (or one) leaves of core k, e being the writer: a reservation on one of them is gone, and the writer's data
cache may have changed. -/
def Core.Written (e k : CoreId) (g1 g2 : Nat) (c c' : Core) : Prop :=
  ∃ dc, c' = { c with dcache := dc, resv := if c.resv = some g1 ∨ c.resv = some g2 then none else c.resv }
    ∧ (k ≠ e → dc = c.dcache)

theorem Chip.clearResv_core (s : Chip) (g : Nat) (k : CoreId) :
    (s.clearResv g).cores[k] = { s.cores[k] with resv := if s.cores[k].resv = some g then none else s.cores[k].resv } := by
  unfold Chip.clearResv
  simp only [Fin.getElem_fin, Vector.getElem_map]
  split <;> rfl

theorem byte_of_part (v n j : Nat) (h : j < n) : BitVec.ofNat 8 (v % 256 ^ n / 256 ^ j) = BitVec.ofNat 8 (v / 256 ^ j) := by
  apply BitVec.eq_of_toNat_eq
  simp only [BitVec.toNat_ofNat]
  obtain ⟨m, rfl⟩ : ∃ m, n = j + (m + 1) := ⟨n - j - 1, by omega⟩
  rw [Nat.pow_add, Nat.mod_mul_right_div_self]
  rw [show 2 ^ 8 = 256 from rfl, Nat.pow_succ', Nat.mod_mul_right_mod]

theorem byte_of_word (w : Word) (j : Nat) (h : j < 4) : BitVec.ofNat 8 (w.toNat / 256 ^ j) = w.extractLsb' (8 * j) 8 := by
  apply BitVec.eq_of_toNat_eq
  simp only [BitVec.toNat_ofNat, BitVec.extractLsb'_toNat]
  rw [show (256 : Nat) ^ j = 2 ^ (8 * j) by rw [show (256 : Nat) = 2 ^ 8 from rfl, ← Nat.pow_mul], Nat.shiftRight_eq_div_pow]

/-- One piece of a write by an engine (R86, R107, R191). -/
theorem Chip.writePiece_plain {s : Chip} {e : CoreId} {a n : Nat} (v : Nat) (ps : List (Nat × Nat)) (he : isCur e = false)
    (hl : canon e a < 0x3000000) (hp : s.dev.galleryOff (canon e a) = false) (hf : s.mem.flip (canon e a) = 0) (ho : s.mem.owned = [])
    (hk : s.dev.flag GAL_CCTL_EN = false) (hn : n ≤ 4) :
    ∃ t : Chip, t.dev = s.dev ∧ t.mem = s.mem.setBytes (canon e a) n (v % 256 ^ n)
      ∧ (∀ k : CoreId, Core.Written e k (canon e a / 64) (canon e a / 64) s.cores[k] t.cores[k])
      ∧ ∀ u, t.writePieces e (v / 256 ^ n) ps = (u, .ok 0) → s.writePieces e v ((a, n) :: ps) = (u, .ok 0) := by
  have hu : (portOf e a).uid ≠ 0x18 := by
    unfold portOf uidOf
    rw [he]
    simp
    omega
  have hv : (BitVec.ofNat 32 (v % 256 ^ n)).toNat = v % 256 ^ n := by
    have : v % 256 ^ n < 2 ^ 32 :=
      calc v % 256 ^ n < 256 ^ n := Nat.mod_lt _ (by positivity)
        _ ≤ 256 ^ 4 := Nat.pow_le_pow_right (by decide) hn
        _ = 2 ^ 32 := by decide
    rw [BitVec.toNat_ofNat, Nat.mod_eq_of_lt this]
  have hw := Chip.memWrite_clean (s := s) (p := portOf e a) n (BitVec.ofNat 32 (v % 256 ^ n)) hl hp hf ho hu
  rw [hv] at hw
  refine ⟨Chip.onCore { s with mem := s.mem.setBytes (canon e a) n (v % 256 ^ n), cores := (s.clearResv (canon e a / 64)).cores } e
    (·.dcStore a n v), rfl, rfl, ?_, ?_⟩
  · intro k
    by_cases hk : k = e
    · subst hk
      refine ⟨(Core.dcStore s.cores[k] a n v).dcache, ?_, fun h => absurd rfl h⟩
      rw [Chip.onCore_core]
      show Core.dcStore (s.clearResv (canon k a / 64)).cores[k] a n v = _
      rw [Chip.clearResv_core]
      simp only [or_self]
      rfl
    · refine ⟨s.cores[k].dcache, ?_, fun _ => rfl⟩
      rw [Chip.onCore_other _ _ _ hk]
      show (s.clearResv (canon e a / 64)).cores[k] = _
      rw [Chip.clearResv_core]
      simp only [or_self]
  · intro u h
    show s.writePieces e v ((a, n) :: ps) = (u, .ok 0)
    unfold Chip.writePieces
    rw [Chip.asks_off hk, hw]
    simp only
    exact (congrArg (fun p : Chip × Reply => (p.1, p.2)) h)

theorem Core.Written.trans {e k : CoreId} {g1 g2 : Nat} {c1 c2 c3 : Core} (h1 : Core.Written e k g1 g1 c1 c2)
    (h2 : Core.Written e k g2 g2 c2 c3) : Core.Written e k g1 g2 c1 c3 := by
  obtain ⟨d1, e1, f1⟩ := h1
  obtain ⟨d2, e2, f2⟩ := h2
  subst e1
  refine ⟨d2, ?_, fun h => (f2 h).trans (f1 h)⟩
  rw [e2]
  simp only [or_self]
  congr 1
  by_cases x : c1.resv = some g1
  · simp [x]
  · simp [x]

/-- Up to four bytes of plain memory written by an engine: exactly they change. -/
theorem Chip.arrWrite_plain {s : Chip} {e : CoreId} {a n : Nat} (w : Word) (he : isCur e = false) (hb : a / 0x1000000 < 3)
    (hi : implemented e a n = true) (hn : 1 ≤ n) (hn4 : n ≤ 4) (hp : ∀ k < n, s.dev.galleryOff (canon e (a + k)) = false)
    (hf : ∀ k < n, s.mem.flip (canon e (a + k)) = 0) (ho : s.mem.owned = [])
    (hq : s.dev.flag GAL_CCTL_EN = false) :
    ∃ t : Chip, s.arrWrite e a n w = (t, .ok 0) ∧ t.dev = s.dev ∧ t.mem.owned = [] ∧ t.mem.flips = s.mem.flips
      ∧ (∀ b, t.mem.byte b = if canon e a ≤ b ∧ b < canon e a + n then w.extractLsb' (8 * (b - canon e a)) 8 else s.mem.byte b)
      ∧ ∀ k : CoreId, Core.Written e k (canon e a / 64) ((canon e a + n - 1) / 64) s.cores[k] t.cores[k] := by
  have hc0 := canon_low hi hb (k := 0) (by omega)
  have hp0 := hp 0 (by omega)
  have hf0 := hf 0 (by omega)
  simp only [Nat.add_zero] at hc0 hp0 hf0
  have hm : canon e a % 4 = a % 4 := by
    unfold canon
    split_ifs <;> omega
  unfold Chip.arrWrite pieces
  split
  · rename_i h4
    obtain ⟨t, h1, h2, h3, h5⟩ := Chip.writePiece_plain (s := s) w.toNat [] he hc0 hp0 hf0 ho hq hn4
    refine ⟨t, h5 t rfl, h1, by rw [h2, Mem.setBytes_owned, ho], by rw [h2, Mem.setBytes_flips], ?_, ?_⟩
    · intro b
      rw [h2, Mem.byte_setBytes]
      by_cases hr : canon e a ≤ b ∧ b < canon e a + n
      · rw [if_pos hr, if_pos hr, byte_of_part _ _ _ (by omega), byte_of_word _ _ (by omega)]
      · rw [if_neg hr, if_neg hr]
    · intro k
      have := h3 k
      rwa [show (canon e a + n - 1) / 64 = canon e a / 64 by omega]
  · rename_i h4
    obtain ⟨t, h1, h2, h3, h5⟩ := Chip.writePiece_plain (s := s) w.toNat [(a + (4 - a % 4), n - (4 - a % 4))] he hc0 hp0 hf0 ho hq
      (show 4 - a % 4 ≤ 4 by omega)
    have hk : 4 - a % 4 < n := by omega
    have hcan := canon_add (e := e) (same_bank hi hb hk)
    have hl1 := canon_low hi hb hk
    obtain ⟨u, g1, g2, g3, g5⟩ := Chip.writePiece_plain (s := t) (e := e) (a := a + (4 - a % 4)) (n := n - (4 - a % 4))
      (w.toNat / 256 ^ (4 - a % 4)) [] he (by rw [hcan]; exact hl1) (by rw [h1]; exact hp _ hk)
      (by rw [h2, Mem.flip_setBytes]; exact hf _ hk) (by rw [h2, Mem.setBytes_owned, ho]) (by rw [h1]; exact hq) (by omega)
    refine ⟨u, h5 u (g5 u rfl), by rw [g1, h1], by rw [g2, Mem.setBytes_owned, h2, Mem.setBytes_owned, ho],
      by rw [g2, Mem.setBytes_flips, h2, Mem.setBytes_flips], ?_, ?_⟩
    · intro b
      rw [g2, Mem.byte_setBytes, h2, Mem.byte_setBytes, hcan]
      by_cases hr : canon e a + (4 - a % 4) ≤ b ∧ b < canon e a + (4 - a % 4) + (n - (4 - a % 4))
      · rw [if_pos hr, if_pos (by omega), byte_of_part _ _ _ (by omega), Nat.div_div_eq_div_mul, ← Nat.pow_add,
          show 4 - a % 4 + (b - (canon e a + (4 - a % 4))) = b - canon e a by omega, byte_of_word _ _ (by omega)]
      · rw [if_neg hr]
        by_cases hr2 : canon e a ≤ b ∧ b < canon e a + (4 - a % 4)
        · rw [if_pos hr2, if_pos (by omega), byte_of_part _ _ _ (by omega), byte_of_word _ _ (by omega)]
        · rw [if_neg hr2, if_neg (by omega)]
    · intro k
      have := (h3 k).trans (g3 k)
      rw [hcan] at this
      rwa [show (canon e a + n - 1) / 64 = (canon e a + (4 - a % 4)) / 64 by omega]

end Sys2Proof.Machine
end

