-- ==== Sys2Proof/Laws/Rows.lean ====
section
/-! SUPPORT. Laws/Rows.lean: what a sender's register access does once it reaches its register. -/

namespace Sys2Proof.Machine

open Reg

/-- A BAR0 offset that stands for a register leads to it. -/
theorem bar0_of {a off : Nat} (h : bar0Of a = some off) : bar0 off = .reg a ∧ off % 4 = a % 4 := by
  have ha : a = 0x10000 * (a / 0x10000) + a % 0x10000 := by omega
  have hlt : a % 0x10000 < 0x10000 := Nat.mod_lt _ (by decide)
  unfold bar0Of at h
  unfold bar0
  split at h
  · split at h <;> cases h
    rename_i hl
    rw [if_pos hl]
    exact ⟨rfl, rfl⟩
  · split at h <;> cases h
    rename_i hb hl
    rw [if_neg (by omega), if_pos (by omega)]
    exact ⟨congrArg Bar0.reg (by omega), by omega⟩
  · split at h <;> cases h
    rename_i hb hl
    rw [if_neg (by omega), if_neg (by omega), if_pos (by omega)]
    exact ⟨congrArg Bar0.reg (by omega), by omega⟩
  · cases h
    rename_i hb
    rw [if_neg (by omega), if_neg (by omega), if_neg (by omega), if_pos (by simp; omega)]
    exact ⟨congrArg Bar0.reg (by omega), by omega⟩
  · cases h

/-- A register access that passes is a write of its register. -/
theorem regWrite_found {s : Chip} {m : Master} {a i : Nat} {v : Word} {r : RegRow}
    (hl : blockListed (a / 0x10000) = true) (ho : s.dev.regOff a = false) (hm : s.dev.mayWrite m a v = true)
    (hs : ¬ (a / 0x10000 = 0x05 ∧ inSubmit (a % 0x10000) = true)) (hf : findReg a = some (r, i)) :
    s.regWrite m a v = (s.writeReg m r a v, .ok 0) := by
  unfold Chip.regWrite
  rw [if_neg (by simp [hl]), if_neg (by simp [ho]), if_neg (by simp [hm]), if_neg hs, hf]

/-- An aligned word access to BAR0 is of the right width and alignment. -/
theorem badAccess_word {off : Nat} (h : off % 4 = 0) : badAccess off 4 = false := by
  unfold badAccess
  simp [h]

/-- A sender's write that reaches its register writes it. -/
theorem rowWrite_hears {s : Chip} {m : Sender} {a i : Nat} {v : Word} {r : RegRow} (h : Hears s m a v)
    (hs : ¬ (a / 0x10000 = 0x05 ∧ inSubmit (a % 0x10000) = true)) (hf : findReg a = some (r, i)) (h4 : a % 4 = 0) :
    s.rowWrite m a v = s.writeReg (s.asMaster m) r a v := by
  have hw := regWrite_found (m := s.asMaster m) h.listed h.on h.may hs hf
  cases m with
  | core e =>
    unfold Chip.rowWrite
    simp only [h.clock, Bool.false_and, Bool.false_eq_true, if_false]
    exact congrArg Prod.fst hw
  | debugger =>
    unfold Chip.rowWrite
    simp only [if_pos (h.level rfl), h.clock, Bool.false_and, Bool.false_eq_true, if_false]
    exact congrArg Prod.fst hw
  | host =>
    obtain ⟨hc, hb⟩ := h.bar rfl
    obtain ⟨off, ho⟩ := Option.ne_none_iff_exists'.mp hb
    obtain ⟨h0, hm4⟩ := bar0_of ho
    unfold Chip.rowWrite
    simp only [ho]
    unfold Chip.bar0Write
    rw [if_neg (by simp [hc]), if_neg (by simp [badAccess_word (show off % 4 = 0 by omega)]), h0]
    simp only [Chip.asMaster] at hw
    simp only []
    rw [hw]
    rfl

/-- A write of a register stores its fields and does what it starts, unless a rule makes it do nothing. -/
theorem writeReg_takes {s : Chip} {m : Sender} {a i : Nat} {v : Word} {r : RegRow} (hf : findReg a = some (r, i))
    (ht : thrQueue a = none) (hi : s.dev.ignores a (r.taken v) = false) :
    s.writeReg (s.asMaster m) r a v
      = (s.takes m a v).hook (s.asMaster m) a s.dev.inLine (s.dev.word (a - r.back)) (r.taken v) := by
  unfold Chip.writeReg Chip.takes
  rw [hf, ht]
  simp [hi]

/-- Reads by a core that reach their register. -/
theorem rowRead_shows {s : Chip} {e : CoreId} {a : Nat} (h : Shows s (.core e) a) :
    s.rowRead (.core e) a
      = (s.onDev fun d => (d.readEffect (s.master e) a).latchEffect (s.master e) a).onDev
          (·.answers (s.view (s.master e) a)) := by
  have hd : (s.master e).isDbg = false := by
    have : uidOf e ≠ 0x19 := by unfold uidOf isCur; split <;> (have := e.isLt; omega)
    simpa [Master.isDbg, Chip.master] using this
  have hm : mayRead (s.master e) a = true := h.may
  have hr : s.regRead (s.master e) a
      = (s.onDev fun d => (d.readEffect (s.master e) a).latchEffect (s.master e) a, .ok (s.view (s.master e) a)) := by
    unfold Chip.regRead
    rw [if_neg (by simp [h.listed]), if_neg (by simp [h.on]), if_neg (by simp [hm])]
    simp [hd]
  unfold Chip.rowRead
  simp only [h.clock, Bool.false_and, Bool.false_eq_true, if_false]
  exact congrArg Chip.answered hr

/-- A read by the host that reaches its register. -/
theorem rowRead_host {s : Chip} {a : Nat} (h : Shows s .host a) (h4 : a % 4 = 0) :
    s.rowRead .host a
      = (s.onDev fun d => (d.readEffect Master.host a).latchEffect Master.host a).onDev (·.answers (s.view Master.host a)) := by
  obtain ⟨hc, hb⟩ := h.bar rfl
  obtain ⟨off, ho⟩ := Option.ne_none_iff_exists'.mp hb
  obtain ⟨h0, hm4⟩ := bar0_of ho
  have hm : mayRead Master.host a = true := h.may
  have hr : s.regRead Master.host a
      = (s.onDev fun d => (d.readEffect Master.host a).latchEffect Master.host a, .ok (s.view Master.host a)) := by
    unfold Chip.regRead
    rw [if_neg (by simp [h.listed]), if_neg (by simp [h.on]), if_neg (by simp [hm])]
    rfl
  unfold Chip.rowRead
  simp only [ho]
  unfold Chip.bar0Read
  rw [if_neg (by simp [hc]), if_neg (by simp [badAccess_word (show off % 4 = 0 by omega)]), h0]
  simp only []
  rw [hr]
  rfl

/-- A read by the debugger that reaches its register is quiet (R478). -/
theorem rowRead_debugger {s : Chip} {a : Nat} (h : Shows s .debugger a) :
    s.rowRead .debugger a
      = (s.onDev fun d => d.tick1.latchEffect Master.debugger a).onDev (·.answers (s.view Master.debugger a)) := by
  have hm : mayRead Master.debugger a = true := h.may
  have hr : s.regRead Master.debugger a
      = (s.onDev fun d => d.tick1.latchEffect Master.debugger a, .ok (s.view Master.debugger a)) := by
    unfold Chip.regRead
    rw [if_neg (by simp [h.listed]), if_neg (by simp [h.on]), if_neg (by simp [hm])]
    rfl
  unfold Chip.rowRead
  simp only [if_pos (h.level rfl), h.clock, Bool.false_and, Bool.false_eq_true, if_false]
  exact congrArg Chip.answered hr

end Sys2Proof.Machine
end

