-- ==== Sys2Proof/Tests/Slice0.lean ====
section
/-! SUPPORT. Tests/Slice0.lean: an ill-formed command for each check of WellFormed, and states and operands that meet the hypotheses of the
statements, some at the ends of their ranges. -/

namespace Sys2Proof.Tests

open Machine Machine.Reg

set_option Elab.async false

/-! ### Ill-formed commands, each refused by its check -/

theorem test_wf_unary_rb : (Machine.Op.alu .clz 1 2 3).wf = false := by decide
theorem test_wf_dot_pair : (Instr.dot8 0 1 31 2).wf = false := by decide
theorem test_wf_increment_same : (Instr.lwI 0 4 4 4).wf = false := by decide
theorem test_wf_inval_none : (Instr.inval 0 4 0).wf = false := by decide
theorem test_wf_waitt_pair : (Instr.waitt 0 4 31).wf = false := by decide
theorem test_wf_calibration : (Instr.calibration []).wf = false := by decide
theorem test_wf_io_write : (Instr.ioWrite 0x60 []).wf = false := by decide
theorem test_wf_oob : (Instr.oobPacket []).wf = false := by decide
theorem test_wf_far_bank : (Instr.farWindowDisableSeam 15).wf = false := by decide
theorem test_wf_aperture : (Instr.apertureWrite 0xFFFF [1, 2]).wf = false := by decide
theorem test_wf_fetch : (Instr.descriptorFetch []).wf = false := by decide
theorem test_wf_target : (Instr.halt 66).wf = false := by decide
theorem test_wf_register : (Instr.registerWrite (.core 64) 2 4 0).wf = false := by decide
theorem test_wf_good : (Instr.add 0 1 2 3).wf = true ∧ (Instr.registerWrite (.core 64) 4 4 0).wf = true := by decide
theorem test_wf_sev_scope : (Instr.sev 0 7 false 0 0).wf = false ∧ (Instr.sev 0 7 true 4 0).wf = false := by decide
theorem test_wf_samples : (Instr.pdmFrame (List.replicate 1921 0)).wf = false := by decide +kernel
theorem test_wf_down : (Instr.pdownSeam 0).wf = false ∧ (Instr.pdownPowerUp 0).wf = false := by decide
theorem test_wf_io_read : (Instr.ioRead 0x60 0).wf = false := by decide
theorem test_wf_aperture_read : (Instr.apertureRead 0xFFFF 2).wf = false := by decide
theorem test_wf_targets : (Instr.resume 66).wf = false ∧ (Instr.step 66).wf = false := by decide
theorem test_wf_read : (Instr.readToClear .host 0x200000 4).wf = false ∧ (Instr.readToClear .host 4 0).wf = false := by decide

/-! ### States and operands that meet the hypotheses of the statements -/

/-- A device at rest with both wing rails on and the boot ROM's flow over; the curator's line buffer holds the first line of the gallery. -/
def dev : Dev :=
  let d := Dev.rest ⟨Vector.replicate 4 0, 0⟩
  { d with
    pwr := { d.pwr with parked := false }
    rails := Vector.replicate 2 { on := true, mv := 800, lower := 800, since := 0, bad := false }
    cur := { d.cur with boot := false, line := some 0x40000 } }

/-- A core at work at the start of its scratch, the curator at the start of the gallery; g1 holds 0x40 and the sp 0x7000. -/
def work (e : CoreId) : Core :=
  { Core.rest (isCur e) with
    run := true, off := 0, cb := if isCur e then 1 else 0
    g := ((Core.rest (isCur e)).g.set 1 0x40).set 31 0x7000 }

/-- Core e as c in such a device, with memory m. -/
def st (e : CoreId) (c : Core) (d : Dev := dev) (m : Mem := ⟨[], [], []⟩) : State :=
  { chip := { cores := (bootCores false).set e c, mem := m, dev := d }, pending := [] }

/-- What makes a core steady whose fetch is uncached and from the gallery or a scratch. -/
theorem steady_of {s : Chip} {e : CoreId}
    (h : (s.dev.todo = [] ∧ s.dev.adm.defer = [] ∧ s.dev.watching = false ∧ s.dev.get PWR_STAT_PHASE = 0)
      ∧ (s.dev.flag ESPI_CTL_EN = true → s.dev.bit ESPI_VWOUT_HWW 1 = s.dev.flag HPT_HOLD_WAKE)
      ∧ s.canRun e = true ∧ s.dev.get PWR_STAT_STATE ≠ 1 ∧ s.cores[e].impErr = [] ∧ s.cores[e].shadows = []
      ∧ (s.cores[e].det = true → s.cores[e].sb = [] ∧ s.cores[e].sbErr = [])
      ∧ (isCur e = false → s.dev.get (CAB_PMCTL_EN (cabOf e) (slotOf e)) = 0)
      ∧ (∀ c ∈ cmpsOf e, s.dev.get c.action = 0) ∧ s.dev.dbg.haltReq.getLsbD e.val = false
      ∧ (fetchOwn e s.cores[e] s.cores[e].pc = none ∧ fetchCached e s.cores[e] s.cores[e].pc = false ∧ s.cores[e].pc < 0x10000000
        ∧ canon e s.cores[e].pc < 0x3000000 ∧ s.dev.flag GAL_CCTL_EN = false ∧ s.dev.galleryOff (canon e s.cores[e].pc) = false
        ∧ s.mem.flip (canon e s.cores[e].pc) = 0 ∧ (isCur e = true → s.dev.cur.line = some (s.cores[e].pc / 64)))) : Steady s e := by
  obtain ⟨⟨a1, a2, a3, a4⟩, a5, b1, b2, b3, b4, b5, b6, b7, b8, f1, f2, f3, f4, f5, f6, f7, f8⟩ := h
  exact ⟨⟨a1, a2, a3, a4, a5⟩, b1, b2, b3, b4, b5, b6, b7, b8, _, Chip.fetch_plain f1 f2 f3 f4 b6 f5 f6 f7 f8⟩


theorem plain_of {s : Chip} {e : CoreId} {a n : Nat}
    (h : a / 0x1000000 < 3 ∧ implemented e a n = true ∧ (∀ k < n, s.dev.galleryOff (canon e (a + k)) = false)
      ∧ (∀ k < n, s.mem.flip (canon e (a + k)) = 0) ∧ (∀ k < n, dataCached s.dev e s.cores[e] (a + k) = false)
      ∧ s.cores[e].sbFind e (canon e a) n = none ∧ s.dev.flag GAL_CCTL_EN = false) : Plain s e a n :=
  ⟨h.1, h.2.1, h.2.2.1, h.2.2.2.1, h.2.2.2.2.1, h.2.2.2.2.2.1, h.2.2.2.2.2.2⟩

theorem allowed_of {s : Chip} {e : CoreId} {k : Kind} {a n : Nat} {stk : Bool}
    (h : s.cores[e].allowed s.cores[e].km k a n = true ∧ (stk = true → s.cores[e].spCheck = true → s.cores[e].spLimit ≤ a % 0x1000000)) :
    Allowed s e k a n stk := ⟨h.1, h.2⟩

theorem quiet_of {t : Chip} {e : CoreId}
    (h : t.cores[e].shadows = [] ∧ (isCur e = false → t.dev.get (CAB_PMCTL_EN (cabOf e) (slotOf e)) = 0)
      ∧ (∀ c ∈ cmpsOf e, t.dev.get c.action = 0) ∧ t.dev.dbg.haltReq.getLsbD e.val = false) : Quiet t e := ⟨h.1, h.2.1, h.2.2.1, h.2.2.2⟩

/-- A store that is taken, and the device after it. -/
theorem stores_of {s : Chip} {e : CoreId} {a n : Nat} {w : Word} {stk : Bool} (v : Word)
    (h : ownCheck e s.cores[e] (ownCtx e s.cores[e]) ⟨a, n, false, true, false, stk⟩ = none ∧ (s.store e (ownCtx e s.cores[e]) a n w).2 = .val v)
    (q : Quiet ((s.store e (ownCtx e s.cores[e]) a n w).1.accessTokens e (ownCtx e s.cores[e]) .store a n [w] (.val v)) e) :
    ∃ t, Stores s e a n w stk t := ⟨_, h.1, ⟨_, v, by rw [← h.2], rfl⟩, q⟩

theorem wit_engine : Steady (st 0 (work 0)).chip 0 := steady_of (by decide +kernel)
theorem wit_curator : Steady (st curator (work curator)).chip curator := steady_of (by decide +kernel)

/-- IntegerOperations, ProductsAndQuotients, BranchesAndJumps: both kinds of core. -/
theorem wit_computing : Steady (st 0 (work 0)).chip 0 ∧ Steady (st curator (work curator)).chip curator ∧ (1 : GReg) ≠ 31 :=
  ⟨wit_engine, wit_curator, by decide⟩

/-- BranchesAndJumps: a call's store below sp, a return's load at sp. -/
theorem wit_calls : let s := (st 0 (work 0)).chip; Steady s 0 ∧ (∃ t, Stores s 0 0x6FFC 4 4 true t) ∧ (∃ t v, Loads s 0 0x7000 4 false t v)
    ∧ devAddr s.cores[(0 : CoreId)].spBank (s.cores[(0 : CoreId)].sp - 4).toNat = 0x6FFC :=
  ⟨wit_engine, stores_of 0 (by decide +kernel) (quiet_of (by decide +kernel)),
    ⟨_, _, Loads.plain wit_engine (plain_of (by decide +kernel)) (allowed_of (by decide +kernel)) (by decide) (by decide)⟩, by decide +kernel⟩

/-- LoadInstructions: each width, at the last word of a scratch too. -/
theorem wit_loads : let s := (st 0 (work 0)).chip
    Steady s 0 ∧ (∀ n ∈ [1, 2, 4], ∀ a ∈ [0x40, 0x7FFC], Plain s 0 a n ∧ Allowed s 0 .read a n false ∧ ∃ t v, Loads s 0 a n false t v) := by
  refine ⟨wit_engine, fun n hn a ha => ?_⟩
  have hp : Plain (st 0 (work 0)).chip 0 a n := by
    simp only [List.mem_cons, List.not_mem_nil, or_false] at hn ha
    rcases hn with rfl | rfl | rfl <;> rcases ha with rfl | rfl <;> exact plain_of (by decide +kernel)
  have hal : Allowed (st 0 (work 0)).chip 0 .read a n false := by
    simp only [List.mem_cons, List.not_mem_nil, or_false] at hn ha
    rcases hn with rfl | rfl | rfl <;> rcases ha with rfl | rfl <;> exact allowed_of (by decide +kernel)
  have h1 : 1 ≤ n ∧ n ≤ 4 := by
    simp only [List.mem_cons, List.not_mem_nil, or_false] at hn
    omega
  exact ⟨hp, hal, _, _, Loads.plain wit_engine hp hal h1.1 h1.2⟩

/-- StoresAndTheStoreBuffer: a store that enters the buffer, and one that is the oldest of it. -/
theorem wit_stores : let s := (st 0 (work 0)).chip; Steady s 0 ∧ (∃ t, Stores s 0 0x40 4 7 false t) ∧ (∃ t, Stores s 0 0x41 2 7 false t)
    ∧ (∃ t, Stores s 0 0x43 1 7 false t) ∧ isCur 0 = false ∧ s.cores[(0 : CoreId)].det = false ∧ s.cores[(0 : CoreId)].sb.length < 12
    ∧ implemented 0 0x7FFC 4 = true ∧ Allowed s 0 .write 0x7FFC 4 true :=
  ⟨wit_engine, stores_of 0 (by decide +kernel) (quiet_of (by decide +kernel)), stores_of 0 (by decide +kernel) (quiet_of (by decide +kernel)),
    stores_of 0 (by decide +kernel) (quiet_of (by decide +kernel)), by decide, by decide +kernel, by decide +kernel, by decide +kernel,
    allowed_of (by decide +kernel)⟩

theorem calm_of {d : Dev} (h : d.todo = [] ∧ d.adm.defer = [] ∧ d.watching = false ∧ d.get PWR_STAT_PHASE = 0
    ∧ (d.flag ESPI_CTL_EN = true → d.bit ESPI_VWOUT_HWW 1 = d.flag HPT_HOLD_WAKE)) : Calm d := ⟨h.1, h.2.1, h.2.2.1, h.2.2.2.1, h.2.2.2.2⟩

theorem wit_dev : Calm dev := calm_of (by decide +kernel)

theorem wit_drain : let x : SbEntry := ⟨0x7FFC, 4, 5, .waiting⟩; let s := (st 0 { work 0 with sb := [x] }).chip
    Calm s.dev ∧ s.dev.pwr.hold = false ∧ s.dev.wingRuns (Fin.ofNat 2 (wingOf 0)) = true ∧ s.cores[(0 : CoreId)].sb = [x]
    ∧ implemented 0 x.addr.toNat x.size = true ∧ (∀ k < x.size, s.dev.galleryOff (canon 0 (x.addr.toNat + k)) = false)
    ∧ (∀ k < x.size, s.mem.flip (canon 0 (x.addr.toNat + k)) = 0) ∧ s.mem.owned = [] ∧ s.dev.flag GAL_CCTL_EN = false :=
  ⟨wit_dev, by decide +kernel⟩

/-- ReadModifyWrites: with the reservation and without it. -/
theorem wit_rmw : ∀ r ∈ [none, some (canon 0 0x40 / 64)], let s := (st 0 { work 0 with resv := r }).chip; let c := s.cores[(0 : CoreId)]
    Steady s 0 ∧ c.sb = [] ∧ c.sbErr = [] ∧ c.resv = r ∧ (c.rd 1).toNat = 0x40 ∧ Plain s 0 0x40 4 ∧ Allowed s 0 .read 0x40 4 false
    ∧ Allowed s 0 .write 0x40 4 false ∧ s.mem.owned = [] := by
  intro r hr
  simp only [List.mem_cons, List.not_mem_nil, or_false] at hr
  rcases hr with rfl | rfl <;>
    exact ⟨steady_of (by decide +kernel), by decide +kernel, by decide +kernel, by decide +kernel, by decide +kernel, plain_of (by decide +kernel),
      allowed_of (by decide +kernel), allowed_of (by decide +kernel), by decide +kernel⟩

/-- SystemRegisters: kernel mode. -/
theorem wit_system : (work 0).km = true ∧ (work curator).km = true ∧ Steady (st 0 (work 0)).chip 0 ∧ Steady (st curator (work curator)).chip curator :=
  ⟨by decide +kernel, by decide +kernel, wit_engine, wit_curator⟩

/-- FencesAndLines: an array address, and one of the registers. -/
theorem wit_lines : let c := work 0; (c.rd 1).toNat / 0x1000000 < 3 ∧ implemented 0 (c.rd 1).toNat 1 = true ∧ c.allowed c.km .read (c.rd 1).toNat 1 = true
    ∧ c.sb = [] ∧ c.sbErr = [] ∧ isIo ({ c with g := c.g.set 1 0x04000000 } : Core).g[1].toNat = true
    ∧ Steady (st 0 { c with g := c.g.set 1 0x04000000 }).chip 0 :=
  ⟨by decide +kernel, by decide +kernel, by decide +kernel, by decide +kernel, by decide +kernel, by decide +kernel, steady_of (by decide +kernel)⟩

/-- An entry that is taken, and the device after it: the frame is pushed and the vector slot's fetch is uncached. -/
theorem enters_of {s : Chip} {e : CoreId} {sec : Bool} {ecause epc eval : Word} {pri : Option (BitVec 5)}
    (h : let r := ((s.entering e).pushFrame e (s.cores[e]).frameOff 0 (s.cores[e]).frameWords).1
      let u := r.onCore e (·.entered ecause epc eval pri)
      let a := (r.cores[e].entered ecause epc eval pri).pc
      (s.cores[e].sb = [] ∧ s.cores[e].sbErr = []) ∧ (isCur e = false → s.dev.get (CAB_PMCTL_EN (cabOf e) (slotOf e)) = 0)
      ∧ frameOk e (s.entering e).cores[e] sec = true ∧ ((s.entering e).pushFrame e (s.cores[e]).frameOff 0 (s.cores[e]).frameWords).2 = true
      ∧ r.cores[e].df = false
      ∧ fetchOwn e u.cores[e] a = none ∧ fetchCached e u.cores[e] a = false ∧ a < 0x10000000 ∧ canon e a < 0x3000000
      ∧ (isCur e = false → u.dev.get (CAB_PMCTL_EN (cabOf e) (slotOf e)) = 0) ∧ u.dev.flag GAL_CCTL_EN = false
      ∧ u.dev.galleryOff (canon e a) = false ∧ u.mem.flip (canon e a) = 0 ∧ (isCur e = true → u.dev.cur.line = some (a / 64))) :
    ∃ t, Enters s e sec ecause epc eval pri t := by
  obtain ⟨h1, h2, h3, h4, h5, f1, f2, f3, f4, f5, f6, f7, f8, f9⟩ := h
  exact ⟨_, h1, h2, h3, ⟨_, _, Prod.ext rfl h4, Chip.fetch_plain f1 f2 f3 f4 f5 f6 f7 f8 f9⟩, h5⟩

/-- ExceptionsTaken: the entries of TRAP and BKPT, and of an encoding that is not assigned; a BKPT that halts. -/
theorem wit_traps : let s := (st 0 (work 0)).chip; let c := s.cores[(0 : CoreId)]
    Steady s 0 ∧ s.offer 0 = none ∧ s.dev.bkptHalts 0 = false ∧ c.off = 0 ∧ c.cb = 0
    ∧ (∃ t, Enters (s.trapping 0) 0 (c.secure 0) 0x0A 4 7 none t) ∧ (∃ t, Enters (s.trapping 0) 0 (c.secure 0) 0x0B 0 7 none t)
    ∧ (∃ t, Enters (s.trapping 0) 0 (c.secure 0) 0x01 0 (Op.alu .dot8 1 31 2).encode none t) :=
  ⟨wit_engine, by decide +kernel, by decide +kernel, by decide +kernel, by decide +kernel, enters_of (by decide +kernel), enters_of (by decide +kernel),
    enters_of (by decide +kernel)⟩

/-- A core in user mode whose first region allows everything below its limit. -/
def user : Core := { work 0 with km := false, regions := (work 0).regions.set 0 ⟨0, 0xFFFFFFC0, 0x80000077⟩ }

theorem wit_user : let s := (st 0 user).chip; let c := s.cores[(0 : CoreId)]
    Steady s 0 ∧ s.offer 0 = none ∧ c.km = false ∧ (∃ t, Enters (s.trapping 0) 0 (c.secure 0) 0x404 0 Op.rfe.encode none t) :=
  ⟨steady_of (by decide +kernel), by decide +kernel, by decide +kernel, enters_of (by decide +kernel)⟩

/-- The device with fields of its registers set. -/
def put (l : List (Fld × Nat)) : Dev := l.foldl (fun d x => d.put x.1 x.2) dev

theorem wit_halting : let s := (st 0 (work 0) (put [(DBG_CTL_BKHALT, 1)])).chip; Steady s 0 ∧ s.dev.bkptHalts 0 = true :=
  ⟨steady_of (by decide +kernel), by decide +kernel⟩

theorem wit_curator_traps : let s := (st curator { work curator with splim := 0x01000000 }).chip; let c := s.cores[curator]
    Steady s curator ∧ s.offer curator = none ∧ isCur curator = true ∧ c.spBank = 1 ∧ c.off = 0 ∧ c.cb = 1 :=
  ⟨steady_of (by decide +kernel), by decide +kernel⟩

/-- ReturnFromException: a frame of four words at the sp, all 0, so that RX is 0. -/
theorem wit_rfe : let s := (st 0 (work 0)).chip; let c := s.cores[(0 : CoreId)]
    Steady s 0 ∧ c.km = true ∧ c.sb = [] ∧ c.sbErr = [] ∧ isCur 0 = false
    ∧ (BitVec.ofNat 32 (s.mem.bytesLE (canon 0 (frameAddr c (c.sp.toNat % 0x1000000) 1)) 4) : Word).getLsbD 30 = false
    ∧ s.dev.tailOffer 0 0 = none
    ∧ ∀ k < 4, frameCause 0 c false .read (frameAddr c (c.sp.toNat % 0x1000000) k) = none ∧ Plain s 0 (frameAddr c (c.sp.toNat % 0x1000000) k) 4 := by
  refine ⟨wit_engine, by decide +kernel, by decide +kernel, by decide +kernel, by decide, by decide +kernel, by decide +kernel, fun k hk => ?_⟩
  rcases (show k = 0 ∨ k = 1 ∨ k = 2 ∨ k = 3 by omega) with rfl | rfl | rfl | rfl <;>
    exact ⟨by decide +kernel, plain_of (by decide +kernel)⟩

/-- WaitsAndEvents: the latch set and clear, the time reached (g0 and g1 are 0) and not. -/
theorem wit_waits : Steady (st 0 (work 0)).chip 0 ∧ Steady (st 0 (work 0) { dev with latch := 1 }).chip 0
    ∧ dev.latch.getLsbD 0 = false ∧ ({ dev with latch := 1 } : Dev).latch.getLsbD 0 = true
    ∧ ((work 0).pair 4 ≤ dev.now) ∧ ¬ ((work 0).pair 1 ≤ dev.now) :=
  ⟨wit_engine, steady_of (by decide +kernel), by decide +kernel⟩

theorem wit_wakes : ∀ w ∈ [Wait.wfe, .waitt 3 9, .waitt 3 0, .overlap (.imm .addi 3 0 1) 0 none], Waiting (st 0 { work 0 with wait := w }).chip 0 w := by
  intro w hw
  simp only [List.mem_cons, List.not_mem_nil, or_false] at hw
  rcases hw with rfl | rfl | rfl | rfl <;> exact ⟨by decide +kernel, steady_of (by decide +kernel)⟩

theorem wit_retry : let s := (st 0 { work 0 with wait := .overlap (.imm .addi 3 0 1) 0 none }).chip
    ((((s.onDev (·.forget 0)).onCore 0 fun k => { k with wait := .none }).fromBoundary 0 (.imm .addi 3 0 1) 0).cores[(0 : CoreId)].wait = .none) := by
  decide +kernel

/-- RepeatsAndCustomInstructions: the word after the prefix is fetched and decodes; a loaded slot of one micro-operation, and an empty one. -/
theorem wit_repeats : let s := (st 0 (work 0)).chip; let b : Op := .imm .addi 3 3 1
    Steady s 0 ∧ b.wf = true ∧ (∃ w, s.fetch 0 s.cores[(0 : CoreId)].pc4 = (s, .ok w)) ∧ Op.decode b.encode = some b :=
  ⟨wit_engine, by decide, ⟨_, Chip.fetch_plain (by decide +kernel) (by decide +kernel) (by decide +kernel) (by decide +kernel) (by decide +kernel)
    (by decide +kernel) (by decide +kernel) (by decide +kernel) (by decide +kernel)⟩, by decide +kernel⟩

theorem wit_custom : let d := (put [(CAB_CXCTL_STATE_EFF 0 0, 1)]).setWord (CAB_CXTAB 0 0 0) 0x10000 |>.setWord (CAB_CXTAB 0 0 1) 0x010A6000
    let s := (st 0 (work 0) d).chip
    Steady s 0 ∧ d.flag (CAB_CXCTL_STATE_EFF 0 0) = true ∧ ∃ w, d.slotOps 0 0 = [w] ∧ bits w 31 26 = 0 ∧ bits w 25 21 = 8 ∧ bits w 20 16 = 10
      ∧ bits w 15 11 = 12 ∧ cxIllegal [w] 1 2 3 = false :=
  ⟨steady_of (by decide +kernel), by decide +kernel, 0x010A6000, by decide +kernel⟩

theorem wit_custom_empty : let s := (st 0 (work 0)).chip
    s.dev.flag (CAB_CXCTL_STATE_EFF 0 0) = false ∧ s.offer 0 = none
    ∧ ∃ t, Enters (s.trapping 0) 0 (s.cores[(0 : CoreId)].secure 0) 0x02 0 (Op.cx 0 1 2 3 0).encode none t :=
  ⟨by decide +kernel, by decide +kernel, enters_of (by decide +kernel)⟩

/-- The device with source 5 pending for engine 0 at priority 3. -/
def offering : Dev :=
  let d := put [(ITC_CTL_EN, 1), (⟨ITC_ENSET 0, 31, 0⟩, 32), (ITC_SRC_PRI 5, 3), (ITC_SRC_TKIND 5, 0)]
  { d with itc := { d.itc with pend := 32 } }

/-- ReportsAndInterrupts: an error reply that joins, and one that is taken; a replay; an offer below PRI with IE set. -/
theorem wit_reports : let s := (st 0 { work 0 with sbErr := [8] }).chip; let u := (st 0 { work 0 with sbErr := [8, 4], run := false }).chip
    Steady s 0 ∧ s.cores[(0 : CoreId)].sbErr = [8] ∧ s.cores[(0 : CoreId)].sb = [] ∧ s.cores[(0 : CoreId)].tblPair = false
    ∧ (∃ t, Enters ((s.onCore 0 fun k => { k with sbErr := [], impErr := [] }).onDev (·.discard 0)) 0 (s.cores[(0 : CoreId)].secure 0) 0x80000007 0 8
        none t)
    ∧ u.ready 0 = false ∧ u.cores[(0 : CoreId)].sbErr = [8, 4] :=
  ⟨steady_of (by decide +kernel), by decide +kernel, by decide +kernel, by decide +kernel, enters_of (by decide +kernel), by decide +kernel⟩

theorem wit_replay : let s := (st 0 (work 0)).chip; let x := (st 0 (work 0) ((put [(CAB_PMCTL_EN 0 0, 1)]).setWord (CAB_PMSEL 0 0) 12)).chip
    s.ready 0 = true ∧ s.cores[(0 : CoreId)].det = false ∧ ({ work 0 with mode := 1 } : Core).det = true ∧ x.cores[(0 : CoreId)].halted = false
    ∧ x.dev.get (CAB_PMCTL_EN 0 0) = 1 ∧ x.dev.get (CAB_PMCTL_FILT 0 0) = 0 ∧ bits (x.dev.word (CAB_PMSEL 0 0)) 7 0 = 12
    ∧ x.dev.word (CAB_PMCNT 0 0 0) ≠ 0xFFFFFFFF := by decide +kernel

theorem wit_interrupt : let s := (st 0 { work 0 with ie := true } offering).chip
    Steady s 0 ∧ s.cores[(0 : CoreId)].tblPair = false ∧ s.dev.wouldOffer 0 = some (3, 5) ∧ s.cores[(0 : CoreId)].ie = true
    ∧ s.offer 0 = some (3, 5)
    ∧ (∃ t, Enters (((s.onDev (·.discard 0)).onDev (·.accept 0 3 5)).acceptTokens 0 3 5) 0 (s.cores[(0 : CoreId)].secure 0) 0x13 0 5 (some 3) t)
    ∧ (∃ t, Enters ((s.onDev (·.accept 0 3 5)).acceptTokens 0 3 5) 0 (s.cores[(0 : CoreId)].secure 0) 0x13 0 5 (some 3) t) :=
  ⟨steady_of (by decide +kernel), by decide +kernel, by decide +kernel, by decide +kernel, by decide +kernel, enters_of (by decide +kernel),
    enters_of (by decide +kernel)⟩

/-- TheOfferIsTheBest: a source is offered. -/
theorem wit_offer : offering.wouldOffer 0 = some (3, 5) := by decide +kernel

/-! ### Units -/

/-- A write that reaches its register. -/
theorem hears_of {s : Chip} {m : Sender} {a : Nat} {v : Word}
    (h : blockListed (a / 0x10000) = true ∧ s.dev.regOff a = false ∧ s.dev.islandShut a = false ∧ s.dev.mayWrite (s.asMaster m) a v = true
      ∧ (m = .debugger → s.dev.debuggerMay true (0x4000000 + a) = true)
      ∧ (m = .host → s.dev.flag HPT_CTL_CFGRDY = true ∧ bar0Of a ≠ none)) : Hears s m a v :=
  ⟨h.1, h.2.1, h.2.2.1, h.2.2.2.1, h.2.2.2.2.1, h.2.2.2.2.2⟩

/-- A read that reaches its register. -/
theorem shows_of {s : Chip} {m : Sender} {a : Nat}
    (h : blockListed (a / 0x10000) = true ∧ s.dev.regOff a = false ∧ s.dev.islandShut a = false ∧ mayRead (s.asMaster m) a = true
      ∧ (m = .debugger → s.dev.debuggerMay false (0x4000000 + a) = true)
      ∧ (m = .host → s.dev.flag HPT_CTL_CFGRDY = true ∧ bar0Of a ≠ none)) : Shows s m a :=
  ⟨h.1, h.2.1, h.2.2.1, h.2.2.2.1, h.2.2.2.2.1, h.2.2.2.2.2⟩

/-- Engine 0 at work in device d. -/
abbrev on (d : Dev) : State := st 0 (work 0) d

/-- The curator as a sender of register writes. -/
abbrev cur : Sender := .core curator

/-- The device with the clocks of the islands running. -/
def live : Dev := { put [(TBS_STAT_LOCK, 1)] with tbs := { dev.tbs with hfosc := true } }

/-- The same with fields set. -/
def livePut (l : List (Fld × Nat)) : Dev := l.foldl (fun d x => d.put x.1 x.2) live

/-- InterruptSources. -/
theorem wit_sources : let c := (on dev).chip
    Hears c cur (ITC_PENDSET 7) 0xFFFFFFFF ∧ Hears c cur (ITC_PENDCLR 0) 1 ∧ Hears c cur (ITC_ENSET 7) 1 ∧ Hears c cur (ITC_ENCLR 0) 0xFFFFFFFF
    ∧ Hears c cur (ITC_SRC 0) 0xFFFFFFFF ∧ Hears c cur (ITC_SRC 255) 0 :=
  ⟨hears_of (by decide +kernel), hears_of (by decide +kernel), hears_of (by decide +kernel), hears_of (by decide +kernel),
    hears_of (by decide +kernel), hears_of (by decide +kernel)⟩

theorem wit_conditions : (on (put [(ITC_ERR_EOIEMPTY, 1), (ITC_CTL_ERRIE, 1)])).chip.lineCond 106 = true ∧ dev.itc.pulse.getLsbD 106 = false
    ∧ (on dev).chip.lineCond 147 = false ∧ srcReserved 147 = false ∧ ({ dev.itc with pulse := 1#256 <<< 147 } : Itc).pulse.getLsbD 147 = true := by
  decide +kernel

/-- InterruptDelivery. -/
theorem wit_claims : let c := (on dev).chip; let x := (on offering).chip
    Shows c (.core 0) ITC_CLAIM ∧ c.dev.wouldOffer 0 = none ∧ Shows x (.core 0) ITC_CLAIM ∧ x.dev.wouldOffer 0 = some (3, 5)
    ∧ Hears c (.core 0) ITC_EOI 0 ∧ c.dev.stackOf 0 = [] ∧ (x.dev.accept 0 3 5).stackOf 0 = [(3, 5)]
    ∧ Hears (on (offering.accept 0 3 5)).chip (.core 0) ITC_EOI 0 :=
  ⟨shows_of (by decide +kernel), by decide +kernel, shows_of (by decide +kernel), by decide +kernel, hears_of (by decide +kernel), by decide +kernel,
    by decide +kernel, hears_of (by decide +kernel)⟩

/-- A device whose port can send messages, source 5 for the host. -/
def sending : Dev :=
  let d := put [(ITC_CTL_EN, 1), (⟨ITC_ENSET 0, 31, 0⟩, 32), (ITC_SRC_TKIND 5, 2), (HPT_LSTAT_BME, 1), (HPT_LSTAT_D0, 1), (HPT_LSTAT_STATE, 2),
    (HPT_CTL_CFGRDY, 1)]
  { d with itc := { d.itc with pend := 32 }, hpt := { d.hpt with cfg := [(Config.msixCap, 0x80000000)] } }

theorem wit_sending : sending.canSend = true ∧ (∃ p, sending.hostSource = some (p, 5)) ∧ (sending.hpt.msix[(0 : Fin 64)]).mask = true
    ∧ sending.msixFnMask = false := by
  have h : sending.cfgRead Config.msixCap = 0x80000000 := by
    unfold Dev.cfgRead
    show (amapFind Config.msixCap [(Config.msixCap, 0x80000000#32)]).getD _ = _
    simp [amapFind]
  refine ⟨?_, ⟨sending.get (ITC_SRC_PRI 5), by decide +kernel⟩, by decide +kernel, by simp [Dev.msixFnMask, h]⟩
  have h1 : sending.msixOn = true := by simp [Dev.msixOn, h]
  have h2 : (sending.flag HPT_LSTAT_BME && sending.flag HPT_LSTAT_D0 && true && 2 ≤ sending.get HPT_LSTAT_STATE && sending.get HPT_LSTAT_STATE ≤ 5) = true := by
    decide +kernel
  unfold Dev.canSend
  rw [h1]
  exact h2

/-- TimebaseAndClocks. -/
theorem wit_timebase : dev.regsWf = true ∧ Shows (on dev).chip cur TBS_TBL ∧ Shows (on { dev with dbg := { dev.dbg with level := 3 } }).chip .debugger TBS_TBL
    ∧ live.tbs.hfosc = true ∧ dev.tbs.hfosc = false ∧ dev.get TBS_STAT_SRC = 1 ∧ (put [(TBS_STAT_SRC, 0)]).get TBS_STAT_SRC = 0 :=
  ⟨by decide +kernel, shows_of (by decide +kernel), shows_of (by decide +kernel), by decide +kernel⟩

/-- Alarms: enabled and not, in the past and the future; one that is due, once and periodic. -/
theorem wit_alarms : let d := put [(TBS_ALM_CTL_EN 3, 1)]
    Hears (on dev).chip cur (TBS_ALM_CMPH 0) 1 ∧ dev.flag (TBS_ALM_CTL_EN 0) = false ∧ Hears (on d).chip cur (TBS_ALM_CMPH 3) 1
    ∧ d.flag (TBS_ALM_CTL_EN 3) = true ∧ d.now < (1#32 ++ d.word (TBS_ALM_CMPL 3)) ∧ ¬ d.now < (0#32 ++ d.word (TBS_ALM_CMPL 3))
    ∧ Hears (on d).chip cur (TBS_ALM_CTL 3) 0x80000000 ∧ Hears (on d).chip cur (TBS_ALM_CTL 3) 0
    ∧ Hears (on { dev with tbs := { dev.tbs with alarms := dev.tbs.alarms.set 0 ⟨5, 5⟩ } }).chip cur (TBS_ALM_CTL 0) 0x80000000
    ∧ dev.now < 5 :=
  ⟨hears_of (by decide +kernel), by decide +kernel, hears_of (by decide +kernel), by decide +kernel, by decide +kernel, by decide +kernel,
    hears_of (by decide +kernel), hears_of (by decide +kernel), hears_of (by decide +kernel), by decide +kernel⟩

theorem wit_due : let d := put [(TBS_ALM_CTL_EN 3, 1), (TBS_ALM_CTL_ARMED 3, 1)]
    d.almDue 3 = true ∧ d.flag (TBS_ALM_CTL_WAKE 3) = false ∧ d.flag (EVN_ALMRT_EN 3) = false ∧ d.get (TBS_ALM_PER_TICKS 3) = 0
    ∧ (d.put (TBS_ALM_PER_TICKS 3) 4).almDue 3 = true ∧ (d.put (TBS_ALM_PER_TICKS 3) 4).get (TBS_ALM_PER_TICKS 3) = 4
    ∧ (d.put (EVN_ALMRT_EN 3) 1).flag (EVN_ALMRT_EN 3) = true ∧ d.get (EVN_ALMRT_KIND 3) = 0 := by decide +kernel

/-- Watchdogs. -/
theorem wit_watchdogs : let k : Word := 0x4B1C0000; let d := put [(TBS_WDE_CTL_EN 63, 1), (CUR_WDCTL_EN, 1), (TBS_WDPCTL_EN, 1)]
    Hears (st 63 (work 63) d).chip (.core (eng 63)) TBS_WDEKICK k ∧ Hears (on d).chip cur CUR_WDKICK k ∧ Hears (on d).chip cur TBS_WDPKICK k
    ∧ d.flag (TBS_WDE_CTL_EN 63) = true ∧ d.flag TBS_WDPWARN_MS = false ∧ (d.wde 63).left = 0 ∧ (d.wde 63).spent = false ∧ d.get PWR_STAT_STATE < 2
    ∧ d.tbs.wdc.left = 0 ∧ d.tbs.wdc.spent = false ∧ d.curPowered = true ∧ d.tbs.wdp.left = 0 ∧ d.tbs.wdp.spent = false ∧ d.tbs.wdp.warned = false
    ∧ (d.put TBS_WDPWARN_MS 1).flag TBS_WDPWARN_MS = true :=
  ⟨hears_of (by decide +kernel), hears_of (by decide +kernel), hears_of (by decide +kernel), by decide +kernel⟩

theorem wit_expiry : let c := (on (put [(TBS_WDE_CTL_EN 63, 1), (TBS_WDE_CTL_RST 63, 1)])).chip
    let x := (c.onDev fun d => (d.setWde 63 { d.wde 63 with spent := true }).put (CAB_ESTAT_WDX 7 7) 1).engineFault 63
    x.dev.flag (TBS_WDE_CTL_RST 63) = true ∧ x.dev.todo.length = c.dev.todo.length
    ∧ ({ dev.tbs with pulse := some 0 } : Tbs).pulse = some 0 ∧ 0 ≤ dev.now.toNat ∧ dev.flag TBS_WDPCTL_SYSRST = false
    ∧ (put [(TBS_WDPCTL_SYSRST, 1)]).flag TBS_WDPCTL_SYSRST = true := by decide +kernel

/-! ### The depot and the registrar -/

/-- The depot on with a pool of 256 KiB and queue 100, whose quota is 20 cells, on. -/
def pool : Dev := put [(DPT_CTL_EN_REQ, 1), (DPT_CTL_EN_EFF, 1), (DPT_POOL_SIZE_EFF, 1), (DPT_POOL_BASE_EFF, 4), (DPT_QCFG_EN_REQ 100, 1),
  (DPT_QCFG_EN_EFF 100, 1), (DPT_QLIM_QUOTA 100, 20), (DPT_QCFG_CONS 100, 0xFF)]

/-- The same with an item of engine 0 open on queue 100, some words of which have come. -/
def opened (ws : List Word) : Dev := { pool with dpt := { pool.dpt with opens := [⟨0x40, 100, false, 7, 20, ws, [0, 1]⟩], walk := 2 } }

/-- The same with a sealed item of two words on queue 100, its cell staged, and the cursor at its word w. -/
def holding (w : Nat) : Dev := pool.setQueue 100
  { DQueue.empty with
    items := [⟨[3], 0, 7, 2, false⟩], cursor := ⟨0, w⟩, known := [3], staged := some (3, [.inl 0x80020007, .inl 5, .inl 6]) }

/-- HeadChecks: each of the answers. -/
theorem wit_heads : pool.headCheck 100 20 = .ok ∧ dev.headCheck 100 20 = .disabled ∧ (pool.put (DPT_QCFG_LERR 100) 1).headCheck 100 0 = .linkErr
    ∧ (pool.put (DPT_QLIM_QUOTA 100) 1).headCheck 100 959 = .full ∧ pool.headCheck 100 960 = .badHead ∧ (pool.put (DPT_QLIM_QUOTA 100) 0).headCheck 100 0 = .full := by
  decide +kernel

/-- QueuePushes: an item opens, is sealed at once, finds no room; the open item takes a word within a cell, at its end, and its last. -/
theorem wit_pushes : (on pool).chip.wields (.core 0) .head 100 = some 0x40 ∧ (on pool).chip.wields (.core 0) .body 100 = some 0x40
    ∧ (on pool).chip.wields (.core 0) .last 100 = some 0x40 ∧ pool.flag DPT_CTL_EN_EFF = true ∧ pool.openOf 0x40 100 = none
    ∧ pool.headCheck 100 (bits (20#32) 9 0) = .ok ∧ pool.headCheck 100 0 = .ok ∧ pool.dpt.opens.length < 64
    ∧ ((opened []).openOf 0x40 100).isSome = true ∧ ((opened (List.replicate 13 0)).openOf 0x40 100).isSome = true
    ∧ ((opened (List.replicate 19 0)).openOf 0x40 100).isSome = true ∧ (13 + 2) % 15 = 0 ∧ 20 ≤ 19 + 1 := by decide +kernel

/-- SealedItemsStandInThePool. -/
theorem wit_sealed : let c := (on pool).chip
    (c.dev.queue 100).items = [] ∧ c.dev.cellAddr 3 + 64 ≤ 0x2000000 ∧ ∀ k < 64, c.dev.galleryOff (c.dev.cellAddr 3 + k) = false := by decide +kernel

/-- QueueReads: at the header and at a data word; an empty queue; away from a header. -/
theorem wit_reads : ∀ w ∈ [0, 1], let c := (on (holding w)).chip; let x := c.dev.queue 100
    c.wields (.core 0) .poph 100 = some 0x40 ∧ c.wields (.core 0) .pop 100 = some 0x40 ∧ c.wields (.core 0) .peekh 100 = some 0x40
    ∧ c.wields (.core 0) .peek 100 = some 0x40 ∧ c.wields (.core 0) .dstat 100 = some 0x40
    ∧ c.dev.consumerGate 0x40 100 true = .ok ∧ x.cursor.word = w ∧ x.items[x.cursor.item]? = some ⟨[3], 0, 7, 2, false⟩
    ∧ c.enterCell 100 x.cursor = (c, true) ∧ (∃ t v, c.wordAt 100 x.cursor = (t, .ok v) ∧ (t.dev.queue 100).items = x.items)
    ∧ c.enterCell 100 ⟨0, w + 1⟩ = (c, true) := by
  intro w hw
  simp only [List.mem_cons, List.not_mem_nil, or_false] at hw
  rcases hw with rfl | rfl <;>
    exact ⟨by decide +kernel, by decide +kernel, by decide +kernel, by decide +kernel, by decide +kernel, by decide +kernel, by decide +kernel,
      by decide +kernel, rfl, ⟨_, _, rfl, rfl⟩, rfl⟩

theorem wit_empty : let c := (on pool).chip; let x := c.dev.queue 100
    c.dev.consumerGate 0x40 100 true = .ok ∧ x.cursor.word = 0 ∧ x.items.length ≤ x.cursor.item ∧ (on { dev with dbg := { dev.dbg with level := 0 } }).chip.wields .debugger .poph 100 = none
    ∧ (on { dev with dbg := { dev.dbg with level := 2 } }).chip.wields .debugger .poph 100 = some 0x19 := by decide +kernel

/-- QueueControlAndEnables. -/
theorem wit_control : let c := (on (holding 1)).chip; let x := c.dev.queue 100
    c.wields (.core 0) .mark 100 = some 0x40 ∧ c.wields (.core 0) .rewind 100 = some 0x40 ∧ c.wields (.core 0) .skip 100 = some 0x40
    ∧ c.wields (.core 0) .release 100 = some 0x40 ∧ c.wields (.core 0) .flush 100 = some 0x40
    ∧ c.dev.consumerGate 0x40 100 false = .ok ∧ c.dev.consumerGate 0x40 100 true = .ok ∧ x.cursor.word ≠ 0 ∧ x.cursor.item < x.items.length
    ∧ (∀ it ∈ x.items, ∀ b ∈ it.cells, b ∈ x.known) ∧ (∀ it ∈ x.items, it.launch = false) ∧ Hears c cur DPT_QCMD 0x80000064 :=
  ⟨by decide +kernel, by decide +kernel, by decide +kernel, by decide +kernel, by decide +kernel, by decide +kernel, by decide +kernel, by decide +kernel,
    by decide +kernel, by decide +kernel, by decide +kernel, hears_of (by decide +kernel)⟩

theorem wit_enables : let w := withField 0 DPT_CTL_EN_REQ 1; let d := put [(DPT_POOL_SIZE_REQ, 1), (DPT_POOL_BASE_REQ, 63)]
    Hears (on d).chip cur DPT_CTL w ∧ d.flag DPT_CTL_EN_REQ = false ∧ d.flag DPT_CTL_EN_EFF = false
    ∧ d.get DPT_POOL_BASE_REQ + d.get DPT_POOL_SIZE_REQ = 64 ∧ 64 < (d.put DPT_POOL_SIZE_REQ 2).get DPT_POOL_BASE_REQ + (d.put DPT_POOL_SIZE_REQ 2).get DPT_POOL_SIZE_REQ
    ∧ (pool.put DPT_CTL_EN_REQ 0).flag DPT_CTL_EN_REQ = false ∧ (pool.put DPT_CTL_EN_REQ 0).flag DPT_CTL_EN_EFF = true ∧ pool.dpt.opens = []
    ∧ pool.noReserved = true ∧ (∃ o ∈ (opened []).dpt.opens, o.broken = false ∧ o.q = 100)
    ∧ (pool.put (DPT_QCFG_EN_REQ 100) 0).flag (DPT_QCFG_EN_REQ 100) = false ∧ (pool.put (DPT_QCFG_EN_REQ 100) 0).flag (DPT_QCFG_EN_EFF 100) = true :=
  ⟨hears_of (by decide +kernel), by decide +kernel, by decide +kernel, by decide +kernel, by decide +kernel, by decide +kernel, by decide +kernel,
    by decide +kernel, by decide +kernel, ⟨_, List.mem_singleton_self _, rfl, rfl⟩, by decide +kernel⟩

/-- The registrar on, engine 0 its own, point 8 of each wing usable at a pace of 100 and committed, profile 7 committed. -/
def admitting : Dev := [(ADM_CTL_EN_REQ, 1), (ADM_CTL_EN_EFF, 1), (ADM_OWN_OWN_REQ 0, 1), (ADM_OWN_OWN_EFF 0, 1), (ADM_PTAB_USABLE 0 8, 1),
  (ADM_PTAB_USABLE 1 8, 1), (ADM_PTAB_PACE 0 8, 100), (ADM_PTAB_PACE 1 8, 100), (ADM_STAT_CMT_W0, 8), (ADM_STAT_CMT_W1, 8), (ADM_CAT_SET_CABS 7, 1),
  (ADM_CAT_CTL_STATE_REQ 7, 1), (ADM_CAT_CTL_STATE_EFF 7, 1), (ADM_VCEIL_VCEIL_REQ 0, 15), (ADM_VCEIL_VCEIL_REQ 1, 15), (ADM_VCEIL_VCEIL_EFF 0, 15),
  (ADM_VCEIL_VCEIL_EFF 1, 15)].foldl (fun d x => d.put x.1 x.2) pool

/-- A request of engine 0 for profile 7, its record for queue 100. -/
def request (deadline : Nat) : Request := ⟨.queue 0x40 100, 7, 9, deadline, [(0, 0), (0, 0)], [0, 0, 0, 0, 0, 0], false⟩

/-- The registrar with a promise of that request on engine 0, its completion cell and the engine's launch cell reserved. -/
def promised (start : Option Nat) (deadline : Nat) : Dev :=
  let x : Promise := ⟨5, request deadline, 0, 10, 0, 0, 3, 0, start, 0, false, false, false⟩
  let d := (admitting.setQueue 100 { DQueue.empty with compl := [2] }).setQueue 16 { DQueue.empty with standing := some 1 }
  { d with adm := { d.adm with proms := [x] }, dpt := { d.dpt with walk := 3 } }

/-- Admission: submissions, each check that refuses, and a decision that admits. -/
theorem wit_submits : let c := (on admitting).chip; let p : Dev := c.dev.setResult 0x40 0x40000000
    Hears c (.core 0) ADM_SUB_GO 100 ∧ (c.dev.subResult 0x40).getLsbD 30 = false ∧ (p.subResult 0x40).getLsbD 30 = true
    ∧ Hears (on p).chip (.core 0) ADM_SUB_GO 100 ∧ Shows c (.core 0) ADM_SUB_RES :=
  ⟨hears_of (by decide +kernel), by decide +kernel, by decide +kernel, hears_of (by decide +kernel), shows_of (by decide +kernel)⟩

theorem wit_admission : let r := request 1000000; let d : Dev := { admitting with adm := { admitting.adm with stage := [r] } }
    dev.adm.stage = [] ∧ d.adm.stage = [r] ∧ dev.flag ADM_CTL_EN_REQ = false ∧ admitting.eligEngines 7 = [0] ∧ admitting.flag ADM_STAT_ENTRY = false
    ∧ (admitting.put (ADM_CAT_CTL_STATE_EFF 7) 0).flag (ADM_CAT_CTL_STATE_EFF 7) = false
    ∧ r.bufs.all admitting.placed = true ∧ admitting.placed (0, 1) = false ∧ admitting.canReserve 100 = true ∧ admitting.canReserve 99 = false
    ∧ (match admitting.admTest (request 1) with | .inl _ => false | .inr _ => true) = true := by decide +kernel

/-- AdmittedPromisesFit: a request that is admitted at the committed point. -/
theorem wit_admitted : (match admitting.admTest (request 1000000) with | .inl f => f.point == 16 && f.eng == 0 | .inr _ => false) = true := by
  decide +kernel

/-- Launches. -/
theorem wit_launches : let d := promised none 1000000; let x : Promise := ⟨5, request 1000000, 0, 10, 0, 0, 3, 0, none, 0, false, false, false⟩
    (d.queue 100).compl = [2] ∧ (d.queue 16).standing = some 1 ∧ d.owned 0 = true ∧ d.adm.unready.getLsbD 0 = false ∧ d.timeline 0 = [x]
    ∧ x.req.args.length = 6 ∧ d.adm.proms.find? (·.pid == 5) = some x ∧ ¬ x.req.deadline ≤ d.now.toNat + 66 := by decide +kernel

theorem wit_running : let d := promised (some 0) 66; let c := (on d).chip
    let x : Promise := ⟨5, request 66, 0, 10, 0, 0, 3, 0, some 0, 0, false, false, false⟩
    Hears c (.core (eng 0)) ADM_RESULT 1 ∧ Hears c (.core (eng 0)) ADM_DONE 5 ∧ Hears c (.core (eng 0)) ADM_DONE 0x80000005
    ∧ Hears c (.core (eng 0)) ADM_DONE 4 ∧ Hears (on dev).chip (.core (eng 0)) ADM_RESULT 1 ∧ dev.owned 0 = false
    ∧ d.owned 0 = true ∧ d.running 0 = some x ∧ bits (5#32) 11 0 = x.pid ∧ bits (4#32) 11 0 ≠ x.pid
    ∧ d.adm.proms.find? (·.pid == 5) = some x ∧ x.req.deadline ≤ d.now.toNat + 66 ∧ (promised none 66).adm.proms.any (·.start.isNone) = true
    ∧ ({ dev.adm with unready := 1 } : Adm).unready.getLsbD 0 = true ∧ dev.adm.proms = [] :=
  ⟨hears_of (by decide +kernel), hears_of (by decide +kernel), hears_of (by decide +kernel), hears_of (by decide +kernel), hears_of (by decide +kernel),
    by decide +kernel⟩

/-- ThermalAndProfiles. -/
theorem wit_thermal : let d := put [(ADM_THERM_PINEN, 1)]; let e := put [(ADM_THERM_PINEN, 0), (ADM_THERM_ACTIVE, 1)]
    d.flag ADM_THERM_PINEN = true ∧ d.flag ADM_THERM_ACTIVE = false ∧ (d.put ADM_THERM_PINEN 0).flag ADM_THERM_PINEN = false
    ∧ (d.flag ADM_THERM_HOST && d.flag ADM_THERM_HOSTEN) = d.flag ADM_THERM_ACTIVE
    ∧ e.flag ADM_THERM_ACTIVE = true ∧ (e.flag ADM_THERM_HOST && e.flag ADM_THERM_HOSTEN) = false := by decide +kernel

theorem wit_profiles : let up := withField 0 (ADM_CAT_CTL_STATE_REQ 255) 1; let dn := withField 0 (ADM_CAT_CTL_STATE_REQ 255) 0
    let r := put [(ADM_CAT_CTL_STATE_REQ 255, 1)]
    dev.flag (ADM_CAT_CTL_LOCK 255) = false ∧ r.flag (ADM_CAT_CTL_LOCK 255) = false ∧ Hears (on dev).chip cur (ADM_CAT_CTL 255) up
    ∧ Hears (on r).chip cur (ADM_CAT_CTL 255) up ∧ Hears (on dev).chip cur (ADM_CAT_CTL 255) dn ∧ Hears (on r).chip cur (ADM_CAT_CTL 255) dn
    ∧ dev.flag (ADM_CAT_CTL_STATE_REQ 255) = false ∧ r.flag (ADM_CAT_CTL_STATE_REQ 255) = true ∧ dev.adm.checks = []
    ∧ 255 ∈ ({ dev.adm with checks := [255] } : Adm).checks :=
  ⟨by decide +kernel, by decide +kernel, hears_of (by decide +kernel), hears_of (by decide +kernel), hears_of (by decide +kernel),
    hears_of (by decide +kernel), by decide +kernel⟩

/-! ### Arrays, registers, resets, boot and security -/

/-- ArrayUpkeep: the conservator runs when it is on and its interval is over. -/
theorem wit_scrub : let d := put [(GAL_SCRUB_EN, 1)]
    d.flag GAL_SCRUB_EN = true ∧ d.get PWR_STAT_STATE < 2 ∧ d.pwr.parked = false ∧ d.scrub.since + 32 * d.scrub.step ≤ d.tb
    ∧ d.flag GAL_CCTL_EN = false ∧ (∀ j < 8, (on d).chip.mem.flip (d.place (0x1000000 + 64 * d.get GAL_SCRPOS_LINE + 8 * j)) = 0)
    ∧ ¬ ({ d with scrub := ⟨0, 1⟩ } : Dev).scrub.since + 32 * 1 ≤ d.tb ∧ dev.flag GAL_SCRUB_EN = false := by decide +kernel

theorem wit_service : let n := withField 0 GAL_SVC_NORMAL 1; let k := withField 0 GAL_CCTL_CLR 1
    let z : Dev := { dev with regs := (GAL_SVC, 0#32) :: dev.regs }; let g := put [(GAL_PGATE_GH_REQ, 0x8000)]
    let d : Dev := { g with regs := (GAL_SVC, 0x100#32) :: g.regs }
    Hears (on z).chip cur GAL_SVC n ∧ Hears (on d).chip cur GAL_SVC n ∧ z.get GAL_SVC_PHASE = 0 ∧ d.get GAL_SVC_PHASE = 1
    ∧ d.bit GAL_PGATE_GH_REQ 15 = true ∧ d.bit GAL_PGATE_GH_EFF 15 = false ∧ (on d).chip.mem.halfBusy 15 = false
    ∧ (put [(GAL_PGATE_GH_EFF, 1)]).bit GAL_PGATE_GH_REQ 0 = false ∧ (put [(GAL_PGATE_GH_EFF, 1)]).bit GAL_PGATE_GH_EFF 0 = true
    ∧ Hears (on z).chip cur GAL_CCTL k :=
  ⟨hears_of (by decide +kernel), hears_of (by decide +kernel), by decide +kernel, by decide +kernel, by decide +kernel, by decide +kernel,
    by decide +kernel, by decide +kernel, by decide +kernel, hears_of (by decide +kernel)⟩

/-- VaultWipes. -/
theorem wit_wipes : let k : Word := 0x7A5E0001; let d := put [(VLT_STAT_WIPING, 1)]
    Hears (on dev).chip cur VLT_WIPE k ∧ Hears (on d).chip cur VLT_WIPE k ∧ dev.flag VLT_STAT_WIPING = false ∧ d.flag VLT_STAT_WIPING = true
    ∧ dev.flag CUR_RESTART_VALID = false ∧ d.sec.wipeFailed = false ∧ d.sec.tamper = false ∧ d.cur.boot = false
    ∧ Hears (on dev).chip cur VLT_WPROT 0xFFFF :=
  ⟨hears_of (by decide +kernel), hears_of (by decide +kernel), by decide +kernel, by decide +kernel, by decide +kernel, by decide +kernel,
    by decide +kernel, by decide +kernel, hears_of (by decide +kernel)⟩

/-- RegisterFields: whether a register that stands for itself has a field of an access kind. -/
def fields (a : Nat) (acc : Acc) : Bool :=
  match findReg a with
  | some (r, _) => r.flds.any (·.acc == acc) && !notStored a && r.back == 0
  | none => false

theorem wit_fields : fields (ADM_CAT_CTL 255) .rw = true ∧ fields VLT_STAT .ro = true ∧ fields HPT_ISTAT .w1c = true ∧ fields SYS_RSTCMD .wo = true
    ∧ fields VLT_WPROT .w1s = true ∧ fields DPT_SLOWCNT .rc = true ∧ fields (ADM_CAT_CTL 255) .rwl = true := by decide +kernel


/-- SetUpWritesAreRecorded: a set-up register and another one. -/
def setUp (a : Nat) : Option Bool := (findReg a).map (·.1.setup)

theorem wit_recorded : setUp (ITC_SRC 255) = some true ∧ setUp TBS_TBL = some false ∧ dev.prv.unread.length < 2048 ∧ ITC_SRC 255 / 0x10000 ≠ 0x0C := by
  decide +kernel

/-- RegisterAccesses: accesses that reach their register, and ones refused for the master's rights and for want of a block. -/
theorem wit_accesses : let c := (on dev).chip; let h := (on (put [(HPT_CTL_CFGRDY, 1)])).chip
    Hears c cur (ITC_SRC 255) 0 ∧ Hears h .host ADM_THERM 0 ∧ (bar0Of ADM_THERM).isSome = true ∧ thrQueue (ITC_SRC 255) = none
    ∧ c.dev.ignores (ITC_SRC 255) 0 = false ∧ c.dev.ignores SYS_RSTCMD 0 = true ∧ c.dev.mayWrite (c.master 0) (ITC_SRC 255) 0 = false
    ∧ c.dev.regOff (ITC_SRC 255) = false ∧ blockListed 0xFF = false ∧ Shows c (.core 0) TBS_TBH ∧ Shows h .host ADM_THERM :=
  ⟨hears_of (by decide +kernel), hears_of (by decide +kernel), by decide +kernel, by decide +kernel, by decide +kernel, by decide +kernel,
    by decide +kernel, by decide +kernel, by decide +kernel, shows_of (by decide +kernel), shows_of (by decide +kernel)⟩

/-- Resets. -/
theorem wit_resets : let c := (on dev).chip
    c.dev.pwr.parked = false ∧ c.dev.get PWR_STAT_STATE < 2 ∧ c.dev.get PWR_STAT_PHASE < 2 ∧ (∀ e : CoreId, c.cores[e].sb = [])
    ∧ Hears c cur SYS_RSTCMD 0x7E570002 ∧ Hears c cur SYS_RSTCMD 0x7E570001 ∧ dev.heldInReset 0 = true
    ∧ (put [(CAB_RST_HOLD 0, 0)]).heldInReset 0 = false :=
  ⟨by decide +kernel, by decide +kernel, by decide +kernel, by decide +kernel, hears_of (by decide +kernel), hears_of (by decide +kernel),
    by decide +kernel, by decide +kernel⟩

/-- BootImages: the boot ROM at the stage that waits for an image, with none good, and at the one that polls the flag. -/
def booting (stage : Nat) : Dev := (({ dev with cur := { dev.cur with boot := true } } : Dev).put VLT_STAT_READY 1).put SYS_BOOT_STAGE stage

theorem wit_boot : (booting 2).cur.boot = true ∧ (booting 2).cur.stop = .none ∧ (booting 2).get SYS_BOOT_STAGE = 2 ∧ (booting 2).flag VLT_STAT_READY = true
    ∧ (booting 3).get SYS_BOOT_STAGE = 3 ∧ (booting 0).get SYS_BOOT_STAGE = 0 ∧ (booting 0).get PWR_STAT_STATE = 0 ∧ (booting 0).get PWR_STAT_BUSY = 0
    ∧ (booting 0).rseq = [] := by
  unfold booting
  refine ⟨by rfl, by rfl, ?_, ?_, ?_, ?_, ?_, ?_, by rfl⟩
  · exact Dev.get_put (by decide) (by decide)
  · have h := (Dev.get_put_of_ne (d := ({ dev with cur := { dev.cur with boot := true } } : Dev).put VLT_STAT_READY 1) (f := SYS_BOOT_STAGE)
      (g := VLT_STAT_READY) (v := 2) (by decide)).trans (Dev.get_put (by decide) (by decide))
    simp [Dev.flag, h]
  · exact Dev.get_put (by decide) (by decide)
  · exact Dev.get_put (by decide) (by decide)
  · exact (Dev.get_put_of_ne (by decide)).trans ((Dev.get_put_of_ne (by decide)).trans (by decide +kernel))
  · exact (Dev.get_put_of_ne (by decide)).trans ((Dev.get_put_of_ne (by decide)).trans (by decide +kernel))

/-- SecurityCommands. -/
theorem wit_security : let c := (on dev).chip; let t := put [(SEC_TCTL_EN, 1)]; let o := dev.put SYS_BOOT_VERSION 4; let v := dev.put SYS_BOOT_VERSION 5
    Hears c cur SEC_LCREQ 0x4C430001 ∧ Hears c cur SEC_LCREQ 0x4C430004 ∧ c.dev.sec.target = none ∧ lcAllowed c.dev.lcState 4 = true
    ∧ lcAllowed c.dev.lcState 0 = false ∧ ({ dev.sec with target := some 1 } : Sec).target = some 1 ∧ dev.flag VLT_STAT_WIPING = false
    ∧ t.flag SEC_TCTL_EN = true ∧ t.pwr.parked = false ∧ t.get PWR_STAT_STATE ≤ 2 ∧ dev.flag SEC_TCTL_EN = false
    ∧ Hears (on v).chip cur SEC_VER 0x56450500 ∧ v.sec.newMin = none ∧ v.sec.fuses.verMin < 5 ∧ v.get SYS_BOOT_VERSION = 5
    ∧ o.get SYS_BOOT_VERSION = 4 ∧ Hears c cur SEC_VER 0x56450500 ∧ Hears c cur SEC_VER 0x56450000 ∧ ¬ dev.sec.fuses.verMin < 0
    ∧ ({ dev.sec with newMin := some 5 } : Sec).newMin = some 5 ∧ Hears c cur PRV_ACK 0x800 :=
  ⟨hears_of (by decide +kernel), hears_of (by decide +kernel), by decide +kernel, by decide +kernel, by decide +kernel, by decide +kernel,
    by decide +kernel, by decide +kernel, by decide +kernel, by decide +kernel, by decide +kernel, hears_of (by decide +kernel), by decide +kernel,
    by decide +kernel, Dev.get_put (by decide) (by decide), Dev.get_put (by decide) (by decide), hears_of (by decide +kernel),
    hears_of (by decide +kernel), by decide +kernel, by decide +kernel, hears_of (by decide +kernel)⟩

/-! ### Cabinets, the curator pair and the debug port -/

/-- A device whose slot 3 of cabinet 7 is committed, and in use or not. -/
def slotted (eff : Nat) : Dev := put [(CAB_CXCTL_STATE_REQ 7 3, 1), (CAB_CXCTL_STATE_EFF 7 3, eff)]

/-- CabinetCommands. -/
theorem wit_cabinets : let c := (on dev).chip; let x := (on (slotted 1)).chip
    Hears c cur (CAB_RST 7) 0xFF00 ∧ Hears c cur (CAB_RST 0) 0xFF ∧ Hears c cur (CAB_CXTAB 7 3 32) 0xFFFFFFFF ∧ dev.slotOpen 7 3 = true
    ∧ (slotted 1).slotOpen 7 3 = false ∧ Hears x cur (CAB_CXTAB 7 3 0) 1
    ∧ Hears c cur (CAB_CXCTL 7 3) (withField 0 (CAB_CXCTL_STATE_REQ 7 3) 1) ∧ Hears c cur (CAB_CXCTL 7 3) (withField 0 (CAB_CXCTL_STATE_REQ 7 3) 0)
    ∧ Hears x cur (CAB_CXCTL 7 3) (withField 0 (CAB_CXCTL_STATE_REQ 7 3) 1) ∧ Hears x cur (CAB_CXCTL 7 3) (withField 0 (CAB_CXCTL_STATE_REQ 7 3) 0)
    ∧ dev.flag (CAB_CXCTL_LOCK 7 3) = false ∧ (slotted 1).flag (CAB_CXCTL_LOCK 7 3) = false ∧ dev.flag (CAB_CXCTL_STATE_REQ 7 3) = false
    ∧ (slotted 1).flag (CAB_CXCTL_STATE_REQ 7 3) = true ∧ 59 ∈ ({ dev with cx := [59] } : Dev).cx ∧ 59 ∉ dev.cx ∧ (dev.slotCheck 7 3).1 ≠ 0 :=
  ⟨hears_of (by decide +kernel), hears_of (by decide +kernel), hears_of (by decide +kernel), by decide +kernel, by decide +kernel,
    hears_of (by decide +kernel), hears_of (by decide +kernel), hears_of (by decide +kernel), hears_of (by decide +kernel),
    hears_of (by decide +kernel), by decide +kernel⟩

theorem wit_image : let d := (put [(CAB_CXCTL_STATE_EFF 0 0, 0)]).setWord (CAB_CXTAB 0 0 0) 0x10003 |>.setWord (CAB_CXTAB 0 0 1) 0x010A6000
    (d.slotCheck 0 0).1 = 0 := by decide +kernel

theorem wit_readings : live.canaryRuns 1 = true ∧ live.flag ADM_CTL_EN_EFF = false ∧ live.railPoint 1 = none
    ∧ (Dev.rest ⟨Vector.replicate 4 0, 0⟩).railMv 0 < 420 ∧ live.clocksOn = true := by decide +kernel

/-- A data request of the main, and a device whose delay registers hold it, two tokens after it. -/
def request1 : Token := ⟨.dreq, .store, 0x4000010, [5], 15, false, true, true⟩
def delayed : Dev :=
  let x (n : Nat) : DelayEntry := ⟨BitVec.ofNat 32 n, request1, parityBits request1.words, work curator⟩
  { dev with cur := { dev.cur with held := [x 1, x 2, x 3] } }

/-- CuratorPair: the oldest token due, alike and not, a release, a lag, an exercise due, and the safe state from work and from a fault. -/
theorem wit_pair : let d := delayed; let l : Dev := { d with tbC := 100000 }; let p := dev.put CUR_CMPX_PERIOD 1
    d.curRuns = true ∧ d.cur.held.length = 3 ∧ d.cur.held.all (fun x => !x.tok.chan.isInput && x.tok.words == request1.words) = true ∧ d.cur.release = none
    ∧ ({ request1 with data := [4] } : Token).words ≠ request1.words ∧ ({ d with cur := { d.cur with stop := .fault } } : Dev).curRuns = false
    ∧ l.cur.last + 4 ≤ l.now.toNat ∧ d.now.toNat < d.cur.last + 4 ∧ ({ l with cur := { l.cur with release := some 5 } } : Dev).curRuns = true
    ∧ 5 + 33 ≤ l.now.toNat ∧ d.curPowered = true ∧ l.cur.exercised + (l.get CUR_CMPX_PERIOD * 32768 + 999) / 1000 ≤ l.now.toNat
    ∧ ¬ p.cur.exercised + (p.get CUR_CMPX_PERIOD * 32768 + 999) / 1000 ≤ p.now.toNat ∧ dev.cur.stop ≠ .fault := by decide +kernel

theorem wit_safe : Hears (on dev).chip cur CUR_SAFECMD 0x5AFE0001 := hears_of (by decide +kernel)

/-- A debug port locked at a level, dormant or not. -/
def port (f : Dbg → Dbg) : Dev := { dev with dbg := f dev.dbg }

/-- DebugPort: asleep and awake; an access open, ended and none; each of what a new access meets. -/
theorem wit_port : let x : SysAccess := ⟨false, 0x1000000, 0, none, false, false⟩
    dev.islandOn = true ∧ (port fun b => { b with dormant := true }).dbg.dormant = true ∧ (port fun b => { b with dormant := false }).dbg.dormant = false
    ∧ (port fun b => { b with access := some x }).dbg.access = some x ∧ ({ x with done := some (.fault 2) } : SysAccess).done.isSome = true
    ∧ dev.dbg.access.isNone = true ∧ dev.pwr.hold = false ∧ ({ dev with pwr := { dev.pwr with hold := true } } : Dev).pwr.hold = true
    ∧ sysTarget 0x1000000 = true ∧ sysTarget 0xFF000000 = false ∧ sysLevel false 0x1000000 ≤ 3 ∧ 0 < sysLevel true 0x1000000
    ∧ dev.accessWaits 0x1000000 = false ∧ dev.accessWaits 0x4120000 = true ∧ live.accessWaits 0x4120000 = false := by decide +kernel

/-- Authentication. -/
theorem wit_authentication : (port fun b => { b with withheld := 9 }).dbg.withheld ≠ 0 ∧ dev.dbg.withheld = 0
    ∧ (port fun b => { b with authState := 2 }).dbg.authState = 2 ∧ dev.dbg.authState ≠ 2 ∧ (port fun b => { b with level := 1 }).dbg.level ≤ 1
    ∧ (0 : Nat) < (port fun b => { b with level := 3 }).dbg.level ∧ (port fun b => { b with verify := some (1, 3) }).dbg.verify = some (1, 3)
    ∧ dev.dbg.verify = none := by decide +kernel

/-- Engine 0 halted by the debugger. -/
def stopped : State := st 0 { work 0 with halted := true } (port fun b => { b with level := 3 })

/-- The trace records, for each of its sources. -/
def tracing : Dev := put [(DBG_TRCTL_EN, 1), (DBG_TRCTL_SYNC, 1), (DBG_STIMEN_EN 0, 1)]

/-- RunControl. -/
theorem wit_run_control : let c := (on (port fun b => { b with level := 3 })).chip; let x := stopped.chip
    Hears c .debugger DBG_RCTL 0x40000000 ∧ Hears c .debugger DBG_RCTL 0x80000000 ∧ Hears x .debugger DBG_RCTL 0x80000000
    ∧ Hears c .debugger DBG_RCTL 0xC0000000 ∧ Hears x .debugger DBG_RCTL 0xC0000000 ∧ x.cores[(0 : CoreId)].halted = true
    ∧ c.cores[(0 : CoreId)].halted = false ∧ 2 ≤ c.dev.dbg.level ∧ c.haltable 0 = true ∧ Hears x .debugger DBG_FEED 0x12345678
    ∧ x.dev.dbg.feeding = none ∧ Hears x .debugger DBG_HPC 0x100 ∧ x.dev.feedTarget = 0 ∧ x.cores[(0 : CoreId)].sb = []
    ∧ Hears (on dev).chip cur (DBG_STIM 63) 1 ∧ dev.bit (DBG_STIMEN_EN 1) 31 = false ∧ Hears (on tracing).chip cur (DBG_STIM 0) 1
    ∧ tracing.bit (DBG_STIMEN_EN 0) 0 = true ∧ tracing.flag DBG_TRCTL_EN = true ∧ tracing.traceStopped = false ∧ tracing.dbg.lost = 0
    ∧ tracing.flag DBG_TRCTL_SYNC = true ∧ dev.flag DBG_TRCTL_SYNC = false :=
  ⟨hears_of (by decide +kernel), hears_of (by decide +kernel), hears_of (by decide +kernel), hears_of (by decide +kernel),
    hears_of (by decide +kernel), by decide +kernel, by decide +kernel, by decide +kernel, by decide +kernel, hears_of (by decide +kernel),
    by decide +kernel, hears_of (by decide +kernel), by decide +kernel, by decide +kernel, hears_of (by decide +kernel), by decide +kernel,
    hears_of (by decide +kernel), by decide +kernel⟩

/-! ### The host port -/

/-- A device whose link is up, configured and present. -/
def linked : Dev := put [(HPT_LSTAT_STATE, 2), (HPT_LSTAT_MODE, 2), (HPT_LSTAT_BME, 1), (HPT_LSTAT_D0, 1), (HPT_HMEM_AVAIL_REQ, 1), (HPT_HMEM_AVAIL_EFF, 1),
  (HPT_CTL_CFGRDY, 1), (HPT_LSTAT_PRESENT, 1)]

/-- The same with a dirty line and an access held since time 0. -/
def holdingFar (who : HeldWho) : Dev :=
  { linked with hpt := { linked.hpt with fc := [⟨9, 0x10000000, .modified, List.replicate 64 0⟩], held := [⟨3, who, 0x10000040, 0, 0, true⟩] } }

/-- HostLink: the link's states, its setting up and taking down. -/
theorem wit_link : let c := (on dev).chip; let l := put [(HPT_CTL_LTEN, 1)]
    linked.get HPT_LSTAT_STATE = 2 ∧ dev.get HPT_LSTAT_STATE = 0 ∧ (put [(HPT_LSTAT_STATE, 1)]).get HPT_LSTAT_STATE = 1
    ∧ (put [(HPT_LSTAT_STATE, 7)]).get HPT_LSTAT_STATE = 7 ∧ dev.hpt.perst = false ∧ dev.watching = false
    ∧ ({ l with hpt := { l.hpt with perst := true } } : Dev).hpt.perst = true ∧ l.flag HPT_CTL_LTEN = true ∧ dev.flag HPT_CTL_LTEN = false
    ∧ dev.flag HPT_CTL_CFGRDY = false ∧ linked.flag HPT_CTL_CFGRDY = true
    ∧ Hears c cur HPT_CTL (withField 0 HPT_CTL_LTEN 1) ∧ Hears (on l).chip cur HPT_CTL (withField 0 HPT_CTL_LTEN 1) :=
  ⟨by decide +kernel, by decide +kernel, by decide +kernel, by decide +kernel, by decide +kernel, by decide +kernel, by decide +kernel,
    by decide +kernel, by decide +kernel, by decide +kernel, by decide +kernel, hears_of (by decide +kernel), hears_of (by decide +kernel)⟩

theorem wit_far : let d := holdingFar (.core 0); let n := linked.put HPT_HMEM_AVAIL_REQ 0; let w := linked.put (HPT_FWT_ATTR_EN_EFF 0x10) 1
    Hears (on linked).chip cur HPT_HMEM 1 ∧ Hears (on linked).chip cur HPT_HMEM 0 ∧ linked.flag HPT_HMEM_AVAIL_EFF = true
    ∧ n.flag HPT_HMEM_AVAIL_REQ = false ∧ n.flag HPT_HMEM_AVAIL_EFF = true ∧ linked.hpt.held = [] ∧ (∃ h ∈ d.hpt.held, h.wake = true)
    ∧ w.flag (HPT_FWT_ATTR_EN_REQ 0x10) = false ∧ w.flag (HPT_FWT_ATTR_EN_EFF 0x10) = true ∧ Hears (on linked).chip cur HPT_FCCMD 0x80000000
    ∧ (linked.put HPT_FCSTAT_BUSY 1).flag HPT_FCSTAT_BUSY = true ∧ linked.flag HPT_FCSTAT_BUSY = false
    ∧ (d.hpt.fc.find? (·.host == 9)).isSome = true ∧ d.hpt.fc.find? (·.host == 8) = none ∧ d.get HPT_LSTAT_MODE = 2
    ∧ (d.hpt.held.find? fun h => h.wake && h.since.toNat + h.limit ≤ d.now.toNat).isSome = true :=
  ⟨hears_of (by decide +kernel), hears_of (by decide +kernel), by decide +kernel, by decide +kernel, by decide +kernel, by decide +kernel,
    by decide +kernel, by decide +kernel, by decide +kernel, hears_of (by decide +kernel), by decide +kernel⟩

/-- ApertureAndVectors. -/
theorem wit_aperture : let d := { linked with hpt := { linked.hpt with dpaddr := 0x1000000 } }; let e := d.put HPT_CTL_DPEN 1
    dev.flag HPT_CTL_CFGRDY = false ∧ e.flag HPT_CTL_DPEN = true ∧ d.flag HPT_CTL_DPEN = false ∧ 0x1000000 ≤ e.hpt.dpaddr.toNat
    ∧ e.hpt.dpaddr.toNat + 64 ≤ 0x2200000 ∧ e.fenced true 0x1000000 64 = false ∧ e.fenced false 0x1000000 64 = false ∧ e.hpt.pba = 0
    ∧ ({ e.hpt with pba := 1#64 <<< 63 } : Hpt).pba = 1#64 <<< 63 := by decide +kernel

/-! ### Pins and ports -/

/-- The pad guard's state changed. -/
def padded (f : Pad → Pad) (d : Dev := live) : Dev := { d with ports := { d.ports with pad := f { d.ports.pad with vio33 := true } } }

/-- A pin's count of edges. -/
def counting (i : Nat) (x : GpioIn) (d : Dev) : Dev := d.setInCount i x

/-- Pads: outputs, inputs with each clock, storms and stuck pins, scans, tachometers. -/
theorem wit_pads : let c := (on live).chip; let n := counting 3 ⟨0, 9, 0⟩ (livePut [(GPIO_PIN_STORMN 3, 5)])
    Hears c cur (GPIO_OUTSET 1) 5 ∧ Hears c cur (GPIO_OUTCLR 1) 5 ∧ dev.clocksOn = false ∧ live.clocksOn = true ∧ live.inLevel 3 = false
    ∧ n.get (GPIO_PIN_STORMN 3) ≠ 0 ∧ n.get (GPIO_PIN_STORMN 3) < (n.inCount 3).edges ∧ n.inMasked 3 = false
    ∧ Hears c cur (GPIO_STORM 2) 0xF ∧ Hears c cur (GPIO_STUCK 2) 0xF
    ∧ (padded id (livePut [(GPIO_KBDCTL_EN, 1)])).flag GPIO_KBDCTL_EN = true ∧ live.flag GPIO_KBDCTL_EN = false
    ∧ (padded id).ports.pad.vio33 = true ∧ live.get (GPIO_PIN_STORMN 3) = 0 :=
  ⟨hears_of (by decide +kernel), hears_of (by decide +kernel), by decide +kernel, by decide +kernel, by decide +kernel, by decide +kernel,
    by decide +kernel, by decide +kernel, hears_of (by decide +kernel), hears_of (by decide +kernel), by decide +kernel⟩

theorem wit_stuck : let d := { livePut [(GPIO_PIN_STUCK 3, 1), (GPIO_IN_IN 0, 8)] with tbC := 1000000 }
    d.get (GPIO_PIN_STUCK 3) ≠ 0 ∧ d.inLine 3 = true ∧ (d.inCount 3).since + d.get (GPIO_PIN_STUCK 3) * 3276800 ≤ d.now.toNat := by decide +kernel

theorem wit_hold : let h := put [(PAD_HOLDREL_HELD, 1)]; let r := padded (fun p => { p with shorted := [] }) (put [(PAD_BAT_ROUTE, 1)])
    h.flag PAD_HOLDREL_HELD = true ∧ r.flag PAD_HOLDREL_HELD = false ∧ r.get PAD_BAT_ROUTE = 1 ∧ r.ports.pad.vio33 = true ∧ r.ports.pad.shorted = []
    ∧ r.get (SP_CTL_MODE 7) ≤ 1 ∧ 1 ∈ ({ r.ports.pad with shorted := [1] } : Pad).shorted ∧ dev.tbs.pulse = none
    ∧ (put [(SYS_PLTRST_OE, 1)]).flag SYS_PLTRST_OE = true ∧ dev.flag SYS_PLTRST_OE = false := by decide +kernel

theorem wit_guard : let d := padded id (put [(PAD_GCFG_SHEN 1, 1), (PAD_GCFG_OPEN 4, 1)])
    d.flag (PAD_GCFG_SHEN 1) = true ∧ d.flag (PAD_GCFG_OPEN 4) = true ∧ d.ports.pad.vio33 = true ∧ 15 < shortPins 1 ∧ openPin 4 1 = true
    ∧ 47 ∉ d.ports.pad.shorted ∧ 47 ∉ d.ports.pad.differ ∧ 47 ∈ (padded fun p => { p with differ := [47] }).ports.pad.differ
    ∧ (put [(PAD_GCFG_SHEN 1, 0)]).flag (PAD_GCFG_SHEN 1) = false ∧ dev.flag (PAD_GCFG_OPEN 4) = false := by decide +kernel

theorem wit_probe : let b := padded (fun p => { p with probe := true }) (put [(PAD_GCFG_REVDET 0, 1), (PAD_BAT_ROUTE, 1), (PAD_GCFG_AUTOSWAP 0, 0)])
    b.ports.pad.probe = true ∧ b.ports.pad.vio33 = true ∧ b.ports.sp[(7 : Fin 8)].xfer = none ∧ b.flag (PAD_GCFG_REVDET 0) = true
    ∧ b.flag PAD_BAT_ROUTE = true ∧ b.flag (PAD_GCFG_AUTOSWAP 0) = false ∧ dev.ports.pad.probe = false
    ∧ Hears (on dev).chip cur (PAD_GSTAT 4) (withField 0 (PAD_GSTAT_SHORT 4) 1) ∧ Hears (on dev).chip cur PAD_HOLDREL 1 :=
  ⟨by decide +kernel, by decide +kernel, by decide +kernel, by decide +kernel, by decide +kernel, by decide +kernel, by decide +kernel,
    hears_of (by decide +kernel), hears_of (by decide +kernel)⟩

/-- Microphones: on, on with no room in its queue, off, and each seam. -/
theorem wit_microphones : let d := livePut [(PDM_CTL_EN_REQ, 1), (PDM_CTL_EN_EFF, 1), (PDM_CTL_MICEN, 1), (PDM_QCFG_FRAME, 16)]
    d.flag PDM_CTL_EN_EFF = true ∧ d.clocksOn = true ∧ dev.flag PDM_CTL_EN_EFF = false ∧ (put [(PDM_CTL_EN_REQ, 1)]).flag PDM_CTL_EN_REQ = true
    ∧ (d.put PDM_CTL_EN_REQ 0).flag PDM_CTL_EN_REQ = false ∧ (d.put PDM_CTL_EN_REQ 0).flag PDM_CTL_EN_EFF = true := by decide +kernel

theorem wit_dropped : let d := livePut [(PDM_CTL_EN_EFF, 1), (PDM_IRQ_IEN, 1)]
    let p := (on d).chip.pushItem 0x1C (d.get PDM_QCFG_QUEUE) (d.get PDM_STAT_SEQ) []
    p.2 ≠ 0 ∧ p.1.dev.bit PDM_IRQ_ISTAT 0 = false ∧ p.1.dev.bit PDM_IRQ_IEN 0 = true := by decide +kernel

/-- Serial port k as y, enabled, with fields set. -/
def serial (k : Fin 8) (y : Sp) (l : List (Fld × Nat)) : Dev :=
  let d := livePut ([(SP_CTL_EN_REQ k, 1), (SP_CTL_EN_EFF k, 1)] ++ l)
  { d with ports := { d.ports with sp := d.ports.sp.set k y } }

/-- A transfer under way: a write of four bytes, or a read of them. -/
def moving (rd : Bool) (sent : List Byte) : Sp := ⟨[1], List.replicate 62 0, some ⟨rd, true, false, 0x40, 4, sent, []⟩, false, none⟩

/-- SerialPorts: a controller free, busy and off; transfers of each kind; DATA; the seam; a target; a UART. -/
theorem wit_serial : let f := serial 5 ⟨[], [], none, false, none⟩ [(SP_CTL_MODE 5, 1)]; let b := serial 5 (moving false [1, 2, 3, 4]) []
    let w := withField 0x20400004 (SP_CMD_GO 5) 1
    Hears (on f).chip cur (SP_CMD 5) w ∧ Hears (on b).chip cur (SP_CMD 5) w ∧ Hears (on live).chip cur (SP_CMD 5) w
    ∧ f.ports.sp[(5 : Fin 8)].xfer = none ∧ b.ports.sp[(5 : Fin 8)].xfer ≠ none ∧ f.flag (SP_CTL_EN_EFF 5) = true ∧ f.flag (SP_CTL_ROLE 5) = false
    ∧ live.flag (SP_CTL_EN_EFF 5) = false ∧ f.clocksOn = true ∧ Hears (on f).chip cur (SP_DATA 5) 0x7F ∧ Hears (on b).chip cur (SP_DATA 5) 0x7F
    ∧ Shows (on f).chip cur (SP_DATA 5) ∧ (f.put (SP_CTL_EN_REQ 5) 0).flag (SP_CTL_EN_REQ 5) = false ∧ (f.put (SP_CTL_EN_REQ 5) 0).flag (SP_CTL_EN_EFF 5) = true :=
  ⟨hears_of (by decide +kernel), hears_of (by decide +kernel), hears_of (by decide +kernel), by decide +kernel, by decide +kernel, by decide +kernel,
    by decide +kernel, by decide +kernel, by decide +kernel, hears_of (by decide +kernel), hears_of (by decide +kernel), shows_of (by decide +kernel),
    by decide +kernel⟩

theorem wit_transfers : (moving true []).xfer.isSome = true ∧ (moving false [1, 2, 3, 4]).xfer.isSome = true ∧ 64 - (moving true []).rx.length < 4
    ∧ (serial 5 (moving true []) [(SP_CTL_MODE 5, 2)]).get (SP_CTL_MODE 5) = 2
    ∧ (serial 5 (moving true []) [(SP_CTL_MODE 5, 1), (SP_CFG_PEC 5, 1)]).flag (SP_CFG_PEC 5) = true := by decide +kernel

theorem wit_target : let y : Sp := ⟨[1], [], none, false, none⟩; let d := serial 6 y [(SP_CTL_MODE 6, 1), (SP_CTL_ROLE 6, 1), (SP_TADDR_SADDR 6, 0x22)]
    let u := serial 6 y [(SP_CTL_MODE 6, 4)]; let i := serial 6 y [(SP_CTL_MODE 6, 2)]
    d.flag (SP_CTL_ROLE 6) = true ∧ d.get (SP_CTL_MODE 6) ≠ 4 ∧ d.get (SP_TADDR_SADDR 6) = 0x22 ∧ d.ports.sp[(6 : Fin 8)] = y ∧ d.clocksOn = true
    ∧ u.get (SP_CTL_MODE 6) = 4 ∧ u.ports.sp[(6 : Fin 8)].rx.length < 64 ∧ i.get (SP_CTL_MODE 6) = 2 ∧ i.flag (SP_CTL_ROLE 6) = false
    ∧ ({ y with stretch := some (2, 0) } : Sp).stretch = some (2, 0) ∧ d.tb < 0 + 819200 ∧ 0 + 819200 ≤ ({ d with tbC := 1000 } : Dev).tb := by
  decide +kernel

/-- The device with the sequencer on, port 0 enabled, and a request in its queue. -/
def sequencing : Dev :=
  { live with regs := (SP_CTL 0, 0xC0000000#32) :: (SP_RSEQCTL, 0x80000000#32) :: live.regs, rseq := [⟨1, .on, .firmware⟩] }

/-- RailRequests: with the registrar on and off and the sequencer on; the oldest one written. -/
theorem wit_rails : let a := livePut [(ADM_CTL_EN_EFF, 1)]; let q := sequencing
    Hears (on a).chip cur SP_RSEQREQ 0x8000010F ∧ Hears (on q).chip cur SP_RSEQREQ 0xA0000100 ∧ Hears (on q).chip cur SP_RSEQREQ 0xC0000000
    ∧ a.flag ADM_CTL_EN_EFF = true ∧ q.flag ADM_CTL_EN_EFF = false ∧ q.flag SP_RSEQCTL_EN = true
    ∧ q.flag (SP_CTL_EN_EFF 0) = true ∧ q.ports.sp[(0 : Fin 8)].xfer = none ∧ q.clocksOn = true ∧ q.rseq = [⟨1, .on, .firmware⟩] :=
  ⟨hears_of (by decide +kernel), hears_of (by decide +kernel), hears_of (by decide +kernel), by decide +kernel⟩

/-- The eSPI target with its channels ready and window 3 at 0x60. -/
def espiOn (f : Espi → Espi := id) : Dev :=
  let d := put [(ESPI_CTL_EN, 1), (ESPI_STAT_RDY, 7), (ESPI_IOWIN_EN 3, 1), (ESPI_IOWIN_BASE 3, 0x60), (ESPI_IOWIN_SIZE 3, 8)]
  { d with ports := { d.ports with espi := f { d.ports.espi with rstn := true, ctl := 0x20000000 } } }

/-- EspiTarget. -/
theorem wit_espi : let d := espiOn
    d.watching = false ∧ d.flag ESPI_CTL_EN = true ∧ d.ports.espi.rstn = true ∧ d.bit ESPI_STAT_RDY 0 = true ∧ d.bit ESPI_STAT_RDY 2 = true
    ∧ dev.bit ESPI_STAT_RDY 0 = false ∧ d.flag (ESPI_IOWIN_EN 3) = true ∧ d.get (ESPI_IOWIN_BASE 3) = 0x60 ∧ 0x60 + 4 ≤ d.get (ESPI_IOWIN_BASE 3) + d.get (ESPI_IOWIN_SIZE 3)
    ∧ (∀ j < 3, d.flag (ESPI_IOWIN_EN j) = false) ∧ d.ports.espi.ctl.getLsbD 29 = true ∧ d.flag ESPI_OOBCTL_RXV = false
    ∧ (d.put ESPI_OOBCTL_RXV 1).flag ESPI_OOBCTL_RXV = true ∧ d.ports.espi.defer = none ∧ (espiOn fun e => { e with offer := some 64 }).ports.espi.offer = some 64
    ∧ (espiOn fun e => { e with rstn := false }).ports.espi.rstn = false ∧ Hears (on d).chip cur ESPI_VWOUT 5
    ∧ Hears (on d).chip cur ESPI_OOBCTL (withField 64 ESPI_OOBCTL_GO 1) :=
  ⟨by decide +kernel, by decide +kernel, by decide +kernel, by decide +kernel, by decide +kernel, by decide +kernel, by decide +kernel,
    by decide +kernel, by decide +kernel, by decide +kernel, by decide +kernel, by decide +kernel, by decide +kernel, by decide +kernel,
    by decide +kernel, by decide +kernel, hears_of (by decide +kernel), hears_of (by decide +kernel)⟩

/-- The boot flash unit on. -/
def flashOn : Dev := livePut [(FSPI_CTL_EN, 1)]

/-- BootFlash. -/
theorem wit_flash : let d := flashOn; let c := (on d).chip; let p := d.put FSPI_WP_EN 1
    let x : Dev := { d with ports := { d.ports with fspi := ⟨[1, 2, 3, 4], some 0⟩ } }
    let w (kind : Nat) : Word := withField (withField 5 FSPI_CMD_KIND kind) FSPI_CMD_GO 1
    d.flag FSPI_STAT_BUSY = false ∧ d.flag FSPI_CTL_EN = true ∧ d.clocksOn = true ∧ live.flag FSPI_CTL_EN = false
    ∧ Hears c cur FSPI_CMD (w 0) ∧ Hears c cur FSPI_CMD (w 1) ∧ Hears c cur FSPI_CMD (w 2) ∧ Hears c cur FSPI_CMD (w 3)
    ∧ p.flag FSPI_WP_EN = true ∧ p.get FSPI_WP_FIRST ≤ 0 ∧ x.ports.fspi.since = some 0 ∧ x.tb < 0 + 262144000
    ∧ 0 + 262144000 ≤ ({ x with tbC := 1000000 } : Dev).tb ∧ Hears (on x).chip cur FSPI_DATA 7 ∧ Shows (on x).chip cur FSPI_DATA
    ∧ 4 ≤ x.ports.fspi.fifo.length :=
  ⟨by decide +kernel, by decide +kernel, by decide +kernel, by decide +kernel, hears_of (by decide +kernel), hears_of (by decide +kernel),
    hears_of (by decide +kernel), hears_of (by decide +kernel), by decide +kernel, by decide +kernel, by decide +kernel, by decide +kernel,
    by decide +kernel, hears_of (by decide +kernel), shows_of (by decide +kernel), by decide +kernel⟩

/-! ### Power states -/

/-- An entry to a state under way, in which unit u answers, or the last of the units does. -/
def entering (st : Nat) (f : Pwr → Pwr := id) : Dev :=
  let d := put [(PWR_STAT_BUSY, 1), (PWR_STAT_PHASE, 1), (PWR_STAT_TARGET, st)]
  { d with pwr := f d.pwr }

/-- EntrySequence: a request, an answer of each kind, and a time-out. -/
theorem wit_entry : let d := entering 2; let t : Dev := { entering 3 fun p => { p with delays := [0x18] } with tbC := 100000 }
    Hears (on dev).chip cur PWR_ENTER 0x2D570001 ∧ Hears (on d).chip cur PWR_ENTER 0x2D570003 ∧ dev.flag PWR_STAT_BUSY = false
    ∧ dev.get PWR_STAT_STATE < 2 ∧ d.flag PWR_STAT_BUSY = true ∧ d.get PWR_STAT_PHASE = 1 ∧ 0x18 ∉ d.pwr.acks
    ∧ (on d).chip.answer 0x0A 2 = .ack ∧ (on d).chip.answer 0x18 2 = .delay ∧ (on (entering 4)).chip.answer 0x0A 4 = .ack
    ∧ (on { entering 4 with dpt := pool.dpt, regs := pool.regs }).chip.answer 0x0A 4 = .refuse 2
    ∧ (on { d with hpt := { d.hpt with flight := [5] } }).chip.answer 0x0C 2 = .delay
    ∧ (pwrUnits.all fun u => u == 0x0A || (entering 3 fun p => { p with acks := pwrUnits.filter (· != 0x0A) }).pwr.acks.contains u) = true
    ∧ t.pwr.delays = [0x18] ∧ t.pwr.asked + usTicks (t.get PWR_HSTMO_US) ≤ t.tb :=
  ⟨hears_of (by decide +kernel), hears_of (by decide +kernel), by decide +kernel⟩

theorem wit_answers : let c := (on dev).chip; let l : Dev := { dev with tbC := 100000 }
    c.dev.sec.target.isSome = false ∧ dev.flag DPT_CTL_EN_EFF = false ∧ pool.flag DPT_CTL_EN_EFF = true ∧ dev.adm.proms = [] ∧ dev.adm.stage = []
    ∧ (promised none 5).adm.proms ≠ [] ∧ (holdingFar (.core 0)).hpt.held.any (·.wake) = true ∧ dev.hpt.fc = [] ∧ ({ dev with regs := (GAL_SVC, 0#32) :: dev.regs } : Dev).get GAL_SVC_PHASE ≠ 1 ∧ dev.rng.infl = []
    ∧ (put [(RNG_SQCTL_EN_EFF 63, 1)]).flag (RNG_SQCTL_EN_EFF 63) = true ∧ (bootCores false)[eng 63].halted = false ∧ (bootCores false)[eng 63].run = false
    ∧ (work 0).run = true ∧ (work 0).wait = .none ∧ ¬ dev.pwr.asked + usTicks 100 ≤ dev.tb ∧ l.pwr.asked + usTicks 100 ≤ l.tb := by decide +kernel

/-- A device asleep in a state with WAKE0 asserted and enabled. -/
def sleeping (st : Nat) : Dev :=
  let d := put [(PWR_STAT_STATE, st), (⟨PWR_WAKEEN_ALM.addr, 10, 0⟩, 0x7FF)]
  { d with pwr := { d.pwr with wakePins := 1 } }

/-- PowerStates. -/
theorem wit_wakes_up : (sleeping 2).get PWR_STAT_STATE = 2 ∧ (sleeping 2).flag PWR_STAT_BUSY = false ∧ (sleeping 2).wakes 2 ≠ 0 ∧ (sleeping 3).wakes 3 ≠ 0
    ∧ (put [(PWR_STAT_STATE, 2)]).wakes 2 = 0 ∧ dev.pwr.retry = [] ∧ dev.pwr.parked = false ∧ (Dev.rest ⟨Vector.replicate 4 0, 0⟩).pwr.parked = true
    ∧ ((sleeping 2).put (PWR_LSN_EN 1) 1).flag (PWR_LSN_EN 1) = true ∧ (sleeping 2).flag PWR_WAKEEN_LSN2 = true
    ∧ ((0x44 / 2 ^^^ 0x22) ||| (0 : Nat)) = 0 ∧ (sleeping 2).vadRuns = true ∧ dev.vadRuns = false := by decide +kernel

theorem wit_retry_rail : let q := { sequencing with rseq := [], pwr := { sequencing.pwr with retry := [⟨1, .on, .power⟩] } }
    q.pwr.retry = [⟨1, .on, .power⟩] ∧ q.flag SP_RSEQCTL_EN = true ∧ q.rseq = [] := by decide +kernel

theorem wit_idle : let a := put [(PWR_CTL_AUTOIDLE, 1)]; let s := (st curator { work curator with wait := .wfe } a).chip
    a.flag PWR_CTL_AUTOIDLE = true ∧ a.get PWR_STAT_STATE = 0 ∧ a.curRuns = true ∧ (∀ n : Fin 64, s.cores[eng n].run = false)
    ∧ s.cores[curator].wait = .wfe ∧ a.cur.boot = false ∧ dev.flag PWR_CTL_AUTOIDLE = false ∧ (put [(PWR_STAT_STATE, 1)]).get PWR_STAT_STATE = 1
    ∧ (on dev).chip.cores[(0 : CoreId)].wait = .none := by decide +kernel

theorem wit_blocks : let d := put [(⟨PWR_PDOWN_REQ.addr, 31, 0⟩, 0)]; let f := PWR_PDOWN_REQ; let r := put [(f, 0x2FF)]; let e := put [(PWR_PDOWN_EFF, 0x2FF)]
    r.bit PWR_PDOWN_REQ 9 = true ∧ r.bit PWR_PDOWN_EFF 9 = false ∧ r.ports.sp[(7 : Fin 8)].idle = true ∧ r.ports.fspi.since = none
    ∧ e.bit PWR_PDOWN_REQ 9 = false ∧ e.bit PWR_PDOWN_EFF 9 = true ∧ d.bit PWR_PDOWN_REQ 0 = false := by decide +kernel

/-! ### Rings, doorbells and movers -/

/-- A ring open on completion ring 5 with two descriptors waiting, in a device that may send requests; the movers on. -/
def ringing : Dev :=
  [(RNG_CTL_HOSTEN, 1), (RNG_SQCTL_EN_REQ 63, 1), (RNG_SQCTL_EN_EFF 63, 1), (RNG_SQCTL_CQ 63, 5), (RNG_SQCTL_SIZE 63, 8), (RNG_SQCTL_BURST 63, 4),
    (RNG_SQSTAT_STATE 63, 1), (RNG_SQSTAT_TAIL 63, 2), (RNG_CQCTL_EN_REQ 5, 1), (RNG_CQCTL_EN_EFF 5, 1), (RNG_CQCTL_SIZE 5, 8), (RNG_CQCTL_IEN 5, 1),
    (RNG_CQPEND_UNREL 5, 2), (RNG_CQMOD_TIME 5, 1), (RNG_CQMOD_COUNT 5, 3), (MOV_CTL_EN_REQ 0, 1), (MOV_CTL_EN_EFF 0, 1), (MOV_CTL_EN_REQ 1, 1),
    (MOV_CTL_EN_EFF 1, 1)].foldl (fun d x => d.put x.1 x.2) linked

/-- The same with a descriptor of ring 63 in flight. -/
def flying (b : BitVec 512) (st : DescSt) : Dev := { ringing with rng := { ringing.rng with infl := [⟨7, 63, 5, b, st⟩], nextSlot := 8 } }

/-- RingControl. -/
theorem wit_rings : let c := (on ringing).chip; let f := (on linked).chip
    ringing.flag HPT_CTL_CFGRDY = true ∧ ringing.flag RNG_CTL_HOSTEN = true ∧ ringing.flag (RNG_SQCTL_EN_EFF 63) = true ∧ 255 < 2 ^ ringing.get (RNG_SQCTL_SIZE 63)
    ∧ 2 ^ ringing.get (RNG_SQCTL_SIZE 63) ≤ 256 ∧ ringing.get (RNG_CQPEND_UNREL 5) = 2 ∧ linked.flag RNG_CTL_HOSTEN = false
    ∧ (on dev).chip.dev.flag HPT_CTL_CFGRDY = false ∧ linked.flag (RNG_SQCTL_EN_REQ 63) = false
    ∧ Hears c cur (RNG_SQCTL 63) (withField 0 (RNG_SQCTL_EN_REQ 63) 1) ∧ Hears f cur (RNG_SQCTL 63) (withField 0 (RNG_SQCTL_EN_REQ 63) 1)
    ∧ Hears c cur (RNG_SQCTL 63) (withField 0 (RNG_SQCTL_EN_REQ 63) 0) ∧ Hears c cur (RNG_CQCTL 5) (withField 0 (RNG_CQCTL_EN_REQ 5) 1)
    ∧ Hears c cur (RNG_CQCTL 5) (withField 0 (RNG_CQCTL_EN_REQ 5) 0) ∧ Hears f cur (RNG_CQCTL 5) (withField 0 (RNG_CQCTL_EN_REQ 5) 1) :=
  ⟨by decide +kernel, by decide +kernel, by decide +kernel, by decide +kernel, by decide +kernel, by decide +kernel, by decide +kernel,
    by decide +kernel, by decide +kernel, hears_of (by decide +kernel), hears_of (by decide +kernel), hears_of (by decide +kernel),
    hears_of (by decide +kernel), hears_of (by decide +kernel), hears_of (by decide +kernel)⟩

theorem wit_ring_seams : let n := (ringing.put (RNG_SQCTL_EN_REQ 63) 0); let q := (ringing.put (RNG_CQCTL_EN_REQ 5) 0).put (RNG_SQCTL_EN_EFF 63) 0
    let p := ringing.put RNG_STAT_PAUSED 1
    ringing.rng.infl = [] ∧ (flying 0 .fetched).rng.infl.any (fun x => x.sq == 63 && x.st.waits) = true ∧ n.flag (RNG_SQCTL_EN_REQ 63) = false
    ∧ n.flag (RNG_SQCTL_EN_EFF 63) = true ∧ q.flag (RNG_CQCTL_EN_REQ 5) = false ∧ q.flag (RNG_CQCTL_EN_EFF 5) = true ∧ q.get (RNG_CQPEND_RSV 5) = 0
    ∧ (∀ k < 64, q.get (RNG_SQCTL_CQ k) = 5 → q.flag (RNG_SQCTL_EN_EFF k) = false)
    ∧ p.flag HPT_LSTAT_PRESENT = true ∧ p.flag RNG_STAT_PAUSED = true ∧ p.rng.heldRecs = [] ∧ ringing.flag RNG_STAT_PAUSED = false
    ∧ linked.flag (MOV_CTL_EN_REQ 1) = false ∧ linked.movQueue 1 = [] ∧ (linked.movRunning 1).isNone = true := by decide +kernel

theorem wit_resume : Hears (on (ringing.put RNG_STAT_PAUSED 1)).chip cur RNG_RESUME 1 := hears_of (by decide +kernel)

/-- RingWork: a turn, with good descriptors and with one refused. -/
theorem wit_turn : ringing.nextSq = some 63 ∧ ringing.sqTurn 63 = 2 ∧ (ringing.put (RNG_SQSTAT_TAIL 63) 1).sqTurn 63 = 1 ∧ ringing.descCheck 0 = none
    ∧ ringing.descCheck 6 = some (8, none) ∧ linked.nextSq = none ∧ ringing.hpt.noReply = false := by decide +kernel

/-- A descriptor of a class with an operation and a length. -/
def descOf (cls op len : Nat) : BitVec 512 := BitVec.ofNat 512 (cls + op * 2 ^ 320 + len * 2 ^ 192)

theorem wit_dispatch : ((flying (descOf 0 0 0) .fetched).ready 63 0 0).isSome = true ∧ ((flying (descOf 4 1 0) .fetched).ready 63 4 1).isSome = true
    ∧ ((flying (descOf 4 2 0) .fetched).ready 63 4 2).isSome = true ∧ ((flying (descOf 4 3 0) .fetched).ready 63 4 3).isSome = true
    ∧ ((flying (descOf 1 0 0) .fetched).ready 63 1 0).isSome = true ∧ ((flying (descOf 2 0 0) .fetched).ready 63 2 0).isSome = true
    ∧ ((flying (descOf 3 0 8) .fetched).ready 63 3 0).isSome = true ∧ ((flying (descOf 5 0 0) .fetched).ready 63 5 0).isSome = true
    ∧ (flying 0 (.staging [1])).rng.infl.length = 1 ∧ (flying 0 (.fencing 5)).rng.infl.any (fun z => z.st == .fencing 5) = true
    ∧ ringing.adm.stage.length < 4 ∧ ringing.adm.waiting = [] := by decide +kernel

theorem wit_copies : let c := flying (descOf 2 0 100) (.queued 1 5); let q : Dev := { c with rng := { c.rng with movq := [(1, 7)] } }
    let m := flying (descOf 2 0 100) (.moving 1 5 0 64 [(64, 36)])
    (q.movQueue 1).length = 1 ∧ (q.movRunning 1).isNone = true ∧ copyLines 0 100 ≠ [] ∧ (m.movRunning 1).isSome = true
    ∧ ringing.mayRequest = true ∧ ringing.get (RNG_CQSTAT_TAIL 5) < 256 ∧ ringing.get (RNG_CQSTAT_PHASE 5) < 2 ∧ dev.mayRequest = false
    ∧ ringing.flag (RNG_CQCTL_IEN 5) = true ∧ (ringing.cqState 5).count + 1 < ringing.get (RNG_CQMOD_COUNT 5) := by decide +kernel

theorem wit_moderation : let d : Dev := { ringing with tbC := 10000, rng := { ringing.rng with cqs := [(5, ⟨0, 1, some 0⟩)] } }
    (d.cqState 5).since = some 0 ∧ d.flag (RNG_CQCTL_IEN 5) = true ∧ 0 < (d.cqState 5).count ∧ d.get (RNG_CQMOD_TIME 5) ≠ 0
    ∧ 0 + usTicks (d.get (RNG_CQMOD_TIME 5)) ≤ d.tb := by decide +kernel

end Sys2Proof.Tests
end

section
/-! Facts about the register table (00_scope.md, R9 to R14): the fields of a register are parts of its word, lie apart from each other, and
clamp to values that fit in them; and what one pass over the fields leaves in one of them. -/

namespace Sys2Proof.Machine

open Reg

/-! ### The register table -/

/-- Two fields share no bit. -/
abbrev FldSpec.apart (f g : FldSpec) : Prop := f.hi < g.lo ∨ g.hi < f.lo

/-- The bits of a field are bits of the word. -/
abbrev FldSpec.inWord (f : FldSpec) : Prop := f.lo ≤ f.hi ∧ f.hi < 32

/-- The bounds of a range are in order, and the upper one is below n. -/
def Clamp.below (n : Nat) : Clamp → Bool
  | .range lo hi => lo ≤ hi && hi < n
  | _ => true

/-- The fields of a register are parts of its word that lie apart, and what they clamp to fits in them. -/
abbrev RegRow.Sound (r : RegRow) : Prop :=
  (∀ f ∈ r.flds, f.inWord ∧ f.clamp.below (2 ^ (f.hi - f.lo + 1)) = true) ∧ r.flds.Pairwise FldSpec.apart

theorem FldSpec.apart_symm {f g : FldSpec} (h : f.apart g) : g.apart f := Or.symm h

theorem findIn_mem {off i : Nat} {r : RegRow} {rs : List RegRow} (h : findIn off rs = some (r, i)) : r ∈ rs := by
  induction rs with
  | nil => cases h
  | cons x xs ih =>
    unfold findIn at h
    split at h
    · cases h
      exact List.mem_cons_self
    · exact List.mem_cons_of_mem _ (ih h)

theorem blockRows_unlisted {blk : Nat} (h : blockListed blk = false) : blockRows blk = [] := by
  have hb : 0x15 < blk ∧ ¬ (0x20 ≤ blk ∧ blk ≤ 0x27) := by
    simp only [blockListed, Bool.or_eq_false_iff, Bool.and_eq_false_iff, decide_eq_false_iff_not] at h
    omega
  unfold blockRows
  split
  case h_23 => exact if_neg hb.2
  all_goals omega

/-- An address with a register lies in a listed block (R8). -/
theorem findReg_listed {a i : Nat} {r : RegRow} (h : findReg a = some (r, i)) : blockListed (a / 0x10000) = true := by
  by_contra hb
  unfold findReg at h
  rw [blockRows_unlisted (Bool.eq_false_iff.mpr hb)] at h
  cases h

theorem blockRows_sound : ∀ blk < 0x28, ∀ r ∈ blockRows blk, r.Sound := by decide +kernel

theorem findReg_sound {a i : Nat} {r : RegRow} (h : findReg a = some (r, i)) : r.Sound := by
  have hl := findReg_listed h
  simp only [blockListed, Bool.or_eq_true, Bool.and_eq_true, decide_eq_true_eq] at hl
  exact blockRows_sound _ (by omega) r (findIn_mem h)

/-- The count of lost log entries is no set-up register. -/
theorem setup_ne_ovf {a i : Nat} {r : RegRow} (h : findReg a = some (r, i)) (hs : r.setup = true) : PRV_OVF ≠ a := by
  rintro rfl
  have ho : (findReg PRV_OVF).map (·.1.setup) = some false := by decide +kernel
  rw [h] at ho
  simp [hs] at ho

/-! ### One field of a word after a pass over all -/

theorem foldl_bits_of_apart {step : Word → FldSpec → Word} {f : FldSpec} {fs : List FldSpec}
    (hstep : ∀ g ∈ fs, ∀ w, bits (step w g) f.hi f.lo = bits w f.hi f.lo) (w : Word) :
    bits (fs.foldl step w) f.hi f.lo = bits w f.hi f.lo := by
  induction fs generalizing w with
  | nil => rfl
  | cons g gs ih => 
    rw [List.foldl_cons, ih fun x hx => hstep x (List.mem_cons_of_mem _ hx)]
    exact hstep g List.mem_cons_self w

/-- When each field's turn leaves the others alone, a pass over all leaves in a field what its own turn makes of a word with the same field. -/
theorem foldl_bits_of_mem {step : Word → FldSpec → Word} {f : FldSpec} {fs : List FldSpec} (hf : f ∈ fs) (hp : fs.Pairwise FldSpec.apart)
    (hstep : ∀ g ∈ fs, g.apart f → ∀ w, bits (step w g) f.hi f.lo = bits w f.hi f.lo) (w : Word) :
    ∃ u, bits u f.hi f.lo = bits w f.hi f.lo ∧ bits (fs.foldl step w) f.hi f.lo = bits (step u f) f.hi f.lo := by
  induction fs generalizing w with
  | nil => cases hf
  | cons g gs ih =>
    obtain ⟨hg, hgs⟩ := List.pairwise_cons.mp hp
    have later : ∀ x ∈ gs, x.apart f → ∀ w, bits (step w x) f.hi f.lo = bits w f.hi f.lo := fun x hx => hstep x (List.mem_cons_of_mem _ hx)
    rcases List.mem_cons.mp hf with rfl | hm
    · exact ⟨w, rfl, foldl_bits_of_apart (fun x hx => later x hx (FldSpec.apart_symm (hg x hx))) _⟩
    · obtain ⟨u, hu, hfold⟩ := ih hm hgs later (step w g)
      exact ⟨u, hu.trans (hstep g List.mem_cons_self (hg f hm) w), hfold⟩

end Sys2Proof.Machine
end

section
/-! What a write leaves in each field of a register (R9 to R14, R16, R19, R537): by a field's access kind, and of a whole register. -/

namespace Sys2Proof.Machine

open Reg

/-! ### Clamping -/

/-- The legal value nearest to the one asked for (R11 to R13, R537). -/
def Clamp.nearest (c : Clamp) (x : Nat) : Nat :=
  match c with
  | .raw | .key => x
  | .range lo hi => max lo (min hi x)
  | .enum m => min m x

theorem Clamp.apply_range {lo hi : Nat} (h : lo ≤ hi) (x : Nat) : (Clamp.range lo hi).apply x = max lo (min hi x) := by
  unfold Clamp.apply
  grind

theorem Clamp.apply_enum (n x : Nat) : (Clamp.enum n).apply x = min n x := by
  unfold Clamp.apply
  grind

theorem Clamp.apply_nearest {c : Clamp} {n : Nat} (h : c.below n = true) (x : Nat) :
    c.apply x = c.nearest x := by
  cases c with
  | raw => rfl
  | key => rfl
  | range lo hi =>
    simp only [Clamp.below, Bool.and_eq_true, decide_eq_true_eq] at h
    exact Clamp.apply_range h.1 x
  | enum m => exact Clamp.apply_enum m x

theorem Clamp.apply_lt {c : Clamp} {x n : Nat} (hc : c.below n = true) (hx : x < n) : c.apply x < n := by
  cases c with
  | raw => exact hx
  | key => exact hx
  | range lo hi =>
    simp only [Clamp.below, Bool.and_eq_true, decide_eq_true_eq] at hc
    rw [Clamp.apply_range hc.1]
    omega
  | enum m =>
    rw [Clamp.apply_enum]
    omega

/-! ### One field -/

/-- A field's store leaves a field that lies apart alone. -/
theorem FldSpec.store_apart {f g : FldSpec} (hf : f.inWord) (hg : g.lo ≤ g.hi) (h : f.apart g) (w v : Word) :
    bits (f.store w v) g.hi g.lo = bits w g.hi g.lo := by
  have other : ∀ x, bits (setBits w f.hi f.lo x) g.hi g.lo = bits w g.hi g.lo :=
    fun x => bits_setBits_of_disjoint hf.1 hf.2 hg h.symm
  cases hacc : f.acc <;> simp only [FldSpec.store, hacc, other]

theorem FldSpec.store_held {f : FldSpec} (h : f.acc = .ro ∨ f.acc = .wo ∨ f.acc = .rc) (w v : Word) : f.store w v = w := by
  rcases h with h | h | h <;> simp only [FldSpec.store, h]

/-- A field written plainly holds the clamped value. -/
theorem FldSpec.bits_store_rw {f : FldSpec} (h : f.acc = .rw ∨ f.acc = .rwl) (hf : f.inWord)
    (hc : f.clamp.below (2 ^ (f.hi - f.lo + 1)) = true) (w v : Word) :
    bits (f.store w v) f.hi f.lo = f.clamp.apply (bits v f.hi f.lo) := by
  have e : f.store w v = setBits w f.hi f.lo (f.clamp.apply (bits v f.hi f.lo)) := by
    rcases h with h | h <;> simp only [FldSpec.store, h]
  rw [e, bits_setBits hf.1 hf.2, Nat.mod_eq_of_lt (Clamp.apply_lt hc (bits_lt v f.hi f.lo))]

theorem FldSpec.bits_store_w1c {f : FldSpec} (h : f.acc = .w1c) (hf : f.inWord) (w v : Word) (k : Nat) :
    (bits (f.store w v) f.hi f.lo).testBit k = ((bits w f.hi f.lo).testBit k && !(bits v f.hi f.lo).testBit k) := by
  have e : f.store w v = setBits w f.hi f.lo (bits (w &&& ~~~v) f.hi f.lo) := by simp only [FldSpec.store, h]
  rw [e, bits_setBits hf.1 hf.2, Nat.mod_eq_of_lt (bits_lt _ _ _)]
  simp only [testBit_bits, BitVec.testBit_toNat, BitVec.getLsbD_and, BitVec.getLsbD_not]
  by_cases hk : k < f.hi - f.lo + 1
  · have : f.lo + k < 32 := by omega
    simp [hk, this]
  · simp [hk]

theorem FldSpec.bits_store_w1s {f : FldSpec} (h : f.acc = .w1s) (hf : f.inWord) (w v : Word) :
    bits (f.store w v) f.hi f.lo = bits w f.hi f.lo ||| bits v f.hi f.lo := by
  have e : f.store w v = setBits w f.hi f.lo (bits (w ||| v) f.hi f.lo) := by simp only [FldSpec.store, h]
  rw [e, bits_setBits hf.1 hf.2, Nat.mod_eq_of_lt (bits_lt _ _ _)]
  apply Nat.eq_of_testBit_eq
  intro k
  simp only [Nat.testBit_or, testBit_bits, BitVec.testBit_toNat, BitVec.getLsbD_or, Bool.and_or_distrib_left]

/-! ### A register -/

/-- What a field holds after a write is what its own store makes of a word with the same old field, unless a rule holds the field back. -/
theorem Dev.bits_storeWord {d : Dev} {r : RegRow} {a : Nat} {f : FldSpec} (hr : r.Sound) (hf : f ∈ r.flds) (hn : notStored a = false)
    (v : Word) : ∃ u, bits u f.hi f.lo = bits (d.word (a - r.back)) f.hi f.lo
      ∧ bits (d.storeWord r a v) f.hi f.lo
        = if f.holdable && d.frozen a f.hi f.lo then bits u f.hi f.lo else bits (f.store u v) f.hi f.lo := by
  obtain ⟨hin, hp⟩ := hr
  obtain ⟨u, hu, hfold⟩ := foldl_bits_of_mem (step := fun w g => if g.holdable && d.frozen a g.hi g.lo then w else g.store w v) hf hp
    (fun g hg hgf w => by
      split
      · rfl
      · exact FldSpec.store_apart (hin g hg).1 (hin f hf).1.1 hgf w v)
    (d.word (a - r.back))
  refine ⟨u, hu, ?_⟩
  unfold Dev.storeWord
  rw [hn, if_neg Bool.false_ne_true, hfold, apply_ite (fun w => bits w f.hi f.lo)]

/-- A log entry changes no register but the count of lost ones (R510). -/
theorem Dev.word_log {d : Dev} {b : Nat} (h : PRV_OVF ≠ b) (off : Nat) (old req stored : Word) (origin flags : Nat) :
    (d.log off old req stored origin flags).word b = d.word b := by
  unfold Dev.log
  dsimp only
  split
  · rfl
  · exact Dev.word_put_of_ne h

/-- A register takes the word its write stores. -/
theorem Chip.takes_word {s : Chip} {m : Sender} {a i : Nat} {v : Word} {r : RegRow} (hf : findReg a = some (r, i)) (hb : r.back = 0) :
    (s.takes m a v).dev.word a = s.dev.storeWord r a v := by
  unfold Chip.takes Chip.storeReg
  simp only [hf, hb, Nat.sub_zero]
  split
  case isTrue hs =>
    rw [Chip.onDev_dev, Dev.word_log (setup_ne_ovf hf hs)]
    simp
  case isFalse => simp

/-- Settles O38: the fields of every register lie apart, so each one's own store decides what it holds. -/
theorem registerFields : Obligations.RegisterFields := by
  intro s m a i v r f hreg hf hn hback
  have hr := findReg_sound hreg
  obtain ⟨hin, hclamp⟩ := hr.1 f hf
  obtain ⟨u, hu, hnew⟩ := s.dev.bits_storeWord hr hf hn v
  rw [hback, Nat.sub_zero] at hu
  rw [Chip.takes_word hreg hback, hnew, ← hu]
  have clamped (h : f.acc = .rw ∨ f.acc = .rwl) := FldSpec.bits_store_rw h hin hclamp u v
  have held (h : f.acc = .ro ∨ f.acc = .wo ∨ f.acc = .rc) : f.store u v = u := FldSpec.store_held h u v
  rw [Clamp.apply_nearest hclamp] at clamped
  cases hacc : f.acc with
  | rw => simp only [FldSpec.holdable, hacc, Bool.true_and, clamped (.inl hacc)]; rfl
  | rwl => simp only [FldSpec.holdable, hacc, Bool.true_and, clamped (.inr hacc)]; rfl
  | ro => simp [FldSpec.holdable, hacc, held]
  | wo => simp [FldSpec.holdable, hacc, held]
  | rc => simp [FldSpec.holdable, hacc, held]
  | w1c => simpa [FldSpec.holdable, hacc] using FldSpec.bits_store_w1c hacc hin u v
  | w1s => simpa [FldSpec.holdable, hacc] using FldSpec.bits_store_w1s hacc hin u v

end Sys2Proof.Machine
end

section
/-! Register accesses into an island whose clock is stopped (R375, R383), and the write that RegisterAccesses overlooks: it asks a write that
the access rule will refuse to leave the device as it is, but while the island's clock is stopped the write is held at the crossing first. -/

namespace Sys2Proof.Machine

open Reg

/-- REGISTER_WRITE is the sender's write at the register's address. -/
theorem exec_registerWrite (m : Sender) (a : BitVec 24) (n : Fin 65) (v : Word) (s : State) :
    exec (.registerWrite m a n v) s = s.act fun c => c.anyWrite m a.toNat n v := by
  rfl

/-- A core's write into an island that is on and whose clock is stopped waits at the crossing (R383). -/
theorem Chip.rowWrite_shut {s : Chip} {e : CoreId} {a : Nat} {v : Word} (hs : s.dev.islandShut a = true) (ho : s.dev.regOff a = false) :
    s.rowWrite (.core e) a v = s.onDev (·.cross (.write (some e) a v)) := by
  unfold Chip.rowWrite
  simp [hs, ho]

/-- What waits at a crossing is no part of what a device at rest is. -/
theorem Calm.cross {d : Dev} (h : Calm d) (x : Crossing) : Calm (d.cross x) := ⟨h.todo, h.defer, h.awake, h.phase, h.wire⟩

/-- The device after its first power-on, no longer waiting for ON_N; HFOSC does not run yet. -/
def unclocked : Chip := State.reset.chip.onDev fun d => { d with pwr := { d.pwr with parked := false } }

theorem unclocked_calm : Calm unclocked.dev :=
  ⟨by decide +kernel, by decide +kernel, by decide +kernel, by decide +kernel, by decide +kernel⟩

/-- Engine 0's write to PDM.STAT in that device waits at the crossing. -/
theorem unclocked_write (v : Word) :
    exec (.registerWrite (.core 0) 0x110010 4 v) ⟨unclocked, []⟩
      = .next ⟨unclocked.onDev (·.cross (.write (some 0) PDM_STAT v)), []⟩ := by
  have hw : unclocked.anyWrite (.core 0) PDM_STAT 4 v = unclocked.onDev (·.cross (.write (some 0) PDM_STAT v)) :=
    Chip.rowWrite_shut (show unclocked.dev.islandShut PDM_STAT = true by decide +kernel)
      (show unclocked.dev.regOff PDM_STAT = false by decide +kernel)
  rw [exec_registerWrite]
  change State.act _ (fun c => c.anyWrite (.core 0) PDM_STAT 4 v) = _
  rw [State.act_of_calm (by rw [hw]; exact unclocked_calm.cross _), hw]

/-- Refutes O40: engine 0 may not write PDM.STAT, but with the clock of its island stopped the write is not refused: it waits at the
crossing (R383). -/
theorem not_registerAccesses : ¬ Obligations.RegisterAccesses := by
  intro h
  obtain ⟨row, hrow⟩ : ∃ row : RegRow, findReg PDM_STAT = some (row, 0) ∧ row.setup = false := ⟨_, rfl, rfl⟩
  obtain ⟨hfound, hsetup⟩ := hrow
  obtain ⟨-, -, -, refused, -⟩ := h ⟨unclocked, []⟩ (.core 0) 0 0x110010 0 0 row 0
  have left := refused rfl (by decide +kernel) (by decide +kernel) ⟨hfound, by decide, by decide⟩ hsetup
  rw [unclocked_write, State.leaves, Chip.settle_of_calm unclocked_calm] at left
  simp only [Host.Outcome.next.injEq, State.mk.injEq, and_true] at left
  have crossings := congrArg (fun c : Chip => c.dev.crossing.length) left
  simp [Dev.cross] at crossings

end Sys2Proof.Machine
end

section
/-! What power-on leaves (R7, R83, R204, R493, R496, R498): the cores, and the two registers that do not hold their reset values. -/

namespace Sys2Proof.Machine

open Reg

theorem eng_ne_curator (n : Fin 64) : eng n ≠ curator := by
  intro h
  have hv : n.val = 64 := congrArg Fin.val h
  omega

theorem bootCores_curator (p : Bool) : (bootCores p)[curator] = { Core.start true 0x03080000 with present := p } := by
  rfl

theorem bootCores_engine (p : Bool) {e : CoreId} (h : e ≠ curator) : (bootCores p)[e] = { Core.rest false with present := p } := by
  have hv : 64 ≠ e.val := fun hv => h (Fin.ext hv.symm)
  unfold bootCores
  simp [Fin.getElem_fin, hv]

/-- A core in reset reads 0 in every register but g31 (R83). -/
theorem Core.rd_rest (cur : Bool) (r : GReg) : (Core.rest cur).rd r = if r = 31 then 0x8000 else 0 := by
  revert cur r
  decide

/-- RSTCAUSE and VLT.STAT alone hold other words than after reset (R200, R494). -/
theorem reset_regs : State.reset.chip.dev.regs = [(SYS_RSTCAUSE, 1), (VLT_STAT, 0x80000000)] := by decide +kernel

theorem reset_word {a : Nat} (h1 : a ≠ SYS_RSTCAUSE) (h2 : a ≠ VLT_STAT) : State.reset.chip.dev.word a = resetWord a := by
  unfold Dev.word
  rw [reset_regs]
  simp [amapGet, amapFind, h1, h2]

theorem reset_cores : State.reset.chip.cores = bootCores false := by
  rfl

/-- Every core stands as in reset but for the place it runs from: kernel mode, interrupts off, priority 16, no store waiting. -/
theorem reset_core (e : CoreId) : let c := State.reset.chip.cores[e]
    (∀ r, c.rd r = if r = 31 then 0x8000 else 0) ∧ c.km = true ∧ c.ie = false ∧ c.df = false ∧ c.pri = 16 ∧ c.sb = [] := by
  dsimp only
  rw [reset_cores]
  by_cases h : e = curator
  · rw [h, bootCores_curator]
    exact ⟨Core.rd_rest true, rfl, rfl, rfl, rfl, rfl⟩
  · rw [bootCores_engine false h]
    exact ⟨Core.rd_rest false, rfl, rfl, rfl, rfl, rfl⟩

theorem reset_engine_rests (n : Fin 64) : (State.reset.chip.cores[eng n]).run = false := by
  rw [reset_cores, bootCores_engine false (eng_ne_curator n)]
  rfl

/-- Settles O4: the cores one by one, the registers from the two that power-on changes, the rest as the first state gives it. -/
theorem resetState : Obligations.ResetState := by
  refine ⟨⟨rfl, rfl, reset_engine_rests, fun e => (reset_core e).1, fun e => (reset_core e).2, rfl, ?pc, fun a => reset_word, ?cause, ?wiping,
    ?parked, ?now, ?latch, ?todo, ?infl, ?proms, ?fc, ?held⟩, rfl, ?canonical⟩
  case canonical =>
    unfold Dev.regsWf
    rw [reset_regs]
    decide +kernel
  all_goals decide +kernel

end Sys2Proof.Machine
end

section
/-! The rail sequencer (R24, R31, R33, R439 to R442): the request a word asks for, how it joins the queue, and what the write of the oldest
one does. -/

namespace Sys2Proof.Machine

open Reg

/-! ### A register that takes a write -/

/-- A write that a rule makes do nothing still passes through the register's fields (R19). -/
theorem writeReg_ignored {s : Chip} {m : Sender} {a i : Nat} {v : Word} {r : RegRow} (hf : findReg a = some (r, i))
    (ht : thrQueue a = none) (hi : s.dev.ignores a (r.taken v) = true) : s.writeReg (s.asMaster m) r a v = s.takes m a v := by
  unfold Chip.writeReg Chip.takes
  rw [hf, ht]
  simp [hi]

/-- A write changes no register but the one it reaches and the count of lost log entries. -/
theorem Chip.takes_word_of_ne {s : Chip} {m : Sender} {a i b : Nat} {v : Word} {r : RegRow} (hf : findReg a = some (r, i)) (hb : r.back = 0)
    (hab : a ≠ b) (ho : PRV_OVF ≠ b) : (s.takes m a v).dev.word b = s.dev.word b := by
  unfold Chip.takes Chip.storeReg
  simp only [hf, hb, Nat.sub_zero]
  split
  case isTrue =>
    rw [Chip.onDev_dev, Dev.word_log ho]
    simp [hab]
  case isFalse => simp [hab]

theorem Chip.takes_flag_of_ne {s : Chip} {m : Sender} {a i : Nat} {v : Word} {r : RegRow} {f : Fld} (hf : findReg a = some (r, i))
    (hb : r.back = 0) (hab : a ≠ f.addr) (ho : PRV_OVF ≠ f.addr) : (s.takes m a v).dev.flag f = s.dev.flag f := by
  unfold Dev.flag Dev.get
  rw [Chip.takes_word_of_ne hf hb hab ho]

/-- A flag of another register reads as before. -/
theorem Dev.flag_put_of_ne {d : Dev} {f g : Fld} {v : Nat} (ha : f.addr ≠ g.addr) : (d.put f v).flag g = d.flag g := by
  unfold Dev.flag
  rw [Dev.get_put_of_ne ha]

/-! ### The words of RSEQREQ -/

/-- The request a word of RSEQREQ makes (R439). -/
def rseqRequest (v : Word) : RailReq :=
  ⟨Fin.ofNat 2 (bits v 8 8), match bits v 30 29 with
    | 1 => .on
    | 2 => .off
    | _ => .point (Fin.ofNat 16 (bits v 3 0)), .firmware⟩

theorem rseqRequest_point (w : Fin 2) (i : Fin 16) : rseqRequest (rseqWord 0 w i) = ⟨w, .point i, .firmware⟩ := by
  revert w i
  decide +kernel

theorem rseqRequest_on (w : Fin 2) : rseqRequest (rseqWord 1 w 0) = ⟨w, .on, .firmware⟩ := by
  revert w
  decide +kernel

theorem rseqRequest_off (w : Fin 2) : rseqRequest (rseqWord 2 w 0) = ⟨w, .off, .firmware⟩ := by
  revert w
  decide +kernel

/-- RSEQREQ is a register of its own, and takes the words that make a request as they are. -/
theorem findReg_rseqreq : ∃ r : RegRow, findReg SP_RSEQREQ = some (r, 0) ∧ r.back = 0
    ∧ ∀ kind < 3, ∀ (w : Fin 2) (i : Fin 16), r.taken (rseqWord kind w i) = rseqWord kind w i :=
  ⟨_, rfl, rfl, by decide +kernel⟩

theorem rseqWord_go : ∀ kind < 3, ∀ (w : Fin 2) (i : Fin 16), (rseqWord kind w i).getLsbD 31 = true := by decide +kernel

theorem Dev.rseqReq_of_off {d : Dev} {v : Word} (hg : v.getLsbD 31 = true) (ho : d.flag ADM_CTL_EN_EFF = false) :
    d.rseqReq v = (d.askRail (rseqRequest v)).1 := by
  unfold Dev.rseqReq
  rw [hg, ho]
  rfl

/-! ### A request reaches the sequencer -/

/-- The queue with a request in it: in the place of one of its wing and register, else last (R439). What a request replaces, and that it
takes that place, is the model's reading (log entry 41). -/
def enqueueReq (q : List RailReq) (r : RailReq) : List RailReq :=
  let same (x : RailReq) : Bool := x.wing == r.wing && x.ask.isVolt == r.ask.isVolt
  if q.any same then q.map fun x => if same x then r else x else q ++ [r]

theorem enqueueReq_ne_nil (q : List RailReq) (r : RailReq) : enqueueReq q r ≠ [] := by
  unfold enqueueReq
  cases q with
  | nil => simp
  | cons x xs =>
    dsimp only
    split <;> simp

theorem Dev.showBusy_of_waiting {d : Dev} (h : d.rseq ≠ []) : d.showBusy = d.put SP_RSEQST_BUSY 1 := by
  unfold Dev.showBusy
  rw [if_neg (by simpa using h)]

/-- What shows a request leaves the sequencer's switch alone. -/
theorem Dev.showAsk_flag_en (d : Dev) (r : RailReq) : (d.showAsk r).flag SP_RSEQCTL_EN = d.flag SP_RSEQCTL_EN := by
  have shown : ((d.put SP_RSEQST_WING r.wing).put SP_RSEQST_KIND r.ask.kind).flag SP_RSEQCTL_EN = d.flag SP_RSEQCTL_EN := by
    rw [Dev.flag_put_of_ne (by decide), Dev.flag_put_of_ne (by decide)]
  obtain ⟨w, ask, src⟩ := r
  cases ask with
  | point i =>
    have hw : (if w = 0 then ADM_STAT_RAIL_W0 else ADM_STAT_RAIL_W1).addr ≠ SP_RSEQCTL_EN.addr := by split <;> decide
    exact (Dev.flag_put_of_ne hw).trans ((Dev.flag_put_of_ne (by decide)).trans shown)
  | off => exact shown
  | on => exact shown
  | retain => exact shown

/-- A request is shown, and where it takes the rail down the canaries of the wing stop (R24). -/
def Dev.admitAsk (d : Dev) (r : RailReq) : Dev := if r.ask.lowers then (d.showAsk r).canaryStop r.wing else d.showAsk r

/-- A request waits in the queue. -/
def Dev.queueAsk (d : Dev) (r : RailReq) : Dev := ({ d with rseq := enqueueReq d.rseq r } : Dev).put SP_RSEQST_BUSY 1

/-- While the sequencer is off a request is shown and fails at once (R439). -/
theorem Dev.askRail_of_disabled {d : Dev} {r : RailReq} (h : d.flag SP_RSEQCTL_EN = false) :
    (d.askRail r).1 = (d.showAsk r).on SP_RSEQST_FAIL := by
  unfold Dev.askRail
  simp only [Dev.showAsk_flag_en, h, Bool.not_false, if_true]

/-- Else it waits (R439). -/
theorem Dev.askRail_of_enabled {d : Dev} {r : RailReq} (h : d.flag SP_RSEQCTL_EN = true) :
    (d.askRail r).1 = (d.admitAsk r).queueAsk r := by
  have busy : ({ d.admitAsk r with rseq := enqueueReq (d.admitAsk r).rseq r } : Dev).showBusy = (d.admitAsk r).queueAsk r :=
    Dev.showBusy_of_waiting (enqueueReq_ne_nil _ _)
  rw [← busy]
  unfold Dev.askRail
  simp only [Dev.showAsk_flag_en, h, Bool.not_true, Bool.false_eq_true, if_false]
  rfl

/-! ### A firmware request -/

/-- What a write of RSEQREQ that makes a request does (R439, R441): nothing beside its own word while the registrar is enabled, else the
request is made. -/
theorem rseqWrite_outcome {s : State} {m : Sender} {kind : Nat} {w : Fin 2} {i : Fin 16} {q : RailReq} (hk : kind < 3)
    (hq : rseqRequest (rseqWord kind w i) = q) (h : Hears s.chip m SP_RSEQREQ (rseqWord kind w i)) :
    let d := s.chip.dev
    let u := s.chip.takes m SP_RSEQREQ (rseqWord kind w i)
    let out := s.act fun c => c.rowWrite m SP_RSEQREQ (rseqWord kind w i)
    (d.flag ADM_CTL_EN_EFF = true → out = s.leaves u)
    ∧ (d.flag ADM_CTL_EN_EFF = false → d.flag SP_RSEQCTL_EN = false →
        out = s.leaves (u.onDev fun d => (d.showAsk q).on SP_RSEQST_FAIL))
    ∧ (d.flag ADM_CTL_EN_EFF = false → d.flag SP_RSEQCTL_EN = true →
        out = s.leaves (u.onDev fun d => (d.admitAsk q).queueAsk q)) := by
  intro d u out
  obtain ⟨r, hf, hb, ht⟩ := findReg_rseqreq
  have written : out = s.leaves (s.chip.writeReg (s.chip.asMaster m) r SP_RSEQREQ (rseqWord kind w i)) :=
    congrArg s.leaves (rowWrite_hears h (by decide) hf (by decide))
  have unchanged (f : Fld) (hr : SP_RSEQREQ ≠ f.addr) (ho : PRV_OVF ≠ f.addr) : u.dev.flag f = d.flag f :=
    Chip.takes_flag_of_ne hf hb hr ho
  have asked (hoff : d.flag ADM_CTL_EN_EFF = false) {f : Dev → Dev} (hfd : (u.dev.askRail q).1 = f u.dev) :
      out = s.leaves (u.onDev f) := by
    rw [written, writeReg_takes hf (by decide) hoff, ht kind hk]
    have hreq := Dev.rseqReq_of_off (d := u.dev) (rseqWord_go kind hk w i) ((unchanged _ (by decide) (by decide)).trans hoff)
    rw [hq, hfd] at hreq
    exact congrArg (fun t => s.leaves (u.onDev fun _ => t)) hreq
  have enabled : u.dev.flag SP_RSEQCTL_EN = d.flag SP_RSEQCTL_EN := unchanged _ (by decide) (by decide)
  refine ⟨fun hon => ?ignored, fun hoff hdis => ?fails, fun hoff hen => ?waits⟩
  case ignored => rw [written, writeReg_ignored hf (by decide) hon]
  case fails => exact asked hoff (Dev.askRail_of_disabled (enabled.trans hdis))
  case waits => exact asked hoff (Dev.askRail_of_enabled (enabled.trans hen))

/-! ### The oldest request is written -/

/-- The sequencer's queue and its status once the oldest request r has been sent (R440). -/
def Dev.sent (d : Dev) (r : RailReq) (rest : List RailReq) : Dev :=
  (({ d with rseq := rest } : Dev).put SP_RSEQST_CODE (d.askByte r)).put SP_RSEQST_BUSY (if rest = [] then 0 else 1)

theorem Dev.sent_get_of_ne {d : Dev} {r : RailReq} {rest : List RailReq} {f : Fld} (h : SP_RSEQST ≠ f.addr) :
    (d.sent r rest).get f = d.get f := by
  unfold Dev.sent
  rw [Dev.get_put_of_ne h, Dev.get_put_of_ne h]
  rfl

@[simp] theorem Dev.sent_rseq (d : Dev) (r : RailReq) (rest : List RailReq) : (d.sent r rest).rseq = rest := by simp [Dev.sent]
@[simp] theorem Dev.sent_rails (d : Dev) (r : RailReq) (rest : List RailReq) : (d.sent r rest).rails = d.rails := by simp [Dev.sent]

theorem Dev.sent_code (d : Dev) (r : RailReq) (rest : List RailReq) : (d.sent r rest).get SP_RSEQST_CODE = d.askByte r % 256 := by
  unfold Dev.sent
  rw [Dev.get_put_of_disjoint (by decide) (by decide) (by decide) (by decide), Dev.get_put (by decide) (by decide)]
  rfl

/-- The PMIC refuses a write: a byte was not acknowledged, or its status shows a fault (R441). -/
abbrev Dev.writeRefused (d : Dev) (acked : Bool) (status : BitVec 8) : Prop :=
  acked = false ∨ d.flag SP_RSEQCTL_CHK = true ∧ status.toNat &&& d.get SP_RSEQCTL_FMASK ≠ 0

theorem Dev.seqReady_iff (d : Dev) :
    d.seqReady = true ↔ d.flag (SP_CTL_EN_EFF 0) = true ∧ d.ports.sp[(0 : Fin 8)].xfer = none ∧ d.clocksOn = true := by
  simp [Dev.seqReady, and_assoc]

/-- A write of the oldest request sends it, and then fails or moves the rail (R440, R441). -/
theorem Dev.railWrite_cons {d : Dev} {r : RailReq} {rest : List RailReq} (h : d.rseq = r :: rest) (acked : Bool) (status : BitVec 8) :
    d.railWrite acked status = if d.writeRefused acked status then ((d.sent r rest).on SP_RSEQST_FAIL, some (r, true))
      else ((d.sent r rest).railTaken r, some (r, false)) := by
  have shown : (({ d with rseq := rest } : Dev).put SP_RSEQST_CODE (d.askByte r)).showBusy = d.sent r rest := by
    unfold Dev.showBusy Dev.sent
    simp
  have chk : (d.sent r rest).flag SP_RSEQCTL_CHK = d.flag SP_RSEQCTL_CHK := by
    unfold Dev.flag
    rw [Dev.sent_get_of_ne (by decide)]
  have mask : (d.sent r rest).get SP_RSEQCTL_FMASK = d.get SP_RSEQCTL_FMASK := Dev.sent_get_of_ne (by decide)
  unfold Dev.railWrite
  rw [h]
  simp only [shown, chk, mask, Bool.or_eq_true, Bool.not_eq_true', Bool.and_eq_true, bne_iff_ne]

/-- A refused firmware request sets FAIL and no more. -/
theorem Dev.seqWrite_refused {d : Dev} {r : RailReq} {rest : List RailReq} {acked : Bool} {status : BitVec 8} (hd : d.seqReady = true)
    (hq : d.rseq = r :: rest) (hr : d.writeRefused acked status) (hs : r.src = .firmware) :
    d.seqWrite acked status = (d.sent r rest).on SP_RSEQST_FAIL := by
  unfold Dev.seqWrite Dev.railOutcome
  rw [if_pos hd, Dev.railWrite_cons hq, if_pos hr]
  simp only [hs]

theorem Dev.seqWrite_taken {d : Dev} {r : RailReq} {rest : List RailReq} {acked : Bool} {status : BitVec 8} (hd : d.seqReady = true)
    (hq : d.rseq = r :: rest) (hr : ¬ d.writeRefused acked status) :
    d.seqWrite acked status = (d.sent r rest).railTaken r := by
  unfold Dev.seqWrite Dev.railOutcome
  rw [if_pos hd, Dev.railWrite_cons hq, if_neg hr]

/-- With nothing waiting, or where port 0 cannot carry a write, there is none. -/
theorem Dev.seqWrite_idle {d : Dev} (h : d.rseq = [] ∨ d.seqReady = false) (acked : Bool) (status : BitVec 8) :
    d.seqWrite acked status = d := by
  unfold Dev.seqWrite Dev.railOutcome Dev.railWrite
  rcases h with h | h <;> simp [h]

/-! ### The rail moves -/

/-- Whether a rail's output is on after a request that found it as was. -/
def RailAsk.output (was : Bool) : RailAsk → Bool
  | .on => true
  | .off => false
  | _ => was

/-- A request the PMIC has taken changes its wing's rail alone: the condition of R418 ends, the output goes as asked, and a request for a
voltage sets it (R31, R33, R439). -/
theorem Dev.railTaken_eq (d : Dev) (r : RailReq) : ∃ x : Rail, d.railTaken r = d.setRail r.wing x ∧ x.bad = false
    ∧ x.on = r.ask.output d.rails[r.wing].on
    ∧ x.mv = if r.ask.isVolt then d.askMv r.wing r.ask else d.rails[r.wing].mv := by
  obtain ⟨w, ask, src⟩ := r
  unfold Dev.railTaken
  cases ask with
  | off => exact ⟨_, rfl, rfl, rfl, rfl⟩
  | on =>
    dsimp only
    split
    case isTrue hon => exact ⟨_, rfl, rfl, hon, rfl⟩
    case isFalse => exact ⟨_, rfl, rfl, rfl, rfl⟩
  | retain =>
    dsimp only
    split <;> exact ⟨_, rfl, rfl, rfl, rfl⟩
  | point i =>
    dsimp only
    split <;> exact ⟨_, rfl, rfl, rfl, rfl⟩

@[simp] theorem Dev.setRail_rseq (d : Dev) (w : Fin 2) (x : Rail) : (d.setRail w x).rseq = d.rseq := rfl
@[simp] theorem Dev.setRail_get (d : Dev) (w : Fin 2) (x : Rail) (f : Fld) : (d.setRail w x).get f = d.get f := rfl

@[simp] theorem Dev.setRail_rail (d : Dev) (w : Fin 2) (x : Rail) : (d.setRail w x).rails[w] = x := by
  simp [Dev.setRail]

theorem rseqst_ne_ptab (w : Fin 2) (i : Fin 16) : SP_RSEQST ≠ ADM_PTAB w i := by
  unfold SP_RSEQST ADM_PTAB
  omega

/-- What is sent leaves the voltage a request sets as the pace table has it. -/
theorem Dev.sent_askMv (d : Dev) (r : RailReq) (rest : List RailReq) : (d.sent r rest).askMv r.wing r.ask = d.askMv r.wing r.ask := by
  cases r.ask with
  | point i => exact Dev.sent_get_of_ne (f := ADM_PTAB_MV r.wing i) (rseqst_ne_ptab r.wing i)
  | off => rfl
  | on => rfl
  | retain => rfl

/-- The device after a request that the PMIC has taken. -/
theorem Dev.sent_railTaken (d : Dev) (r : RailReq) (rest : List RailReq) : ∃ t : Dev, (d.sent r rest).railTaken r = t
    ∧ t.rseq = rest ∧ t.get SP_RSEQST_CODE = d.askByte r % 256 ∧ t.rails[r.wing].bad = false
    ∧ t.rails[r.wing].on = r.ask.output d.rails[r.wing].on
    ∧ t.rails[r.wing].mv = if r.ask.isVolt then d.askMv r.wing r.ask else d.rails[r.wing].mv := by
  obtain ⟨x, ht, hbad, hon, hmv⟩ := (d.sent r rest).railTaken_eq r
  rw [Dev.sent_rails] at hon hmv
  rw [Dev.sent_askMv] at hmv
  refine ⟨_, ht, ?_⟩
  rw [Dev.setRail_rseq, Dev.setRail_get, Dev.setRail_rail]
  exact ⟨d.sent_rseq r rest, d.sent_code r rest, hbad, hon, hmv⟩

/-! ### The rows -/

theorem exec_rseqPoint (m : Sender) (w : Fin 2) (i : Fin 16) (s : State) :
    exec (.rseqPoint m w i) s = s.act fun c => c.rowWrite m SP_RSEQREQ (rseqWord 0 w i) := by
  rfl

theorem exec_rseqOn (m : Sender) (w : Fin 2) (s : State) :
    exec (.rseqOn m w) s = s.act fun c => c.rowWrite m SP_RSEQREQ (rseqWord 1 w 0) := by
  rfl

theorem exec_rseqOff (m : Sender) (w : Fin 2) (s : State) :
    exec (.rseqOff m w) s = s.act fun c => c.rowWrite m SP_RSEQREQ (rseqWord 2 w 0) := by
  rfl

theorem exec_sequencerWrite (acked : Bool) (status : BitVec 8) (s : State) :
    exec (.sequencerWrite acked status) s = s.leaves (s.chip.onDev fun _ => s.chip.dev.seqWrite acked status) := by
  rfl

/-- Settles O54: a firmware request by what it shows and whether it is let in, the sequencer's write by whether the PMIC takes it. -/
theorem railRequests : Obligations.RailRequests := by
  intro s m w i v acked status r rest c d word shown shownAt fails ask queued quiet u point up down first refused base q code byte rail
  have asks {kind : Nat} {a : RailAsk} (hk : kind < 3) (ha : rseqRequest (rseqWord kind w i) = ask a)
      (h : Hears c m SP_RSEQREQ (word kind)) := rseqWrite_outcome hk ha h
  have waits (a : RailAsk) (d : Dev) : d.queueAsk (ask a) = queued a d := rfl
  have showsPoint (d : Dev) : d.showAsk (ask (.point i)) = shownAt d := rfl
  have showsOn (d : Dev) : d.showAsk (ask .on) = shown 1 d := rfl
  have showsOff (d : Dev) : d.showAsk (ask .off) = shown 2 d := rfl
  have admitsPoint (d : Dev) : d.admitAsk (ask (.point i)) = shownAt d := rfl
  have admitsOn (d : Dev) : d.admitAsk (ask .on) = shown 1 d := rfl
  have admitsOff (d : Dev) : d.admitAsk (ask .off) = quiet (shown 2 d) := rfl
  have sends : d.askByte r = byte := by
    unfold Dev.askByte
    dsimp only [byte]
    cases r.ask <;> rfl
  have writes {f : Dev → Dev} (hf : d.seqWrite acked status = f d) : exec (.sequencerWrite acked status) s = s.becomes f :=
    (exec_sequencerWrite acked status s).trans (congrArg (fun t => s.leaves (s.chip.onDev fun _ => t)) hf)
  refine ⟨?rseqPoint, ?rseqOn, ?rseqOff, ?refused, ?taken, ?idle⟩
  case rseqPoint =>
    intro h
    have done := asks (by decide) (rseqRequest_point w i) h
    simp only [waits, showsPoint, admitsPoint] at done
    exact done
  case rseqOn =>
    rintro rfl h
    have done := asks (by decide) (rseqRequest_on w) h
    simp only [waits, showsOn, admitsOn] at done
    exact done
  case rseqOff =>
    rintro rfl h
    have done := asks (by decide) (rseqRequest_off w) h
    simp only [waits, showsOff, admitsOff] at done
    exact done
  case refused =>
    rintro ⟨hq, hready⟩ hrefused hsrc
    have hsent := Dev.seqWrite_refused (d.seqReady_iff.mpr hready) hq hrefused hsrc
    unfold Dev.sent at hsent
    rw [sends] at hsent
    exact writes hsent
  case taken =>
    rintro ⟨hq, hready⟩ htaken
    obtain ⟨t, ht, hrest, hcode, hbad, hout, hmv⟩ := d.sent_railTaken r rest
    have hsent : d.seqWrite acked status = t := (Dev.seqWrite_taken (d.seqReady_iff.mpr hready) hq htaken).trans ht
    refine ⟨t, writes hsent, hrest, ?code, hbad, ?output, ?voltage⟩
    case code => rw [hcode, sends]
    case output =>
      rw [hout]
      cases r.ask <;> rfl
    case voltage =>
      rw [hmv]
      cases r.ask <;> rfl
  case idle =>
    intro h
    have hidle : d.rseq = [] ∨ d.seqReady = false := by
      rcases h with hempty | hdisabled | hstopped
      · exact .inl hempty
      · exact .inr (by simp [Dev.seqReady, hdisabled])
      · exact .inr (by simp [Dev.seqReady, hstopped])
    exact writes (f := id) (Dev.seqWrite_idle hidle acked status)

end Sys2Proof.Machine
end

section
/-! The boundary after an instruction that retires, with the shadow it begins (R64), and the tokens of an instruction (R343). -/

namespace Sys2Proof.Machine

/-! ### Tokens -/

/-- Tokens leave every core as it was. -/
@[simp] theorem Chip.tokens_cores (s : Chip) (e : CoreId) (ts : List Token) : (s.tokens e ts).cores = s.cores := by
  obtain ⟨c, hc⟩ := s.tokens_cur e ts
  rw [hc]

/-- Tokens leave the timebase as it was. -/
theorem Chip.tokens_now (s : Chip) (e : CoreId) (ts : List Token) : (s.tokens e ts).dev.now = s.dev.now := by
  obtain ⟨c, hc⟩ := s.tokens_cur e ts
  rw [hc]
  rfl

theorem Steady.tokens_quiet {s : Chip} {e : CoreId} (h : Steady s e) (ts : List Token) : Quiet (s.tokens e ts) e := by
  obtain ⟨c, hc⟩ := s.tokens_cur e ts
  rw [hc]
  exact ⟨h.shadows, h.counters, h.comparators, h.halts⟩

theorem Quiet.retired_eq {t : Chip} {e : CoreId} (q : Quiet t e) (km : Bool) (op : Op) : t.retired e km op = t :=
  Chip.retired_off q.counters km op

/-! ### Retirement -/

/-- A core whose instruction has run and goes on at an offset; tbl says that it read TBL (R63), ws are the writes it leaves in their shadow. -/
def Core.retire (c : Core) (next : BitVec 24) (tbl : Bool) (ws : List Shadow) : Core :=
  { c with off := next, wait := .none, resumed := false, tblPair := tbl, shadows := ws }

theorem Core.shadows_none {c : Core} (h : c.shadows = []) : { c with shadows := [] } = c := by
  rw [← h]

theorem Core.retire_none {c : Core} (h : c.shadows = []) (next : BitVec 24) (tbl : Bool) :
    c.retire next tbl [] = { c with off := next, wait := .none, resumed := false, tblPair := tbl } := by
  rw [← h]
  rfl

theorem Core.shadowStep_none {c : Core} (h : c.shadows = []) : c.shadowStep = c := by
  unfold Core.shadowStep
  rw [h]
  exact Core.shadows_none h

theorem Core.shadowFlush_none {c : Core} (h : c.shadows = []) : c.shadowFlush = c := by
  unfold Core.shadowFlush
  rw [h]
  exact Core.shadows_none h

/-- Where no write stands in a shadow, an instruction that has run leaves the writes it begins there. -/
theorem Chip.counted_shadows {s : Chip} {e : CoreId} (h : s.cores[e].shadows = []) (ws : List Shadow) :
    s.counted e ws = s.onCore e fun c => { c with shadows := ws } := by
  have joins : (s.onCore e fun c => { c.shadowStep with shadows := c.shadowStep.shadows ++ ws })
      = s.onCore e fun c => { c with shadows := ws } := by
    apply Chip.onCore_congr
    rw [Core.shadowStep_none h, h, List.nil_append]
  have keepsDet : (s.onCore e fun c => { c with shadows := ws }).cores[e].det = s.cores[e].det := by
    rw [Chip.onCore_core]
    rfl
  unfold Chip.counted
  dsimp only
  rw [joins, keepsDet, Bool.and_not_self, if_neg Bool.false_ne_true]

/-- What an instruction that goes on at an offset leaves of a quiet core. -/
theorem Quiet.conclude_go {t : Chip} {e : CoreId} (q : Quiet t e) (x : Ctx) (op : Op) (body : Word) (c : Core) (next : BitVec 24) :
    t.conclude e x op body c (.go next) = t.onCore e (·.retire next op.isTbl (op.newShadow e c)) := by
  have q' : Quiet (t.onCore e fun d => { d with off := next, wait := .none, resumed := false, tblPair := op.isTbl }) e := q.onCore rfl
  have counted := (Chip.counted_shadows q'.shadows (op.newShadow e c)).trans (Chip.onCore_onCore t e _ _)
  refine (congrArg (fun u : Chip => (u.traceFetch e c.pc (op.fetches c)).haltEffect e) counted).trans ?_
  refine (congrArg (Chip.haltEffect · e) (Chip.traceFetch_off ?_ _ _)).trans (Chip.haltEffect_off ?_)
  · exact q.comparators
  · exact q.halts

/-- An instruction that is no repeat pair and accesses no data. -/
theorem Chip.effect_sys {s : Chip} {e : CoreId} {x : Ctx} {op : Op} {body : Word} (hw : op.wf = true) (hp : op.isPrefix = false)
    (ha : op.acc s.cores[e] = none) : s.effect e x op body = s.sysOp e x op := by
  unfold Chip.effect Chip.oneOp
  rw [hw, hp, ha]
  rfl

/-- A steady core's instruction that retires, leaving the core quiet. -/
theorem Steady.act_retires {s : State} {e : CoreId} (h : Steady s.chip e) (op : Op) (body : Word) {t : Chip} {next : BitVec 24}
    (he : s.chip.effect e (ownCtx e s.chip.cores[e]) op body = (t, .go next)) (q : Quiet t e) :
    (s.act fun c => c.runOp e op body) = s.leaves (t.onCore e (·.retire next op.isTbl (op.newShadow e s.chip.cores[e]))) := by
  have ran := h.runOp_eq op body (.inl (by rw [he]; rfl))
  rw [he, q.conclude_go] at ran
  exact congrArg s.leaves ran

/-- A device at rest has no consequences where only a core changes. -/
theorem Steady.leaves_onCore {s : State} {e : CoreId} (h : Steady s.chip e) (f : Core → Core) :
    s.leaves (s.chip.onCore e f) = .next { s with chip := s.chip.onCore e f } := by
  unfold State.leaves
  rw [Chip.settle_of_calm (show Calm (s.chip.onCore e f).dev from h.calm)]

/-- An instruction that retires after changing its own core alone. -/
theorem Steady.act_own {s : State} {e : CoreId} (h : Steady s.chip e) (op : Op) (body : Word) {f g : Core → Core}
    (he : s.chip.effect e (ownCtx e s.chip.cores[e]) op body = (s.chip.onCore e f, .go s.chip.cores[e].nextOff))
    (hf : (f s.chip.cores[e]).shadows = s.chip.cores[e].shadows) (hb : op.isTbl = false) {ws : List Shadow}
    (hw : op.newShadow e s.chip.cores[e] = ws) (hg : { f s.chip.cores[e] with shadows := ws } = g s.chip.cores[e]) :
    (s.act fun c => c.runOp e op body) = .next (s.went e g Core.nextOff) := by
  rw [h.act_retires op body he (h.quiet.onCore hf), Chip.onCore_onCore, h.leaves_onCore, hb, hw]
  unfold State.went
  rw [Chip.onCore_congr (g := Core.goOn g Core.nextOff)]
  unfold Core.goOn
  rw [← hg]
  rfl

end Sys2Proof.Machine
end

section
/-! The system registers (R60 to R67, R104): what MFS reads and latches, what MTS writes at once or into its shadow, and how a shadowed write
comes nearer. -/

namespace Sys2Proof.Machine

theorem exec_mfs (e : CoreId) (rd : GReg) (sr : BitVec 8) (s : State) :
    exec (.mfs e rd sr) s = s.act fun c => c.runOp e (.mfs rd sr) 0 := by
  rfl

theorem exec_mts (e : CoreId) (sr : BitVec 8) (ra : GReg) (s : State) :
    exec (.mts e sr ra) s = s.act fun c => c.runOp e (.mts sr ra) 0 := by
  rfl

/-- Kernel mode may name every assigned register (R60, R61). -/
theorem srCause_kernel {x : Ctx} {n : Nat} (hk : x.km = true) (ha : srAssigned x.fed n = true) : srCause x n = none := by
  simp [srCause, hk, ha]

theorem srAssigned_ne_dxfer {n : Nat} (h : srAssigned false n = true) : n ≠ 0x0D := by
  rintro rfl
  cases h

/-! ### MFS -/

/-- A register other than TBL and DXFER is read without a token, and nothing is latched. -/
theorem Chip.srLatch_own {s : Chip} {e : CoreId} {n : Nat} (ha : n ≠ 0x0A) (hd : n ≠ 0x0D) : s.srLatch e n = s := by
  simp [Chip.srLatch, Chip.srTokens, ha, hd]

/-- MFS of TBL latches the timebase's high word in TBH (R63). -/
theorem Chip.srLatch_tbl (s : Chip) (e : CoreId) :
    s.srLatch e 0x0A = (s.srTokens e 0x0A).onCore e fun c => { c with tbh := s.dev.now.extractLsb' 32 32 } := by
  have now : (s.srTokens e 0x0A).dev.now = s.dev.now := s.tokens_now e _
  unfold Chip.srLatch
  simp only [if_true, now]

@[simp] theorem Chip.srTokens_cores (s : Chip) (e : CoreId) (n : Nat) : (s.srTokens e n).cores = s.cores := by
  unfold Chip.srTokens
  split
  · exact s.tokens_cores e _
  · rfl

theorem Steady.srTokens_quiet {s : Chip} {e : CoreId} (h : Steady s e) (n : Nat) : Quiet (s.srTokens e n) e := by
  unfold Chip.srTokens
  split
  · exact h.tokens_quiet _
  · exact h.quiet

theorem Steady.srLatch_quiet {s : Chip} {e : CoreId} (h : Steady s e) (n : Nat) : Quiet (s.srLatch e n) e := by
  unfold Chip.srLatch
  dsimp only
  split
  · exact (h.srTokens_quiet n).onCore rfl
  · exact h.srTokens_quiet n

/-- MFS in kernel mode takes the register's value to rd, with the latch and the tokens of its read (R60, R63, R343). -/
theorem Steady.mfs_effect {s : Chip} {e : CoreId} (h : Steady s e) (hk : s.cores[e].km = true) (rd : GReg) {sr : BitVec 8}
    (ha : srAssigned false sr.toNat = true) :
    s.effect e (ownCtx e s.cores[e]) (.mfs rd sr) 0
      = ((s.srLatch e sr.toNat).onCore e (·.wr rd (s.srRead e sr.toNat)), .go s.cores[e].nextOff) := by
  rw [Chip.effect_sys rfl rfl rfl]
  show s.mfs e _ rd sr = _
  unfold Chip.mfs
  rw [srCause_kernel hk ha]
  dsimp only
  rw [(h.srLatch_quiet sr.toNat).retired_eq]
  rfl

/-- MFS of a register whose value is the core's own. -/
theorem Steady.mfs_own {s : State} {e : CoreId} (h : Steady s.chip e) (hk : s.chip.cores[e].km = true) (rd : GReg) {sr : BitVec 8}
    {v : Core → Word} (ha : srAssigned false sr.toNat = true) (hn : sr.toNat ≠ 0x0A) (hv : s.chip.srRead e sr.toNat = v s.chip.cores[e]) :
    exec (.mfs e rd sr) s = s.sets e rd v := by
  have effect := h.mfs_effect hk rd ha
  rw [Chip.srLatch_own hn (srAssigned_ne_dxfer ha), hv] at effect
  refine (exec_mfs ..).trans (h.act_own _ _ effect (Core.wr_shadows ..) ?notTbl rfl ?kept)
  case notTbl =>
    show (sr == 0x0A) = false
    rw [beq_eq_false_iff_ne]
    rintro rfl
    exact hn rfl
  case kept => exact Core.shadows_none ((Core.wr_shadows ..).trans h.shadows)

/-- MFS of TBL takes the timebase's low word to rd and latches the high word (R63); on the curator its value is a token (R343). -/
theorem Steady.mfs_tbl {s : State} {e : CoreId} (h : Steady s.chip e) (hk : s.chip.cores[e].km = true) (rd : GReg) :
    exec (.mfs e rd 0x0A) s = s.leaves ((s.chip.srTokens e 0x0A).onCore e fun c =>
      { ({ c with tbh := s.chip.dev.now.extractLsb' 32 32 } : Core).wr rd (s.chip.dev.now.extractLsb' 0 32) with
        off := c.off + 4, wait := .none, resumed := false, tblPair := true }) := by
  have effect : s.chip.effect e (ownCtx e s.chip.cores[e]) (.mfs rd 0x0A) 0
      = ((s.chip.srLatch e 0x0A).onCore e (·.wr rd (s.chip.dev.now.extractLsb' 0 32)), .go s.chip.cores[e].nextOff) :=
    h.mfs_effect hk rd rfl
  rw [Chip.srLatch_tbl, Chip.onCore_onCore] at effect
  rw [exec_mfs, h.act_retires _ _ effect ((h.srTokens_quiet 0x0A).onCore (Core.wr_shadows ..)), Chip.onCore_onCore]
  refine congrArg s.leaves (Chip.onCore_congr _ _ ?_)
  simp only [Chip.srTokens_cores]
  exact Core.retire_none (by rw [Core.wr_shadows]; exact h.shadows) _ _

/-- The word of a protection entry. -/
theorem Chip.srRead_region (s : Chip) (e : CoreId) (n : Fin 8) (k : Fin 3) :
    s.srRead e (BitVec.ofNat 8 (0x20 + k + 3 * n)).toNat = s.cores[e].regions[n].part k := by
  fin_cases n <;> fin_cases k <;> rfl

/-! ### MTS -/

@[simp] theorem Core.srWrite_shadows (c : Core) (n : Nat) (v : Word) : (c.srWrite n v).shadows = c.shadows := by
  unfold Core.srWrite
  split
  case h_8 => split <;> rfl
  all_goals rfl

/-- A protection entry has no shadow; a write of it changes one of its words (R60, R62). -/
theorem shadowOf_region (e : CoreId) (v : Word) (n : Fin 8) (k : Fin 3) : shadowOf e (BitVec.ofNat 8 (0x20 + k + 3 * n)).toNat v = none := by
  fin_cases n <;> fin_cases k <;> rfl

theorem Core.srWrite_region (c : Core) (v : Word) (n : Fin 8) (k : Fin 3) :
    c.srWrite (BitVec.ofNat 8 (0x20 + k + 3 * n)).toNat v = { c with regions := c.regions.set n (c.regions[n].setPart k v) } := by
  fin_cases n <;> fin_cases k <;> rfl

theorem ecauseStore_eq (v : Word) : ecauseStore v = (v &&& 0xC000FF00) ||| BitVec.ofNat 32 (min (v.toNat % 256) 0x1F) := by
  simp [ecauseStore, bits]

/-- MTS in kernel mode stores the word of its register (R60, R64). -/
theorem Chip.mts_effect {s : Chip} {e : CoreId} (hk : s.cores[e].km = true) (ra : GReg) {sr : BitVec 8}
    (ha : srAssigned false sr.toNat = true) (q : Quiet (s.srStore e sr.toNat (s.cores[e].rd ra) false) e) :
    s.effect e (ownCtx e s.cores[e]) (.mts sr ra) 0
      = (s.srStore e sr.toNat (s.cores[e].rd ra) false, .go s.cores[e].nextOff) := by
  rw [Chip.effect_sys rfl rfl rfl]
  show s.mts e _ sr ra = _
  unfold Chip.mts
  rw [srCause_kernel hk ha]
  dsimp only
  have fed : (ownCtx e s.cores[e]).fed = false := rfl
  rw [fed, q.retired_eq]
  rfl

/-- MTS to a register without a shadow writes its fields at once (R60, R62). -/
theorem Steady.mts_at_once {s : State} {e : CoreId} (h : Steady s.chip e) (hk : s.chip.cores[e].km = true) (ra : GReg) {sr : BitVec 8}
    (ha : srAssigned false sr.toNat = true) (hs : shadowOf e sr.toNat (s.chip.cores[e].rd ra) = none) :
    exec (.mts e sr ra) s = .next (s.went e (·.srWrite sr.toNat (s.chip.cores[e].rd ra)) Core.nextOff) := by
  have stored : s.chip.srStore e sr.toNat (s.chip.cores[e].rd ra) false
      = s.chip.onCore e (·.srWrite sr.toNat (s.chip.cores[e].rd ra)) := by
    unfold Chip.srStore
    rw [if_neg (srAssigned_ne_dxfer ha), hs]
  have effect := Chip.mts_effect hk ra ha (by rw [stored]; exact h.quiet.onCore (Core.srWrite_shadows ..))
  rw [stored] at effect
  exact (exec_mts ..).trans (h.act_own _ _ effect (Core.srWrite_shadows ..) rfl (congrArg Option.toList hs)
    (Core.shadows_none ((Core.srWrite_shadows ..).trans h.shadows)))

/-- MTS to a shadowed register leaves its write in the shadow (R64). -/
theorem Steady.mts_shadowed {s : State} {e : CoreId} (h : Steady s.chip e) (hk : s.chip.cores[e].km = true) (ra : GReg) {sr : BitVec 8}
    {w : Shadow} (ha : srAssigned false sr.toNat = true) (hs : shadowOf e sr.toNat (s.chip.cores[e].rd ra) = some w) :
    exec (.mts e sr ra) s = .next (s.went e (fun c => { c with shadows := [w] }) Core.nextOff) := by
  have stored : s.chip.srStore e sr.toNat (s.chip.cores[e].rd ra) false = s.chip := by
    unfold Chip.srStore
    rw [if_neg (srAssigned_ne_dxfer ha), hs]
    rfl
  have effect := Chip.mts_effect hk ra ha (by rw [stored]; exact h.quiet)
  have unchanged : s.chip.onCore e id = s.chip := Chip.onCore_same _ _ rfl
  rw [stored] at effect
  exact (exec_mts ..).trans (h.act_own _ _ (f := id) (by rw [unchanged]; exact effect) rfl rfl (congrArg Option.toList hs) rfl)

/-! ### The obligation -/

theorem engid_eq (e : CoreId) : engid e = if isCur e then 0x80180000
    else BitVec.ofNat 32 ((0x40 + e.val) * 0x10000 + e.val / 32 * 0x800 + e.val / 8 * 0x100 + e.val) := by
  unfold engid uidOf wingOf cabOf
  split
  · rfl
  · congr 1
    omega

/-- Settles O14: a register is read as the core holds it, TBL through its latch; a write changes its fields at once or waits in its shadow. -/
theorem systemRegisters : Obligations.SystemRegisters := by
  refine ⟨fun s e rd h hk => ?reads, fun s e ra h hk => ?writes, fun c v hc => ?shadow⟩
  case reads =>
    have own (sr : BitVec 8) (v : Core → Word) (ha : srAssigned false sr.toNat = true) (hn : sr.toNat ≠ 0x0A)
        (hv : s.chip.srRead e sr.toNat = v s.chip.cores[e]) := h.mfs_own hk rd ha hn hv
    refine ⟨own _ _ rfl (by decide) rfl, own _ _ rfl (by decide) rfl, own _ _ rfl (by decide) rfl, own _ _ rfl (by decide) rfl,
      own _ _ rfl (by decide) rfl, own _ _ rfl (by decide) rfl, own _ _ rfl (by decide) rfl, own _ _ rfl (by decide) rfl,
      own _ _ rfl (by decide) rfl, own _ _ rfl (by decide) (engid_eq e), h.mfs_tbl hk rd, own _ _ rfl (by decide) rfl,
      own _ _ rfl (by decide) rfl, fun n => ?regions⟩
    case regions =>
      have region (k : Fin 3) := own (BitVec.ofNat 8 (0x20 + k + 3 * n)) (fun c => c.regions[n].part k)
        (by revert n k; decide) (by revert n k; decide) (s.chip.srRead_region e n k)
      exact ⟨region 0, region 1, region 2⟩
  case writes =>
    intro v does
    have atOnce (n : Nat) (f : Core → Core) (ha : srAssigned false (BitVec.ofNat 8 n).toNat = true)
        (hs : shadowOf e (BitVec.ofNat 8 n).toNat v = none) (hf : ∀ c : Core, c.srWrite (BitVec.ofNat 8 n).toNat v = f c) : does n f :=
      (h.mts_at_once hk ra ha hs).trans (congrArg Host.Outcome.next (State.went_congr (hf _) rfl))
    have shadowed (n : Nat) (w : Shadow) (ha : srAssigned false (BitVec.ofNat 8 n).toNat = true)
        (hs : shadowOf e (BitVec.ofNat 8 n).toNat v = some w) : does n fun c => { c with shadows := [w] } := h.mts_shadowed hk ra ha hs
    have mode (he : isCur e = true) : shadowOf e 0x08 v = none := if_pos he
    have modeShadow (he : isCur e = false) : shadowOf e 0x08 v = some ⟨.mode, v.extractLsb' 0 8 &&& 7, 3⟩ := if_neg (by simp [he])
    refine ⟨atOnce 0x00 _ rfl rfl fun c => rfl, atOnce 0x01 _ rfl rfl fun c => rfl,
      atOnce 0x02 _ rfl rfl fun c => congrArg (fun x => { c with ecause := x }) (ecauseStore_eq v), atOnce 0x03 _ rfl rfl fun c => rfl,
      atOnce 0x04 _ rfl rfl fun c => rfl, shadowed 0x05 _ rfl rfl, shadowed 0x06 _ rfl rfl,
      atOnce 0x07 _ rfl rfl fun c => rfl, fun he => shadowed 0x08 _ rfl (modeShadow he), fun he => atOnce 0x08 _ rfl (mode he) fun c => rfl,
      atOnce 0x09 _ rfl rfl fun c => rfl, atOnce 0x0A _ rfl rfl fun c => rfl, atOnce 0x0B _ rfl rfl fun c => rfl,
      atOnce 0x0C _ rfl rfl fun c => rfl, fun n => ?regions⟩
    case regions =>
      have region (k : Fin 3) := atOnce (0x20 + k + 3 * n) (fun c => { c with regions := c.regions.set n (c.regions[n].setPart k v) })
        (by revert n k; decide) (shadowOf_region e v n k) (fun c => c.srWrite_region v n k)
      exact ⟨region 0, region 1, region 2⟩
  case shadow => exact ⟨rfl, rfl, Core.shadows_none (c := { c with db := v }) hc⟩

end Sys2Proof.Machine
end

section
/-! Exceptions of a core with nothing else due (R69, R74, R76, R107): an entry that meets no frame fault, the causes an instruction raises, and
an interrupt accepted before it (R71). -/

namespace Sys2Proof.Machine

variable {s : Chip} {e : CoreId}

/-! ### An entry -/

theorem Chip.sendOlder_empty (h : s.cores[e].sb = []) (o : Nat) : s.sendOlder e o = s := by
  unfold Chip.sendOlder
  exact if_pos (List.isEmpty_iff.mpr h)

@[simp] theorem Core.entered_df (c : Core) (ecause epc eval : Word) (pri : Option (BitVec 5)) : (c.entered ecause epc eval pri).df = c.df :=
  Core.wr_df ..

variable {sec : Bool} {ecause epc eval : Word} {pri : Option (BitVec 5)} {t : Chip}

/-- An entry without a frame fault leaves the new cause, the frame below sp and fetch at the vector slot (R74). -/
theorem Enters.enter_eq (h : Enters s e sec ecause epc eval pri t) :
    s.enter e ⟨ecause, epc, eval, pri, sec⟩ = t.onCore e (·.entered ecause epc eval pri) := by
  obtain ⟨r, w, pushed, fetched⟩ := h.pushed
  have core : (s.entering e).cores[e] = { s.cores[e] with resv := none, wait := .none, tblPair := false } := Chip.onCore_core ..
  have frame : (s.entering e).pushFrame e (s.entering e).cores[e].frameOff 0 (s.entering e).cores[e].frameWords = (r, true) := by
    rw [core]
    exact pushed
  have slot : (r.onCore e (·.entered ecause epc eval pri)).slotFetch e = t.onCore e (·.entered ecause epc eval pri) := by
    unfold Chip.slotFetch
    rw [Chip.onCore_core, fetched]
  have counted : (s.onCore e fun c => { c with resv := none, wait := .none, tblPair := false }).count e 21 1 = s.entering e :=
    Chip.count_off (s := s.entering e) h.counters _ _
  unfold Chip.enter
  simp only [Chip.sendOlder_empty h.drained.1, counted, h.checked, frame, if_true]
  rw [← slot]
  unfold Chip.vector
  simp only [Chip.onCore_onCore]
  rfl

/-- Such an entry tells the registrar of no frame fault. -/
theorem Enters.faultSeen_eq (h : Enters s e sec ecause epc eval pri t) (was : Bool) :
    (t.onCore e (·.entered ecause epc eval pri)).faultSeen e was = t.onCore e (·.entered ecause epc eval pri) := by
  unfold Chip.faultSeen
  rw [Chip.onCore_core, Core.entered_df, h.alive]
  rfl

/-! ### Synchronous causes -/

/-- Outside a write shadow an exception is entered with its cause alone (R66, R69). -/
theorem Chip.raise_eq (hs : s.cores[e].shadows = []) (k : Cause) (off : BitVec 24) :
    s.raise e k off eval sec = s.enter e ⟨causeWord false false k, s.cores[e].cb ++ (off &&& ~~~3#24), eval, none, sec⟩ := by
  have flushed : s.onCore e Core.shadowFlush = s := Chip.onCore_same _ _ (Core.shadowFlush_none hs)
  unfold Chip.raise
  simp only [flushed, hs]
  rfl

/-- An instruction that ends in a cause while no interrupt is offered enters its exception. -/
theorem Steady.act_raises {s : State} (h : Steady s.chip e) (ho : s.chip.offer e = none) {op : Op} {body : Word} {k : Cause} {off : BitVec 24}
    (he : s.chip.effect e (ownCtx e s.chip.cores[e]) op body = (s.chip, .trap k off eval)) (hc : causeWord false false k = ecause)
    (ht : Enters (s.chip.trapping e) e (s.chip.cores[e].secure e) ecause (s.chip.cores[e].cb ++ (off &&& ~~~3#24)) eval none t) :
    (s.act fun c => c.runOp e op body)
      = s.leaves (t.onCore e (·.entered ecause (s.chip.cores[e].cb ++ (off &&& ~~~3#24)) eval none)) := by
  have core : (s.chip.trapping e).cores[e] = { s.chip.cores[e] with resumed := false } := Chip.onCore_core ..
  have raised : (s.chip.trapping e).raise e k off eval (s.chip.cores[e].secure e)
      = t.onCore e (·.entered ecause (s.chip.cores[e].cb ++ (off &&& ~~~3#24)) eval none) := by
    rw [Chip.raise_eq (by rw [core]; exact h.shadows), hc, core]
    exact ht.enter_eq
  have ran := h.runOp_eq op body (.inr ho)
  rw [he] at ran
  refine congrArg s.leaves (ran.trans ?_)
  show ((s.chip.trapping e).raise e k off eval (s.chip.cores[e].secure e)).faultSeen e _ = _
  rw [raised, ht.faultSeen_eq]

/-- An encoding that is not assigned (R85). -/
theorem Chip.effect_illegal {op : Op} (hw : op.wf = false) (x : Ctx) (body : Word) :
    s.effect e x op body = (s, .trap .illegal s.cores[e].off op.encode) := by
  unfold Chip.effect
  rw [hw]
  rfl

/-- User mode may not name a kernel register (R60, R61). -/
theorem srCause_user {x : Ctx} {n : Nat} (hk : x.km = false) (ha : srAssigned x.fed n = true) (hu : srUser n = false) :
    srCause x n = some (.access 4) := by
  simp [srCause, hk, ha, hu]

/-! ### Interrupts -/

theorem Chip.acceptTokens_cores (s : Chip) (e : CoreId) (p n : Nat) : (s.acceptTokens e p n).cores = s.cores := s.tokens_cores e _

/-- An accepted interrupt is entered with its own priority at the next instruction not executed (R69, R362). -/
theorem Chip.enterInterrupt_eq {p n : Nat} (h : Enters ((s.onDev (·.accept e p n)).acceptTokens e p n) e (s.cores[e].secure e)
      (BitVec.ofNat 32 (0x10 + p)) (s.cores[e].cb ++ s.cores[e].off) (BitVec.ofNat 32 n) (some (BitVec.ofNat 5 p)) t) :
    s.enterInterrupt e p n
      = t.onCore e (·.entered (BitVec.ofNat 32 (0x10 + p)) (s.cores[e].cb ++ s.cores[e].off) (BitVec.ofNat 32 n) (some (BitVec.ofNat 5 p))) := by
  unfold Chip.enterInterrupt
  simp only [Chip.count_off h.counters, Chip.acceptTokens_cores, Chip.onDev_cores]
  exact h.enter_eq

/-- A steady core stands at a boundary, unless it stands between MFS TBL and MFS TBH (R63). -/
theorem Steady.boundary_eq (h : Steady s e) (hp : s.cores[e].tblPair = false) : s.boundary e = true := by
  unfold Chip.boundary Chip.tornPair Chip.waitOpen
  rw [h.shadows, hp, h.wait_eq]
  rfl

/-- A cause gives way to an interrupt that can be accepted before its instruction (R71). -/
theorem Steady.act_interrupted {s : State} (h : Steady s.chip e) (hp : s.chip.cores[e].tblPair = false) {p n : Nat}
    (ho : s.chip.offer e = some (p, n)) {op : Op} {body : Word} (hn : op.isRepn = false)
    (hr : (s.chip.effect e (ownCtx e s.chip.cores[e]) op body).2.traps = true)
    (ht : Enters ((s.chip.onDev (·.accept e p n)).acceptTokens e p n) e (s.chip.cores[e].secure e) (BitVec.ofNat 32 (0x10 + p))
      (s.chip.cores[e].cb ++ s.chip.cores[e].off) (BitVec.ofNat 32 n) (some (BitVec.ofNat 5 p)) t) :
    (s.act fun c => c.runOp e op body) = s.leaves (t.onCore e (·.entered (BitVec.ofNat 32 (0x10 + p))
      (s.chip.cores[e].cb ++ s.chip.cores[e].off) (BitVec.ofNat 32 n) (some (BitVec.ofNat 5 p)))) := by
  have before : s.chip.before e op = some (p, n) := by
    unfold Chip.before
    rw [h.boundary_eq hp, hn, ho]
    rfl
  have ran : s.chip.runOp e op body = (s.chip.enterInterrupt e p n).faultSeen e false := by
    unfold Chip.runOp
    rw [if_pos h.runs, Chip.fromBoundary_eq h.begin_eq h.impDue_eq h.drained_eq h.buffer_eq (Chip.fetchStop_off h.comparators op) h.halted_eq,
      h.attempt_eq]
    unfold Chip.decided
    simp only [hr, before, Bool.and_self, if_true]
  rw [Chip.enterInterrupt_eq ht, ht.faultSeen_eq] at ran
  exact congrArg s.leaves ran

end Sys2Proof.Machine
end

section
/-! The instructions that raise exceptions (R69, R74, R85, R87, R100, R107, R338): TRAP and BKPT, encodings that are not assigned, and accesses
that user mode may not make. -/

namespace Sys2Proof.Machine

variable {s : Chip} {e : CoreId}

/-- Pairs on g31 have no dot product (R87). -/
theorem dot_illegal {f : AluFn} (hu : f.unary = false) (hp : f.pairs = true) {rd ra rb : GReg} (h : ra = 31 ∨ rb = 31) :
    (Op.alu f rd ra rb).wf = false := by
  rcases h with rfl | rfl <;> simp [Op.wf, hu, hp]

/-- A post-increment load into its own base is not assigned (R100). -/
theorem increment_illegal (f : LdFn) (ra : GReg) (i : BitVec 12) : (Op.ldi f ra ra i).wf = false := by
  simp [Op.wf]

/-- An MFS or MTS that may not run traps with its cause (R60, R61). -/
theorem Chip.mfs_refused {x : Ctx} {rd : GReg} {sr : BitVec 8} {k : Cause} (hk : srCause x sr.toNat = some k) (body : Word) :
    s.effect e x (.mfs rd sr) body = (s, .trap k s.cores[e].off (Op.mfs rd sr).encode) := by
  rw [Chip.effect_sys rfl rfl rfl]
  show s.mfs e x rd sr = _
  unfold Chip.mfs
  rw [hk]

theorem Chip.mts_refused {x : Ctx} {sr : BitVec 8} {ra : GReg} {k : Cause} (hk : srCause x sr.toNat = some k) (body : Word) :
    s.effect e x (.mts sr ra) body = (s, .trap k s.cores[e].off (Op.mts sr ra).encode) := by
  rw [Chip.effect_sys rfl rfl rfl]
  show s.mts e x sr ra = _
  unfold Chip.mts
  rw [hk]

/-- RFE is for kernel mode (R77). -/
theorem Chip.rfe_user {x : Ctx} (hk : x.km = false) (body : Word) :
    s.effect e x .rfe body = (s, .trap (.access 4) s.cores[e].off Op.rfe.encode) := by
  rw [Chip.effect_sys rfl rfl rfl]
  exact if_neg (by rw [hk]; exact Bool.false_ne_true)

/-- The curator has no custom instructions (R338). -/
theorem Chip.cx_curator (he : isCur e = true) (slot : Fin 8) (rd ra rb : GReg) (i : BitVec 11) (x : Ctx) (body : Word) :
    s.effect e x (.cx slot rd ra rb i) body = (s, .trap .customEmpty s.cores[e].off (Op.cx slot rd ra rb i).encode) := by
  rw [Chip.effect_sys rfl rfl rfl]
  exact if_pos (by rw [he]; rfl)

theorem Chip.bkpt_effect (i : BitVec 16) (x : Ctx) (body : Word) :
    s.effect e x (.bkpt i) body = if s.dev.bkptHalts e then (s, .stop) else (s, .trap .brk s.cores[e].off (i.zeroExtend 32)) :=
  Chip.effect_sys rfl rfl rfl

/-- A core that halts keeps its place. -/
theorem Chip.halt_core (s : Chip) (e : CoreId) : (s.halt e).cores[e].halted = true ∧ (s.halt e).cores[e].off = s.cores[e].off := by
  unfold Chip.halt
  simp

/-- Settles O15: each instruction's effect is its cause, with the offset it returns to, and the entry is that of R74. -/
theorem exceptionsTaken : Obligations.ExceptionsTaken := by
  refine ⟨fun s e i t h ho => ?own, fun s e rd ra rb i t h ho => ?refused⟩
  case own =>
    intro c sec next
    have here : next 0 = c.cb ++ (c.off &&& ~~~3#24) := congrArg (fun o => c.cb ++ (o &&& ~~~3#24)) (BitVec.add_zero c.off)
    refine ⟨fun ht => ?trap, fun ht hb => ?bkpt, fun hb => ⟨?halts, s.chip.halt_core e⟩⟩
    case trap => exact h.act_raises ho (op := .trap i) (off := c.off + 4) (Chip.effect_sys rfl rfl rfl) rfl ht
    case bkpt =>
      rw [here] at ht ⊢
      exact h.act_raises ho (op := .bkpt i) (by rw [Chip.bkpt_effect, hb]; rfl) rfl ht
    case halts =>
      have effect : s.chip.effect e (ownCtx e c) (.bkpt i) 0 = (s.chip, .stop) := by rw [Chip.bkpt_effect, hb]; rfl
      have ran := h.runOp_eq (.bkpt i) 0 (.inl (by rw [effect]; rfl))
      rw [effect] at ran
      exact congrArg s.leaves ran
  case refused =>
    intro c here traps
    have raises (x : Instr) (k : Cause) (ecause : Word) (op : Op) (hx : exec x s = s.act fun c => c.runOp e op 0)
        (he : s.chip.effect e (ownCtx e c) op 0 = (s.chip, .trap k c.off op.encode)) (hc : causeWord false false k = ecause) :
        traps x ecause op := fun ht => hx.trans (h.act_raises ho he hc ht)
    have illegal (x : Instr) (op : Op) (hx : exec x s = s.act fun c => c.runOp e op 0) (hw : op.wf = false) : traps x 0x01 op :=
      raises x .illegal 0x01 op hx (Chip.effect_illegal hw _ _) rfl
    have dot (x : Instr) (f : AluFn) (hx : exec x s = s.act fun c => c.runOp e (.alu f rd ra rb) 0) (hu : f.unary = false)
        (hf : f.pairs = true) (hp : ra = 31 ∨ rb = 31) : traps x 0x01 (.alu f rd ra rb) := illegal x _ hx (dot_illegal hu hf hp)
    refine ⟨fun hp => ⟨dot _ .dot8 rfl rfl rfl hp, dot _ .dot8u rfl rfl rfl hp, dot _ .dot16 rfl rfl rfl hp⟩,
      illegal _ _ rfl (increment_illegal .w ra i), illegal _ _ rfl rfl, illegal _ _ rfl rfl,
      raises _ .illegal _ _ rfl (Chip.mfs_refused rfl 0) rfl, fun hk => ⟨?mfs, ?mts, ?rfe⟩,
      fun he => raises _ .customEmpty _ _ rfl (Chip.cx_curator he 0 rd ra rb 0 _ 0) rfl⟩
    case mfs => exact raises _ (.access 4) _ _ rfl (Chip.mfs_refused (srCause_user hk rfl rfl) 0) rfl
    case mts => exact raises _ (.access 4) _ _ rfl (Chip.mts_refused (srCause_user hk rfl rfl) 0) rfl
    case rfe => exact raises _ (.access 4) _ _ rfl (Chip.rfe_user hk 0) rfl

end Sys2Proof.Machine
end

section
/-! Reports and interrupts at a boundary (R71 to R73, R144, R163, R172, R362): an error reply that joins or is taken, a replay that a counter
shows, an interrupt that is accepted. -/

namespace Sys2Proof.Machine

open Reg

variable {s : Chip} {e : CoreId}

/-! ### Imprecise reports -/

theorem Steady.ready_eq (h : Steady s e) : s.ready e = true := by
  have := h.runs
  simp only [Chip.canRun, Bool.and_eq_true] at this
  exact this.1

/-- A core that does not wait has no wait to leave. -/
theorem Chip.unwait_none (h : s.cores[e].wait = .none) : s.unwait e = s := by
  unfold Chip.unwait
  rw [h]

/-- A reply on its way to a core becomes one that has arrived (R72). -/
def Core.replied (c : Core) (rest : List Word) (a : Word) : Core := { c with sbErr := rest, impErr := c.impErr ++ [a] }

/-- A core that is not at work takes no report. -/
theorem Chip.takeImprecise_idle (h : s.ready e = false) : s.takeImprecise e = s := by
  unfold Chip.takeImprecise
  rw [h]
  rfl

theorem Chip.storeError_cons {a : Word} {rest : List Word} (h : s.cores[e].sbErr = a :: rest) :
    s.storeError e = (s.onCore e (·.replied rest a)).takeImprecise e := by
  unfold Chip.storeError
  rw [h]
  rfl

/-- Whether a core is at work does not turn on the replies it has. -/
theorem Chip.ready_replied (rest : List Word) (a : Word) : (s.onCore e (·.replied rest a)).ready e = s.ready e := by
  unfold Chip.ready
  rw [Chip.onCore_core]
  rfl

theorem Chip.raiseImprecise_one {a : Word} (h : s.cores[e].impErr = [a]) :
    s.raiseImprecise e = (s.onCore e fun c => { c with impErr := [] }).enter e
      ⟨0x80000007, s.cores[e].cb ++ s.cores[e].off, a, none, s.cores[e].secure e⟩ := by
  unfold Chip.raiseImprecise
  rw [h]
  simp only [Chip.onCore_core]
  rfl

/-- A reply that arrives at a steady core outside a read of the timebase is due at once, and is reported (R72, R163). -/
theorem Steady.takes_reply (h : Steady s e) (hp : s.cores[e].tblPair = false) {a : Word} {t : Chip}
    (ht : Enters ((s.onCore e fun k => { k with sbErr := [], impErr := [] }).onDev (·.discard e)) e (s.cores[e].secure e)
      0x80000007 (s.cores[e].cb ++ s.cores[e].off) a none t) :
    (s.onCore e (·.replied [] a)).takeImprecise e = t.onCore e (·.entered 0x80000007 (s.cores[e].cb ++ s.cores[e].off) a none) := by
  have core : (s.onCore e (·.replied [] a)).cores[e] = s.cores[e].replied [] a := Chip.onCore_core ..
  have arrived : (s.cores[e].replied [] a).impErr = [a] := by
    show s.cores[e].impErr ++ [a] = [a]
    rw [h.replies, List.nil_append]
  have ready : (s.onCore e (·.replied [] a)).ready e = true := (Chip.ready_replied [] a).trans h.ready_eq
  have due : (s.onCore e (·.replied [] a)).impDue e = true := by
    unfold Chip.impDue Chip.tornPair
    rw [core, arrived]
    show (true && s.cores[e].shadows.isEmpty && !(s.cores[e].tblPair && _)) = true
    rw [h.shadows, hp]
    rfl
  have keepsOpen : (s.onCore e (·.replied [] a)).waitOpen e = true := by
    unfold Chip.waitOpen
    rw [core]
    show s.cores[e].wait.leavable = true
    rw [h.wait_eq]
    rfl
  have begins : (s.onCore e (·.replied [] a)).begin e = s.onCore e (·.replied [] a) := if_neg h.awake
  have unwaits : (s.onCore e (·.replied [] a)).unwait e = s.onCore e (·.replied [] a) :=
    Chip.unwait_none (by rw [core]; exact h.wait_eq)
  have taken : ((s.onCore e (·.replied [] a)).onDev (·.discard e)).onCore e (fun c => { c with impErr := [] })
      = (s.onCore e fun c => { c with sbErr := [], impErr := [] }).onDev (·.discard e) := by
    rw [Chip.onDev_onCore, Chip.onCore_onCore]
    rfl
  have raises : ((s.onCore e (·.replied [] a)).onDev (·.discard e)).raiseImprecise e
      = t.onCore e (·.entered 0x80000007 (s.cores[e].cb ++ s.cores[e].off) a none) := by
    have one := Chip.raiseImprecise_one (s := (s.onCore e (·.replied [] a)).onDev (·.discard e)) (e := e) (a := a)
      (by rw [Chip.onDev_cores, core, arrived])
    rw [taken, Chip.onDev_cores, core] at one
    exact one.trans ht.enter_eq
  unfold Chip.takeImprecise
  simp only [ready, due, keepsOpen, begins, unwaits, raises, Bool.and_self, if_true, ht.faultSeen_eq]

/-! ### Interrupts and replays -/

theorem Chip.offer_of_below {p n : Nat} (hw : s.dev.wouldOffer e = some (p, n)) (hi : s.cores[e].ie = true) (hp : p < s.cores[e].pri.toNat) :
    s.offer e = some (p, n) := by
  unfold Chip.offer
  rw [hw]
  exact if_pos (by rw [hi]; simpa using hp)

/-- An offer that a steady core can accept is entered (R73, R362). -/
theorem Steady.interrupt_eq (h : Steady s e) (hp : s.cores[e].tblPair = false) {p n : Nat} (ho : s.offer e = some (p, n)) {t : Chip}
    (ht : Enters (((s.onDev (·.discard e)).onDev (·.accept e p n)).acceptTokens e p n) e (s.cores[e].secure e) (BitVec.ofNat 32 (0x10 + p))
      (s.cores[e].cb ++ s.cores[e].off) (BitVec.ofNat 32 n) (some (BitVec.ofNat 5 p)) t) :
    s.interrupt e
      = t.onCore e (·.entered (BitVec.ofNat 32 (0x10 + p)) (s.cores[e].cb ++ s.cores[e].off) (BitVec.ofNat 32 n) (some (BitVec.ofNat 5 p))) := by
  have entered := Chip.enterInterrupt_eq (s := s.onDev (·.discard e)) ht
  unfold Chip.interrupt
  simp only [h.ready_eq, h.boundary_eq hp, h.impDue_eq, ho, h.begin_eq, Chip.unwait_none h.wait_eq]
  show ((s.onDev (·.discard e)).enterInterrupt e p n).faultSeen e false = _
  rw [entered]
  exact ht.faultSeen_eq false

theorem Chip.replay_counts (hw : s.ready e = true) (hd : s.cores[e].det = false) : s.replay e = s.count e 12 1 := by
  unfold Chip.replay
  rw [hw, hd]
  rfl

/-- A deterministic core replays nothing (R165). -/
theorem Chip.replay_det (hd : s.cores[e].det = true) : s.replay e = s := by
  unfold Chip.replay
  rw [hd, Bool.not_true, Bool.and_false]
  rfl

/-- A replay leaves a steady core as it was: its counters are off (R144). -/
theorem Steady.replay_eq (h : Steady s e) : s.replay e = s := by
  unfold Chip.replay
  rw [Chip.count_off h.counters, ite_self]

/-! ### Counted events -/

/-- The field that is a whole word. -/
theorem bits_whole (w : Word) : bits w 31 0 = w.toNat := by
  simp [bits]
  omega

theorem setBits_whole (w : Word) (v : Nat) : setBits w 31 0 v = BitVec.ofNat 32 v := by
  apply BitVec.eq_of_toNat_eq
  simp [setBits]
  omega

/-- Counter 0 of an engine, enabled and without a filter, counts the event it selects (R172, R173). -/
theorem Dev.pmCount1_selected {d : Dev} {k j ev : Nat} (km : Bool) (hen : d.get (CAB_PMCTL_EN k j) = 1) (hf : d.get (CAB_PMCTL_FILT k j) = 0)
    (hs : bits (d.word (CAB_PMSEL k j)) 7 0 = ev) (hn : d.word (CAB_PMCNT k j 0) ≠ 0xFFFFFFFF) :
    d.pmCount1 k j km ev 1 0 = d.setWord (CAB_PMCNT k j 0) (d.word (CAB_PMCNT k j 0) + 1) := by
  have below : (d.word (CAB_PMCNT k j 0)).toNat + 1 < 2 ^ 32 := by
    bv_omega
  have on : d.bit (CAB_PMCTL_EN k j) 0 = true := by
    simp [Dev.bit, hen]
  have counted : d.get ⟨CAB_PMCNT k j 0, 31, 0⟩ = (d.word (CAB_PMCNT k j 0)).toNat := bits_whole _
  unfold Dev.pmCount1
  simp only [on, hf, hs, counted, below, if_true, Nat.mul_zero, Nat.zero_add, beq_self_eq_true, Bool.and_self, Bool.true_or]
  unfold Dev.put
  rw [setBits_whole, BitVec.ofNat_add, BitVec.ofNat_toNat]
  simp

/-- A counter that is not enabled counts nothing. -/
theorem Dev.pmCount1_disabled {d : Dev} {k j c : Nat} (h : d.bit (CAB_PMCTL_EN k j) c = false) (km : Bool) (ev n : Nat) :
    d.pmCount1 k j km ev n c = d := by
  unfold Dev.pmCount1
  simp [h]

theorem pmcnt_ne_pmctl (k j : Nat) : CAB_PMCNT k j 0 ≠ CAB_PMCTL k j := by
  unfold CAB_PMCNT CAB_PMCTL
  omega

/-- Where counter 0 alone is enabled, and unfiltered, one event of its code raises it by one. -/
theorem Chip.count_first {k j : Fin 8} {ev : Nat} (hk : e.val = 8 * k + j) (he : isCur e = false) (hh : s.cores[e].halted = false)
    (hen : s.dev.get (CAB_PMCTL_EN k j) = 1) (hf : s.dev.get (CAB_PMCTL_FILT k j) = 0) (hs : bits (s.dev.word (CAB_PMSEL k j)) 7 0 = ev)
    (hn : s.dev.word (CAB_PMCNT k j 0) ≠ 0xFFFFFFFF) :
    s.count e ev 1 = s.onDev fun d => d.setWord (CAB_PMCNT k j 0) (d.word (CAB_PMCNT k j 0) + 1) := by
  have cab : cabOf e = k := by
    unfold cabOf
    omega
  have slot : slotOf e = j := by
    unfold slotOf
    omega
  have rest (c : Nat) (hc : c = 1 ∨ c = 2 ∨ c = 3) :
      (s.dev.setWord (CAB_PMCNT k j 0) (s.dev.word (CAB_PMCNT k j 0) + 1)).bit (CAB_PMCTL_EN k j) c = false := by
    unfold Dev.bit
    rw [Dev.get_setWord_of_ne (pmcnt_ne_pmctl k j), hen]
    rcases hc with rfl | rfl | rfl <;> rfl
  have counts : s.count e ev 1
      = s.onDev fun d => (List.range 4).foldl (fun d c => d.pmCount1 k j s.cores[e].km ev 1 c) d := by
    unfold Chip.count Chip.countIn
    rw [he, hh, cab, slot]
    exact if_neg Bool.false_ne_true
  rw [counts]
  refine congrArg (fun d : Dev => ({ s with dev := d } : Chip)) ?_
  show (((s.dev.pmCount1 k j _ ev 1 0).pmCount1 k j _ ev 1 1).pmCount1 k j _ ev 1 2).pmCount1 k j _ ev 1 3 = _
  rw [Dev.pmCount1_selected _ hen hf hs hn, Dev.pmCount1_disabled (rest 1 (by simp)), Dev.pmCount1_disabled (rest 2 (by simp)),
    Dev.pmCount1_disabled (rest 3 (by simp))]

theorem exec_storeErrorReply (e : CoreId) (s : State) : exec (.storeErrorReply e) s = s.act fun c => c.storeError e := by
  rfl

theorem exec_memoryOrderReplay (e : CoreId) (s : State) : exec (.memoryOrderReplay e) s = s.act fun c => c.replay e := by
  rfl

theorem exec_interruptAccept (e : CoreId) (s : State) : exec (.interruptAccept e) s = s.act fun c => c.interrupt e := by
  rfl

/-- Settles O20: what a reply, a replay and an offer do to a core at rest, each an entry that meets no frame fault where one is made. -/
theorem reportsAndInterrupts : Obligations.ReportsAndInterrupts := by
  intro s e a rest p n t calm c
  refine ⟨fun hr hw => ?joins, fun h hr _ hl hp ht => ?reported, fun hw hd => ?counted, fun h => ?unseen, fun hd => ?deterministic,
    fun x k j hk he hh hen hf hs hn => Chip.count_first hk he hh hen hf hs hn, fun h hp hw hi hl ht => ?accepted, fun i h hp ho ht => ?before⟩
  case joins =>
    have idle : (s.chip.onCore e (·.replied rest a)).ready e = false := (Chip.ready_replied rest a).trans hw
    have joined : s.chip.storeError e = s.chip.onCore e (·.replied rest a) :=
      (Chip.storeError_cons hr).trans (Chip.takeImprecise_idle idle)
    rw [exec_storeErrorReply, State.act_of_calm (by rw [joined]; exact calm), joined]
    rfl
  case reported =>
    subst hl
    exact (exec_storeErrorReply ..).trans (congrArg s.leaves ((Chip.storeError_cons hr).trans (h.takes_reply hp ht)))
  case counted => exact (exec_memoryOrderReplay ..).trans (congrArg s.leaves (Chip.replay_counts hw hd))
  case unseen => rw [exec_memoryOrderReplay, State.act_of_calm (by rw [h.replay_eq]; exact calm), h.replay_eq]
  case deterministic => exact (exec_memoryOrderReplay ..).trans (congrArg s.leaves (Chip.replay_det hd))
  case accepted => exact (exec_interruptAccept ..).trans (congrArg s.leaves (h.interrupt_eq hp (Chip.offer_of_below hw hi hl) ht))
  case before => exact h.act_interrupted hp ho (op := .trap i) rfl rfl ht

end Sys2Proof.Machine
end

section
/-! Return from exception (R77, R105, R107): the frame read in plain memory, and what the core is restored to. -/

namespace Sys2Proof.Machine

open Reg

variable {s : Chip} {e : CoreId}

/-! ### The frame read -/

/-- Plain memory does not turn on a core's reservation. -/
theorem Plain.unreserved {a n : Nat} (p : Plain s e a n) : Plain (s.onCore e fun c => { c with resv := none }) e a n := by
  refine ⟨p.array, p.inside, p.powered, p.clean, ?_, ?_, p.unwatched⟩
  · rw [Chip.onCore_core]
    exact p.uncached
  · rw [Chip.onCore_core]
    exact p.unbuffered

/-- A read of plain memory past the data cache finds its bytes and changes nothing (R86, R147). -/
theorem Chip.arrRead_plain {a n : Nat} (p : Plain s e a n) (hn : 1 ≤ n) (hn4 : n ≤ 4) :
    s.arrRead e a n = (s, .ok (BitVec.ofNat 32 (s.mem.bytesLE (canon e a) n))) := by
  have piece : ∀ k < n, ∀ m, s.memRead (canon e (a + k)) m = (s, .ok (BitVec.ofNat 32 (s.mem.bytesLE (canon e a + k) m))) := by
    intro k hk m
    have shifted := canon_add (e := e) (same_bank p.inside p.array hk)
    rw [Chip.memRead_clean m (by rw [shifted]; exact canon_low p.inside p.array hk) (p.powered k hk) (p.clean k hk), shifted]
  have first := piece 0 (by omega)
  have nothingAbove (w : Word) (m : Nat) : (w ||| ((0 : Word) <<< m)) = w := by simp
  simp only [Nat.add_zero] at first
  unfold Chip.arrRead pieces
  split
  case isTrue => simp only [Chip.readPieces, first, nothingAbove]
  case isFalse =>
    have second := piece (4 - a % 4) (by omega) (n - (4 - a % 4))
    have whole := s.mem.bytesLE_add (canon e a) (4 - a % 4) (n - (4 - a % 4))
    rw [show (4 - a % 4) + (n - (4 - a % 4)) = n by omega] at whole
    simp only [Chip.readPieces, first, second, nothingAbove]
    rw [joined (s.mem.bytesLE_lt _ _) (s.mem.bytesLE_lt _ _) (by omega), whole]

/-- The address of word i of the frame at a core's sp (R77). -/
def Core.frameSlot (c : Core) (i : Nat) : Nat := frameAddr c (c.sp.toNat % 0x1000000) i

/-- The word an array holds at word i of the frame at a core's sp. -/
def Chip.frameWord (s : Chip) (e : CoreId) (i : Nat) : Word := BitVec.ofNat 32 (s.mem.bytesLE (canon e (s.cores[e].frameSlot i)) 4)

/-- A frame word of an engine is read where its checks pass (R105). -/
theorem Chip.frameRead_plain (he : isCur e = false) (hc : isCur e = false → s.dev.get (CAB_PMCTL_EN (cabOf e) (slotOf e)) = 0) {sec : Bool}
    {i : Nat} (hf : frameCause e s.cores[e] sec .read (s.cores[e].frameSlot i) = none) (p : Plain s e (s.cores[e].frameSlot i) 4) :
    s.frameRead e sec i = (s, .ok (s.frameWord e i)) := by
  have read := Chip.arrRead_plain p (by decide) (by decide)
  unfold Core.frameSlot at hf read
  unfold Chip.frameRead Chip.atPort Chip.frameTokens
  simp only [hf, Chip.countPort_off hc, Chip.asks_off p.unwatched, read, Chip.tokens_engine he]
  rfl

/-! ### The return -/

/-- RFE without a tail chain, its frame of four words in plain memory (R77). -/
theorem Chip.rfe_plain {sec : Bool} (he : isCur e = false) (hs : s.cores[e].sb = [])
    (hc : isCur e = false → s.dev.get (CAB_PMCTL_EN (cabOf e) (slotOf e)) = 0)
    (hf : ∀ k < 4, frameCause e s.cores[e] sec .read (s.cores[e].frameSlot k) = none ∧ Plain s e (s.cores[e].frameSlot k) 4)
    (hr : (s.frameWord e 1).getLsbD 30 = false) (ht : s.dev.tailOffer e (s.frameWord e 1) = none) :
    s.rfe e sec = s.onCore e fun c => ({ c with resv := none } : Core).restore (s.frameWord e 0) (s.frameWord e 1) (s.frameWord e 2)
      (s.frameWord e 3) none := by
  have core : (s.onCore e fun c => { c with resv := none }).cores[e] = { s.cores[e] with resv := none } := Chip.onCore_core ..
  have word (k : Nat) (hk : k < 4) : (s.onCore e fun c => { c with resv := none }).frameRead e sec k
      = (s.onCore e fun c => { c with resv := none }, .ok (s.frameWord e k)) := by
    obtain ⟨allowed, plain⟩ := hf k hk
    have read := Chip.frameRead_plain (s := s.onCore e fun c => { c with resv := none }) (sec := sec) (i := k) he hc
    unfold Chip.frameWord at read
    rw [core] at read
    exact read allowed plain.unreserved
  unfold Chip.rfe
  simp only [Chip.sendOlder_empty hs, word 1 (by decide), Chip.onCore_dev, ht, hr, Chip.popFrame, word 0 (by decide), word 2 (by decide),
    word 3 (by decide), Bool.false_eq_true, if_false, List.append_nil, Chip.onCore_onCore]
  rfl

/-- What a frame of four words, whose STATUS has RX 0, restores of a core that does not wait (R62, R77). -/
theorem Core.restore_four {c : Core} {st : Word} (hw : c.wait = .none) (hr : st.getLsbD 30 = false) (epc ecause eval : Word) :
    { ({ c with resv := none } : Core).restore epc st ecause eval none with resumed := false, tblPair := false }
      = { c.wr 31 (c.sp + 16) with
          cb := c.epc.extractLsb' 24 8, off := c.epc.extractLsb' 0 24 &&& ~~~3#24
          epc := epc &&& 0xFFFFFFFC, ecause := ecauseStore ecause, eval := eval
          km := st.getLsbD 0, ie := st.getLsbD 1, pri := BitVec.ofNat 5 (min (st.toNat / 65536 % 32) 16), rx := false
          resv := none, wait := .none, resumed := false, tblPair := false } := by
  unfold Core.restore
  rw [hr, ← hw]
  rfl

/-- An instruction that has set its own place, on a quiet core without a frame fault. -/
theorem Quiet.conclude_entered {t : Chip} (q : Quiet t e) (hd : t.cores[e].df = false) (x : Ctx) (op : Op) (body : Word) (c : Core) :
    t.conclude e x op body c .entered = t.onCore e fun d => { d with resumed := false, tblPair := false } := by
  have q' : Quiet (t.onCore e fun d => { d with resumed := false, tblPair := false }) e := q.onCore rfl
  have alive : (t.onCore e fun d => { d with resumed := false, tblPair := false }).cores[e].df = false := by
    rw [Chip.onCore_core]
    exact hd
  unfold Chip.conclude
  simp only [alive, Bool.false_eq_true, if_false, q'.retired_eq, Chip.counted_none q'.shadows, Chip.traceFetch_off q'.comparators,
    Chip.haltEffect_off q'.halts]

theorem exec_rfe (e : CoreId) (s : State) : exec (.rfe e) s = s.act fun c => c.runOp e .rfe 0 := by
  rfl

theorem Steady.df_eq (h : Steady s e) : s.cores[e].df = false := by
  have := h.runs
  simp only [Chip.canRun, Chip.ready, Bool.and_eq_true, Bool.not_eq_true'] at this
  exact this.1.1.1.2

/-- Settles O16: the frame is read word by word, and the core restored from it goes on at rest. -/
theorem returnFromException : Obligations.ReturnFromException := by
  intro s e h hk hsb _ he c slot w w0 w1 w2 w3 hr ht hf
  have sec : s.chip.cores[e].secure e = false := by
    unfold Core.secure
    rw [he]
    rfl
  have restored := Chip.rfe_plain (sec := s.chip.cores[e].secure e) he hsb h.counters (by rw [sec]; exact hf) hr ht
  have effect : s.chip.effect e (ownCtx e s.chip.cores[e]) .rfe 0 = (s.chip.rfe e (s.chip.cores[e].secure e), .entered) := by
    rw [Chip.effect_sys rfl rfl rfl]
    exact if_pos hk
  have quiet : Quiet (s.chip.rfe e (s.chip.cores[e].secure e)) e := by
    rw [restored]
    exact h.quiet.onCore (Core.wr_shadows ..)
  have alive : (s.chip.rfe e (s.chip.cores[e].secure e)).cores[e].df = false := by
    rw [restored, Chip.onCore_core]
    exact (Core.wr_df ..).trans h.df_eq
  have ran := h.runOp_eq .rfe 0 (.inl (by rw [effect]; rfl))
  rw [effect, quiet.conclude_entered alive, restored, Chip.onCore_onCore] at ran
  refine (exec_rfe e s).trans ((congrArg s.leaves ran).trans ((h.leaves_onCore _).trans ?_))
  refine congrArg (fun u : Chip => Host.Outcome.next { s with chip := u }) (Chip.onCore_congr _ _ ?_)
  exact Core.restore_four h.wait_eq hr w0 w2 w3

end Sys2Proof.Machine
end

section
/-! The fields of an instruction word (R84), format by format: a word is of a format exactly where its fields are that format's. -/

namespace Sys2Proof.Machine

theorem toNat_append_eq {n m : Nat} (x : BitVec n) (y : BitVec m) : (x ++ y).toNat = x.toNat * 2 ^ m + y.toNat := by
  rw [BitVec.toNat_append, ← Nat.shiftLeft_add_eq_or_of_lt y.isLt, Nat.shiftLeft_eq]

@[simp] theorem rf_toNat (r : GReg) : (rf r).toNat = r.val := Nat.mod_eq_of_lt r.isLt

/-- A five-bit field is the number of the register it names. -/
theorem bits_eq_greg (w : Word) (lo : Nat) : bits w (lo + 4) lo = (greg (bits w (lo + 4) lo)).val := by
  have : bits w (lo + 4) lo < 32 := by
    unfold bits
    rw [Nat.add_sub_cancel_left]
    exact Nat.mod_lt _ (by decide)
  exact (Nat.mod_eq_of_lt this).symm

theorem greg_val (r : GReg) : greg r.val = r := Fin.ext (Nat.mod_eq_of_lt r.isLt)

section
variable {w : Word} {rd ra rb : GReg}

theorem wordR_iff {f : BitVec 6} : w = wordR rd ra rb f ↔
    bits w 31 29 = 0 ∧ bits w 28 24 = rd.val ∧ bits w 23 19 = ra.val ∧ bits w 18 14 = rb.val ∧ bits w 13 6 = 0 ∧ w.extractLsb' 0 6 = f := by
  simp only [← BitVec.toNat_inj, wordR, bits, toNat_append_eq, rf_toNat, BitVec.toNat_ofNat, BitVec.extractLsb'_toNat, Nat.shiftRight_zero]
  have := w.isLt
  omega

theorem wordI_iff {cls : BitVec 3} {op : BitVec 3} {i : BitVec 16} : w = wordI cls rd ra op i ↔
    bits w 31 29 = cls.toNat ∧ bits w 28 24 = rd.val ∧ bits w 23 19 = ra.val ∧ bits w 18 16 = op.toNat ∧ w.extractLsb' 0 16 = i := by
  simp only [← BitVec.toNat_inj, wordI, bits, toNat_append_eq, rf_toNat, BitVec.extractLsb'_toNat, Nat.shiftRight_zero]
  have := w.isLt
  omega

theorem wordL_iff {sub : Nat} (hs : sub < 32) {i : BitVec 12} : w = wordL rd ra sub i ↔
    bits w 31 29 = 3 ∧ bits w 28 24 = rd.val ∧ bits w 23 19 = ra.val ∧ bits w 18 14 = sub ∧ bits w 13 12 = 0 ∧ w.extractLsb' 0 12 = i := by
  simp only [← BitVec.toNat_inj, wordL, bits, toNat_append_eq, rf_toNat, BitVec.toNat_ofNat, BitVec.extractLsb'_toNat, Nat.shiftRight_zero]
  have := w.isLt
  omega

theorem wordA_iff {sub : Nat} (hs : sub < 32) : w = wordA rd ra sub rb ↔
    bits w 31 29 = 3 ∧ bits w 28 24 = rd.val ∧ bits w 23 19 = ra.val ∧ bits w 18 14 = sub ∧ bits w 13 9 = rb.val ∧ bits w 8 0 = 0 := by
  simp only [← BitVec.toNat_inj, wordA, bits, toNat_append_eq, rf_toNat, BitVec.toNat_ofNat]
  have := w.isLt
  omega

theorem wordB_iff {c : Nat} (hc : c < 16) {b : BitVec 5} {off : BitVec 15} : w = wordB c ra b off ↔
    bits w 31 29 = 4 ∧ bits w 28 25 = c ∧ bits w 24 20 = ra.val ∧ w.extractLsb' 15 5 = b ∧ w.extractLsb' 0 15 = off := by
  simp only [← BitVec.toNat_inj, wordB, bits, toNat_append_eq, rf_toNat, BitVec.toNat_ofNat, BitVec.extractLsb'_toNat, Nat.shiftRight_eq_div_pow]
  have := w.isLt
  omega

theorem wordJ_iff {op : Nat} (ho : op < 8) {off : BitVec 22} : w = wordJ op off ↔
    bits w 31 29 = 5 ∧ bits w 28 26 = op ∧ bits w 25 22 = 0 ∧ w.extractLsb' 0 22 = off := by
  simp only [← BitVec.toNat_inj, wordJ, bits, toNat_append_eq, BitVec.toNat_ofNat, BitVec.extractLsb'_toNat, Nat.shiftRight_zero]
  have := w.isLt
  omega

theorem wordJR_iff {op : Nat} (ho : op < 8) : w = wordJR op ra ↔
    bits w 31 29 = 5 ∧ bits w 28 26 = op ∧ bits w 25 21 = ra.val ∧ bits w 20 0 = 0 := by
  simp only [← BitVec.toNat_inj, wordJR, bits, toNat_append_eq, rf_toNat, BitVec.toNat_ofNat]
  have := w.isLt
  omega

theorem wordY_iff {sub : Nat} (hs : sub < 32) {lo : BitVec 24} : w = wordY sub lo ↔
    bits w 31 29 = 6 ∧ bits w 28 24 = sub ∧ bits w 23 0 = lo.toNat := by
  simp only [← BitVec.toNat_inj, wordY, bits, toNat_append_eq, BitVec.toNat_ofNat]
  have := w.isLt
  omega

theorem wordX_iff {s : Fin 8} {i : BitVec 11} : w = 7#3 ++ BitVec.ofNat 3 s.val ++ rf rd ++ rf ra ++ rf rb ++ i ↔
    bits w 31 29 = 7 ∧ bits w 28 26 = s.val ∧ bits w 25 21 = rd.val ∧ bits w 20 16 = ra.val ∧ bits w 15 11 = rb.val ∧ w.extractLsb' 0 11 = i := by
  simp only [← BitVec.toNat_inj, bits, toNat_append_eq, rf_toNat, BitVec.toNat_ofNat, BitVec.extractLsb'_toNat, Nat.shiftRight_zero]
  have := w.isLt
  omega
end

end Sys2Proof.Machine
end

section
/-! Instruction words and instructions (R84, R85, R87, R95 to R104, R109, R117, R121), class by class: the word that a class reads is that of
the instruction read, and an instruction is read back from its word. -/

namespace Sys2Proof.Machine

/-! ### Class 000 -/

theorem AluFn.ofCode_code (f : AluFn) : AluFn.ofCode f.code = some f := by cases f <;> rfl

theorem AluFn.code_ofCode {c : BitVec 6} {f : AluFn} (h : AluFn.ofCode c = some f) : c = f.code := by
  unfold AluFn.ofCode at h
  split at h <;> cases h
  all_goals exact BitVec.eq_of_toNat_eq ‹_›

/-- The operands R95 and R87 admit: no rb where the operation has one operand, no pair on g31. -/
theorem wf_alu_iff {f : AluFn} {rd ra rb : GReg} :
    (Op.alu f rd ra rb).wf = true ↔ (f.unary = true → rb = 0) ∧ (f.pairs = true → ra ≠ 31 ∧ rb ≠ 31) := by
  cases hu : f.unary <;> cases hp : f.pairs <;> simp [Op.wf, hu, hp]

theorem encode_alu {f : AluFn} {rd ra rb : GReg} (h : f.unary = true → rb = 0) :
    (Op.alu f rd ra rb).encode = wordR rd ra rb f.code := by
  show wordR rd ra (if f.unary then 0 else rb) f.code = _
  split
  next hu => rw [h hu]
  · rfl

theorem decode0_some {w : Word} {op : Op} (hc : bits w 31 29 = 0) (h : decode0 w = some op) : op.wf = true ∧ op.encode = w := by
  unfold decode0 at h
  split at h
  · cases h
  next reserved =>
    split at h
    · cases h
    next f code =>
      split_ifs at h with unary pairs
      obtain rfl := Option.some.inj h
      have one (hu : f.unary = true) : greg (bits w 18 14) = 0 := by
        simp only [hu, Bool.true_and, bne_iff_ne, ne_eq, not_not] at unary
        rw [unary]
        rfl
      have two (hp : f.pairs = true) : greg (bits w 23 19) ≠ 31 ∧ greg (bits w 18 14) ≠ 31 := by
        simp only [hp, Bool.true_and, Bool.or_eq_true, beq_iff_eq, not_or] at pairs
        rw [bits_eq_greg w 19, bits_eq_greg w 14] at pairs
        exact ⟨fun x => pairs.1 (congrArg Fin.val x), fun x => pairs.2 (congrArg Fin.val x)⟩
      refine ⟨wf_alu_iff.2 ⟨one, two⟩, (encode_alu one).trans (wordR_iff.2 ?_).symm⟩
      exact ⟨hc, bits_eq_greg w 24, bits_eq_greg w 19, bits_eq_greg w 14, not_not.1 reserved, AluFn.code_ofCode code⟩

theorem decode_alu {f : AluFn} {rd ra rb : GReg} (h : (Op.alu f rd ra rb).wf = true) :
    Op.decode (Op.alu f rd ra rb).encode = some (.alu f rd ra rb) := by
  obtain ⟨one, two⟩ := wf_alu_iff.1 h
  obtain ⟨hc, hd, ha, hb, hz, hf⟩ := wordR_iff.1 (encode_alu (rd := rd) (ra := ra) one)
  have unary : ¬ (f.unary && rb.val != 0) = true := by
    simp only [Bool.and_eq_true, bne_iff_ne, not_and, not_not]
    exact fun hu => congrArg Fin.val (one hu)
  have pairs : ¬ (f.pairs && (ra.val == 31 || rb.val == 31)) = true := by
    simp only [Bool.and_eq_true, Bool.or_eq_true, beq_iff_eq, not_and, not_or]
    exact fun hp => ⟨fun x => (two hp).1 (Fin.ext x), fun x => (two hp).2 (Fin.ext x)⟩
  unfold Op.decode decode0
  simp only [hc, hd, ha, hb, hz, hf, AluFn.ofCode_code, greg_val, ne_eq, not_true_eq_false, if_neg unary, if_neg pairs, if_false]

/-! ### Class 001 -/

theorem decode1_imm {w : Word} {f : ImmFn} (h : bits w 18 16 = f.code.toNat) :
    decode1 w = some (.imm f (greg (bits w 28 24)) (greg (bits w 23 19)) (w.extractLsb' 0 16)) := by
  unfold decode1
  cases f <;> · simp only [h]; rfl

theorem decode1_shi {w : Word} {f : ShiftFn} (h : bits w 18 16 = 7) (hz : bits w 12 5 = 0) (hf : bits w 15 13 = f.code.toNat) :
    decode1 w = some (.shi f (greg (bits w 28 24)) (greg (bits w 23 19)) (w.extractLsb' 0 5)) := by
  unfold decode1
  cases f <;> · simp only [h, hz, hf]; rfl

/-- The immediate of a shift: its kind, eight reserved bits and its count (R97). -/
theorem shift_fields {w : Word} {k : BitVec 3} {n : BitVec 5} :
    w.extractLsb' 0 16 = k ++ 0#8 ++ n ↔ bits w 15 13 = k.toNat ∧ bits w 12 5 = 0 ∧ w.extractLsb' 0 5 = n := by
  simp only [← BitVec.toNat_inj, bits, toNat_append_eq, BitVec.toNat_ofNat, BitVec.extractLsb'_toNat, Nat.shiftRight_zero]
  omega

theorem decode1_some {w : Word} {op : Op} (hc : bits w 31 29 = 1) (h : decode1 w = some op) : op.wf = true ∧ op.encode = w := by
  have imm {f : ImmFn} (hf : bits w 18 16 = f.code.toNat) :
      (Op.imm f (greg (bits w 28 24)) (greg (bits w 23 19)) (w.extractLsb' 0 16)).encode = w :=
    (wordI_iff.2 ⟨hc, bits_eq_greg w 24, bits_eq_greg w 19, hf, rfl⟩).symm
  have shi {f : ShiftFn} (h7 : bits w 18 16 = (7#3).toNat) (hz : bits w 12 5 = 0) (hf : bits w 15 13 = f.code.toNat) :
      (Op.shi f (greg (bits w 28 24)) (greg (bits w 23 19)) (w.extractLsb' 0 5)).encode = w :=
    (wordI_iff.2 ⟨hc, bits_eq_greg w 24, bits_eq_greg w 19, h7, shift_fields.2 ⟨hf, hz, rfl⟩⟩).symm
  unfold decode1 at h
  dsimp only at h
  split at h
  case h_8 =>
    have h7 : bits w 18 16 = 7 := by
      have : bits w 18 16 < 8 := bits_lt w 18 16
      simp only [imp_false] at *
      omega
    split at h
    · cases h
    next hz =>
      split at h <;> cases h
      all_goals exact ⟨rfl, shi h7 (not_not.1 hz) ‹_›⟩
  all_goals
    cases h
    exact ⟨rfl, imm ‹_›⟩

theorem decode_imm (f : ImmFn) (rd ra : GReg) (i : BitVec 16) : Op.decode (Op.imm f rd ra i).encode = some (.imm f rd ra i) := by
  obtain ⟨hc, hd, ha, hf, hi⟩ := wordI_iff.1 (rfl : (Op.imm f rd ra i).encode = _)
  unfold Op.decode
  simp only [hc, decode1_imm hf, hd, ha, hi, greg_val]
  rfl

theorem decode_shi (f : ShiftFn) (rd ra : GReg) (n : BitVec 5) : Op.decode (Op.shi f rd ra n).encode = some (.shi f rd ra n) := by
  obtain ⟨hc, hd, ha, h7, hi⟩ := wordI_iff.1 (rfl : (Op.shi f rd ra n).encode = _)
  obtain ⟨hf, hz, hn⟩ := shift_fields.1 hi
  unfold Op.decode
  simp only [hc, decode1_shi h7 hz hf, hd, ha, hn, greg_val]
  rfl

/-! ### Class 010 -/

theorem LdFn.ofCode_code (f : LdFn) : LdFn.ofCode f.code = some f := by cases f <;> rfl

theorem StFn.ofCode_code (f : StFn) : StFn.ofCode f.code = some f := by cases f <;> rfl

theorem LdFn.code_ofCode {n : Nat} {f : LdFn} (h : LdFn.ofCode n = some f) : n = f.code := by
  unfold LdFn.ofCode at h
  split at h <;> cases h
  all_goals rfl

theorem StFn.code_ofCode {n : Nat} {f : StFn} (h : StFn.ofCode n = some f) : n = f.code := by
  unfold StFn.ofCode at h
  split at h <;> cases h
  all_goals rfl

theorem LdFn.code_lt (f : LdFn) : f.code < 5 := by cases f <;> decide

/-- Store codes follow the load codes (R98). -/
theorem StFn.code_range (f : StFn) : 5 ≤ f.code ∧ f.code < 8 := by cases f <;> decide

theorem LdFn.ofCode_store (f : StFn) : LdFn.ofCode f.code = none := by cases f <;> rfl

theorem decode2_some {w : Word} {op : Op} (hc : bits w 31 29 = 2) (h : decode2 w = some op) : op.wf = true ∧ op.encode = w := by
  have fields {f : Nat} (hf : bits w 18 16 = f) :
      wordI 2 (greg (bits w 28 24)) (greg (bits w 23 19)) (BitVec.ofNat 3 f) (w.extractLsb' 0 16) = w := by
    have code : bits w 18 16 = (BitVec.ofNat 3 f).toNat := by
      rw [← hf]
      exact (Nat.mod_eq_of_lt (bits_lt w 18 16)).symm
    exact (wordI_iff.2 ⟨hc, bits_eq_greg w 24, bits_eq_greg w 19, code, rfl⟩).symm
  unfold decode2 at h
  split at h
  next code =>
    cases h
    exact ⟨rfl, fields (LdFn.code_ofCode code)⟩
  next code =>
    cases h
    exact ⟨rfl, fields (StFn.code_ofCode code)⟩
  · cases h

theorem decode_ld (f : LdFn) (rt b : GReg) (i : BitVec 16) : Op.decode (Op.ld f rt b i).encode = some (.ld f rt b i) := by
  obtain ⟨hc, hd, ha, hf, hi⟩ := wordI_iff.1 (rfl : (Op.ld f rt b i).encode = _)
  have code : bits (Op.ld f rt b i).encode 18 16 = f.code := hf.trans (Nat.mod_eq_of_lt (by have := f.code_lt; omega))
  unfold Op.decode decode2
  simp only [hc, code, hd, ha, hi, greg_val, LdFn.ofCode_code]
  rfl

theorem decode_st (f : StFn) (rt b : GReg) (i : BitVec 16) : Op.decode (Op.st f rt b i).encode = some (.st f rt b i) := by
  obtain ⟨hc, hd, ha, hf, hi⟩ := wordI_iff.1 (rfl : (Op.st f rt b i).encode = _)
  have code : bits (Op.st f rt b i).encode 18 16 = f.code := hf.trans (Nat.mod_eq_of_lt f.code_range.2)
  unfold Op.decode decode2
  simp only [hc, code, hd, ha, hi, greg_val, LdFn.ofCode_store, StFn.ofCode_code]
  rfl

/-! ### Class 011 -/

theorem ne_of_wf_ldi {f : LdFn} {rt ra : GReg} {i : BitVec 12} (h : (Op.ldi f rt ra i).wf = true) : rt ≠ ra := by
  simpa [Op.wf] using h

theorem decode3_some {w : Word} {op : Op} (hc : bits w 31 29 = 3) (h : decode3 w = some op) : op.wf = true ∧ op.encode = w := by
  have fiveBits : bits w 18 14 < 32 := bits_lt w 18 14
  have long {sub : Nat} (hs : bits w 18 14 = sub) (hz : bits w 13 12 = 0) :
      wordL (greg (bits w 28 24)) (greg (bits w 23 19)) sub (w.extractLsb' 0 12) = w :=
    ((wordL_iff (hs ▸ fiveBits)).2 ⟨hc, bits_eq_greg w 24, bits_eq_greg w 19, hs, hz, rfl⟩).symm
  have atomic {sub : Nat} (hs : bits w 18 14 = sub) (hz : bits w 8 0 = 0) :
      wordA (greg (bits w 28 24)) (greg (bits w 23 19)) sub (greg (bits w 13 9)) = w :=
    ((wordA_iff (hs ▸ fiveBits)).2 ⟨hc, bits_eq_greg w 24, bits_eq_greg w 19, hs, bits_eq_greg w 9, hz⟩).symm
  unfold decode3 at h
  dsimp only at h
  split at h
  next low =>
    split at h
    · cases h
    next hz =>
      have hz := not_not.1 hz
      split at h
      next f _ code =>
        have code := LdFn.code_ofCode code
        split_ifs at h with short own <;> cases h
        · exact ⟨by simpa [Op.wf] using own, long (by omega) hz⟩
        · exact ⟨rfl, long (by omega) hz⟩
      next f _ code =>
        have code := StFn.code_ofCode code
        split_ifs at h with short <;> cases h
        · exact ⟨rfl, long (by omega) hz⟩
        · exact ⟨rfl, long (by omega) hz⟩
      · cases h
  next high =>
    split at h
    · cases h
    next hz =>
      have hz := not_not.1 hz
      split at h
      case h_1 sub =>
        split at h
        · cases h
        next rb0 =>
          cases h
          have word := atomic sub hz
          rw [not_not.1 rb0] at word
          exact ⟨rfl, word⟩
      case h_9 => cases h
      all_goals
        cases h
        exact ⟨rfl, atomic ‹_› hz⟩


theorem decode_ldi {f : LdFn} {rt ra : GReg} (h : rt ≠ ra) (i : BitVec 12) : Op.decode (Op.ldi f rt ra i).encode = some (.ldi f rt ra i) := by
  have := f.code_lt
  obtain ⟨hc, hd, ha, hs, hz, hi⟩ := (wordL_iff (show f.code < 32 by omega)).1 (rfl : (Op.ldi f rt ra i).encode = _)
  unfold Op.decode decode3
  simp only [hc, hd, ha, hs, hz, hi, greg_val, Nat.mod_eq_of_lt (show f.code < 8 by omega), LdFn.ofCode_code,
    if_pos (show f.code < 16 by omega), if_pos (show f.code < 8 by omega), if_neg h, ne_eq, not_true_eq_false, if_false]

theorem decode_ldl (f : LdFn) (rt ra : GReg) (i : BitVec 12) : Op.decode (Op.ldl f rt ra i).encode = some (.ldl f rt ra i) := by
  have := f.code_lt
  obtain ⟨hc, hd, ha, hs, hz, hi⟩ := (wordL_iff (show 8 + f.code < 32 by omega)).1 (rfl : (Op.ldl f rt ra i).encode = _)
  unfold Op.decode decode3
  simp only [hc, hd, ha, hs, hz, hi, greg_val, show (8 + f.code) % 8 = f.code by omega, LdFn.ofCode_code,
    if_pos (show 8 + f.code < 16 by omega), if_neg (show ¬ 8 + f.code < 8 by omega), ne_eq, not_true_eq_false, if_false]

theorem decode_sti (f : StFn) (rt ra : GReg) (i : BitVec 12) : Op.decode (Op.sti f rt ra i).encode = some (.sti f rt ra i) := by
  have := f.code_range
  obtain ⟨hc, hd, ha, hs, hz, hi⟩ := (wordL_iff (show f.code < 32 by omega)).1 (rfl : (Op.sti f rt ra i).encode = _)
  unfold Op.decode decode3
  simp only [hc, hd, ha, hs, hz, hi, greg_val, Nat.mod_eq_of_lt (show f.code < 8 by omega), LdFn.ofCode_store, StFn.ofCode_code,
    if_pos (show f.code < 16 by omega), if_pos (show f.code < 8 by omega), ne_eq, not_true_eq_false, if_false]

theorem decode_stl (f : StFn) (rt ra : GReg) (i : BitVec 12) : Op.decode (Op.stl f rt ra i).encode = some (.stl f rt ra i) := by
  have := f.code_range
  obtain ⟨hc, hd, ha, hs, hz, hi⟩ := (wordL_iff (show 8 + f.code < 32 by omega)).1 (rfl : (Op.stl f rt ra i).encode = _)
  unfold Op.decode decode3
  simp only [hc, hd, ha, hs, hz, hi, greg_val, show (8 + f.code) % 8 = f.code by omega, LdFn.ofCode_store, StFn.ofCode_code,
    if_pos (show 8 + f.code < 16 by omega), if_neg (show ¬ 8 + f.code < 8 by omega), ne_eq, not_true_eq_false, if_false]

theorem decode_ll (rt ra : GReg) : Op.decode (Op.ll rt ra).encode = some (.ll rt ra) := by
  obtain ⟨hc, hd, ha, hs, hb, hz⟩ := (wordA_iff (by decide)).1 (rfl : (Op.ll rt ra).encode = _)
  unfold Op.decode decode3
  simp only [hc, hd, ha, hs, hb, hz, greg_val]
  rfl

theorem decode_sc (rt ra rb : GReg) : Op.decode (Op.sc rt ra rb).encode = some (.sc rt ra rb) := by
  obtain ⟨hc, hd, ha, hs, hb, hz⟩ := (wordA_iff (by decide)).1 (rfl : (Op.sc rt ra rb).encode = _)
  unfold Op.decode decode3
  simp only [hc, hd, ha, hs, hb, hz, greg_val]
  rfl

theorem AmoFn.code_lt (f : AmoFn) : f.code < 32 := by cases f <;> decide

theorem decode_amo (f : AmoFn) (rt ra rb : GReg) : Op.decode (Op.amo f rt ra rb).encode = some (.amo f rt ra rb) := by
  obtain ⟨hc, hd, ha, hs, hb, hz⟩ := (wordA_iff f.code_lt).1 (rfl : (Op.amo f rt ra rb).encode = _)
  unfold Op.decode decode3
  simp only [hc, hd, ha, hs, hb, hz, greg_val]
  cases f <;> rfl

/-! ### Class 100 -/

theorem Cond.code_lt (c : Cond) : c.code < 6 := by cases c <;> decide

theorem decode4_some {w : Word} {op : Op} (hc : bits w 31 29 = 4) (h : decode4 w = some op) : op.wf = true ∧ op.encode = w := by
  have fourBits : bits w 28 25 < 16 := bits_lt w 28 25
  have imm {c : Nat} (hk : bits w 28 25 = c) :
      wordB c (greg (bits w 24 20)) (w.extractLsb' 15 5) (w.extractLsb' 0 15) = w :=
    ((wordB_iff (hk ▸ fourBits)).2 ⟨hc, hk, bits_eq_greg w 20, rfl, rfl⟩).symm
  have second : rf (greg (bits w 19 15)) = w.extractLsb' 15 5 := by
    apply BitVec.eq_of_toNat_eq
    rw [rf_toNat, ← bits_eq_greg w 15, BitVec.extractLsb'_toNat, Nat.shiftRight_eq_div_pow]
    rfl
  have reg {c : Nat} (hk : bits w 28 25 = c) :
      wordB c (greg (bits w 24 20)) (rf (greg (bits w 19 15))) (w.extractLsb' 0 15) = w := by
    rw [second]
    exact imm hk
  unfold decode4 at h
  dsimp only at h
  split at h <;> cases h
  case h_1 | h_2 | h_3 | h_4 | h_5 | h_6 => exact ⟨rfl, reg ‹_›⟩
  case h_7 | h_8 | h_9 | h_10 => exact ⟨rfl, imm ‹_›⟩

theorem decode_br (c : Cond) (ra rb : GReg) (off : BitVec 15) : Op.decode (Op.br c ra rb off).encode = some (.br c ra rb off) := by
  obtain ⟨hc, hk, ha, hb, ho⟩ := (wordB_iff (show c.code < 16 by have := c.code_lt; omega)).1 (rfl : (Op.br c ra rb off).encode = _)
  have rb_field : bits (Op.br c ra rb off).encode 19 15 = rb.val := by
    have := congrArg BitVec.toNat hb
    rwa [rf_toNat, BitVec.extractLsb'_toNat, Nat.shiftRight_eq_div_pow] at this
  unfold Op.decode decode4
  simp only [hc, hk, ha, rb_field, ho, greg_val]
  cases c <;> rfl

theorem decode_bri (c : Fin 4) (ra : GReg) (i : BitVec 5) (off : BitVec 15) : Op.decode (Op.bri c ra i off).encode = some (.bri c ra i off) := by
  obtain ⟨hc, hk, ha, hb, ho⟩ := (wordB_iff (show 8 + c.val < 16 by omega)).1 (rfl : (Op.bri c ra i off).encode = _)
  unfold Op.decode decode4
  simp only [hc, hk, ha, hb, ho, greg_val]
  fin_cases c <;> rfl

/-! ### Class 101 -/

theorem decode5_some {w : Word} {op : Op} (hc : bits w 31 29 = 5) (h : decode5 w = some op) : op.wf = true ∧ op.encode = w := by
  have threeBits : bits w 28 26 < 8 := bits_lt w 28 26
  have jump {k : Nat} (hk : bits w 28 26 = k) (hz : ¬ bits w 25 22 ≠ 0) : wordJ k (w.extractLsb' 0 22) = w :=
    ((wordJ_iff (hk ▸ threeBits)).2 ⟨hc, hk, not_not.1 hz, rfl⟩).symm
  have reg {k : Nat} {ra : GReg} (hk : bits w 28 26 = k) (ha : bits w 25 21 = ra.val) (hz : ¬ bits w 20 0 ≠ 0) : wordJR k ra = w :=
    ((wordJR_iff (hk ▸ threeBits)).2 ⟨hc, hk, ha, not_not.1 hz⟩).symm
  have ret (hk : bits w 28 26 = 4) (hz : bits w 25 0 = 0) : wordJR 4 0 = w := by
    have parts : bits w 25 21 = 0 ∧ bits w 20 0 = 0 := by
      unfold bits at hz ⊢
      omega
    exact reg hk parts.1 (not_not.2 parts.2)
  unfold decode5 at h
  split at h
  case h_6 => cases h
  all_goals split_ifs at h with hz; cases h
  · exact ⟨rfl, jump ‹_› hz⟩
  · exact ⟨rfl, jump ‹_› hz⟩
  · exact ⟨rfl, reg ‹_› (bits_eq_greg w 21) hz⟩
  · exact ⟨rfl, reg ‹_› (bits_eq_greg w 21) hz⟩
  · exact ⟨rfl, ret ‹_› (not_not.1 hz)⟩

theorem decode_jmp (off : BitVec 22) : Op.decode (Op.jmp off).encode = some (.jmp off) := by
  obtain ⟨hc, hk, hz, ho⟩ := (wordJ_iff (by decide)).1 (rfl : (Op.jmp off).encode = _)
  unfold Op.decode decode5
  simp only [hc, hk, hz, ho]
  rfl

theorem decode_call (off : BitVec 22) : Op.decode (Op.call off).encode = some (.call off) := by
  obtain ⟨hc, hk, hz, ho⟩ := (wordJ_iff (by decide)).1 (rfl : (Op.call off).encode = _)
  unfold Op.decode decode5
  simp only [hc, hk, hz, ho]
  rfl

theorem decode_jmpr (ra : GReg) : Op.decode (Op.jmpr ra).encode = some (.jmpr ra) := by
  obtain ⟨hc, hk, ha, hz⟩ := (wordJR_iff (by decide)).1 (rfl : (Op.jmpr ra).encode = _)
  unfold Op.decode decode5
  simp only [hc, hk, ha, hz, greg_val]
  rfl

theorem decode_callr (ra : GReg) : Op.decode (Op.callr ra).encode = some (.callr ra) := by
  obtain ⟨hc, hk, ha, hz⟩ := (wordJR_iff (by decide)).1 (rfl : (Op.callr ra).encode = _)
  unfold Op.decode decode5
  simp only [hc, hk, ha, hz, greg_val]
  rfl

theorem decode_ret : Op.decode Op.ret.encode = some .ret := by decide

/-! ### Class 110: the fields of each instruction -/

section
variable {w : Word} {rd ra : GReg} {sub : Nat}

/-- No operand: RFE, the fences, WFE. -/
theorem wordY_bare_iff (hs : sub < 32) : w = wordY sub 0 ↔ bits w 31 29 = 6 ∧ bits w 28 24 = sub ∧ bits w 23 0 = 0 := wordY_iff hs

/-- MFS and MTS. -/
theorem wordY_sysReg_iff (hs : sub < 32) {sr : BitVec 8} : w = wordY sub (rf rd ++ 0#11 ++ sr) ↔
    bits w 31 29 = 6 ∧ bits w 28 24 = sub ∧ bits w 23 19 = rd.val ∧ bits w 18 8 = 0 ∧ w.extractLsb' 0 8 = sr := by
  rw [wordY_iff hs]
  simp only [← BitVec.toNat_inj, bits, toNat_append_eq, rf_toNat, BitVec.toNat_ofNat, BitVec.extractLsb'_toNat, Nat.shiftRight_zero]
  omega

/-- TRAP, BKPT, and REPI with its count. -/
theorem wordY_imm_iff (hs : sub < 32) {i : BitVec 16} : w = wordY sub (0#8 ++ i) ↔
    bits w 31 29 = 6 ∧ bits w 28 24 = sub ∧ bits w 23 16 = 0 ∧ w.extractLsb' 0 16 = i := by
  rw [wordY_iff hs]
  simp only [← BitVec.toNat_inj, bits, toNat_append_eq, BitVec.toNat_ofNat, BitVec.extractLsb'_toNat, Nat.shiftRight_zero]
  omega

theorem wordY_inval_iff {sel : BitVec 2} : w = (Op.inval ra sel).encode ↔
    bits w 31 29 = 6 ∧ bits w 28 24 = 0x07 ∧ bits w 23 19 = ra.val ∧ bits w 18 2 = 0 ∧ w.extractLsb' 0 2 = sel := by
  show w = wordY _ _ ↔ _
  rw [wordY_iff (by decide)]
  simp only [← BitVec.toNat_inj, bits, toNat_append_eq, rf_toNat, BitVec.toNat_ofNat, BitVec.extractLsb'_toNat, Nat.shiftRight_zero]
  omega

theorem wordY_flush_iff : w = (Op.flush ra).encode ↔
    bits w 31 29 = 6 ∧ bits w 28 24 = 0x08 ∧ bits w 23 19 = ra.val ∧ bits w 18 0 = 0 := by
  show w = wordY _ _ ↔ _
  rw [wordY_iff (by decide)]
  simp only [bits, toNat_append_eq, rf_toNat, BitVec.toNat_ofNat]
  omega

theorem wordY_sev_iff {scope : BitVec 3} {target : BitVec 6} : w = (Op.sev scope target).encode ↔
    bits w 31 29 = 6 ∧ bits w 28 24 = 0x0A ∧ w.extractLsb' 21 3 = scope ∧ bits w 20 20 = 0 ∧ bits w 19 6 = 0 ∧ w.extractLsb' 0 6 = target := by
  show w = wordY _ _ ↔ _
  rw [wordY_iff (by decide)]
  simp only [← BitVec.toNat_inj, bits, toNat_append_eq, BitVec.toNat_ofNat, BitVec.extractLsb'_toNat, Nat.shiftRight_eq_div_pow]
  omega

theorem wordY_sevr_iff {scope : BitVec 3} : w = (Op.sevr scope ra).encode ↔
    bits w 31 29 = 6 ∧ bits w 28 24 = 0x0A ∧ w.extractLsb' 21 3 = scope ∧ bits w 20 20 = 1 ∧ bits w 19 15 = ra.val ∧ bits w 14 0 = 0 := by
  show w = wordY _ _ ↔ _
  rw [wordY_iff (by decide)]
  simp only [← BitVec.toNat_inj, bits, toNat_append_eq, rf_toNat, BitVec.toNat_ofNat, BitVec.extractLsb'_toNat, Nat.shiftRight_eq_div_pow]
  omega

theorem wordY_waitt_iff : w = (Op.waitt rd ra).encode ↔
    bits w 31 29 = 6 ∧ bits w 28 24 = 0x0B ∧ bits w 23 19 = rd.val ∧ bits w 18 14 = ra.val ∧ bits w 13 0 = 0 := by
  show w = wordY _ _ ↔ _
  rw [wordY_iff (by decide)]
  simp only [bits, toNat_append_eq, rf_toNat, BitVec.toNat_ofNat]
  omega

theorem wordY_repn_iff {n : BitVec 5} : w = (Op.repn n).encode ↔
    bits w 31 29 = 6 ∧ bits w 28 24 = 0x0C ∧ bits w 23 5 = 0 ∧ w.extractLsb' 0 5 = n := by
  show w = wordY _ _ ↔ _
  rw [wordY_iff (by decide)]
  simp only [← BitVec.toNat_inj, bits, toNat_append_eq, BitVec.toNat_ofNat, BitVec.extractLsb'_toNat, Nat.shiftRight_zero]
  omega

theorem wordY_repr_iff : w = (Op.repr ra).encode ↔
    bits w 31 29 = 6 ∧ bits w 28 24 = 0x0D ∧ bits w 23 19 = ra.val ∧ bits w 18 17 = 0 ∧ bits w 16 16 = 1 ∧ bits w 15 0 = 0 := by
  show w = wordY _ _ ↔ _
  rw [wordY_iff (by decide)]
  simp only [bits, toNat_append_eq, rf_toNat, BitVec.toNat_ofNat]
  omega

/-- The upper byte of a system instruction's operands, as REPI reads it. -/
theorem repi_fields : bits w 23 16 = 0 ↔ bits w 23 19 = 0 ∧ bits w 18 17 = 0 ∧ bits w 16 16 = 0 := by
  unfold bits
  omega

end

theorem inval_sel {w : Word} : w.extractLsb' 0 2 = 0 ↔ bits w 1 0 = 0 := by
  rw [← BitVec.toNat_inj, BitVec.extractLsb'_toNat, Nat.shiftRight_zero, bits, Nat.pow_zero, Nat.div_one]
  rfl

theorem bit_set {w : Word} {i : Nat} (h : ¬ bits w i i = 0) : bits w i i = 1 := by
  have : bits w i i < 2 := by simpa using bits_lt w i i
  omega

theorem waitt_reg {w : Word} {rd : GReg} : (Op.waitt rd (greg (bits w 18 14))).wf = true ↔ ¬ bits w 18 14 = 31 := by
  show (greg (bits w 18 14) != 31) = true ↔ _
  rw [bne_iff_ne, ne_eq, Fin.ext_iff, ← bits_eq_greg w 14]
  rfl

/-! ### Class 110 -/

theorem decode6_some {w : Word} {op : Op} (hc : bits w 31 29 = 6) (h : decode6 w = some op) : op.wf = true ∧ op.encode = w := by
  unfold decode6 at h
  dsimp only at h
  split at h
  case h_15 => cases h
  all_goals split_ifs at h
  all_goals cases h
  all_goals simp only [Bool.and_eq_true, beq_iff_eq, bne_iff_ne, ne_eq, not_not] at *
  next hs hz => exact ⟨rfl, ((wordY_sysReg_iff (by decide)).2 ⟨hc, hs, bits_eq_greg w 19, hz, rfl⟩).symm⟩
  next hs hz => exact ⟨rfl, ((wordY_sysReg_iff (by decide)).2 ⟨hc, hs, bits_eq_greg w 19, hz, rfl⟩).symm⟩
  next hs hz => exact ⟨rfl, ((wordY_imm_iff (by decide)).2 ⟨hc, hs, hz, rfl⟩).symm⟩
  next hs hz => exact ⟨rfl, ((wordY_imm_iff (by decide)).2 ⟨hc, hs, hz, rfl⟩).symm⟩
  next hs hz => exact ⟨rfl, ((wordY_bare_iff (by decide)).2 ⟨hc, hs, hz⟩).symm⟩
  next hs hz => exact ⟨rfl, ((wordY_bare_iff (by decide)).2 ⟨hc, hs, hz⟩).symm⟩
  next hs hz => exact ⟨rfl, ((wordY_bare_iff (by decide)).2 ⟨hc, hs, hz⟩).symm⟩
  next hs hz => exact ⟨bne_iff_ne.2 (fun x => hz.2 (inval_sel.1 x)), (wordY_inval_iff.2 ⟨hc, hs, bits_eq_greg w 19, hz.1, rfl⟩).symm⟩
  next hs hz => exact ⟨rfl, (wordY_flush_iff.2 ⟨hc, hs, bits_eq_greg w 19, hz⟩).symm⟩
  next hs hz => exact ⟨rfl, ((wordY_bare_iff (by decide)).2 ⟨hc, hs, hz⟩).symm⟩
  next hs rg hz => exact ⟨hz.2, (wordY_sev_iff.2 ⟨hc, hs, rfl, rg, hz.1, rfl⟩).symm⟩
  next hs rg hz => exact ⟨hz.2, (wordY_sevr_iff.2 ⟨hc, hs, rfl, bit_set rg, bits_eq_greg w 15, hz.1⟩).symm⟩
  next hs hz => exact ⟨waitt_reg.2 hz.2, (wordY_waitt_iff.2 ⟨hc, hs, bits_eq_greg w 19, bits_eq_greg w 14, hz.1⟩).symm⟩
  next hs hz => exact ⟨rfl, (wordY_repn_iff.2 ⟨hc, hs, hz, rfl⟩).symm⟩
  next hs rg reserved hz => exact ⟨rfl, ((wordY_imm_iff (by decide)).2 ⟨hc, hs, repi_fields.2 ⟨hz, reserved, rg⟩, rfl⟩).symm⟩
  next hs rg reserved hz => exact ⟨rfl, (wordY_repr_iff.2 ⟨hc, hs, bits_eq_greg w 19, reserved, bit_set rg, hz⟩).symm⟩

section
variable (rd ra : GReg)

theorem decode_mfs (sr : BitVec 8) : Op.decode (Op.mfs rd sr).encode = some (.mfs rd sr) := by
  obtain ⟨hc, hs, hd, hz, hsr⟩ := (wordY_sysReg_iff (by decide)).1 (rfl : (Op.mfs rd sr).encode = _)
  unfold Op.decode decode6
  simp only [hc, hs, hd, hz, hsr, greg_val]
  rfl

theorem decode_mts (sr : BitVec 8) : Op.decode (Op.mts sr ra).encode = some (.mts sr ra) := by
  obtain ⟨hc, hs, ha, hz, hsr⟩ := (wordY_sysReg_iff (by decide)).1 (rfl : (Op.mts sr ra).encode = _)
  unfold Op.decode decode6
  simp only [hc, hs, ha, hz, hsr, greg_val]
  rfl

theorem decode_trap (i : BitVec 16) : Op.decode (Op.trap i).encode = some (.trap i) := by
  obtain ⟨hc, hs, hz, hi⟩ := (wordY_imm_iff (by decide)).1 (rfl : (Op.trap i).encode = _)
  unfold Op.decode decode6
  simp only [hc, hs, hz, hi]
  rfl

theorem decode_bkpt (i : BitVec 16) : Op.decode (Op.bkpt i).encode = some (.bkpt i) := by
  obtain ⟨hc, hs, hz, hi⟩ := (wordY_imm_iff (by decide)).1 (rfl : (Op.bkpt i).encode = _)
  unfold Op.decode decode6
  simp only [hc, hs, hz, hi]
  rfl

theorem decode_inval {sel : BitVec 2} (h : (Op.inval ra sel).wf = true) : Op.decode (Op.inval ra sel).encode = some (.inval ra sel) := by
  obtain ⟨hc, hs, ha, hz, hsel⟩ := wordY_inval_iff.1 (rfl : (Op.inval ra sel).encode = _)
  have low : bits (Op.inval ra sel).encode 1 0 ≠ 0 := fun x => (bne_iff_ne.1 h) (hsel.symm.trans (inval_sel.2 x))
  unfold Op.decode decode6
  simp only [hc, hs, ha, hz, hsel, bne_iff_ne.2 low, greg_val]
  rfl

theorem decode_flush : Op.decode (Op.flush ra).encode = some (.flush ra) := by
  obtain ⟨hc, hs, ha, hz⟩ := wordY_flush_iff.1 (rfl : (Op.flush ra).encode = _)
  unfold Op.decode decode6
  simp only [hc, hs, ha, hz, greg_val]
  rfl

theorem decode_sev {scope : BitVec 3} {target : BitVec 6} (h : (Op.sev scope target).wf = true) :
    Op.decode (Op.sev scope target).encode = some (.sev scope target) := by
  obtain ⟨hc, hs, hscope, rg, hz, ht⟩ := wordY_sev_iff.1 (rfl : (Op.sev scope target).encode = _)
  have ok : sevOk scope target = true := h
  unfold Op.decode decode6
  simp only [hc, hs, hscope, rg, hz, ht, ok]
  rfl

theorem decode_sevr {scope : BitVec 3} (h : (Op.sevr scope ra).wf = true) :
    Op.decode (Op.sevr scope ra).encode = some (.sevr scope ra) := by
  obtain ⟨hc, hs, hscope, rg, ha, hz⟩ := wordY_sevr_iff.1 (rfl : (Op.sevr scope ra).encode = _)
  have ok : scope.ult 5 = true := h
  unfold Op.decode decode6
  simp only [hc, hs, hscope, rg, ha, hz, ok, greg_val]
  rfl

theorem decode_waitt (h : (Op.waitt rd ra).wf = true) : Op.decode (Op.waitt rd ra).encode = some (.waitt rd ra) := by
  obtain ⟨hc, hs, hd, ha, hz⟩ := wordY_waitt_iff.1 (rfl : (Op.waitt rd ra).encode = _)
  have pair : (ra.val != 31) = true := bne_iff_ne.2 fun x => bne_iff_ne.1 h (Fin.ext x)
  unfold Op.decode decode6
  simp only [hc, hs, hd, ha, hz, pair, greg_val]
  rfl

theorem decode_repn (n : BitVec 5) : Op.decode (Op.repn n).encode = some (.repn n) := by
  obtain ⟨hc, hs, hz, hn⟩ := wordY_repn_iff.1 (rfl : (Op.repn n).encode = _)
  unfold Op.decode decode6
  simp only [hc, hs, hz, hn]
  rfl

theorem decode_repi (n : BitVec 16) : Op.decode (Op.repi n).encode = some (.repi n) := by
  obtain ⟨hc, hs, hz, hn⟩ := (wordY_imm_iff (by decide)).1 (rfl : (Op.repi n).encode = _)
  obtain ⟨high, reserved, rg⟩ := repi_fields.1 hz
  unfold Op.decode decode6
  simp only [hc, hs, high, reserved, rg, hn]
  rfl

theorem decode_repr : Op.decode (Op.repr ra).encode = some (.repr ra) := by
  obtain ⟨hc, hs, ha, reserved, rg, hz⟩ := wordY_repr_iff.1 (rfl : (Op.repr ra).encode = _)
  unfold Op.decode decode6
  simp only [hc, hs, ha, reserved, rg, hz, greg_val]
  rfl

end

/-! ### All classes -/

theorem decode_cx (slot : Fin 8) (rd ra rb : GReg) (i : BitVec 11) : Op.decode (Op.cx slot rd ra rb i).encode = some (.cx slot rd ra rb i) := by
  obtain ⟨hc, hs, hd, ha, hb, hi⟩ := wordX_iff.1 (rfl : (Op.cx slot rd ra rb i).encode = _)
  unfold Op.decode
  simp only [hc, hs, hd, ha, hb, hi, greg_val, Nat.mod_eq_of_lt slot.isLt]

/-- An instruction whose operands the encoding admits is read back from its word. -/
theorem decode_encode {op : Op} (h : op.wf = true) : Op.decode op.encode = some op := by
  cases op with
  | alu => exact decode_alu h
  | imm => exact decode_imm ..
  | shi => exact decode_shi ..
  | ld => exact decode_ld ..
  | st => exact decode_st ..
  | ldi => exact decode_ldi (ne_of_wf_ldi h) _
  | sti => exact decode_sti ..
  | ldl => exact decode_ldl ..
  | stl => exact decode_stl ..
  | ll => exact decode_ll ..
  | sc => exact decode_sc ..
  | amo => exact decode_amo ..
  | br => exact decode_br ..
  | bri => exact decode_bri ..
  | jmp => exact decode_jmp _
  | call => exact decode_call _
  | jmpr => exact decode_jmpr _
  | callr => exact decode_callr _
  | ret => exact decode_ret
  | mfs => exact decode_mfs ..
  | mts => exact decode_mts ..
  | trap => exact decode_trap _
  | bkpt => exact decode_bkpt _
  | rfe | fenceA | fenceR | wfe => decide
  | inval => exact decode_inval _ h
  | flush => exact decode_flush _
  | sev => exact decode_sev h
  | sevr => exact decode_sevr _ h
  | waitt => exact decode_waitt _ _ h
  | repn => exact decode_repn _
  | repi => exact decode_repi _
  | repr => exact decode_repr _
  | cx => exact decode_cx ..

/-- A word that spells an instruction is the word of that one, with operands the encoding admits. -/
theorem encode_decode {w : Word} {op : Op} (h : Op.decode w = some op) : op.wf = true ∧ op.encode = w := by
  unfold Op.decode at h
  split at h
  next hc => exact decode0_some hc h
  next hc => exact decode1_some hc h
  next hc => exact decode2_some hc h
  next hc => exact decode3_some hc h
  next hc => exact decode4_some hc h
  next hc => exact decode5_some hc h
  next hc => exact decode6_some hc h
  next =>
    have hc : bits w 31 29 = 7 := by
      have : bits w 31 29 < 8 := bits_lt w 31 29
      simp only [imp_false] at *
      omega
    have hs : bits w 28 26 = bits w 28 26 % 8 := (Nat.mod_eq_of_lt (bits_lt w 28 26)).symm
    cases h
    exact ⟨rfl, (wordX_iff.2 ⟨hc, hs, bits_eq_greg w 21, bits_eq_greg w 16, bits_eq_greg w 11, rfl⟩).symm⟩

/-- Settles O6: the words of each class, by their fields. -/
theorem wordsAndInstructionsAgree : Obligations.WordsAndInstructionsAgree :=
  ⟨fun _ h => decode_encode h, fun _ _ h => encode_decode h⟩

/-- Settles O7: each word is read by the reader itself. -/
theorem wordsAreRead : Obligations.WordsAreRead := by
  unfold Obligations.WordsAreRead
  decide

end Sys2Proof.Machine
end

section
/-! What the register, unary and immediate operations compute (R95, R96, R97), as numbers and bits. -/

namespace Sys2Proof.Machine

theorem flagWord_slt (a b : Word) : flagWord (a.slt b) = if a.toInt < b.toInt then 1 else 0 := by
  simp only [flagWord, BitVec.slt_iff_toInt_lt]

theorem flagWord_ult (a b : Word) : flagWord (a.ult b) = if a.toNat < b.toNat then 1 else 0 := by
  simp only [flagWord, BitVec.ult, decide_eq_true_eq]

theorem shiftLeft_value (a : Word) (n : Nat) : a <<< n = BitVec.ofNat 32 (a.toNat * 2 ^ n) := by
  apply BitVec.eq_of_toNat_eq
  rw [BitVec.toNat_shiftLeft, BitVec.toNat_ofNat, Nat.shiftLeft_eq]

theorem shiftRight_value (a : Word) (n : Nat) : a >>> n = BitVec.ofNat 32 (a.toNat / 2 ^ n) := by
  apply BitVec.eq_of_toNat_eq
  rw [BitVec.toNat_ushiftRight, BitVec.toNat_ofNat, Nat.shiftRight_eq_div_pow,
    Nat.mod_eq_of_lt (lt_of_le_of_lt (Nat.div_le_self _ _) a.isLt)]

theorem sshiftRight_value (a : Word) (n : Nat) : a.sshiftRight n = BitVec.ofInt 32 (a.toInt / 2 ^ n) := by
  rw [← BitVec.ofInt_toInt (x := a.sshiftRight n), BitVec.toInt_sshiftRight, Int.shiftRight_eq_div_pow]
  norm_cast

/-- A rotation by r brings the low r bits to the top; by 0 it changes nothing. -/
theorem rotateRight_value (a : Word) {n : Nat} (h : n < 32) : a.rotateRight n = a >>> n ||| a <<< ((32 - n) % 32) := by
  rw [BitVec.rotateRight_def, Nat.mod_eq_of_lt h]
  rcases Nat.eq_zero_or_pos n with rfl | pos
  · simp
  · rw [Nat.mod_eq_of_lt (show 32 - n < 32 by omega)]

theorem min_value (a b : Word) : (if a.slt b then a else b) = BitVec.ofInt 32 (min a.toInt b.toInt) := by
  split
  next h => rw [min_eq_left (BitVec.slt_iff_toInt_lt.1 h).le, BitVec.ofInt_toInt]
  next h => rw [min_eq_right (not_lt.1 (mt BitVec.slt_iff_toInt_lt.2 h)), BitVec.ofInt_toInt]

theorem max_value (a b : Word) : (if a.slt b then b else a) = BitVec.ofInt 32 (max a.toInt b.toInt) := by
  split
  next h => rw [max_eq_right (BitVec.slt_iff_toInt_lt.1 h).le, BitVec.ofInt_toInt]
  next h => rw [max_eq_left (not_lt.1 (mt BitVec.slt_iff_toInt_lt.2 h)), BitVec.ofInt_toInt]

theorem minu_value (a b : Word) : (if a.ult b then a else b) = BitVec.ofNat 32 (min a.toNat b.toNat) := by
  split
  next h => rw [min_eq_left (BitVec.ult_iff_toNat_lt.1 h).le, BitVec.ofNat_toNat, BitVec.setWidth_eq]
  next h => rw [min_eq_right (not_lt.1 (mt BitVec.ult_iff_toNat_lt.2 h)), BitVec.ofNat_toNat, BitVec.setWidth_eq]

theorem maxu_value (a b : Word) : (if a.ult b then b else a) = BitVec.ofNat 32 (max a.toNat b.toNat) := by
  split
  next h => rw [max_eq_right (BitVec.ult_iff_toNat_lt.1 h).le, BitVec.ofNat_toNat, BitVec.setWidth_eq]
  next h => rw [max_eq_left (not_lt.1 (mt BitVec.ult_iff_toNat_lt.2 h)), BitVec.ofNat_toNat, BitVec.setWidth_eq]

theorem low_value (a : Word) {n : Nat} (h : n ≤ 32) : a.extractLsb' 0 n = a.setWidth n := (BitVec.setWidth_eq_extractLsb' h).symm

theorem zexth_value (a : Word) : (a.extractLsb' 0 16).zeroExtend 32 = BitVec.ofNat 32 (a.toNat % 65536) := by
  apply BitVec.eq_of_toNat_eq
  simp

/-- The leading zeros of the low n bits: no bit above them is set, and the next one is. -/
theorem clzFrom_spec (w : Word) (n : Nat) (h : w.toNat < 2 ^ n) :
    clzFrom w n ≤ n ∧ w.toNat < 2 ^ (n - clzFrom w n) ∧ (clzFrom w n < n → 2 ^ (n - 1 - clzFrom w n) ≤ w.toNat) := by
  induction n with
  | zero => exact ⟨Nat.le_refl 0, h, fun h => absurd h (Nat.lt_irrefl 0)⟩
  | succ n ih =>
    unfold clzFrom
    cases top : w.getLsbD n with
    | true =>
      simp only [if_true]
      exact ⟨Nat.zero_le _, h, fun _ => Nat.ge_two_pow_of_testBit top⟩
    | false =>
      have low : w.toNat < 2 ^ n := by
        refine Nat.lt_pow_two_of_testBit _ fun i hi => ?_
        rcases Nat.eq_or_lt_of_le hi with rfl | above
        · exact top
        · exact Nat.testBit_lt_two_pow (lt_of_lt_of_le h (Nat.pow_le_pow_right (by decide) above))
      obtain ⟨le, lt, ge⟩ := ih low
      simp only [Bool.false_eq_true, if_false]
      refine ⟨by omega, ?_, ?_⟩
      · rwa [show n + 1 - (1 + clzFrom w n) = n - clzFrom w n by omega]
      · intro h
        rw [show n + 1 - 1 - (1 + clzFrom w n) = n - 1 - clzFrom w n by omega]
        exact ge (by omega)


/-- The trailing zeros from bit 32 - n upward: the bits they count are clear, and the next one is set. -/
theorem ctzFrom_spec (w : Word) (n : Nat) (h : n ≤ 32) :
    ctzFrom w n ≤ n ∧ (∀ i < ctzFrom w n, w.getLsbD (32 - n + i) = false)
      ∧ (ctzFrom w n < n → w.getLsbD (32 - n + ctzFrom w n) = true) := by
  induction n with
  | zero => exact ⟨Nat.le_refl 0, fun i hi => absurd hi (Nat.not_lt_zero i), fun h => absurd h (Nat.lt_irrefl 0)⟩
  | succ n ih =>
    have first : 32 - (n + 1) = 31 - n := by omega
    have next (k : Nat) : 32 - (n + 1) + (1 + k) = 32 - n + k := by omega
    unfold ctzFrom
    cases low : w.getLsbD (31 - n) with
    | true =>
      simp only [if_true]
      exact ⟨Nat.zero_le _, fun i hi => absurd hi (Nat.not_lt_zero i), fun _ => first ▸ low⟩
    | false =>
      obtain ⟨le, clear, set⟩ := ih (by omega)
      simp only [Bool.false_eq_true, if_false]
      refine ⟨by omega, fun i hi => ?_, fun hn => ?_⟩
      · rcases Nat.eq_zero_or_pos i with rfl | pos
        · exact first ▸ low
        · obtain ⟨j, rfl⟩ : ∃ j, i = 1 + j := ⟨i - 1, by omega⟩
          rw [next]
          exact clear j (by omega)
      · rw [next]
        exact set (by omega)

theorem mod_two_pow_of_clear {w : Word} {n : Nat} (h : ∀ i < n, w.getLsbD i = false) : w.toNat % 2 ^ n = 0 := by
  apply Nat.eq_of_testBit_eq
  intro i
  rw [Nat.testBit_mod_two_pow, Nat.zero_testBit]
  by_cases hi : i < n
  · rw [show w.toNat.testBit i = false from h i hi, Bool.and_false]
  · rw [decide_eq_false hi, Bool.false_and]

theorem popcFrom_value (w : Word) (n : Nat) : popcFrom w n = (List.range n).countP fun i => w.getLsbD i := by
  induction n with
  | zero => rfl
  | succ n ih =>
    simp only [popcFrom, List.range_succ, List.countP_append, List.countP_singleton, ih, Nat.add_comm]

theorem byteSwap_value (a : Word) :
    byteSwap a = (a <<< 24) ||| ((a <<< 8) &&& 0xFF0000#32) ||| ((a >>> 8) &&& 0xFF00#32) ||| (a >>> 24) := by
  apply BitVec.eq_of_getLsbD_eq
  intro i hi
  simp only [byteSwap, BitVec.getLsbD_append, BitVec.getLsbD_extractLsb', BitVec.getLsbD_or, BitVec.getLsbD_and, BitVec.getLsbD_shiftLeft,
    BitVec.getLsbD_ushiftRight]
  interval_cases i <;> simp

theorem addhi_value (i : BitVec 16) : i ++ 0#16 = i.zeroExtend 32 * 65536#32 := by
  apply BitVec.eq_of_toNat_eq
  rw [toNat_append_eq]
  simp
  omega

theorem slti_value (a : Word) (i : BitVec 16) : flagWord (a.slt (i.signExtend 32)) = if a.toInt < i.toInt then 1 else 0 := by
  rw [flagWord_slt, BitVec.toInt_signExtend_of_le (by decide)]

/-! ### The instructions -/

section
variable {s : State} {e : CoreId} {rd : GReg}

theorem State.sets_congr {v w : Core → Word} (h : v s.chip.cores[e] = w s.chip.cores[e]) : s.sets e rd v = s.sets e rd w :=
  congrArg Host.Outcome.next (State.went_congr (congrArg (s.chip.cores[e].wr rd) h) rfl)

/-- A class 000 instruction writes rd with the value its operation has for the core's registers (R95). -/
theorem Steady.alu_sets (h : Steady s.chip e) (f : AluFn) {ra rb : GReg} {v : Core → Word} (hw : (Op.alu f rd ra rb).wf = true)
    (hv : ∀ c : Core, f.eval (c.rd rd) (c.rd ra) (c.rd rb) (c.pair ra) (c.pair rb) = v c) :
    (s.act fun c => c.runOp e (.alu f rd ra rb) 0) = s.sets e rd v :=
  (h.act_alu f rd ra rb hw).trans (State.sets_congr (hv _))

theorem Steady.imm_sets (h : Steady s.chip e) (f : ImmFn) {ra : GReg} {i : BitVec 16} {v : Core → Word}
    (hv : ∀ c : Core, f.eval (c.rd ra) i = v c) : (s.act fun c => c.runOp e (.imm f rd ra i) 0) = s.sets e rd v :=
  (h.act_imm f rd ra i).trans (State.sets_congr (hv _))

theorem Steady.shi_sets (h : Steady s.chip e) (f : ShiftFn) {ra : GReg} {n : BitVec 5} {v : Core → Word}
    (hv : ∀ c : Core, f.eval (c.rd ra) n = v c) : (s.act fun c => c.runOp e (.shi f rd ra n) 0) = s.sets e rd v :=
  (h.act_shi f rd ra n).trans (State.sets_congr (hv _))

end

theorem mod_32_lt (n : Nat) : n % 32 < 32 := Nat.mod_lt _ (by decide)

/-- Settles O8: each instruction's operation has the value stated. -/
theorem integerOperations : Obligations.IntegerOperations := by
  refine ⟨fun s e rd ra rb h => ?register, fun s e rd ra h => ?unary, fun s e rd ra i n h => ?immediate⟩
  case register =>
    exact ⟨h.alu_sets .add rfl fun _ => rfl, h.alu_sets .sub rfl fun _ => rfl, h.alu_sets .and rfl fun _ => rfl,
      h.alu_sets .or rfl fun _ => rfl, h.alu_sets .xor rfl fun _ => rfl, h.alu_sets .andn rfl fun _ => rfl,
      h.alu_sets .shl rfl fun _ => shiftLeft_value .., h.alu_sets .shr rfl fun _ => shiftRight_value ..,
      h.alu_sets .sra rfl fun _ => sshiftRight_value .., h.alu_sets .ror rfl fun _ => rotateRight_value _ (mod_32_lt _),
      h.alu_sets .slt rfl fun _ => flagWord_slt .., h.alu_sets .sltu rfl fun _ => flagWord_ult ..,
      h.alu_sets .min rfl fun _ => min_value .., h.alu_sets .max rfl fun _ => max_value ..,
      h.alu_sets .minu rfl fun _ => minu_value .., h.alu_sets .maxu rfl fun _ => maxu_value ..⟩
  case unary =>
    have all : (s.chip.cores[e].rd ra).toNat < 2 ^ 32 := (s.chip.cores[e].rd ra).isLt
    obtain ⟨lzLe, lzLt, lzGe⟩ := clzFrom_spec (s.chip.cores[e].rd ra) 32 all
    obtain ⟨tzLe, tzClear, tzSet⟩ := ctzFrom_spec (s.chip.cores[e].rd ra) 32 (Nat.le_refl _)
    simp only [Nat.sub_self, Nat.zero_add] at tzClear tzSet
    exact ⟨h.alu_sets .sextb rfl fun _ => congrArg (BitVec.signExtend 32) (low_value _ (by decide)),
      h.alu_sets .sexth rfl fun _ => congrArg (BitVec.signExtend 32) (low_value _ (by decide)),
      h.alu_sets .zexth rfl fun _ => zexth_value _,
      ⟨_, lzLe, lzLt, lzGe, (h.act_alu .clz rd ra 0 rfl).trans (State.sets_congr rfl)⟩,
      ⟨_, tzLe, mod_two_pow_of_clear tzClear, tzSet, (h.act_alu .ctz rd ra 0 rfl).trans (State.sets_congr rfl)⟩,
      h.alu_sets .popc rfl fun _ => congrArg (BitVec.ofNat 32) (popcFrom_value _ 32),
      h.alu_sets .bswap rfl fun _ => byteSwap_value _⟩
  case immediate =>
    exact ⟨h.imm_sets .addi fun _ => rfl, h.imm_sets .andi fun _ => rfl, h.imm_sets .ori fun _ => rfl, h.imm_sets .xori fun _ => rfl,
      h.imm_sets .slti fun _ => slti_value .., h.imm_sets .sltiu fun _ => flagWord_ult ..,
      h.imm_sets .addhi fun _ => congrArg (_ + ·) (addhi_value i),
      h.shi_sets .shl fun _ => shiftLeft_value .., h.shi_sets .shr fun _ => shiftRight_value ..,
      h.shi_sets .sra fun _ => sshiftRight_value .., h.shi_sets .ror fun _ => rotateRight_value _ n.isLt⟩

/-! ### Products and quotients -/

theorem sumTo_eq (n : Nat) (f : Nat → Int) : sumTo n f = ∑ i ∈ Finset.range n, f i := by
  induction n with
  | zero => rfl
  | succ n ih => rw [Finset.sum_range_succ, ← ih, sumTo, sumTo, List.range_succ, List.map_append, List.foldl_append, List.map_singleton,
      List.foldl_cons, List.foldl_nil]

/-- The one quotient that does not fit is that of the least number by -1 (R96). -/
theorem divS_value (a b : Word) : divS a b = if b = 0 then 0xFFFFFFFF else if a = 0x80000000 ∧ b = 0xFFFFFFFF then 0x80000000
    else BitVec.ofInt 32 (a.toInt.tdiv b.toInt) := by
  unfold divS
  split
  · rfl
  · split
    next h => rw [h.1, h.2]; decide
    · rfl

theorem remS_value (a b : Word) : remS a b = if b = 0 then a else if a = 0x80000000 ∧ b = 0xFFFFFFFF then 0
    else BitVec.ofInt 32 (a.toInt - a.toInt.tdiv b.toInt * b.toInt) := by
  unfold remS
  split
  · rfl
  · split
    next h => rw [h.1, h.2]; decide
    · rw [Int.tmod_def, Int.mul_comm]

theorem divU_value (a b : Word) : divU a b = if b = 0 then 0xFFFFFFFF else BitVec.ofNat 32 (a.toNat / b.toNat) := by
  unfold divU
  rw [← BitVec.toNat_udiv, BitVec.ofNat_toNat, BitVec.setWidth_eq]

theorem remU_value (a b : Word) : remU a b = if b = 0 then a else BitVec.ofNat 32 (a.toNat % b.toNat) := by
  unfold remU
  rw [← BitVec.toNat_umod, BitVec.ofNat_toNat, BitVec.setWidth_eq]

theorem dot_wf {f : AluFn} (hu : f.unary = false) {rd ra rb : GReg} (ha : ra ≠ 31) (hb : rb ≠ 31) : (Op.alu f rd ra rb).wf = true :=
  wf_alu_iff.2 ⟨fun x => absurd (hu.symm.trans x) Bool.false_ne_true, fun _ => ⟨ha, hb⟩⟩

/-- A dot product adds the sum of its products to rd (R95). -/
theorem dot_value (d : Word) (n : Nat) (f : Nat → Int) :
    d + BitVec.ofInt 32 (sumTo n f) = d + BitVec.ofInt 32 (∑ i ∈ Finset.range n, f i) :=
  congrArg (fun z => d + BitVec.ofInt 32 z) (sumTo_eq n f)

/-- Settles O9: the products are the model's own, and a division by zero or one that does not fit has its own value. -/
theorem productsAndQuotients : Obligations.ProductsAndQuotients := by
  refine ⟨fun s e rd ra rb h => ?products, fun s e rd ra rb h => ?quotients⟩
  case products =>
    exact ⟨h.alu_sets .mul rfl fun _ => rfl, h.alu_sets .mulh rfl fun _ => rfl, h.alu_sets .mulhu rfl fun _ => rfl,
      h.alu_sets .macc rfl fun _ => rfl, fun ha hb => ⟨h.alu_sets .dot8 (dot_wf rfl ha hb) fun _ => dot_value .., h.alu_sets .dot8u (dot_wf rfl ha hb) fun _ => dot_value ..,
        h.alu_sets .dot16 (dot_wf rfl ha hb) fun _ => dot_value ..⟩⟩
  case quotients =>
    exact ⟨h.alu_sets .div rfl fun _ => divS_value .., h.alu_sets .divu rfl fun _ => divU_value ..,
      h.alu_sets .rem rfl fun _ => remS_value .., h.alu_sets .remu rfl fun _ => remU_value ..⟩

end Sys2Proof.Machine
end

section
/-! Branches, jumps, calls and returns (R53, R55, R101, R102), and loads and stores that memory answers (R54, R56, R86, R98, R99). -/

namespace Sys2Proof.Machine

/-! ### Targets -/

/-- Four times a signed offset, added to the pc (R84). -/
theorem target_value {n : Nat} (off : BitVec n) : off.signExtend 24 <<< 2 = BitVec.ofInt 24 (4 * off.toInt) := by
  rw [BitVec.shiftLeft_eq_mul_twoPow, BitVec.ofInt_mul, BitVec.mul_comm]
  rfl

/-- A target offset without its low two bits (R84). -/
theorem wordOff_value (v : Word) : wordOff v = BitVec.ofNat 24 (v.toNat / 4 * 4) := by
  have mask : ~~~3#24 = BitVec.allOnes 24 <<< 2 := by decide
  unfold wordOff
  rw [mask, ← BitVec.shiftLeft_ushiftRight]
  apply BitVec.eq_of_toNat_eq
  simp only [BitVec.toNat_shiftLeft, BitVec.toNat_ushiftRight, BitVec.extractLsb'_toNat, BitVec.toNat_ofNat, Nat.shiftLeft_eq,
    Nat.shiftRight_eq_div_pow]
  omega

theorem wordOff_return (v : Word) : wordOff v = BitVec.ofNat 24 (v.toNat % 0x1000000 / 4 * 4) := by
  rw [wordOff_value]
  apply BitVec.eq_of_toNat_eq
  rw [BitVec.toNat_ofNat, BitVec.toNat_ofNat]
  omega

section
variable {s : State} {e : CoreId}

theorem State.goes_congr {n m : Core → BitVec 24} (h : n s.chip.cores[e] = m s.chip.cores[e]) :
    (.next (s.went e id n) : Outcome) = .next (s.went e id m) := congrArg Host.Outcome.next (State.went_congr rfl h)

/-- A branch goes to its target where its condition holds (R101). -/
theorem branch_value {p : Bool} {taken : Prop} [Decidable taken] (h : p = true ↔ taken) {n : Nat} (off : BitVec n) (c : Core) :
    (if p then c.off + (off.signExtend 24 <<< 2) else c.off + 4)
      = if taken then c.off + BitVec.ofInt 24 (4 * off.toInt) else c.off + 4 := by
  rw [target_value]
  exact if_congr h rfl rfl

theorem Steady.br_goes (h : Steady s.chip e) (f : Cond) {ra rb : GReg} {off : BitVec 15} {taken : Core → Prop} [∀ c, Decidable (taken c)]
    (hv : ∀ c : Core, f.eval (c.rd ra) (c.rd rb) = true ↔ taken c) : (s.act fun c => c.runOp e (.br f ra rb off) 0)
      = .next (s.went e id fun c => if taken c then c.off + BitVec.ofInt 24 (4 * off.toInt) else c.off + 4) :=
  (h.act_br f ra rb off).trans (State.goes_congr (branch_value (hv _) off _))

theorem Steady.bri_goes (h : Steady s.chip e) (f : Fin 4) {ra : GReg} {i : BitVec 5} {off : BitVec 15} {taken : Core → Prop}
    [∀ c, Decidable (taken c)] (hv : ∀ c : Core, (condI f).eval (c.rd ra) (i.signExtend 32) = true ↔ taken c) :
    (s.act fun c => c.runOp e (.bri f ra i off) 0)
      = .next (s.went e id fun c => if taken c then c.off + BitVec.ofInt 24 (4 * off.toInt) else c.off + 4) :=
  (h.act_bri f ra i off).trans (State.goes_congr (branch_value (hv _) off _))

end

/-! ### Conditions -/

theorem Cond.eval_eq (a b : Word) : Cond.eq.eval a b = true ↔ a = b := beq_iff_eq

theorem Cond.eval_ne (a b : Word) : Cond.ne.eval a b = true ↔ a ≠ b := bne_iff_ne

theorem Cond.eval_lt (a b : Word) : Cond.lt.eval a b = true ↔ a.toInt < b.toInt := BitVec.slt_iff_toInt_lt

theorem Cond.eval_ge (a b : Word) : Cond.ge.eval a b = true ↔ b.toInt ≤ a.toInt := by
  show (!a.slt b) = true ↔ _
  rw [Bool.not_eq_true', ← Bool.not_eq_true, BitVec.slt_iff_toInt_lt, not_lt]

theorem Cond.eval_ltu (a b : Word) : Cond.ltu.eval a b = true ↔ a.toNat < b.toNat := BitVec.ult_iff_toNat_lt

theorem Cond.eval_geu (a b : Word) : Cond.geu.eval a b = true ↔ b.toNat ≤ a.toNat := by
  show (!a.ult b) = true ↔ _
  rw [Bool.not_eq_true', ← Bool.not_eq_true, BitVec.ult_iff_toNat_lt, not_lt]

theorem toInt_imm5 (i : BitVec 5) : (i.signExtend 32).toInt = i.toInt := BitVec.toInt_signExtend_of_le (by decide)

/-! ### Accesses that memory answers -/

/-- No instruction's registers reach into its write shadow. -/
theorem Op.commit_shadows (op : Op) (v : Word) (c : Core) : (op.commit v c).shadows = c.shadows := by
  cases op with
  | alu | imm | shi | ld | sti | ldl | ll | sc | amo | call | callr | ret => exact Core.wr_shadows ..
  | ldi => exact (Core.wr_shadows ..).trans (Core.wr_shadows ..)
  | _ => rfl

section
variable {s : State} {e : CoreId} {op : Op} {a n : Nat} {stk : Bool} {t : Chip}

/-- An instruction that loads once: it writes its registers with the answer (R98, R99). -/
theorem Steady.act_loads (h : Steady s.chip e) {v : Word} (hl : Loads s.chip e a n stk t v) (hw : op.wf = true) (hp : op.isPrefix = false)
    (ha : op.acc s.chip.cores[e] = some ⟨a, n, true, false, false, stk⟩)
    (hr : ∀ x, s.chip.reach e x op ⟨a, n, true, false, false, stk⟩ = s.chip.load e x a n) (hk : op.tokKind = .load)
    (hd : op.sent s.chip.cores[e] = []) (hn : op.newShadow e s.chip.cores[e] = []) (hb : op.isTbl = false) :
    (s.act fun c => c.runOp e op 0) = s.after t e (op.commit v) (op.nextOff s.chip.cores[e] v) := by
  obtain ⟨u, answered, tokens⟩ := hl.answer
  have access : s.chip.access e (ownCtx e s.chip.cores[e]) op ⟨a, n, true, false, false, stk⟩ = (t, .val v) := by
    unfold Chip.access
    rw [hr, answered, hk, hd, tokens]
  exact h.act_mem op hw hp ha hl.may access hl.quiet (op.commit_shadows ..) hn hb

/-- An instruction that stores once. -/
theorem Steady.act_stores (h : Steady s.chip e) {w : Word} (hs : Stores s.chip e a n w stk t) (hw : op.wf = true) (hp : op.isPrefix = false)
    (ha : op.acc s.chip.cores[e] = some ⟨a, n, false, true, false, stk⟩)
    (hr : ∀ x, s.chip.reach e x op ⟨a, n, false, true, false, stk⟩ = s.chip.store e x a n w) (hk : op.tokKind = .store)
    (hd : op.sent s.chip.cores[e] = [w]) (hn : op.newShadow e s.chip.cores[e] = []) (hb : op.isTbl = false) :
    ∃ v, (s.act fun c => c.runOp e op 0) = s.after t e (op.commit v) (op.nextOff s.chip.cores[e] v) := by
  obtain ⟨u, v, answered, tokens⟩ := hs.answer
  have access : s.chip.access e (ownCtx e s.chip.cores[e]) op ⟨a, n, false, true, false, stk⟩ = (t, .val v) := by
    unfold Chip.access
    rw [hr, answered, hk, hd, tokens]
  exact ⟨v, h.act_mem op hw hp ha hs.may access hs.quiet (op.commit_shadows ..) hn hb⟩

end

/-- Settles O10: each condition as a comparison, each target as a number; a call stores its return word, a return loads it. -/
theorem branchesAndJumps : Obligations.BranchesAndJumps := by
  refine ⟨fun s e ra rb i off h => ?branches, fun s e ra off h => ?jumps, fun s e ra off t v h => ⟨fun st => ?calls, fun ld => ?returns⟩⟩
  case branches =>
    exact ⟨h.br_goes .eq fun _ => Cond.eval_eq .., h.br_goes .ne fun _ => Cond.eval_ne .., h.br_goes .lt fun _ => Cond.eval_lt ..,
      h.br_goes .ge fun _ => Cond.eval_ge .., h.br_goes .ltu fun _ => Cond.eval_ltu .., h.br_goes .geu fun _ => Cond.eval_geu ..,
      h.bri_goes 0 fun _ => Cond.eval_eq .., h.bri_goes 1 fun _ => Cond.eval_ne ..,
      h.bri_goes 2 fun _ => toInt_imm5 i ▸ Cond.eval_lt .., h.bri_goes 3 fun _ => toInt_imm5 i ▸ Cond.eval_ge ..⟩
  case jumps =>
    exact ⟨(h.act_jmp off).trans (State.goes_congr (congrArg (_ + ·) (target_value off))),
      (h.act_jmpr ra).trans (State.goes_congr (wordOff_value _))⟩
  case calls =>
    obtain ⟨v, call⟩ := h.act_stores (op := .call off) st rfl rfl rfl (fun _ => rfl) rfl rfl rfl rfl
    obtain ⟨w, callr⟩ := h.act_stores (op := .callr ra) st rfl rfl rfl (fun _ => rfl) rfl rfl rfl rfl
    exact ⟨call.trans (congrArg (fun o => s.after t e _ (s.chip.cores[e].off + o)) (target_value off)),
      callr.trans (congrArg (s.after t e _) (wordOff_value _))⟩
  case returns =>
    exact (h.act_loads (op := .ret) ld rfl rfl rfl (fun _ => rfl) rfl rfl rfl rfl).trans (congrArg (s.after t e _) (wordOff_return v))

end Sys2Proof.Machine
end

section
/-! Loads (R54, R56, R57, R86, R98, R99): what an answered load leaves, and the bytes a load of plain memory finds. -/

namespace Sys2Proof.Machine

/-! ### Extension -/

theorem LdFn.extend_h (v : Word) : LdFn.h.extend v = (v.setWidth 16).signExtend 32 :=
  congrArg (BitVec.signExtend 32) (low_value v (by decide))

theorem LdFn.extend_hu (v : Word) : LdFn.hu.extend v = (v.setWidth 16).zeroExtend 32 :=
  congrArg (BitVec.zeroExtend 32) (low_value v (by decide))

theorem LdFn.extend_b (v : Word) : LdFn.b.extend v = (v.setWidth 8).signExtend 32 :=
  congrArg (BitVec.signExtend 32) (low_value v (by decide))

theorem LdFn.extend_bu (v : Word) : LdFn.bu.extend v = (v.setWidth 8).zeroExtend 32 :=
  congrArg (BitVec.zeroExtend 32) (low_value v (by decide))

/-! ### An answered load -/

section
variable {s : State} {e : CoreId} {rt ra : GReg} {t : Chip} {v w : Word}

theorem State.after_write (h : v = w) : s.after t e (fun k => k.wr rt v) (s.following e) = s.after t e (fun k => k.wr rt w) (s.following e) :=
  congrArg (fun x => s.after t e (fun k => k.wr rt x) (s.following e)) h

/-- A short load (R98). -/
theorem Steady.ld_eq (h : Steady s.chip e) {f : LdFn} {i : BitVec 16}
    (l : Loads s.chip e (s.chip.cores[e].short ra (i.signExtend 32)) f.size (ra == 31) t v) (hw : f.extend v = w) :
    (s.act fun c => c.runOp e (.ld f rt ra i) 0) = s.after t e (fun k => k.wr rt w) (s.following e) :=
  (h.act_loads (op := .ld f rt ra i) l rfl rfl rfl (fun _ => rfl) rfl rfl rfl rfl).trans (State.after_write hw)

/-- A long load (R99). -/
theorem Steady.ldl_eq (h : Steady s.chip e) {f : LdFn} {j : BitVec 12}
    (l : Loads s.chip e (s.chip.cores[e].rd ra + j.signExtend 32).toNat f.size false t v) (hw : f.extend v = w) :
    (s.act fun c => c.runOp e (.ldl f rt ra j) 0) = s.after t e (fun k => k.wr rt w) (s.following e) :=
  (h.act_loads (op := .ldl f rt ra j) l rfl rfl rfl (fun _ => rfl) rfl rfl rfl rfl).trans (State.after_write hw)

/-- A post-increment load (R99). -/
theorem Steady.ldi_eq (h : Steady s.chip e) {f : LdFn} {j : BitVec 12} (ne : rt ≠ ra)
    (l : Loads s.chip e (s.chip.cores[e].short ra (j.signExtend 32)) f.size (ra == 31) t v) (hw : f.extend v = w) :
    (s.act fun c => c.runOp e (.ldi f rt ra j) 0)
      = s.after t e (fun k => (k.wr ra (k.rd ra + BitVec.ofNat 32 f.size)).wr rt w) (s.following e) :=
  (h.act_loads (op := .ldi f rt ra j) l (bne_iff_ne.2 ne) rfl rfl (fun _ => rfl) rfl rfl rfl rfl).trans
    (congrArg (fun x => s.after t e (fun k => (k.wr ra (k.rd ra + BitVec.ofNat 32 f.size)).wr rt x) (s.following e)) hw)

end

/-! ### Bytes in memory -/

theorem Mem.bytesLE_one (m : Mem) (a : Nat) : m.bytesLE a 1 = (m.byte a).toNat := rfl

theorem Mem.bytesLE_two (m : Mem) (a : Nat) : m.bytesLE a 2 = (m.byte (a + 0)).toNat + 256 * (m.byte (a + 1)).toNat := rfl

theorem Mem.bytesLE_four (m : Mem) (a : Nat) : m.bytesLE a 4 =
    (m.byte (a + 0)).toNat + 256 * (m.byte (a + 1)).toNat + 65536 * (m.byte (a + 2)).toNat + 16777216 * (m.byte (a + 3)).toNat := by
  simp only [Mem.bytesLE, Nat.add_assoc, Nat.reduceAdd, Nat.add_zero]
  omega

/-- The low half of a loaded value is its two bytes. -/
theorem Mem.half_value (m : Mem) (a : Nat) :
    (BitVec.ofNat 32 (m.bytesLE a 2)).setWidth 16 = BitVec.ofNat 16 ((m.byte (a + 0)).toNat + 256 * (m.byte (a + 1)).toNat) := by
  rw [BitVec.setWidth_ofNat_of_le (by decide), Mem.bytesLE_two]

theorem Mem.byte_value (m : Mem) (a : Nat) : (BitVec.ofNat 32 (m.bytesLE a 1)).setWidth 8 = m.byte a := by
  rw [BitVec.setWidth_ofNat_of_le (by decide), Mem.bytesLE_one, BitVec.ofNat_toNat, BitVec.setWidth_eq]

/-- Settles O11: every load goes on with its extended answer, which in plain memory is the bytes that stand there. -/
theorem loadInstructions : Obligations.LoadInstructions := by
  refine ⟨fun s e rt ra i j t v h => ?answered, fun s e rt ra i j h => ?plain⟩
  case answered =>
    exact ⟨fun l => h.ld_eq (f := .w) l rfl,
      fun l => ⟨h.ld_eq (f := .h) l (LdFn.extend_h v), h.ld_eq (f := .hu) l (LdFn.extend_hu v)⟩,
      fun l => ⟨h.ld_eq (f := .b) l (LdFn.extend_b v), h.ld_eq (f := .bu) l (LdFn.extend_bu v)⟩,
      fun l ne => h.ldi_eq (f := .w) ne l rfl,
      fun l ne => ⟨h.ldi_eq (f := .h) ne l (LdFn.extend_h v), h.ldi_eq (f := .hu) ne l (LdFn.extend_hu v)⟩,
      fun l ne => ⟨h.ldi_eq (f := .b) ne l (LdFn.extend_b v), h.ldi_eq (f := .bu) ne l (LdFn.extend_bu v)⟩,
      fun l => h.ldl_eq (f := .w) l rfl,
      fun l => ⟨h.ldl_eq (f := .h) l (LdFn.extend_h v), h.ldl_eq (f := .hu) l (LdFn.extend_hu v)⟩,
      fun l => ⟨h.ldl_eq (f := .b) l (LdFn.extend_b v), h.ldl_eq (f := .bu) l (LdFn.extend_bu v)⟩⟩
  case plain =>
    intro a b l at' half word ready read sets
    have loads {x n : Nat} {stk : Bool} (p : ready x n stk) (lo : 1 ≤ n) (hi : n ≤ 4) :
        Loads s.chip e x n stk (read x n) (BitVec.ofNat 32 (s.chip.mem.bytesLE (canon e x) n)) := Loads.plain h p.1 p.2 lo hi
    have whole (x : Nat) : BitVec.ofNat 32 (s.chip.mem.bytesLE (canon e x) 4) = word x :=
      congrArg (BitVec.ofNat 32) (s.chip.mem.bytesLE_four _)
    have low (x : Nat) : (BitVec.ofNat 32 (s.chip.mem.bytesLE (canon e x) 2)).setWidth 16 = half x := s.chip.mem.half_value _
    have least (x : Nat) : (BitVec.ofNat 32 (s.chip.mem.bytesLE (canon e x) 1)).setWidth 8 = s.chip.mem.byte (canon e x) := s.chip.mem.byte_value _
    refine ⟨fun p => ?w, fun p => ⟨?h, ?hu⟩, fun p => ⟨?b, ?bu⟩, fun p ne => ?inc, fun p => ?long⟩
    case w => exact h.ld_eq (f := .w) (loads p (by decide) (by decide)) (whole a)
    case h => exact h.ld_eq (f := .h) (loads p (by decide) (by decide)) ((LdFn.extend_h _).trans (congrArg (BitVec.signExtend 32) (low a)))
    case hu => exact h.ld_eq (f := .hu) (loads p (by decide) (by decide)) ((LdFn.extend_hu _).trans (congrArg (BitVec.zeroExtend 32) (low a)))
    case b => exact h.ld_eq (f := .b) (loads p (by decide) (by decide)) ((LdFn.extend_b _).trans (congrArg (BitVec.signExtend 32) (least a)))
    case bu => exact h.ld_eq (f := .bu) (loads p (by decide) (by decide)) ((LdFn.extend_bu _).trans (congrArg (BitVec.zeroExtend 32) (least a)))
    case inc => exact h.ldi_eq (f := .w) ne (loads p (by decide) (by decide)) (whole b)
    case long => exact h.ldl_eq (f := .w) (loads p (by decide) (by decide)) (whole l)

end Sys2Proof.Machine
end

section
/-! Stores (R54, R86, R98, R99, R107, R140, R141): what an answered store leaves, how an engine's store enters its buffer, and how the oldest
buffered store reaches its array. -/

namespace Sys2Proof.Machine

open Reg

section
variable {s : State} {e : CoreId} {rt ra : GReg} {t : Chip}

/-! ### An answered store -/

/-- A short store (R98). -/
theorem Steady.st_eq (h : Steady s.chip e) {f : StFn} {i : BitVec 16}
    (m : Stores s.chip e (s.chip.cores[e].short ra (i.signExtend 32)) f.size (s.chip.cores[e].rd rt) (ra == 31) t) :
    (s.act fun c => c.runOp e (.st f rt ra i) 0) = s.after t e id (s.following e) := by
  obtain ⟨_, stored⟩ := h.act_stores (op := .st f rt ra i) m rfl rfl rfl (fun _ => rfl) rfl rfl rfl rfl
  exact stored

/-- A long store (R99). -/
theorem Steady.stl_eq (h : Steady s.chip e) {f : StFn} {j : BitVec 12}
    (m : Stores s.chip e (s.chip.cores[e].rd ra + j.signExtend 32).toNat f.size (s.chip.cores[e].rd rt) false t) :
    (s.act fun c => c.runOp e (.stl f rt ra j) 0) = s.after t e id (s.following e) := by
  obtain ⟨_, stored⟩ := h.act_stores (op := .stl f rt ra j) m rfl rfl rfl (fun _ => rfl) rfl rfl rfl rfl
  exact stored

/-- A post-increment store (R99). -/
theorem Steady.sti_eq (h : Steady s.chip e) {f : StFn} {j : BitVec 12}
    (m : Stores s.chip e (s.chip.cores[e].short ra (j.signExtend 32)) f.size (s.chip.cores[e].rd rt) (ra == 31) t) :
    (s.act fun c => c.runOp e (.sti f rt ra j) 0) = s.after t e (fun k => k.wr ra (k.rd ra + BitVec.ofNat 32 f.size)) (s.following e) := by
  obtain ⟨_, stored⟩ := h.act_stores (op := .sti f rt ra j) m rfl rfl rfl (fun _ => rfl) rfl rfl rfl rfl
  exact stored

/-! ### A store that enters the buffer -/

/-- An access that has changed its own core alone leaves the device at rest. -/
theorem Steady.after_own (h : Steady s.chip e) (f g : Core → Core) :
    s.after (s.chip.onCore e f) e g (s.following e) = .next (s.went e (fun c => g (f c)) Core.nextOff) := by
  rw [State.after_onCore]
  unfold State.after State.went
  rw [Chip.settle_of_calm (by exact h.calm)]
  exact congrArg (fun u : Chip => (.next { s with chip := u } : Outcome)) (Chip.onCore_congr _ _ rfl)

/-- Outside deterministic mode an engine's store to an array is taken into its buffer (R140, R141). -/
theorem Stores.buffers {s : Chip} {a n : Nat} {stk : Bool} (h : Steady s e) (w : Word) (he : isCur e = false) (hd : s.cores[e].det = false)
    (hl : s.cores[e].sb.length < 12) (hb : a / 0x1000000 < 3) (hi : implemented e a n = true) (hn : 1 ≤ n) (al : Allowed s e .write a n stk) :
    Stores s e a n w stk (s.onCore e (Core.buffered e a n w)) :=
  ⟨ownCheck_plain hb hi (fun h => nomatch h) (fun h => nomatch h) (fun _ => al) al.stack,
    ⟨_, _, Chip.store_buffers _ w h.counters he hd hl hb hi hn, (Chip.accessTokens_engine he ..).symm⟩, h.quiet.onCore rfl⟩

end

/-! ### The oldest store reaches its array -/

/-- Stores that have not been sent stay in the buffer. -/
theorem sbAck_waiting {l : List SbEntry} (h : ∀ x ∈ l, x.way = .waiting) : sbAck l = (l, []) := by
  cases l with
  | nil => rfl
  | cons x l => simp only [sbAck, h x (List.mem_cons_self ..)]

/-- A core whose oldest store has been answered and acknowledged. -/
theorem Core.acked_oldest {c : Core} {st : SbEntry} {rest : List SbEntry} (hs : c.sb = st :: rest) (hr : ∀ x ∈ rest, x.way = .waiting) :
    (c.sbMark 0 .done).sbAcked = { c with sb := rest } := by
  have marked : (c.sbMark 0 .done).sb = { st with way := .done } :: rest := by
    unfold Core.sbMark
    rw [hs]
    rfl
  have acked : sbAck (c.sbMark 0 .done).sb = (rest, []) := by
    rw [marked]
    exact sbAck_waiting hr
  unfold Core.sbAcked
  rw [acked, List.append_nil]
  rfl

/-- The first store of a buffer that has sent none is sent and, answered, leaves it (R141). -/
theorem Chip.drain1_oldest {s t : Chip} {e : CoreId} {st : SbEntry} {rest : List SbEntry} (hs : s.cores[e].sb = st :: rest)
    (hw : ∀ x ∈ st :: rest, x.way = .waiting) (hp : s.perform e st = (t, .done)) (ht : t.cores[e].sb = s.cores[e].sb) :
    s.drain1 e = t.onCore e fun c => { c with sb := rest } := by
  have first : s.cores[e].sb.findIdx? (·.way == .waiting) = some 0 := by
    rw [hs, List.findIdx?_cons, hw st (List.mem_cons_self ..)]
    rfl
  have sent : s.sendStore e 0 = t.onCore e (·.sbMark 0 .done) := by
    unfold Chip.sendStore
    rw [hs]
    simp only [List.getElem?_cons_zero, hw st (List.mem_cons_self ..), hp, if_true]
  unfold Chip.drain1
  rw [first]
  simp only [sent, Chip.onCore_onCore]
  exact Chip.onCore_congr _ _ (Core.acked_oldest (ht.trans hs) fun x hx => hw x (List.mem_cons_of_mem _ hx))

theorem Core.Written.fields {e k : CoreId} {g1 g2 : Nat} {c c' : Core} (h : Core.Written e k g1 g2 c c') :
    c'.g = c.g ∧ c'.off = c.off ∧ c'.sb = c.sb ∧ c'.resv = if c.resv = some g1 ∨ c.resv = some g2 then none else c.resv := by
  obtain ⟨dc, rfl, -⟩ := h
  exact ⟨rfl, rfl, rfl, rfl⟩

/-- Settles O12: a store is handed to memory as its instruction says, an engine's into its buffer, and the oldest of the buffer changes its own
bytes and the reservations on their granules. -/
theorem storesAndTheStoreBuffer : Obligations.StoresAndTheStoreBuffer := by
  refine ⟨fun s e rt ra i j t h => ?answered, fun s e rt ra i j h he hd hl => ?buffered,
    fun s e st rest calm he hold runs hs hw hb hi hn hn4 hp hf ho hc => ?drained⟩
  case answered =>
    exact ⟨fun m => h.st_eq (f := .w) m, fun m => h.st_eq (f := .h) m, fun m => h.st_eq (f := .b) m, fun m => h.sti_eq (f := .w) m,
      fun m => h.sti_eq (f := .h) m, fun m => h.sti_eq (f := .b) m, fun m => h.stl_eq (f := .w) m, fun m => h.stl_eq (f := .h) m,
      fun m => h.stl_eq (f := .b) m⟩
  case buffered =>
    intro c a b l ready enters
    have taken {x n : Nat} {stk : Bool} (p : ready x n stk) (hn : 1 ≤ n) :
        Stores s.chip e x n (c.rd rt) stk (s.chip.onCore e (Core.buffered e x n (c.rd rt))) :=
      Stores.buffers h _ he hd hl p.1 p.2.1 hn p.2.2
    have entered {x n : Nat} (g : Core → Core) : s.after (s.chip.onCore e (Core.buffered e x n (c.rd rt))) e g (s.following e)
        = .next (s.went e (fun k => g (enters x n k)) Core.nextOff) :=
      (h.after_own _ g).trans (congrArg Host.Outcome.next (State.went_congr rfl rfl))
    exact ⟨fun p => (h.st_eq (f := .w) (taken p (by decide))).trans (entered id),
      fun p => (h.st_eq (f := .h) (taken p (by decide))).trans (entered id),
      fun p => (h.st_eq (f := .b) (taken p (by decide))).trans (entered id),
      fun p => (h.sti_eq (f := .w) (taken p (by decide))).trans (entered _),
      fun p => (h.stl_eq (f := .w) (taken p (by decide))).trans (entered id)⟩
  case drained =>
    intro a
    obtain ⟨t, written, dev, -, -, bytes, cores⟩ := Chip.arrWrite_plain st.data he hb hi hn hn4 hp hf ho hc
    have performed : s.chip.perform e st = (t, .done) := by
      unfold Chip.perform
      simp only [if_pos (show st.addr.toNat < 0x10000000 by omega), written]
      rfl
    have drained : s.chip.storeDrain e = t.onCore e fun c => { c with sb := rest } := by
      unfold Chip.storeDrain
      rw [he, hold, runs]
      exact Chip.drain1_oldest hs hw performed (cores e).fields.2.2.1
    have effect : exec (.storeDrain e) s = .next { s with chip := t.onCore e fun c => { c with sb := rest } } := by
      refine (State.act_of_calm (f := fun c => c.storeDrain e) ?_).trans (by rw [drained])
      show Calm (s.chip.storeDrain e).dev
      rw [drained]
      exact dev ▸ calm
    refine ⟨_, effect, rfl, dev, bytes, congrArg Core.sb (Chip.onCore_core ..), fun k => ?_⟩
    obtain ⟨g, off, -, resv⟩ := (cores k).fields
    by_cases hk : k = e
    · subst hk
      simp only [Chip.onCore_core]
      exact ⟨g, off, resv⟩
    · simp only [Chip.onCore_other _ _ _ hk]
      exact ⟨g, off, resv⟩

end Sys2Proof.Machine
end

section
/-! LL, SC and the atomics in plain memory (R99, R106, R107, R108): what each answers, and what it changes. -/

namespace Sys2Proof.Machine

open Reg

/-! ### Before and after the access -/

section
variable {s : Chip} {e : CoreId}

/-- With no store under way an access that older stores must precede goes on at once (R145, R160). -/
theorem Steady.settled_eq (h : Steady s e) (hsb : s.cores[e].sb = []) (herr : s.cores[e].sbErr = []) (k : Chip → Chip × Got) :
    s.settled e k = k s := by
  unfold Chip.settled
  simp only [Chip.drainAll_empty hsb herr, hsb, h.impDue_eq]
  rfl

theorem Quiet.accessTokens (q : Quiet s e) (x : Ctx) (k : TokKind) (a n : Nat) (data : List Word) (g : Got) :
    Quiet (s.accessTokens e x k a n data g) e := by
  obtain ⟨c, hc⟩ := s.accessTokens_cur e x k a n data g
  rw [hc]
  exact ⟨q.shadows, q.counters, q.comparators, q.halts⟩

theorem Chip.atPort_plain {a : Nat} (hc : isCur e = false → s.dev.get (CAB_PMCTL_EN (cabOf e) (slotOf e)) = 0)
    (hw : s.dev.flag GAL_CCTL_EN = false) : s.atPort e a = s := by
  unfold Chip.atPort
  rw [Chip.countPort_off hc, Chip.asks_off hw]

/-- The first byte of a plain range. -/
theorem Plain.first {a n : Nat} (p : Plain s e a n) (hn : 1 ≤ n) :
    canon e a < 0x3000000 ∧ s.dev.galleryOff (canon e a) = false ∧ s.mem.flip (canon e a) = 0 :=
  ⟨canon_low p.inside p.array (k := 0) hn, p.powered 0 hn, p.clean 0 hn⟩

/-- The word an LL finds in plain memory. -/
theorem Chip.llRead_plain (h : Steady s e) {a : Nat} (p : Plain s e a 4) :
    s.llRead e a = (s, .val (BitVec.ofNat 32 (s.mem.bytesLE (canon e a) 4))) := by
  obtain ⟨low, powered, clean⟩ := p.first (by decide)
  unfold Chip.llRead Chip.arrPiece
  rw [isIo_low p.array, isFar_low p.array, Chip.atPort_plain h.counters p.unwatched]
  simp only [Bool.false_eq_true, if_false, Chip.memRead_clean 4 low powered clean]
  rfl

theorem Plain.granule {a : Nat} (p : Plain s e a 4) : s.dev.granule (canon e a) = canon e a / 64 :=
  Dev.granule_low (lt_trans (p.first (by decide)).1 (by decide))

variable (h : Steady s e) (hsb : s.cores[e].sb = []) (herr : s.cores[e].sbErr = []) {a : Nat} (p : Plain s e a 4)
include h hsb herr p

/-- LL reserves its granule (R107). -/
theorem Chip.llOp_plain : s.llOp e a
    = (s.onCore e fun k => { k with resv := some (canon e a / 64) }, .val (BitVec.ofNat 32 (s.mem.bytesLE (canon e a) 4))) := by
  unfold Chip.llOp
  rw [h.settled_eq hsb herr, Chip.llRead_plain h p]
  simp only [p.granule]

/-- SC without the reservation writes nothing (R107). -/
theorem Chip.scOp_fails (other : s.cores[e].resv ≠ some (canon e a / 64)) (w : Word) :
    s.scOp e a w = (s.onCore e fun k => { k.dcDrop a with resv := none }, .val 1) := by
  unfold Chip.scOp
  rw [h.settled_eq hsb herr, isIo_low p.array, p.granule]
  simp only [Bool.false_eq_true, if_false, if_neg other]

/-- SC with the reservation writes its word (R107). -/
theorem Chip.scOp_succeeds (own : s.cores[e].resv = some (canon e a / 64)) {w : Word} {u : Chip} (written : s.arrWrite e a 4 w = (u, .ok 0)) :
    s.scOp e a w = (u.onCore e fun k => { k.dcDrop a with resv := none }, .val 0) := by
  unfold Chip.scOp Chip.scWrite
  rw [h.settled_eq hsb herr, isIo_low p.array, isFar_low p.array, p.granule, Chip.countPort_off h.counters, written]
  simp only [Bool.false_eq_true, if_false, if_pos own]
  rfl

end

section
variable {s : State} {e : CoreId} {op : Op} {a : Nat}

/-- An instruction with one aligned access to a word of plain memory that its entries allow. -/
theorem Steady.act_word (h : Steady s.chip e) (rd wr : Bool) {u : Chip} {v : Word} (p : Plain s.chip e a 4) (h4 : a % 4 = 0)
    (hrd : rd = true → Allowed s.chip e .read a 4 false) (hwr : wr = true → Allowed s.chip e .write a 4 false) (hw : op.wf = true)
    (hp : op.isPrefix = false) (ha : op.acc s.chip.cores[e] = some ⟨a, 4, rd, wr, true, false⟩)
    (hr : s.chip.reach e (ownCtx e s.chip.cores[e]) op ⟨a, 4, rd, wr, true, false⟩ = (u, .val v)) (q : Quiet u e)
    (hn : op.newShadow e s.chip.cores[e] = []) (hb : op.isTbl = false) :
    (s.act fun c => c.runOp e op 0) = s.after (u.accessTokens e (ownCtx e s.chip.cores[e]) op.tokKind a 4 (op.sent s.chip.cores[e]) (.val v))
      e (op.commit v) (op.nextOff s.chip.cores[e] v) := by
  have may := ownCheck_plain (s := s.chip) (e := e) (t := ⟨a, 4, rd, wr, true, false⟩) p.array p.inside (fun _ => h4) hrd hwr (fun x => nomatch x)
  have access : s.chip.access e (ownCtx e s.chip.cores[e]) op ⟨a, 4, rd, wr, true, false⟩
      = (u.accessTokens e (ownCtx e s.chip.cores[e]) op.tokKind a 4 (op.sent s.chip.cores[e]) (.val v), .val v) := by
    unfold Chip.access
    rw [hr]
  exact h.act_mem op hw hp ha may access (q.accessTokens ..) (op.commit_shadows ..) hn hb

end

/-! ### A word rewritten -/

/-- An engine's access has left the word at m as new, and no reservation on its granule; nothing else of memory, of the device or of the engine's
registers has changed. -/
structure Chip.Rewrites (s t : Chip) (e : CoreId) (m : Nat) (new : Word) : Prop where
  dev : t.dev = s.dev
  bytes : ∀ b, t.mem.byte b = if m ≤ b ∧ b < m + 4 then new.extractLsb' (8 * (b - m)) 8 else s.mem.byte b
  regs : t.cores[e].g = s.cores[e].g
  shadows : t.cores[e].shadows = s.cores[e].shadows
  free : ∀ k : CoreId, t.cores[k].resv ≠ some (m / 64)

section
variable {s t : Chip} {e : CoreId} {m : Nat} {new : Word}

theorem Chip.Rewrites.quiet (r : s.Rewrites t e m new) (q : Quiet s e) : Quiet t e :=
  ⟨r.shadows.trans q.shadows, fun h => r.dev ▸ q.counters h, r.dev ▸ q.comparators, r.dev ▸ q.halts⟩

/-- A change of the core that takes no reservation leaves the granule free. -/
theorem Chip.Rewrites.free_onCore (r : s.Rewrites t e m new) {f : Core → Core}
    (hf : (f t.cores[e]).resv = t.cores[e].resv ∨ (f t.cores[e]).resv = none) (k : CoreId) : (t.onCore e f).cores[k].resv ≠ some (m / 64) := by
  by_cases hk : k = e
  · subst hk
    rw [Chip.onCore_core]
    rcases hf with keep | gone
    · rw [keep]
      exact r.free k
    · rw [gone]
      exact nofun
  · rw [Chip.onCore_other _ _ _ hk]
    exact r.free k

/-- A change of the core that leaves its registers and shadows and takes no reservation. -/
theorem Chip.Rewrites.onCore (r : s.Rewrites t e m new) {f : Core → Core} (hg : (f t.cores[e]).g = t.cores[e].g)
    (hs : (f t.cores[e]).shadows = t.cores[e].shadows) (hf : (f t.cores[e]).resv = t.cores[e].resv ∨ (f t.cores[e]).resv = none) :
    s.Rewrites (t.onCore e f) e m new where
  dev := r.dev
  bytes := r.bytes
  regs := by
    rw [Chip.onCore_core, hg]
    exact r.regs
  shadows := by
    rw [Chip.onCore_core, hs]
    exact r.shadows
  free := r.free_onCore hf

/-- An engine's write of a plain word (R107). -/
theorem Chip.arrWrite_rewrites {a : Nat} (p : Plain s e a 4) (w : Word) (he : isCur e = false) (ho : s.mem.owned = []) :
    ∃ t, s.arrWrite e a 4 w = (t, .ok 0) ∧ s.Rewrites t e (canon e a) w := by
  obtain ⟨t, written, dev, -, -, bytes, cores⟩ := Chip.arrWrite_plain w he p.array p.inside (by decide) (by decide) p.powered p.clean ho
    p.unwatched
  have resv (k : CoreId) : t.cores[k].resv ≠ some (canon e a / 64) := by
    rw [(cores k).fields.2.2.2]
    split
    · exact nofun
    next other => exact fun x => other (.inl x)
  obtain ⟨dc, core, -⟩ := cores e
  exact ⟨t, written, dev, bytes, by rw [core], by rw [core], resv⟩

theorem portOf_engine (he : isCur e = false) (a : Nat) : (portOf e a).uid ≠ 0x18 := by
  unfold portOf uidOf
  rw [he]
  simp
  omega

/-- An engine's atomic on a plain word (R106). -/
theorem Chip.amoMem_rewrites {a : Nat} (h : Steady s e) (p : Plain s e a 4) (f : Word → Word) (he : isCur e = false) (ho : s.mem.owned = []) :
    ∃ t, s.amoMem e a f = (t, .val (BitVec.ofNat 32 (s.mem.bytesLE (canon e a) 4)))
      ∧ s.Rewrites t e (canon e a) (f (BitVec.ofNat 32 (s.mem.bytesLE (canon e a) 4))) := by
  obtain ⟨low, powered, clean⟩ := p.first (by decide)
  have array := p.array
  have answered := Chip.memAtomic_clean (s := s) f low powered clean ho (portOf_engine he a)
  have bank : (isIo a || a / 0x1000000 == 3) = false := by
    rw [isIo_low array, Bool.false_or, beq_eq_false_iff_ne]
    omega
  let old : Word := BitVec.ofNat 32 (s.mem.bytesLE (canon e a) 4)
  let t : Chip := { s with mem := s.mem.setBytes (canon e a) 4 (f old).toNat, cores := (s.clearResv (lineOf (canon e a))).cores }
  have effect : s.amoMem e a f = (t, .val old) := by
    unfold Chip.amoMem
    rw [bank, isFar_low array, Chip.atPort_plain h.counters p.unwatched]
    simp only [Bool.false_eq_true, if_false, answered]
    rfl
  have core (k : CoreId) : t.cores[k] = { s.cores[k] with resv := if s.cores[k].resv = some (canon e a / 64) then none else s.cores[k].resv } :=
    Chip.clearResv_core s (lineOf (canon e a)) k
  refine ⟨t, effect, rfl, fun b => ?_, by rw [core], by rw [core], fun k => ?_⟩
  · show (s.mem.setBytes (canon e a) 4 (f old).toNat).byte b = _
    rw [Mem.byte_setBytes]
    split
    · exact byte_of_word _ _ (by omega)
    · rfl
  · rw [core]
    dsimp only
    split
    · exact nofun
    next other => exact other

end

section
variable {s : State} {e : CoreId} {op : Op} {a : Nat} {u : Chip} {new v : Word} {rt : GReg}

/-- What an engine's LL-SC or atomic that rewrites its word leaves. -/
theorem Steady.act_rewrites (h : Steady s.chip e) (rd wr : Bool) (he : isCur e = false) (p : Plain s.chip e a 4) (h4 : a % 4 = 0)
    (hrd : rd = true → Allowed s.chip e .read a 4 false) (hwr : wr = true → Allowed s.chip e .write a 4 false) (hw : op.wf = true)
    (hp : op.isPrefix = false) (ha : op.acc s.chip.cores[e] = some ⟨a, 4, rd, wr, true, false⟩)
    (hr : s.chip.reach e (ownCtx e s.chip.cores[e]) op ⟨a, 4, rd, wr, true, false⟩ = (u, .val v))
    (r : s.chip.Rewrites u e (canon e a) new) (hc : op.commit v = fun c => c.wr rt v)
    (ho : op.nextOff s.chip.cores[e] v = s.chip.cores[e].off + 4) (hn : op.newShadow e s.chip.cores[e] = []) (hb : op.isTbl = false) :
    ∃ t, (s.act fun c => c.runOp e op 0) = .next t ∧ t.chip.dev = s.chip.dev
      ∧ (∀ b, t.chip.mem.byte b = if canon e a ≤ b ∧ b < canon e a + 4 then new.extractLsb' (8 * (b - canon e a)) 8 else s.chip.mem.byte b)
      ∧ (∀ x, t.chip.cores[e].rd x = if x = rt ∧ x ≠ 0 then v else s.chip.cores[e].rd x)
      ∧ t.chip.cores[e].off = s.chip.cores[e].off + 4 ∧ ∀ k : CoreId, t.chip.cores[k].resv ≠ some (canon e a / 64) := by
  have ran := h.act_word rd wr p h4 hrd hwr hw hp ha hr (r.quiet h.quiet) hn hb
  rw [Chip.accessTokens_engine he, hc, ho] at ran
  unfold State.after at ran
  rw [Chip.settle_of_calm (show Calm (u.onCore e _).dev from r.dev ▸ h.calm)] at ran
  refine ⟨_, ran, r.dev, r.bytes, fun x => ?_, congrArg Core.off (Chip.onCore_core ..), r.free_onCore (.inl (Core.wr_resv ..))⟩
  have same : u.cores[e].rd x = s.chip.cores[e].rd x := by
    unfold Core.rd
    rw [r.regs]
  show (u.onCore e (Core.goOn (fun c => c.wr rt v) fun _ => s.chip.cores[e].off + 4)).cores[e].rd x = _
  rw [Chip.onCore_core, ← same]
  refine (Core.rd_wr u.cores[e] rt x v).trans (if_congr (and_congr_right fun hx => ?_) rfl rfl)
  rw [hx]

/-- An engine's atomic (R99, R106). -/
theorem Steady.act_amo (h : Steady s.chip e) (f : AmoFn) {ra rb : GReg} (hsb : s.chip.cores[e].sb = []) (herr : s.chip.cores[e].sbErr = [])
    (he : isCur e = false) (owned : s.chip.mem.owned = []) (h4 : (s.chip.cores[e].rd ra).toNat % 4 = 0)
    (p : Plain s.chip e (s.chip.cores[e].rd ra).toNat 4) (hrd : Allowed s.chip e .read (s.chip.cores[e].rd ra).toNat 4 false)
    (hwr : Allowed s.chip e .write (s.chip.cores[e].rd ra).toNat 4 false) {m : Nat} {old new : Word}
    (hm : canon e (s.chip.cores[e].rd ra).toNat = m) (hold : BitVec.ofNat 32 (s.chip.mem.bytesLE m 4) = old)
    (hnew : f.eval old (s.chip.cores[e].rd rb) = new) :
    ∃ t, (s.act fun c => c.runOp e (.amo f rt ra rb) 0) = .next t ∧ t.chip.dev = s.chip.dev
      ∧ (∀ b, t.chip.mem.byte b = if m ≤ b ∧ b < m + 4 then new.extractLsb' (8 * (b - m)) 8 else s.chip.mem.byte b)
      ∧ (∀ x, t.chip.cores[e].rd x = if x = rt ∧ x ≠ 0 then old else s.chip.cores[e].rd x)
      ∧ t.chip.cores[e].off = s.chip.cores[e].off + 4 ∧ ∀ k : CoreId, t.chip.cores[k].resv ≠ some (m / 64) := by
  subst hm hold hnew
  obtain ⟨u, answered, r⟩ := Chip.amoMem_rewrites h p (fun v => f.eval v (s.chip.cores[e].rd rb)) he owned
  have reach : s.chip.amoOp e (s.chip.cores[e].rd ra).toNat (fun v => f.eval v (s.chip.cores[e].rd rb))
      = ((u.dropOwnResv e (s.chip.cores[e].rd ra).toNat).onCore e (·.dcDrop (s.chip.cores[e].rd ra).toNat),
          .val (BitVec.ofNat 32 (s.chip.mem.bytesLE (canon e (s.chip.cores[e].rd ra).toNat) 4))) := by
    unfold Chip.amoOp
    rw [h.settled_eq hsb herr, answered]
  have dropped := r.onCore (f := fun c => if c.resv = some (u.dev.granule (canon e (s.chip.cores[e].rd ra).toNat)) then { c with resv := none } else c)
    (by split <;> rfl) (by split <;> rfl) (by split <;> simp)
  exact h.act_rewrites (op := .amo f rt ra rb) true true he p h4 (fun _ => hrd) (fun _ => hwr) rfl rfl rfl reach
    (dropped.onCore rfl rfl (.inl rfl)) rfl rfl rfl rfl

end

/-- Settles O13: each access goes on at once, since no store is under way, and finds its word in plain memory. -/
theorem readModifyWrites : Obligations.ReadModifyWrites := by
  refine ⟨fun s e rt ra rb h hsb herr => ?linked, fun s e rt ra rb h hsb herr he owned => ?atomics⟩
  case linked =>
    intro c a m old passes h4 p
    refine ⟨fun al => ?ll, fun al other => ?fails, fun al own he owned => ?succeeds⟩
    case ll =>
      exact h.act_word (op := .ll rt ra) true false p h4 (fun _ => al) (fun x => nomatch x) rfl rfl rfl (Chip.llOp_plain h hsb herr p)
        (h.quiet.onCore rfl) rfl rfl
    case fails =>
      exact h.act_word (op := .sc rt ra rb) false true p h4 (fun x => nomatch x) (fun _ => al) rfl rfl rfl
        (Chip.scOp_fails h hsb herr p other _) (h.quiet.onCore rfl) rfl rfl
    case succeeds =>
      obtain ⟨u, written, r⟩ := Chip.arrWrite_rewrites p (c.rd rb) he owned
      exact h.act_rewrites (op := .sc rt ra rb) false true he p h4 (fun x => nomatch x) (fun _ => al) rfl rfl rfl
        (Chip.scOp_succeeds h hsb herr p own written) (r.onCore rfl rfl (.inr rfl)) rfl rfl rfl rfl
  case atomics =>
    intro c a m old h4 p hrd hwr does
    have amo {f : AmoFn} {new : Word} (hnew : f.eval old (c.rd rb) = new) := h.act_amo (rt := rt) f hsb herr he owned h4 p hrd hwr rfl rfl hnew
    exact ⟨amo (f := .swap) rfl, amo (f := .add) rfl, amo (f := .and) rfl, amo (f := .or) rfl, amo (f := .min) (min_value ..),
      amo (f := .max) (max_value ..)⟩

end Sys2Proof.Machine
end

section
/-! FENCE.A, FENCE.R, INVAL and FLUSH (R104, R119, R120, R159, R188). -/

namespace Sys2Proof.Machine

open Reg

section
variable {s : Chip} {e : CoreId}

theorem Chip.onCore_id (s : Chip) (e : CoreId) : s.onCore e id = s := Chip.onCore_same s e rfl

/-- With no store under way an operation that older stores must precede is done at once. -/
theorem Steady.afterStores_eq (h : Steady s e) (hsb : s.cores[e].sb = []) (herr : s.cores[e].sbErr = []) (x : Ctx) (op : Op) (f : Chip → Chip) :
    s.afterStores e x op f = ((f s).retired e x.km op, .go (s.cores[e].off + 4)) := by
  unfold Chip.afterStores
  rw [h.settled_eq hsb herr]

/-- A line of an array that may be read passes the checks of INVAL and FLUSH (R120). -/
theorem lineCheck_plain {c : Core} {x : Ctx} {a : Nat} (hb : a / 0x1000000 < 3) (hi : implemented e a 1 = true)
    (ha : c.allowed x.km .read a 1 = true) : lineCheck e c x a = none := by
  unfold lineCheck
  rw [isIo_low hb, isFar_low hb, hi, ha, if_neg (show ¬ a / 0x1000000 = 3 by omega)]
  rfl

/-- INVAL and FLUSH find nothing to check in register space and the depot windows (R120). -/
theorem lineCheck_io {c : Core} {x : Ctx} {a : Nat} (h : isIo a = true) : lineCheck e c x a = none := if_pos h

/-- INVAL of an array line drops it from the caches it names (R120). -/
theorem Chip.invalLine_plain {a : Nat} (hb : a / 0x1000000 < 3) (sel : BitVec 2) : s.invalLine e a sel = s.onCore e fun k =>
    { k with
      dcache := if sel.getLsbD 0 then k.dcache.filter fun p => p.1 != a / 64 else k.dcache
      icache := if sel.getLsbD 1 then k.icache.filter fun p => p.1 != a / 64 else k.icache } := by
  unfold Chip.invalLine
  rw [isIo_low hb, isFar_low hb]
  simp only [Bool.false_and, Bool.false_eq_true, if_false]
  apply Chip.onCore_congr
  cases sel.getLsbD 0 <;> cases sel.getLsbD 1 <;> rfl

theorem Chip.invalLine_io {a : Nat} (h : isIo a = true) (sel : BitVec 2) : s.invalLine e a sel = s.onCore e id :=
  (if_pos h).trans (s.onCore_id e).symm

theorem Chip.flushLine_plain (h : Steady s e) (hsb : s.cores[e].sb = []) (herr : s.cores[e].sbErr = []) {a : Nat} (hb : a / 0x1000000 < 3) :
    s.flushLine e a = (s.onCore e (·.dcDrop a), .val 0) := by
  unfold Chip.flushLine
  rw [isIo_low hb, h.settled_eq hsb herr, isFar_low hb]
  rfl

theorem Chip.flushLine_io {a : Nat} (h : isIo a = true) : s.flushLine e a = (s.onCore e id, .val 0) :=
  (if_pos h).trans (congrArg (·, Got.val 0) (s.onCore_id e).symm)

end

section
variable {s : State} {e : CoreId} {ra : GReg} {f : Core → Core}

/-- An INVAL that passes its checks and changes its core alone. -/
theorem Steady.act_inval (h : Steady s.chip e) {sel : BitVec 2} (hsel : sel ≠ 0)
    (check : lineCheck e s.chip.cores[e] (ownCtx e s.chip.cores[e]) (s.chip.cores[e].rd ra).toNat = none)
    (line : s.chip.invalLine e (s.chip.cores[e].rd ra).toNat sel = s.chip.onCore e f)
    (hf : (f s.chip.cores[e]).shadows = s.chip.cores[e].shadows) :
    (s.act fun c => c.runOp e (.inval ra sel) 0) = s.after ((s.chip.onCore e f).accessTokens e (ownCtx e s.chip.cores[e]) .inval
      ((s.chip.cores[e].rd ra).toNat / 4 * 4) 4 [sel.zeroExtend 32] (.val 0)) e id (s.following e) := by
  have quiet := (h.quiet.onCore hf).accessTokens (ownCtx e s.chip.cores[e]) .inval ((s.chip.cores[e].rd ra).toNat / 4 * 4) 4
    [sel.zeroExtend 32] (.val 0)
  refine h.act_next (.inval ra sel) 0 ?_ quiet rfl rfl
  have assigned : (Op.inval ra sel).wf = true := bne_iff_ne.2 hsel
  rw [Chip.effect_sys assigned rfl rfl]
  show s.chip.invalOp e _ ra sel = _
  unfold Chip.invalOp
  simp only [check, line, quiet.retired_eq]
  rfl

/-- A FLUSH that passes its checks and changes its core alone. -/
theorem Steady.act_flush (h : Steady s.chip e)
    (check : lineCheck e s.chip.cores[e] (ownCtx e s.chip.cores[e]) (s.chip.cores[e].rd ra).toNat = none)
    (line : s.chip.flushLine e (s.chip.cores[e].rd ra).toNat = (s.chip.onCore e f, .val 0))
    (hf : (f s.chip.cores[e]).shadows = s.chip.cores[e].shadows) :
    (s.act fun c => c.runOp e (.flush ra) 0) = s.after ((s.chip.onCore e f).accessTokens e (ownCtx e s.chip.cores[e]) .flush
      ((s.chip.cores[e].rd ra).toNat / 4 * 4) 4 [] (.val 0)) e id (s.following e) := by
  have quiet := (h.quiet.onCore hf).accessTokens (ownCtx e s.chip.cores[e]) .flush ((s.chip.cores[e].rd ra).toNat / 4 * 4) 4 [] (.val 0)
  refine h.act_next (.flush ra) 0 ?_ quiet rfl rfl
  rw [Chip.effect_sys rfl rfl rfl]
  show s.chip.flushOp e _ ra = _
  unfold Chip.flushOp Chip.flushed
  simp only [check, line, quiet.retired_eq]
  rfl

end

/-- Settles O17: each operation is done at once and changes the caches of its own core alone. -/
theorem fencesAndLines : Obligations.FencesAndLines := by
  intro s e ra sel h c a plain drop passes
  have check (p : plain) : lineCheck e c (ownCtx e c) a = none := lineCheck_plain p.1 p.2.1 p.2.2
  refine ⟨?fenceA, fun hsb herr => ?fenceR, fun p hsel => ?inval, fun p hsb herr => ?flush, fun io hsel => ⟨?invalIo, ?flushIo⟩⟩
  case fenceA =>
    have effect : s.chip.effect e (ownCtx e c) .fenceA 0 = (s.chip.onCore e Core.fenceA, .go c.nextOff) := by
      rw [Chip.effect_sys rfl rfl rfl]
      show ((s.chip.retired e _ _).onCore e Core.fenceA, _) = _
      rw [h.retired_eq]
      rfl
    exact h.act_go .fenceA 0 Core.fenceA Core.nextOff effect rfl rfl rfl
  case fenceR =>
    have effect : s.chip.effect e (ownCtx e c) .fenceR 0 = (s.chip.onCore e id, .go c.nextOff) := by
      rw [Chip.effect_sys rfl rfl rfl, Chip.onCore_id]
      show s.chip.afterStores e _ .fenceR id = _
      rw [h.afterStores_eq hsb herr]
      exact congrArg (·, _) (h.retired_eq ..)
    exact h.act_go .fenceR 0 id Core.nextOff effect rfl rfl rfl
  case inval => exact h.act_inval hsel (check p) (Chip.invalLine_plain p.1 sel) rfl
  case flush => exact h.act_flush (check p) (Chip.flushLine_plain h hsb herr p.1) rfl
  case invalIo => exact h.act_inval hsel (lineCheck_io io) (Chip.invalLine_io io sel) rfl
  case flushIo => exact h.act_flush (lineCheck_io io) (Chip.flushLine_io io) rfl

end Sys2Proof.Machine
end

section
/-! WFE, WAITT and SEV (R116, R117, R118), and what ends a wait (R72, R142). -/

namespace Sys2Proof.Machine

open Reg

/-! ### Tokens, events and the latch -/

section
variable {s : Chip} {e : CoreId}

/-- Tokens leave the event latches as they were. -/
theorem Chip.tokens_latch (s : Chip) (e : CoreId) (ts : List Token) : (s.tokens e ts).dev.latch = s.dev.latch := by
  obtain ⟨c, hc⟩ := s.tokens_cur e ts
  rw [hc]

theorem Chip.sysToken_latched (s : Chip) (e : CoreId) (k : TokKind) (data : List Word) : (s.sysToken e k data).latched e = s.latched e :=
  congrArg (BitVec.getLsbD · e.val) (s.tokens_latch e _)

theorem Chip.sysToken_cores (s : Chip) (e : CoreId) (k : TokKind) (data : List Word) : (s.sysToken e k data).cores = s.cores := s.tokens_cores e _

theorem Chip.sysToken_now (s : Chip) (e : CoreId) (k : TokKind) (data : List Word) : (s.sysToken e k data).dev.now = s.dev.now := s.tokens_now e _

theorem Quiet.tokens (q : Quiet s e) (ts : List Token) : Quiet (s.tokens e ts) e := by
  obtain ⟨c, hc⟩ := s.tokens_cur e ts
  rw [hc]
  exact ⟨q.shadows, q.counters, q.comparators, q.halts⟩

theorem Calm.tokens (h : Calm s.dev) (ts : List Token) : Calm (s.tokens e ts).dev := by
  obtain ⟨c, hc⟩ := s.tokens_cur e ts
  rw [hc]
  exact ⟨h.todo, h.defer, h.awake, h.phase, h.wire⟩

/-- A cleared latch leaves a quiet core quiet. -/
theorem Quiet.clearLatch (q : Quiet s e) (n : Nat) : Quiet (s.onDev (·.clearLatch n)) e :=
  ⟨q.shadows, q.counters, q.comparators, q.halts⟩

/-- The merge counter is no comparator (R371, R487). -/
theorem merge_ne_comparator {e : CoreId} {c : Cmp} (h : c ∈ cmpsOf e) : EVN_MERGE_COUNT.addr ≠ c.action.addr := by
  unfold cmpsOf at h
  split at h
  · obtain ⟨i, -, rfl⟩ := List.mem_map.1 h
    simp only [EVN_MERGE_COUNT, EVN_MERGE, DBG_CMPC_CTL_ACTION, DBG_CMPC_CTL]
    omega
  · obtain ⟨i, -, rfl⟩ := List.mem_map.1 h
    simp only [EVN_MERGE_COUNT, EVN_MERGE, DBG_CMP_CTL_ACTION, DBG_CMP_CTL]
    omega

theorem merge_ne_counters (k i : Nat) : EVN_MERGE_COUNT.addr ≠ (CAB_PMCTL_EN k i).addr := by
  simp only [EVN_MERGE_COUNT, EVN_MERGE, CAB_PMCTL_EN, CAB_PMCTL]
  omega

/-- An event sets a latch or counts a merge; a quiet core stays quiet. -/
theorem Quiet.event (q : Quiet s e) (n : Nat) : Quiet (s.onDev (·.event n)) e := by
  have other (d : Dev) (f : Fld) (h : EVN_MERGE_COUNT.addr ≠ f.addr) : (d.event n).get f = d.get f := by
    unfold Dev.event
    split
    · exact Dev.get_put_of_ne h
    · rfl
  have halts : (s.dev.event n).dbg = s.dev.dbg := by
    unfold Dev.event
    split <;> rfl
  exact ⟨q.shadows, fun h => (other _ _ (merge_ne_counters _ _)).trans (q.counters h),
    fun c hc => (other _ _ (merge_ne_comparator hc)).trans (q.comparators c hc),
    (congrArg (fun d : Dbg => d.haltReq.getLsbD e.val) halts).trans q.halts⟩

/-! ### The end of a WFE or WAITT -/

/-- The word of a WAITT that ends: 1 for the timebase, 2 for an event (R118). -/
theorem waittWord_eq (past set : Bool) : waittWord past set = BitVec.ofNat 32 ((if past then 1 else 0) + (if set then 2 else 0)) := by
  cases past <;> cases set <;> rfl

/-- The latch cleared, with the tokens of the end of the wait (R343). -/
def Chip.leaves (s : Chip) (e : CoreId) (by' k : TokKind) (data : List Word) : Chip :=
  (s.onDev (·.clearLatch e.val)).leaveToken e by' k data

theorem Quiet.leaves (q : Quiet s e) (by' k : TokKind) (data : List Word) : Quiet (s.leaves e by' k data) e := (q.clearLatch e.val).tokens _

theorem Chip.waittEnd_eq (s : Chip) (e : CoreId) (rd : GReg) (t : BitVec 64) {past set : Bool} {w : Word}
    (hp : Decidable.decide (t ≤ s.dev.now) = past) (hs : s.latched e = set)
    (hw : BitVec.ofNat 32 ((if past then 1 else 0) + (if set then 2 else 0)) = w) :
    s.waittEnd e rd t = (s.leaves e (if past then .timeout else .event) .waittEnd [w]).onCore e (·.wr rd w) := by
  subst hp hs hw
  rw [← waittWord_eq]
  unfold Chip.waittEnd Chip.leaves
  simp only [decide_eq_true_eq]

end

/-! ### WFE, WAITT, SEV -/

section
variable {s : State} {e : CoreId}

/-- An instruction that begins a wait. -/
theorem Steady.act_waits (h : Steady s.chip e) (op : Op) {t : Chip} {w : Wait}
    (he : s.chip.effect e (ownCtx e s.chip.cores[e]) op 0 = (t, .wait w)) (calm : Calm t.dev) :
    (s.act fun c => c.runOp e op 0) = .next { s with chip := t.onCore e fun k => { k with wait := w, resumed := false, tblPair := false } } := by
  refine Steady.act_eq op 0 ?_ calm
  rw [h.runOp_eq op 0 (.inl (by rw [he]; rfl)), he]
  rfl

theorem Steady.act_sev (h : Steady s.chip e) (hsb : s.chip.cores[e].sb = []) (herr : s.chip.cores[e].sbErr = []) (op : Op) (n : Nat) {m : Nat}
    (hm : m % 64 = n) (hw : op.wf = true) (hp : op.isPrefix = false) (ha : op.acc s.chip.cores[e] = none)
    (hs : ∀ x, s.chip.sysOp e x op = s.chip.sevOp e x op 1 m) (hn : op.newShadow e s.chip.cores[e] = []) (hb : op.isTbl = false) :
    (s.act fun c => c.runOp e op 0)
      = s.after ((s.chip.sysToken e .sev [1, BitVec.ofNat 32 m]).onDev (·.event n)) e id (s.following e) := by
  subst hm
  have quiet : Quiet ((s.chip.sysToken e .sev [1, BitVec.ofNat 32 m]).onDev (·.event (m % 64))) e := (h.quiet.tokens _).event _
  refine h.act_next op 0 ?_ quiet hn hb
  rw [Chip.effect_sys hw hp ha, hs]
  unfold Chip.sevOp
  rw [h.afterStores_eq hsb herr]
  exact congrArg (·, _) (quiet.retired_eq ..)

end

/-! ### What ends a wait -/

section
variable {s : State} {e : CoreId} {w : Wait}

theorem Waiting.calm (h : Waiting s.chip e w) : Calm s.chip.dev := h.steady.calm

theorem Waiting.ready_eq (h : Waiting s.chip e w) : s.chip.ready e = true := by
  have ready := h.steady.ready_eq
  unfold Chip.ready at ready ⊢
  rwa [Chip.onCore_core] at ready

theorem Waiting.begin_eq (h : Waiting s.chip e w) : s.chip.begin e = s.chip := if_neg h.steady.awake

theorem Waiting.quiet (h : Waiting s.chip e w) : Quiet s.chip e := by
  refine ⟨?_, h.steady.counters, h.steady.comparators, h.steady.halts⟩
  have shadows := h.steady.shadows
  rwa [Chip.onCore_core] at shadows

/-- A wait that ends by f goes on with the next instruction. -/
theorem Waiting.endWait_eq (h : Waiting s.chip e w) (op : Op) {f : Chip → Chip} {t : Chip} {g : Core → Core} (hf : f s.chip = t.onCore e g)
    (q : Quiet t e) (hg : (g t.cores[e]).shadows = t.cores[e].shadows) (hn : ∀ c, op.newShadow e c = []) (hb : op.isTbl = false) :
    s.leaves (s.chip.endWait e op f) = s.after t e g (s.chip.cores[e].off + 4) := by
  have q' : Quiet (t.onCore e g) e := q.onCore hg
  have ended : s.chip.endWait e op f = (t.onCore e g).onCore e (Core.goOn id fun _ => s.chip.cores[e].off + 4) := by
    unfold Chip.endWait
    simp only [h.begin_eq, hf, q'.retired_eq]
    exact Chip.conclude_go q'.shadows q'.comparators q'.halts (hn _) hb _ _ _
  rw [ended, Chip.onCore_onCore]
  rfl

end

/-! ### The instructions, case by case -/

section
variable {s : State} {e : CoreId} (h : Steady s.chip e)
include h

theorem Steady.act_wfe_goes (hs : s.chip.latched e = true) : (s.act fun c => c.runOp e .wfe 0)
    = s.after ((s.chip.sysToken e .wfe []).leaves e .event .wfeEnd []) e id (s.following e) := by
  have quiet : Quiet ((s.chip.sysToken e .wfe []).leaves e .event .wfeEnd []) e := (h.quiet.tokens _).leaves ..
  refine h.act_next .wfe 0 ?_ quiet rfl rfl
  rw [Chip.effect_sys rfl rfl rfl]
  show s.chip.wfeOp e _ = _
  unfold Chip.wfeOp
  simp only [Chip.sysToken_latched, hs, if_true, Chip.sysToken_cores]
  exact congrArg (·, _) (quiet.retired_eq ..)

theorem Steady.act_wfe_waits (hs : s.chip.latched e = false) : (s.act fun c => c.runOp e .wfe 0)
    = .next { s with chip := (s.chip.sysToken e .wfe []).onCore e fun k => { k with wait := .wfe, resumed := false, tblPair := false } } := by
  refine h.act_waits .wfe ?_ (h.calm.tokens _)
  rw [Chip.effect_sys rfl rfl rfl]
  show s.chip.wfeOp e _ = _
  unfold Chip.wfeOp
  simp only [Chip.sysToken_latched, hs, Bool.false_eq_true, if_false]

variable {rd ra : GReg} (hra : ra ≠ 31) {past : Bool} (hp : Decidable.decide (s.chip.cores[e].pair ra ≤ s.chip.dev.now) = past)
include hra hp

theorem Steady.act_waitt_goes {set : Bool} (hs : s.chip.latched e = set) (ends : set = true ∨ past = true) {w : Word}
    (hw : BitVec.ofNat 32 ((if past then 1 else 0) + (if set then 2 else 0)) = w) : (s.act fun c => c.runOp e (.waitt rd ra) 0)
      = s.after ((s.chip.sysToken e .waitt [(s.chip.cores[e].pair ra).extractLsb' 0 32, (s.chip.cores[e].pair ra).extractLsb' 32 32]).leaves e
        (if past then .timeout else .event) .waittEnd [w]) e (fun k => k.wr rd w) (s.following e) := by
  have assigned : (Op.waitt rd ra).wf = true := bne_iff_ne.2 hra
  have quiet : Quiet ((s.chip.sysToken e .waitt [(s.chip.cores[e].pair ra).extractLsb' 0 32, (s.chip.cores[e].pair ra).extractLsb' 32 32]).leaves e
    (if past then .timeout else .event) .waittEnd [w]) e := (h.quiet.tokens _).leaves ..
  have quiet' := quiet.onCore (f := fun k => k.wr rd w) (Core.wr_shadows ..)
  have effect : s.chip.effect e (ownCtx e s.chip.cores[e]) (.waitt rd ra) 0
      = (Chip.onCore ((s.chip.sysToken e .waitt [(s.chip.cores[e].pair ra).extractLsb' 0 32, (s.chip.cores[e].pair ra).extractLsb' 32 32]).leaves e
      (if past then .timeout else .event) .waittEnd [w]) e (fun k => k.wr rd w), .go (s.following e)) := by
    rw [Chip.effect_sys assigned rfl rfl]
    show s.chip.waittOp e _ rd ra = _
    unfold Chip.waittOp Chip.waittEnds
    have ended : (past || set) = true := by
      rcases ends with rfl | rfl
      · exact Bool.or_true _
      · rfl
    have now : Decidable.decide (s.chip.cores[e].pair ra ≤ (s.chip.sysToken e .waitt [(s.chip.cores[e].pair ra).extractLsb' 0 32,
      (s.chip.cores[e].pair ra).extractLsb' 32 32]).dev.now) = past := by rw [Chip.sysToken_now, hp]
    have latch := (Chip.sysToken_latched s.chip e .waitt [(s.chip.cores[e].pair ra).extractLsb' 0 32,
      (s.chip.cores[e].pair ra).extractLsb' 32 32]).trans hs
    simp only [now, latch, Chip.sysToken_cores, ended, if_true]
    rw [Chip.waittEnd_eq _ e rd _ now latch hw, quiet'.retired_eq]
    rfl
  rw [h.act_next (.waitt rd ra) 0 effect quiet' rfl rfl, State.after_onCore]
  rfl

theorem Steady.act_waitt_waits (hs : s.chip.latched e = false) (before : past = false) : (s.act fun c => c.runOp e (.waitt rd ra) 0)
    = .next { s with chip := (s.chip.sysToken e .waitt [(s.chip.cores[e].pair ra).extractLsb' 0 32,
        (s.chip.cores[e].pair ra).extractLsb' 32 32]).onCore e fun k =>
          { k with wait := .waitt rd (s.chip.cores[e].pair ra), resumed := false, tblPair := false } } := by
  have assigned : (Op.waitt rd ra).wf = true := bne_iff_ne.2 hra
  refine h.act_waits (.waitt rd ra) ?_ (h.calm.tokens _)
  rw [Chip.effect_sys assigned rfl rfl]
  show s.chip.waittOp e _ rd ra = _
  unfold Chip.waittOp Chip.waittEnds
  simp only [Chip.sysToken_latched, Chip.sysToken_now, hp, hs, before, Bool.or_self, Bool.false_eq_true, if_false]

end

/-! ### The ends, case by case -/

section
variable {s : State} {e : CoreId} {rd : GReg} {t : BitVec 64}

theorem Waiting.wfeWake_eq (h : Waiting s.chip e .wfe) (hs : s.chip.latched e = true) :
    s.leaves (s.chip.eventWake e) = s.after (s.chip.leaves e .event .wfeEnd []) e id (s.chip.cores[e].off + 4) := by
  have wakes : s.chip.eventWake e = s.chip.endWait e .wfe fun s => s.leaves e .event .wfeEnd [] := by
    unfold Chip.eventWake
    simp only [h.ready_eq, hs, h.wait, Bool.and_self, if_true]
    rfl
  rw [wakes]
  exact h.endWait_eq .wfe (Chip.onCore_id _ e).symm (h.quiet.leaves ..) rfl (fun _ => rfl) rfl

/-- A WAITT that ends tells why (R118). -/
theorem Waiting.waittEnds_eq (h : Waiting s.chip e (.waitt rd t)) {past set : Bool} (hp : Decidable.decide (t ≤ s.chip.dev.now) = past)
    (hs : s.chip.latched e = set) {w : Word} (hw : BitVec.ofNat 32 ((if past then 1 else 0) + (if set then 2 else 0)) = w) :
    s.leaves (s.chip.endWait e (.waitt rd 0) fun s => s.waittEnd e rd t)
      = s.after (s.chip.leaves e (if past then .timeout else .event) .waittEnd [w]) e (fun k => k.wr rd w) (s.chip.cores[e].off + 4) :=
  h.endWait_eq _ (Chip.waittEnd_eq s.chip e rd t hp hs hw) (h.quiet.leaves ..) (Core.wr_shadows ..) (fun _ => rfl) rfl

theorem Waiting.eventWake_eq (h : Waiting s.chip e (.waitt rd t)) (hs : s.chip.latched e = true) :
    s.chip.eventWake e = s.chip.endWait e (.waitt rd 0) fun s => s.waittEnd e rd t := by
  unfold Chip.eventWake
  simp only [h.ready_eq, hs, h.wait, Bool.and_self, if_true]

theorem Waiting.timeWake_eq (h : Waiting s.chip e (.waitt rd t)) {past : Bool} (hp : Decidable.decide (t ≤ s.chip.dev.now) = past) :
    s.chip.timeWake e = if past then s.chip.endWait e (.waitt rd 0) fun s => s.waittEnd e rd t else s.chip := by
  unfold Chip.timeWake
  simp only [h.ready_eq, h.wait, hp, Bool.true_and]

/-- An access that waited for older stores is executed again from its boundary (R142). -/
theorem Waiting.overlapRetry_eq {op : Op} {body : Word} (h : Waiting s.chip e (.overlap op body none))
    (goes : (((s.chip.onDev (·.forget e)).onCore e fun k => { k with wait := .none }).fromBoundary e op body).cores[e].wait = .none) :
    s.chip.overlapRetry e = ((s.chip.onDev (·.forget e)).onCore e fun k => { k with wait := .none }).fromBoundary e op body := by
  unfold Chip.overlapRetry Chip.redo Chip.retry Chip.again
  simp only [h.wait, h.ready_eq, goes, if_true]
  rfl

end

/-- Settles O18: a wait ends where its latch is set or its time has come, with its tokens; else the core waits. -/
theorem waitsAndEvents : Obligations.WaitsAndEvents := by
  refine ⟨fun s e rd ra n h hra => ?instructions, fun s e rd t op body => ?ends⟩
  case instructions =>
    intro c set past asleep unlatched until' tells event
    refine ⟨fun hs => h.act_wfe_goes hs, fun hs => h.act_wfe_waits hs, fun ends => h.act_waitt_goes hra rfl rfl ends rfl,
      fun hs hp => h.act_waitt_waits hra rfl hs hp, fun hsb herr => ⟨?sev, ?sevr⟩⟩
    case sev =>
      have target : (BitVec.ofNat 6 n.val).toNat = n.val := Nat.mod_eq_of_lt n.isLt
      refine (h.act_sev hsb herr (.sev 1 (BitVec.ofNat 6 n)) n (Nat.mod_eq_of_lt n.isLt) rfl rfl rfl (fun x => ?_) rfl rfl).trans rfl
      exact congrArg (s.chip.sevOp e x _ 1) target
    case sevr =>
      exact h.act_sev hsb herr (.sevr 1 ra) ((c.rd ra).toNat % 64) (m := (c.rd ra).toNat % 64) (Nat.mod_mod _ _) rfl rfl rfl (fun _ => rfl) rfl rfl
  case ends =>
    intro c set past unlatched word tells awoke timed
    refine ⟨fun h hs => h.wfeWake_eq hs, fun h hs => ?event, fun h hp => ?time, fun h hp => ?early, fun h => ?overlap⟩
    case event => exact (congrArg s.leaves (h.eventWake_eq hs)).trans (h.waittEnds_eq rfl rfl rfl)
    case time => exact (congrArg s.leaves ((h.timeWake_eq rfl).trans (if_pos hp))).trans (h.waittEnds_eq rfl rfl rfl)
    case early =>
      have still : s.chip.timeWake e = s.chip := (h.timeWake_eq hp).trans (if_neg Bool.false_ne_true)
      exact (congrArg s.leaves still).trans (congrArg (fun u : Chip => (.next { s with chip := u } : Outcome)) (Chip.settle_of_calm h.calm))
    case overlap =>
      intro awake goes
      exact congrArg s.leaves (h.overlapRetry_eq goes)

end Sys2Proof.Machine
end

section
/-! Repeat pairs (R109 to R113) and custom instructions (R121 to R123). -/

namespace Sys2Proof.Machine

open Reg

/-! ### A repeated instruction -/

/-- A repeatable instruction whose effect is to write one register by f. -/
structure Op.Computes (b : Op) (f : Core → Core) : Prop where
  repeats : b.repeatable = true
  effect : ∀ (s : Chip) (e : CoreId) (x : Ctx), ∃ next, s.oneOp e x b = ((s.retired e x.km b).onCore e f, .go next)
  writes : ∀ k : Core, ∃ rd v, f k = k.wr rd v

/-- An instruction without a data access that only computes or branches is its register operation. -/
theorem Chip.oneOp_reg {b : Op} (ha : ∀ c, b.acc c = none) (hs : ∀ (s : Chip) e x, s.sysOp e x b = s.regOp e x b) (s : Chip) (e : CoreId) (x : Ctx) :
    ∃ next, s.oneOp e x b = ((s.retired e x.km b).onCore e (b.commit 0), .go next) := by
  refine ⟨b.nextOff s.cores[e] 0, ?_⟩
  unfold Chip.oneOp
  rw [ha]
  exact hs s e x

theorem Op.computes_alu (g : AluFn) (rd x y : GReg) :
    (Op.alu g rd x y).Computes fun k => k.wr rd (g.eval (k.rd rd) (k.rd x) (k.rd y) (k.pair x) (k.pair y)) :=
  ⟨rfl, Chip.oneOp_reg (fun _ => rfl) fun s e z => Chip.sysOp_alu s e z g rd x y, fun _ => ⟨_, _, rfl⟩⟩

theorem Op.computes_imm (g : ImmFn) (rd x : GReg) (i : BitVec 16) : (Op.imm g rd x i).Computes fun k => k.wr rd (g.eval (k.rd x) i) :=
  ⟨rfl, Chip.oneOp_reg (fun _ => rfl) fun s e z => Chip.sysOp_imm s e z g rd x i, fun _ => ⟨_, _, rfl⟩⟩

theorem Op.computes_shi (g : ShiftFn) (rd x : GReg) (i : BitVec 5) : (Op.shi g rd x i).Computes fun k => k.wr rd (g.eval (k.rd x) i) :=
  ⟨rfl, Chip.oneOp_reg (fun _ => rfl) fun s e z => Chip.sysOp_shi s e z g rd x i, fun _ => ⟨_, _, rfl⟩⟩

/-! ### Its iterations -/

section
variable {b : Op} {f : Core → Core} (hb : b.Computes f)
include hb

theorem Op.Computes.off (k : Core) : (f k).off = k.off := by
  obtain ⟨rd, v, h⟩ := hb.writes k
  rw [h, Core.wr_off]

theorem Op.Computes.shadows (k : Core) : (f k).shadows = k.shadows := by
  obtain ⟨rd, v, h⟩ := hb.writes k
  rw [h, Core.wr_shadows]

theorem Op.Computes.iterate_shadows (n : Nat) (k : Core) : (f^[n] k).shadows = k.shadows := by
  induction n generalizing k with
  | zero => rfl
  | succ n ih => rw [Function.iterate_succ_apply, ih, hb.shadows]

/-- One iteration, with the counters off. -/
theorem Op.Computes.oneOp_eq {s : Chip} {e : CoreId} (hc : isCur e = false → s.dev.get (CAB_PMCTL_EN (cabOf e) (slotOf e)) = 0) (x : Ctx) :
    ∃ next, s.oneOp e x b = (s.onCore e f, .go next) := by
  obtain ⟨next, ran⟩ := hb.effect s e x
  exact ⟨next, by rw [ran, Chip.retired_off hc]⟩

/-- A REPN runs all its iterations and goes on behind the pair (R110). -/
theorem Op.Computes.repnLoop_eq {s : Chip} {e : CoreId} (hc : isCur e = false → s.dev.get (CAB_PMCTL_EN (cabOf e) (slotOf e)) = 0) (x : Ctx)
    (n : Nat) : s.repnLoop e x b n = (s.onCore e fun k => (f^[n] k).repDone, .go (s.cores[e].off + 8)) := by
  induction n generalizing s with
  | zero => rfl
  | succ n ih =>
    obtain ⟨next, ran⟩ := hb.oneOp_eq hc x
    unfold Chip.repnLoop
    simp only [ran]
    rw [ih (s := s.onCore e f) hc, Chip.onCore_onCore, Chip.onCore_core, hb.off]
    rfl

end

theorem Core.repDone_shadows (c : Core) : c.repDone.shadows = c.shadows := by
  unfold Core.repDone
  split <;> rfl

/-! ### The pairs -/

section
variable {s : State} {e : CoreId} (h : Steady s.chip e) {op b : Op} {f : Core → Core} (hb : b.Computes f) {w : Word}
  (hw : s.chip.fetch e s.chip.cores[e].pc4 = (s.chip, .ok w)) (hd : Op.decode b.encode = some b)

include hb hw hd in
/-- A prefix finds the instruction it repeats behind it (R109). -/
theorem Chip.effect_pair (assigned : op.wf = true) (hp : op.isPrefix = true) (x : Ctx) : s.chip.effect e x op b.encode
    = if op.isRepn then s.chip.repnLoop e x b (op.repRuns s.chip.cores[e]) else s.chip.repiStep e x b (op.repRuns s.chip.cores[e]) := by
  unfold Chip.effect Chip.repPair
  simp only [assigned, hp, hw, hd, hb.repeats, Bool.not_true, Bool.false_eq_true, if_false, if_true]

/-- An instruction that stays where it is and changes its core alone. -/
theorem Steady.act_again (h : Steady s.chip e) (op : Op) (body : Word) {g : Core → Core}
    (he : s.chip.effect e (ownCtx e s.chip.cores[e]) op body = (s.chip.onCore e g, .again)) (hg : (g s.chip.cores[e]).off = s.chip.cores[e].off) :
    (s.act fun c => c.runOp e op body) = .next (s.went e g Core.off) := by
  have ran : s.chip.runOp e op body = s.chip.onCore e (Core.goOn g Core.off) := by
    rw [h.runOp_eq op body (.inl (by rw [he]; rfl)), he]
    unfold Chip.conclude
    simp only [Chip.onCore_onCore]
    rw [Chip.traceFetch_off (by exact h.comparators), Chip.haltEffect_off (by exact h.halts)]
    refine Chip.onCore_congr _ _ ?_
    unfold Core.goOn
    rw [← hg]
  exact Steady.act_eq op body ran h.calm

include h hb hw hd

theorem Steady.act_repn {n : BitVec 5} {m : Nat} (hm : (Op.repn n).repRuns s.chip.cores[e] = m) :
    (s.act fun c => c.runOp e (.repn n) b.encode) = .next (s.went e (fun k => (f^[m] k).repDone) fun k => k.off + 8) := by
  refine h.act_go (.repn n) b.encode _ (fun k => k.off + 8) ?_ ((Core.repDone_shadows _).trans (hb.iterate_shadows ..)) rfl rfl
  rw [Chip.effect_pair hb hw hd rfl rfl, hm]
  exact hb.repnLoop_eq h.counters _ _

/-- A REPI runs one iteration and keeps the count of those that are left (R111). -/
theorem Steady.act_repi (assigned : op.wf = true) (hp : op.isPrefix = true) (hr : op.isRepn = false) (hn : op.newShadow e s.chip.cores[e] = [])
    (ht : op.isTbl = false) {m : Nat} (hm : op.repRuns s.chip.cores[e] = m) : (s.act fun c => c.runOp e op b.encode)
      = if m = 0 then .next (s.went e Core.repDone fun k => k.off + 8)
        else if m = 1 then .next (s.went e (fun k => { f k with rx := false, rc := 0 }) fun k => k.off + 8)
        else .next (s.went e (fun k => { f k with rx := true, rc := BitVec.ofNat 17 (m - 1) }) Core.off) := by
  have pair := Chip.effect_pair hb hw hd assigned hp (ownCtx e s.chip.cores[e])
  rw [hr, hm] at pair
  obtain ⟨next, ran⟩ := hb.oneOp_eq h.counters (ownCtx e s.chip.cores[e])
  have off : (s.chip.onCore e f).cores[e].off = s.chip.cores[e].off := by rw [Chip.onCore_core, hb.off]
  cases m with
  | zero => exact h.act_go op _ _ (fun k => k.off + 8) pair (Core.repDone_shadows _) hn ht
  | succ m =>
    cases m with
    | zero =>
      refine h.act_go op _ _ (fun k => k.off + 8) (pair.trans ?_) (hb.shadows _) hn ht
      unfold Chip.repiStep
      simp only [ran, if_true, Bool.false_eq_true, if_false, Chip.onCore_onCore, off]
    | succ m =>
      refine h.act_again op _ (pair.trans ?_) (hb.off _)
      unfold Chip.repiStep
      simp only [ran, Bool.false_eq_true, if_false, Chip.onCore_onCore, Nat.succ_ne_zero]
      rfl

end

/-! ### Custom instructions -/

theorem Core.cxRun_shadows (c : Core) (ws : List Word) (rd ra rb : GReg) (i : BitVec 11) : (c.cxRun ws rd ra rb i).shadows = c.shadows := by
  unfold Core.cxRun
  split <;> split <;> simp only [Core.wr_shadows]

/-- A slot of one ADD of RA and RB to RD (R122, R123). -/
theorem Core.cxRun_add {w : Word} (hop : bits w 31 26 = 0x00) (hd : bits w 25 21 = 8) (h1 : bits w 20 16 = 10) (h2 : bits w 15 11 = 12) (c : Core)
    (rd ra rb : GReg) (i : BitVec 11) : c.cxRun [w] rd ra rb i = c.wr rd (c.rd ra + c.rd rb) := by
  unfold Core.cxRun CxEnv.run
  simp [cxWrites, hd, CxEnv.run1, CxEnv.src, hop, h1, h2, uopEval]

/-- It names no register pair. -/
theorem cxIllegal_add {w : Word} (hd : bits w 25 21 = 8) (h1 : bits w 20 16 = 10) (h2 : bits w 15 11 = 12) (rd ra rb : GReg) :
    cxIllegal [w] rd ra rb = false := by
  simp [cxIllegal, uopUses, hd, h1, h2]

section
variable {s : State} {e : CoreId} {slot : Fin 8} {rd ra rb : GReg} {i : BitVec 11}

theorem Steady.act_cx (h : Steady s.chip e) (he : isCur e = false) (loaded : s.chip.dev.flag (CAB_CXCTL_STATE_EFF (cabOf e) slot) = true)
    (legal : cxIllegal (s.chip.dev.slotOps (cabOf e) slot) rd ra rb = false) : (s.act fun c => c.runOp e (.cx slot rd ra rb i) 0)
      = .next (s.went e (fun k => k.cxRun (s.chip.dev.slotOps (cabOf e) slot) rd ra rb i) Core.nextOff) := by
  refine h.act_go (.cx slot rd ra rb i) 0 _ Core.nextOff ?_ (Core.cxRun_shadows ..) rfl rfl
  rw [Chip.effect_sys rfl rfl rfl]
  show s.chip.cxOp e _ slot rd ra rb i = _
  unfold Chip.cxOp Dev.slotLoaded
  simp only [he, loaded, legal, Bool.not_true, Bool.or_self, Bool.false_eq_true, if_false, h.retired_eq]
  rfl

theorem Chip.cx_empty {s : Chip} (empty : s.dev.flag (CAB_CXCTL_STATE_EFF (cabOf e) slot) = false) (x : Ctx) (body : Word) :
    s.effect e x (.cx slot rd ra rb i) body = (s, .trap .customEmpty s.cores[e].off (Op.cx slot rd ra rb i).encode) := by
  rw [Chip.effect_sys rfl rfl rfl]
  exact if_pos (by unfold Dev.slotLoaded; rw [empty, Bool.not_false, Bool.or_true])

end

/-- Settles O19: a REPN's loop by induction on its count, a REPI's step by its count; a custom instruction by its slot's state. -/
theorem repeatsAndCustomInstructions : Obligations.RepeatsAndCustomInstructions := by
  refine ⟨fun s e n5 n16 ra b f w h => ?repeats, fun s e slot rd ra rb i t w h he => ?custom⟩
  case repeats =>
    intro c body fetched ended runs once decodes
    have hb : b.Computes f := by
      cases b with
      | alu g rd x y => exact body.2 ▸ Op.computes_alu g rd x y
      | imm g rd x i => exact body ▸ Op.computes_imm g rd x i
      | shi g rd x i => exact body ▸ Op.computes_shi g rd x i
      | _ => exact body.elim
    exact ⟨h.act_repn hb fetched decodes rfl, h.act_repi (op := .repi n16) hb fetched decodes rfl rfl rfl rfl rfl rfl,
      h.act_repi (op := .repr ra) hb fetched decodes rfl rfl rfl rfl rfl rfl⟩
  case custom =>
    intro c ws here
    refine ⟨fun loaded legal => h.act_cx he loaded legal, fun loaded one hop hd h1 h2 => ?add, fun empty ho entry => ?empty⟩
    case add =>
      have legal : cxIllegal ws rd ra rb = false := by rw [one]; exact cxIllegal_add hd h1 h2 rd ra rb
      refine (h.act_cx he loaded legal).trans (congrArg Host.Outcome.next (State.went_congr ?_ rfl))
      show c.cxRun ws rd ra rb i = _
      rw [one, Core.cxRun_add hop hd h1 h2]
    case empty => exact h.act_raises ho (Chip.cx_empty empty _ _) rfl entry

end Sys2Proof.Machine
end

section
/-! What the rails and the registrar's requests for them leave of the registers (R24, R264, R265, R439): those of the sequencer's status and the
registrar's own change, and no other. -/

namespace Sys2Proof.Machine

open Reg

/-! ### Requests for a point -/

theorem railFld_addr (w : Fin 2) : (railFld w).addr = ADM_STAT := by
  unfold railFld
  split <;> rfl

/-- A field put in two devices whose register is the same leaves it the same. -/
theorem Dev.put_word_congr {d t : Dev} {f : Fld} {v a : Nat} (h : t.word a = d.word a) : (t.put f v).word a = (d.put f v).word a := by
  by_cases ha : f.addr = a
  · rw [← ha] at h ⊢
    rw [Dev.word_put, Dev.word_put, h]
  · rw [Dev.word_put_of_ne ha, Dev.word_put_of_ne ha, h]

theorem cmtFld_addr (w : Fin 2) : (cmtFld w).addr = ADM_STAT := by
  unfold cmtFld
  split <;> rfl

section
variable {d : Dev} {a : Nat} (hs : SP_RSEQST ≠ a) (hr : ADM_STAT ≠ a)
include hs

theorem Dev.queueAsk_word (r : RailReq) : (d.queueAsk r).word a = d.word a := by
  unfold Dev.queueAsk
  rw [Dev.word_put_of_ne hs]
  rfl

/-- A request for a point shows that point as the wing's last one requested. -/
theorem Dev.showAsk_point_word (w : Fin 2) (i : Fin 16) (src : RailFrom) :
    (d.showAsk ⟨w, .point i, src⟩).word a = (d.put (railFld w) i).word a :=
  Dev.put_word_congr ((Dev.word_put_of_ne hs).trans ((Dev.word_put_of_ne hs).trans (Dev.word_put_of_ne hs)))

/-- It stops no canary. -/
theorem Dev.askRail_point_word (w : Fin 2) (i : Fin 16) (src : RailFrom) :
    (d.askRail ⟨w, .point i, src⟩).1.word a = (d.put (railFld w) i).word a := by
  have shown := Dev.showAsk_point_word (d := d) hs w i src
  cases he : d.flag SP_RSEQCTL_EN with
  | false =>
    rw [Dev.askRail_of_disabled he]
    exact (Dev.word_put_of_ne hs).trans shown
  | true =>
    rw [Dev.askRail_of_enabled he]
    exact (Dev.queueAsk_word hs _).trans shown

include hr

theorem Dev.askRail_word (w : Fin 2) (i : Fin 16) (src : RailFrom) : (d.askRail ⟨w, .point i, src⟩).1.word a = d.word a :=
  (Dev.askRail_point_word hs w i src).trans (Dev.word_put_of_ne (railFld_addr w ▸ hr))

variable (hi : ADM_ISTAT ≠ a)
include hi

theorem Dev.admAsk_word (w : Fin 2) (i : Nat) : (d.admAsk w i).word a = d.word a := by
  have asked := Dev.askRail_word (d := d) hs hr w (Fin.ofNat 16 i) .registrar
  have railf : (railfFld w).addr ≠ a := by unfold railfFld; split <;> exact hi
  unfold Dev.admAsk
  split
  case isFalse => rfl
  case isTrue =>
    show (if (d.askRail ⟨w, .point (Fin.ofNat 16 i), .registrar⟩).2 then _ else (d.askRail ⟨w, .point (Fin.ofNat 16 i), .registrar⟩).1).word a = _
    split
    case isTrue => exact (Dev.word_put_of_ne railf).trans asked
    case isFalse => exact asked

theorem Dev.reclaim_word (w : Fin 2) : (d.reclaim w).word a = d.word a := by
  unfold Dev.reclaim
  dsimp only
  split
  case isFalse => rfl
  case isTrue =>
    split
    · rfl
    · exact Dev.admAsk_word hs hr hi _ _

theorem Dev.railTrouble_word (w : Fin 2) {f : Fld} (hf : f.addr ≠ a) : (d.railTrouble w f).word a = d.word a := by
  unfold Dev.railTrouble
  dsimp only
  split
  · exact (Dev.admAsk_word hs hr hi _ _).trans (Dev.word_put_of_ne hf)
  · exact Dev.word_put_of_ne hf

theorem Dev.canarySeen_word (k : Nat) : (d.canarySeen k).word a = d.word a := by
  have pacev (w : Fin 2) : (pacevFld w).addr ≠ a := by unfold pacevFld; split <;> exact hi
  unfold Dev.canarySeen
  dsimp only
  refine (Dev.reclaim_word hs hr hi _).trans ?_
  split
  case h_2 => rfl
  case h_1 =>
    split
    · exact Dev.railTrouble_word hs hr hi _ (pacev _)
    · rfl

/-! ### The committed points -/

theorem Dev.raisePair_word (w : Fin 2) : (d.raisePair w).word a = d.word a := by
  unfold Dev.raisePair
  dsimp only
  split
  · exact Dev.admAsk_word hs hr hi _ _
  · rfl

theorem Dev.moveTo_word (w : Fin 2) (i : Nat) : (d.moveTo w i).word a = d.word a := by
  have committed : (d.put (cmtFld w) i).word a = d.word a := Dev.word_put_of_ne (cmtFld_addr w ▸ hr)
  unfold Dev.moveTo
  dsimp only
  split
  · exact committed
  · exact (Dev.admAsk_word hs hr hi _ _).trans committed

omit hs hr hi in
theorem Dev.ceilSeam_word (w : Fin 2) (hv : ADM_VCEIL w ≠ a) : (d.ceilSeam w).word a = d.word a := by
  unfold Dev.ceilSeam
  dsimp only
  split
  · exact Dev.word_put_of_ne hv
  · rfl

theorem Dev.recompute_word (hv : ∀ w : Fin 2, ADM_VCEIL w ≠ a) : d.recompute.word a = d.word a := by
  have pair (w : Fin 2) (x y : Nat) : (((d.put (cmtFld 0) x).put (cmtFld 1) y).raisePair w).word a = d.word a :=
    (Dev.raisePair_word hs hr hi w).trans
      ((Dev.word_put_of_ne (cmtFld_addr 1 ▸ hr)).trans (Dev.word_put_of_ne (cmtFld_addr 0 ▸ hr)))
  have moved (w v : Fin 2) (x y : Nat) : ((d.moveTo w x).moveTo v y).word a = d.word a :=
    (Dev.moveTo_word hs hr hi v y).trans (Dev.moveTo_word hs hr hi w x)
  unfold Dev.recompute
  dsimp only
  refine (Dev.ceilSeam_word 1 (hv 1)).trans ((Dev.ceilSeam_word 0 (hv 0)).trans ?_)
  split
  · exact pair 0 _ _
  split
  · exact pair 1 _ _
  split
  · exact moved 1 0 _ _
  · exact moved 0 1 _ _

end

end Sys2Proof.Machine
end

section
/-! Who is in reset (R496): the cores that run and the HOLD bits of the cabinets. What memory accesses and the depot do leaves both alone. -/

namespace Sys2Proof.Machine

open Reg

/-! ### The HOLD bits and the cores that run -/

/-- The HOLD bits of the cabinets. -/
@[irreducible] def Dev.holds (d : Dev) : Fin 8 → Nat := fun k => d.get (CAB_RST_HOLD k)

/-- Which cores are out of reset, and the HOLD bits. -/
@[irreducible] def Chip.resets (s : Chip) : (CoreId → Bool) × (Fin 8 → Nat) := (fun e => s.cores[e].run, s.dev.holds)

/-- A field that shares no bit with HOLD of any cabinet. -/
abbrev Fld.sparesHold (f : Fld) : Prop := (∀ k : Fin 8, f.addr ≠ CAB_RST k) ∨ 7 < f.lo ∧ f.lo ≤ f.hi ∧ f.hi < 32

section
variable {d t : Dev}

theorem Dev.holds_of_words (h : ∀ k : Fin 8, t.word (CAB_RST k) = d.word (CAB_RST k)) : t.holds = d.holds := by
  unfold Dev.holds Dev.get
  funext k
  rw [show (CAB_RST_HOLD k).addr = CAB_RST k from rfl, h]

theorem Dev.holds_of_regs (h : t.regs = d.regs) : t.holds = d.holds := Dev.holds_of_words fun _ => by unfold Dev.word; rw [h]

theorem Dev.tick1_holds (d : Dev) : d.tick1.holds = d.holds := Dev.holds_of_regs rfl

theorem Dev.put_holds {f : Fld} {v : Nat} (h : f.sparesHold) : (d.put f v).holds = d.holds := by
  unfold Dev.holds
  funext k
  rcases h with h | ⟨hlo, hle, hhi⟩
  · exact Dev.get_put_of_ne (h k)
  · exact Dev.get_put_of_disjoint hle hhi (Nat.zero_le 7) (.inl hlo)

/-- A register below the cabinets. -/
theorem Fld.sparesHold_low {f : Fld} (h : f.addr < 0x200000) : f.sparesHold := by
  refine .inl fun k => ?_
  unfold CAB_RST
  omega

end

section
variable {s t : Chip}

theorem Chip.onDev_resets {f : Dev → Dev} (h : ∀ d, (f d).holds = d.holds) : (s.onDev f).resets = s.resets := by
  unfold Chip.resets
  rw [Chip.onDev_dev, Chip.onDev_cores, h]

theorem Chip.setMem_resets (m : Mem) {d : Dev} (h : d.holds = s.dev.holds) : (Chip.mk s.cores m d).resets = s.resets := by
  unfold Chip.resets
  rw [h]

theorem Chip.onCore_resets {e : CoreId} {f : Core → Core} (h : (f s.cores[e]).run = s.cores[e].run) : (s.onCore e f).resets = s.resets := by
  unfold Chip.resets
  refine Prod.ext (funext fun x => ?_) rfl
  by_cases hx : x = e
  · rw [hx]
    exact (congrArg Core.run (Chip.onCore_core s e f)).trans h
  · exact congrArg Core.run (Chip.onCore_other s e f hx)

theorem Chip.clearResv_resets (line : Nat) : (s.clearResv line).resets = s.resets := by
  unfold Chip.resets Chip.clearResv
  refine Prod.ext (funext fun x => ?_) rfl
  simp only [Fin.getElem_fin, Vector.getElem_map]
  split <;> rfl

/-- A fold of steps that leave the resets alone leaves them alone. -/
theorem Chip.foldl_resets {α : Type} {f : Chip → α → Chip} (h : ∀ s x, (f s x).resets = s.resets) (l : List α) (s : Chip) :
    (l.foldl f s).resets = s.resets := by
  induction l generalizing s with
  | nil => rfl
  | cons x l ih => exact (ih (f s x)).trans (h s x)

end

/-! ### Accesses to the arrays -/

section
variable (s : Chip)

theorem Dev.countCe_holds (d : Dev) (a : Nat) : (d.countCe a).holds = d.holds :=
  Dev.put_holds (Fld.sparesHold_low (by split <;> decide))

theorem Dev.countUe_holds (d : Dev) (a : Nat) : (d.countUe a).holds = d.holds := by
  unfold Dev.countUe
  dsimp only
  split
  · split
    · exact Dev.put_holds (.inl (by decide))
    · exact (Dev.put_holds (.inl (by decide))).trans (Dev.put_holds (.inl (by decide)))
  · split
    · exact (Dev.put_holds (.inl (by decide))).trans (Dev.put_holds (.inl (by decide)))
    · exact (Dev.put_holds (.inl (by decide))).trans ((Dev.put_holds (.inl (by decide))).trans (Dev.put_holds (.inl (by decide))))

theorem Dev.conflict_holds (d : Dev) (uid a n : Nat) : (d.conflict uid a n).holds = d.holds := by
  unfold Dev.conflict
  split
  case isFalse => rfl
  case isTrue h =>
    simp only [Bool.and_eq_true, decide_eq_true_eq] at h
    have counted : (GAL_CONF_COUNT (a / 0x200000 % 8) uid).addr < 0x200000 := by
      show 0x71000 + 0x200 * (a / 0x200000 % 8) + 0x4 * uid < 0x200000
      omega
    have bumped (v : Nat) : (d.put (GAL_CONF_COUNT (a / 0x200000 % 8) uid) v).holds = d.holds := Dev.put_holds (Fld.sparesHold_low counted)
    exact (Dev.tick1_holds _).trans (bumped _)

theorem Chip.asks_resets (uid a n : Nat) : (s.asks uid a n).resets = s.resets := Chip.onDev_resets fun d => d.conflict_holds uid a n

theorem Chip.fetch64_resets (a : Nat) : (s.fetch64 a).1.resets = s.resets := by
  have ticked := s.dev.tick1_holds
  unfold Chip.fetch64
  dsimp only
  split
  · rfl
  · exact Chip.setMem_resets _ (Dev.countCe_holds ..)
  · exact Chip.onDev_resets fun d => d.countUe_holds a
  · split
    · exact (Chip.onDev_resets fun d => d.countUe_holds a).trans (Chip.setMem_resets _ ticked)
    · exact Chip.setMem_resets _ ((Dev.countCe_holds ..).trans ticked)
    · exact Chip.setMem_resets _ ticked

theorem Chip.memRead_resets (a n : Nat) : (s.memRead a n).1.resets = s.resets := by
  unfold Chip.memRead
  split
  · rfl
  split
  · rfl
  split
  · rfl
  · have read := s.fetch64_resets a
    dsimp only
    generalize s.fetch64 a = x at read ⊢
    obtain ⟨t, good⟩ := x
    cases good <;> exact read

theorem Chip.inject_resets (cur : Bool) (a : Nat) (old : BitVec 72) : (s.inject cur a old).resets = s.resets := by
  unfold Chip.inject
  split
  · exact Chip.setMem_resets _ (Dev.put_holds (f := GAL_EINJ_ARM) (.inl (by decide)))
  · rfl

theorem Chip.takeLine_resets (p : Port) (a : Nat) : (s.takeLine p a).resets = s.resets := by
  unfold Chip.takeLine
  split
  · exact Chip.setMem_resets _ rfl
  · rfl

theorem Chip.memWrite_resets (p : Port) (a n : Nat) (v : Word) : (s.memWrite p a n v).1.resets = s.resets := by
  unfold Chip.memWrite
  split
  · rfl
  split
  · rfl
  split
  · rfl
  · have read := s.fetch64_resets a
    dsimp only
    generalize s.fetch64 a = x at read ⊢
    obtain ⟨t, good⟩ := x
    cases good with
    | false => exact read
    | true =>
      refine (Chip.inject_resets _ _ _ _).trans ((Chip.setMem_resets _ rfl).trans ?_)
      exact (Chip.clearResv_resets _).trans ((Chip.takeLine_resets _ _ _).trans read)

theorem Chip.memWrite64_resets (a v : Nat) : (s.memWrite64 a v).1.resets = s.resets := by
  unfold Chip.memWrite64
  split
  · rfl
  split
  · rfl
  · exact (Chip.setMem_resets _ rfl).trans (Chip.clearResv_resets _)

theorem Chip.burst_resets (a n : Nat) : (s.burst a n).resets = s.resets := by
  unfold Chip.burst
  split
  · rfl
  · exact Chip.setMem_resets _ rfl

end

/-! ### The depot's pool -/

section
variable (s : Chip)

theorem Dev.setQueue_holds (d : Dev) (q : Nat) (x : DQueue) : (d.setQueue q x).holds = d.holds := Dev.holds_of_regs rfl

theorem Chip.poolLost_resets (r : Reply) : (s.poolLost r).resets = s.resets := by
  unfold Chip.poolLost
  split
  · exact Chip.onDev_resets fun _ => Dev.put_holds (f := DPT_ISTAT_POOLOFF) (.inl (by decide))
  · rfl

theorem Chip.writeLink_resets (c : Nat) (w : Word) : (s.writeLink c w).resets = s.resets := by
  have written := ((s.asks 0x0A (s.dev.cellAddr c + 60)).memWrite_resets dptPort (s.dev.cellAddr c + 60) 4 w).trans (s.asks_resets _ _ _)
  unfold Chip.writeLink
  exact (Chip.poolLost_resets _ _).trans written

theorem Chip.writeWords_resets (a : Nat) (ws : List Word) : (s.writeWords a ws).resets = s.resets := by
  induction s, a, ws using Chip.writeWords.induct with
  | case1 s a w0 w1 ws t r written ih =>
    have mem : t.resets = s.resets := (congrArg (fun p => p.1.resets) written).symm.trans (s.memWrite64_resets _ _)
    unfold Chip.writeWords
    simp only [written]
    exact ih.trans ((Chip.poolLost_resets _ _).trans mem)
  | case2 s a t short =>
    unfold Chip.writeWords
    split
    · exact (short _ _ _ rfl).elim
    · rfl

theorem Chip.freeCell_resets (c : Nat) : (s.freeCell c).resets = s.resets := by
  unfold Chip.freeCell
  exact (Chip.onDev_resets fun _ => Dev.holds_of_regs (by rfl)).trans (s.writeLink_resets _ _)

theorem Chip.freeCellsOf_resets (cs : List Nat) : (s.freeCellsOf cs).resets = s.resets := Chip.foldl_resets Chip.freeCell_resets cs s

theorem Chip.writeCells_resets (ws : List Word) (cs js : List Nat) : (s.writeCells ws cs js).resets = s.resets :=
  Chip.foldl_resets (fun s _ => (Chip.burst_resets _ _ _).trans ((Chip.writeWords_resets _ _ _).trans (s.asks_resets _ _ _))) js s

theorem Chip.poolRead_resets (c i : Nat) : (s.poolRead c i).1.resets = s.resets := (Chip.memRead_resets _ _ _).trans (s.asks_resets _ _ _)

theorem Chip.readLink_resets (c : Nat) : (s.readLink c).1.resets = s.resets := by
  have read := s.poolRead_resets c 15
  unfold Chip.readLink
  split
  case h_1 h => rwa [h] at read
  case h_2 h => rwa [h] at read

theorem Chip.poolWord_resets (c i : Nat) : (s.poolWord c i).1.resets = s.resets := by
  have read := s.poolRead_resets c i
  unfold Chip.poolWord
  split
  case h_1 h => rwa [h] at read
  case h_2 h => rwa [h] at read
  case h_3 h => rwa [h] at read

theorem Chip.poolCell_resets (c : Nat) (is : List Nat) : (s.poolCell c is).1.resets = s.resets := by
  induction is generalizing s with
  | nil => rfl
  | cons i is ih => exact (ih (s.poolWord c i).1).trans (s.poolWord_resets c i)

theorem Dev.broken_holds (d : Dev) (q b : Nat) :
    (((d.setQueue q { d.queue q with broke := some (some b) }).on (DPT_QCFG_LERR q)).on DPT_ISTAT_LERR).holds = d.holds :=
  (Dev.put_holds (f := DPT_ISTAT_LERR) (.inl (by decide))).trans
    ((Dev.put_holds (.inr (by decide : 7 < 29 ∧ 29 ≤ 29 ∧ 29 < 32))).trans (Dev.setQueue_holds ..))

/-- A link error shows in the queue's LERR, which is no HOLD bit. -/
theorem Chip.enterCell_resets (q : Nat) (p : DPos) : (s.enterCell q p).1.resets = s.resets := by
  unfold Chip.enterCell
  dsimp only
  split
  case h_2 => rfl
  case h_1 b _ =>
    have link := s.readLink_resets b
    split
    · rfl
    · split
      case h_1 h =>
        rw [h] at link
        dsimp only at link ⊢
        refine (Chip.onDev_resets fun _ => ?_).trans link
        exact Dev.setQueue_holds ..
      case h_2 h =>
        rw [h] at link
        exact (Chip.onDev_resets fun d => d.broken_holds q b).trans link

theorem Chip.stage_resets (q : Nat) : (s.stage q).resets = s.resets := by
  unfold Chip.stage
  split
  · rfl
  dsimp only
  split
  · exact Chip.onDev_resets fun _ => Dev.holds_of_regs (by rfl)
  split
  · rfl
  have entered := s.enterCell_resets q (s.dev.queue q).cursor
  generalize s.enterCell q (s.dev.queue q).cursor = x at entered ⊢
  obtain ⟨t, good⟩ := x
  dsimp only at entered ⊢
  split
  · exact (Chip.onDev_resets fun _ => Dev.holds_of_regs (by rfl)).trans ((Chip.poolCell_resets _ _ _).trans entered)
  · exact (Chip.onDev_resets fun _ => Dev.holds_of_regs (by rfl)).trans entered

theorem Chip.seal_resets (q tag : Nat) (words : List Word) (cells : List Nat) (launch : Bool) :
    (s.seal q tag words cells launch).resets = s.resets := by
  unfold Chip.seal Chip.sealFrom
  dsimp only
  refine (Chip.stage_resets _ _).trans ((Chip.onDev_resets fun _ => Dev.setQueue_holds ..).trans ?_)
  have written := (Chip.writeCells_resets (s.freeCellsOf (cells.drop (cellsFor words.length)))
    (headerWord words.length tag :: words) (cells.take (cellsFor words.length))
    ((if (Decidable.decide (0 < 0) && words.length != words.length) = true then [0] else []) ++ (List.range (cellsFor words.length)).drop 0)).trans
    (s.freeCellsOf_resets _)
  split
  · exact (Chip.writeLink_resets _ _ _).trans written
  · exact written

/-! ### Thresholds -/

theorem Dev.event_holds (d : Dev) (n : Nat) : (d.event n).holds = d.holds := by
  unfold Dev.event
  split
  · exact Dev.put_holds (.inl (by decide))
  · exact Dev.holds_of_regs rfl

theorem Chip.withThr_resets (q : Nat) {f : Chip → Chip} (h : (f s).resets = s.resets) : (s.withThr q f).resets = s.resets := by
  unfold Chip.withThr
  dsimp only
  split
  · exact (Chip.onDev_resets fun d => d.event_holds _).trans h
  · exact h

/-! ### Open items -/

theorem Dev.counted_holds (d : Dev) : ((d.bumpSat DPT_ABNCNT_COUNT 1 0xFFFFFFFF).on DPT_ISTAT_ABANDON).holds = d.holds :=
  (Dev.put_holds (f := DPT_ISTAT_ABANDON) (.inl (by decide))).trans (Dev.put_holds (f := DPT_ABNCNT_COUNT) (.inl (by decide)))

theorem Chip.abandon_resets (o : OpenItem) : (s.abandon o).resets = s.resets := by
  have dropped : ((s.freeCellsOf o.cells).onDev (·.dropOpen o.uid o.q)).resets = s.resets := (Chip.onDev_resets fun _ => Dev.holds_of_regs (by rfl)).trans (s.freeCellsOf_resets _)
  unfold Chip.abandon
  dsimp only
  split
  · exact dropped
  · exact (Chip.onDev_resets fun d => d.counted_holds).trans dropped

theorem Chip.abandonAll_resets (uid : Nat) : (s.abandonAll uid).resets = s.resets := by
  unfold Chip.abandonAll
  have one (s : Chip) (o : OpenItem) : (s.withThr o.q fun s => s.abandon o).resets = s.resets := by
    refine s.withThr_resets o.q ?_
    exact s.abandon_resets o
  exact Chip.foldl_resets one _ s

end

end Sys2Proof.Machine
end

section
/-! What the registrar does at an engine's reset (R246, R260, R261) leaves alone who is in reset. -/

namespace Sys2Proof.Machine

open Reg

/-! ### The registrar's words -/

section
variable (d : Dev)

/-- A register below the cabinets is none of theirs. -/
theorem ne_cabRst {a : Nat} (h : a < 0x200000) (k : Fin 8) : a ≠ CAB_RST k := by
  unfold CAB_RST
  omega

theorem Dev.recompute_holds : d.recompute.holds = d.holds :=
  Dev.holds_of_words fun k => Dev.recompute_word (ne_cabRst (by decide) k) (ne_cabRst (by decide) k) (ne_cabRst (by decide) k)
    fun w => ne_cabRst (by unfold ADM_VCEIL; omega) k

theorem Dev.showOut_holds : d.showOut.holds = d.holds := Dev.put_holds (f := ADM_STAT_OUT) (.inl (by decide))

/-- A profile's STATE_EFF stands at an address that is no cabinet's RST. -/
theorem Dev.profSeam_holds (p : Nat) : (d.profSeam p).holds = d.holds := by
  have spares : (ADM_CAT_CTL_STATE_EFF p).sparesHold := by
    refine .inl fun k => ?_
    show 0x5100C + 0x10 * p ≠ 0x200000 + 0x10000 * k.val
    omega
  unfold Dev.profSeam
  split
  · exact Dev.put_holds spares
  · rfl

theorem Dev.admSeam_holds : d.admSeam.holds = d.holds := by
  unfold Dev.admSeam
  split
  · exact Dev.put_holds (f := ADM_CTL_EN_EFF) (.inl (by decide))
  · rfl

/-- OWN_EFF takes bits 15 to 8 of its register. -/
theorem Dev.setOwned_holds (n : Nat) (v : Bool) : (d.setOwned n v).holds = d.holds := by
  refine Dev.put_holds (.inr ?_)
  show 7 < 8 + n % 8 ∧ 8 + n % 8 ≤ 8 + n % 8 ∧ 8 + n % 8 < 32
  omega

theorem Dev.takeCell_holds : d.takeCell.1.holds = d.holds := by
  unfold Dev.takeCell
  split <;> exact Dev.holds_of_regs rfl

/-- What the registrar keeps beside its registers. -/
theorem Dev.onAdm_holds (f : Adm → Adm) : (d.onAdm f).holds = d.holds := Dev.holds_of_regs rfl

/-- A breach's registers. -/
theorem Dev.breached_holds (reason eng pid : Nat) : (((((d.on ADM_ISTAT_BREACH).put ADM_LASTB_REASON reason).put ADM_LASTB_ENG eng).put
    ADM_LASTB_PID pid).bumpSat (ADM_CNT_COUNT 9) 1 0xFFFFFFFF).holds = d.holds :=
  (Dev.put_holds (f := ADM_CNT_COUNT 9) (.inl (by decide))).trans ((Dev.put_holds (f := ADM_LASTB_PID) (.inl (by decide))).trans
    ((Dev.put_holds (f := ADM_LASTB_ENG) (.inl (by decide))).trans ((Dev.put_holds (f := ADM_LASTB_REASON) (.inl (by decide))).trans
      (Dev.put_holds (f := ADM_ISTAT_BREACH) (.inl (by decide))))))

end

/-! ### Records and promises -/

section
variable (s : Chip)

theorem Chip.withdraw_resets (n : Nat) : (s.withdraw n).resets = s.resets := by
  unfold Chip.withdraw
  dsimp only
  split
  · rfl
  · refine (Chip.freeCellsOf_resets _ _).trans (Chip.withThr_resets _ _ ?_)
    exact Chip.onDev_resets fun d => d.setQueue_holds _ _

/-- A completion record is sealed into the queue's reserved cell, or left to the ring engine. -/
theorem Chip.complete_resets (x : Promise) (status reason : Nat) (result : Word) : (s.complete x status reason result).resets = s.resets := by
  unfold Chip.complete
  split
  · split
    · refine Chip.withThr_resets _ _ ((Chip.seal_resets _ _ _ _ _ _).trans ?_)
      exact Chip.onDev_resets fun d => d.setQueue_holds _ _
    · rfl
  · refine Chip.onDev_resets fun d => ?_
    exact Dev.holds_of_regs rfl

theorem Chip.disown_resets (n : Nat) : (s.disown n).resets = s.resets := by
  unfold Chip.disown
  dsimp only
  refine (Chip.onDev_resets fun d => d.setOwned_holds _ _).trans ((Chip.withThr_resets _ _ ?_).trans (s.withdraw_resets n))
  split
  · refine (Chip.freeCell_resets _ _).trans ?_
    exact Chip.onDev_resets fun d => d.setQueue_holds _ _
  · rfl

theorem Chip.ownSeam_resets (n : Nat) : (s.ownSeam n).resets = s.resets := by
  unfold Chip.ownSeam
  split
  · exact s.disown_resets n
  · rfl

theorem Chip.retire_resets (x : Promise) (status reason : Nat) (result : Word) : (s.retire x status reason result).resets = s.resets := by
  unfold Chip.retire
  dsimp only
  refine (Chip.onDev_resets fun d => (Dev.admSeam_holds _).trans (d.profSeam_holds _)).trans ?_
  refine (Chip.ownSeam_resets _ _).trans ((Chip.complete_resets _ _ _ _ _).trans ?_)
  exact Chip.onDev_resets fun d => (Dev.showOut_holds _).trans (d.onAdm_holds _)

theorem Chip.breach_resets (x : Promise) (reason : Nat) : (s.breach x reason).resets = s.resets := by
  unfold Chip.breach
  dsimp only
  refine (Chip.retire_resets _ _ _ _ _).trans ?_
  exact Chip.onDev_resets fun d => d.breached_holds _ _ _

/-! ### An engine's reset as the registrar sees it -/

/-- The 0-to-1 seam of ownership at a reset. -/
theorem Chip.reserved_resets (n : Nat) : Chip.resets (if s.dev.ownReq n && !s.dev.owned n then
      if s.dev.canReserve (16 + n) then
        { s with dev := (s.dev.takeCell.1.setQueue (16 + n) { s.dev.takeCell.1.queue (16 + n) with standing := some s.dev.takeCell.2 }).setOwned n true }
      else s.onDev (·.on ADM_ISTAT_OWNERR)
    else s) = s.resets := by
  split
  · split
    · exact Chip.setMem_resets _ ((Dev.setOwned_holds _ _ _).trans ((Dev.setQueue_holds _ _ _).trans (Dev.takeCell_holds _)))
    · exact Chip.onDev_resets fun _ => Dev.put_holds (f := ADM_ISTAT_OWNERR) (.inl (by decide))
  · rfl

/-- An owned engine's record is withdrawn, and its stub is not ready (R261). -/
theorem Chip.withdrawn_resets (n : Nat) : Chip.resets (if s.dev.owned n then
      (s.withdraw n).onDev fun d => (d.onAdm fun a => { a with unready := a.unready ||| (1#64 <<< n) }).recompute
    else s) = s.resets := by
  split
  · refine (Chip.onDev_resets fun d => ?_).trans (s.withdraw_resets n)
    exact (Dev.recompute_holds _).trans (Dev.onAdm_holds _ _)
  · rfl

theorem Chip.admEngineReset_resets (n : Nat) : (s.admEngineReset n).resets = s.resets := by
  have reserved := s.reserved_resets n
  unfold Chip.admEngineReset
  dsimp only at reserved ⊢
  generalize (if s.dev.ownReq n && !s.dev.owned n then _ else s : Chip) = t at reserved ⊢
  split
  · exact (Chip.withdrawn_resets _ n).trans ((t.breach_resets _ _).trans reserved)
  · exact (Chip.withdrawn_resets _ n).trans reserved

end

end Sys2Proof.Machine
end

section
/-! A write of CABk.RST (R496): what an engine's reset and its release leave, and who is in reset after the engines of a cabinet have been
pulsed or held. -/

namespace Sys2Proof.Machine

open Reg

/-! ### Stores that a reset loses or performs -/

section
variable (d : Dev)

theorem Dev.farAlloc_regs (l : FarLine) : (d.farAlloc l).regs = d.regs := by
  have evicted (v : FarLine) : (d.farRemove l.host |>.farWriteBack v).regs = d.regs := by
    unfold Dev.farWriteBack
    split <;> rfl
  unfold Dev.farAlloc
  dsimp only
  split
  · rfl
  · split
    · exact evicted _
    · rfl

theorem Dev.farLine_regs (a : Nat) (own : Bool) : (d.farLine a own).1.regs = d.regs := by
  unfold Dev.farLine
  dsimp only
  split
  · split <;> rfl
  · rfl

theorem Dev.farStore_regs (a n : Nat) (v : Word) : (d.farStore a n v).1.regs = d.regs := by
  have line := d.farLine_regs a true
  unfold Dev.farStore
  dsimp only
  split
  · rfl
  split
  · generalize d.farLine a true = x at line ⊢
    obtain ⟨t, l⟩ := x
    cases l with
    | none => exact line
    | some l => exact (Dev.farAlloc_regs _ _).trans line
  split
  · split <;> rfl
  · split
    · split
      · exact d.farAlloc_regs _
      · rfl
    · rfl

theorem Dev.loseWrite_holds (a : Nat) : (d.loseWrite a).holds = d.holds := by
  have counted (t : Dev) : ((t.bumpSat HPT_LOSTW_COUNT 1 0xFFFF).on HPT_ISTAT_LOSTW).holds = t.holds :=
    (Dev.put_holds (f := HPT_ISTAT_LOSTW) (.inl (by decide))).trans (Dev.put_holds (f := HPT_LOSTW_COUNT) (.inl (by decide)))
  unfold Dev.loseWrite
  refine (counted _).trans ?_
  split
  · rfl
  · exact (Dev.put_holds (f := HPT_LOSTA_ADDR) (.inl (by decide))).trans (Dev.put_holds (f := HPT_LOSTW_VALID) (.inl (by decide)))

theorem Dev.wakeShow_holds : d.wakeShow.holds = d.holds :=
  (Dev.put_holds (f := HPT_HOLD_WAKE) (.inl (by decide))).trans (Dev.put_holds (f := HPT_HOLD_COUNT) (.inl (by decide)))

theorem Dev.hold_holds (who : HeldWho) (a : Nat) (wake : Bool) : (d.hold who a wake).holds = d.holds :=
  (Dev.wakeShow_holds _).trans (Dev.holds_of_regs rfl)

theorem Dev.forget_holds (e : CoreId) : (d.forget e).holds = d.holds := (Dev.wakeShow_holds _).trans (Dev.holds_of_regs rfl)

end

section
variable (s : Chip) (e : CoreId)

theorem Chip.writePieces_resets (v : Nat) (ps : List (Nat × Nat)) : (s.writePieces e v ps).1.resets = s.resets := by
  induction ps generalizing s v with
  | nil => rfl
  | cons p ps ih =>
    obtain ⟨a, n⟩ := p
    have written := ((s.asks (uidOf e) (canon e a)).memWrite_resets (portOf e a) (canon e a) n (BitVec.ofNat 32 (v % 256 ^ n))).trans
      (s.asks_resets _ _ _)
    unfold Chip.writePieces
    generalize (s.asks (uidOf e) (canon e a)).memWrite (portOf e a) (canon e a) n (BitVec.ofNat 32 (v % 256 ^ n)) = x at written ⊢
    obtain ⟨t, r⟩ := x
    refine (ih _ _).trans (Eq.trans ?_ written)
    cases r with
    | ok w => exact Chip.onCore_resets (by rfl)
    | err k => rfl
    | held => rfl

theorem Chip.farPerform_resets (st : SbEntry) : (s.farPerform e st).1.resets = s.resets := by
  have stored : (s.dev.farStore st.addr.toNat st.size st.data).1.holds = s.dev.holds := Dev.holds_of_regs (Dev.farStore_regs ..)
  unfold Chip.farPerform
  dsimp only
  generalize s.dev.farStore st.addr.toNat st.size st.data = x at stored ⊢
  obtain ⟨d, r⟩ := x
  have moved : Chip.resets { s with dev := d } = s.resets := Chip.setMem_resets _ stored
  cases r with
  | ok w =>
    refine Eq.trans ?_ ((Chip.clearResv_resets (d.granule st.addr.toNat)).trans moved)
    exact Chip.onCore_resets (f := fun c => c.dcStore st.addr.toNat st.size st.data.toNat) rfl
  | err k => exact moved
  | held => exact moved

theorem Chip.dropPost_resets (st : SbEntry) : (s.dropPost e st).resets = s.resets := by
  unfold Chip.dropPost
  refine (Chip.onCore_resets (by rfl)).trans ?_
  exact Chip.onDev_resets fun d => d.loseWrite_holds _

theorem Chip.perform_resets (st : SbEntry) : (s.perform e st).1.resets = s.resets := by
  unfold Chip.perform
  dsimp only
  split
  · exact s.writePieces_resets e st.data.toNat (pieces st.addr.toNat st.size)
  split
  · rfl
  · rfl
  · exact Chip.onDev_resets fun d => d.hold_holds _ _ _
  · exact s.dropPost_resets e st
  · exact s.farPerform_resets e st

theorem Chip.sendStore_resets (i : Nat) : (s.sendStore e i).resets = s.resets := by
  unfold Chip.sendStore
  split
  · split
    · exact (Chip.onCore_resets (by rfl)).trans (s.perform_resets e _)
    · rfl
  · rfl

theorem Chip.drainN_resets (n : Nat) : (s.drainN e n).resets = s.resets := by
  induction n generalizing s with
  | zero => rfl
  | succ n ih =>
    refine (ih (s.drain1 e)).trans ?_
    unfold Chip.drain1
    split
    · exact (Chip.onCore_resets (by rfl)).trans (s.sendStore_resets e _)
    · rfl

theorem Chip.loseStores_resets : (s.loseStores e).resets = s.resets := by
  unfold Chip.loseStores
  dsimp only
  split
  · rfl
  · exact (Chip.drainN_resets _ _ _).trans (Chip.onDev_resets fun d => d.tick1_holds)

end

/-! ### Packets of the debug port -/

section
variable (d : Dev)

theorem Dev.onDbg_holds (f : Dbg → Dbg) : (d.onDbg f).holds = d.holds := Dev.holds_of_regs rfl

theorem Dev.traceLose_holds : d.traceLose.holds = d.holds := by
  have counted : (d.bumpSat DBG_TRSTAT_LOST 1 255).holds = d.holds := Dev.put_holds (f := DBG_TRSTAT_LOST) (.inl (by decide))
  exact (Dev.onDbg_holds _ _).trans counted

theorem Dev.traceStream_holds (k : Nat) (p : Packet) : (d.traceStream k p).holds = d.holds := by
  unfold Dev.traceStream
  split
  · rfl
  split
  · exact Dev.holds_of_regs rfl
  · exact Dev.put_holds (f := DBG_TRSTAT_SLOST) (.inl (by decide))

theorem Dev.traceRecord_holds (p : Packet) : (d.traceRecord p).holds = d.holds := by
  have wp (t : Dev) (v : Nat) : (t.put DBG_TRSTAT_WP v).holds = t.holds := Dev.put_holds (f := DBG_TRSTAT_WP) (.inl (by decide))
  have wrap (t : Dev) (v : Nat) : (if v = 0 then t.on DBG_TRSTAT_WRAP else t).holds = t.holds := by
    split
    · exact Dev.put_holds (f := DBG_TRSTAT_WRAP) (.inl (by decide))
    · rfl
  have wmh (t : Dev) (n m : Nat) : (if n ≤ m then t.on DBG_TRSTAT_WMH else t).holds = t.holds := by
    split
    · exact Dev.put_holds (f := DBG_TRSTAT_WMH) (.inl (by decide))
    · rfl
  unfold Dev.traceRecord
  dsimp only
  exact (Dev.traceStream_holds _ _ _).trans ((wmh _ _ _).trans ((wrap _ _).trans ((wp _ _).trans (Dev.onDbg_holds _ _))))

theorem Dev.trace_holds (p : Packet) : (d.trace p).holds = d.holds := by
  have behind (t : Dev) (ht : t.holds = d.holds) : (if t.traceStopped then t.traceLose else t.traceRecord p).holds = d.holds := by
    split
    · exact t.traceLose_holds.trans ht
    · exact (t.traceRecord_holds p).trans ht
  unfold Dev.trace
  split
  · rfl
  split
  · exact d.traceLose_holds
  · refine behind _ ?_
    split
    · rfl
    · exact (Dev.onDbg_holds _ _).trans (d.traceRecord_holds _)

end

/-! ### Into reset and out of it -/

section
variable (s : Chip) (e : CoreId)

theorem Chip.tokens_resets (ts : List Token) : (s.tokens e ts).resets = s.resets := by
  obtain ⟨c, hc⟩ := s.tokens_cur e ts
  rw [hc]
  exact Chip.setMem_resets _ (Dev.holds_of_regs (by rfl))

theorem Chip.halt_resets : (s.halt e).resets = s.resets := by
  unfold Chip.halt
  dsimp only
  refine (Chip.onDev_resets fun d => (Dev.trace_holds _ _).trans (d.onDbg_holds _)).trans ?_
  exact (Chip.onCore_resets (by rfl)).trans (s.tokens_resets e _)

/-- A core that a step takes into reset, or out of it. -/
theorem Chip.onCore_run {f : Core → Core} {b : Bool} (h : (f s.cores[e]).run = b) :
    (s.onCore e f).resets = (Function.update s.resets.1 e b, s.resets.2) := by
  unfold Chip.resets
  refine Prod.ext (funext fun x => ?_) rfl
  dsimp only
  by_cases hx : x = e
  · subst hx
    rw [Function.update_self]
    exact (congrArg Core.run (Chip.onCore_core s x f)).trans h
  · rw [Function.update_of_ne hx]
    exact congrArg Core.run (Chip.onCore_other s e f hx)

theorem Chip.coreReset_resets : (s.coreReset e).resets = (Function.update s.resets.1 e false, s.resets.2) := by
  unfold Chip.coreReset Chip.coreDown
  dsimp only
  refine (Chip.onDev_resets fun d => Dev.holds_of_regs (by rfl)).trans ((Chip.onDev_resets fun d => d.forget_holds e).trans ?_)
  rw [Chip.onCore_run (s.loseStores e) e (b := false) (f := fun c => (Core.rest (isCur e)).kept c) rfl, s.loseStores_resets e]

theorem Chip.leaveReset_resets (n : Fin 64) : (s.leaveReset n).resets = (Function.update s.resets.1 (eng n) true, s.resets.2) := by
  have started := s.onCore_run (eng n) (f := fun c => (Core.start false (s.dev.word (CAB_START (n / 8) (n % 8)))).kept c) rfl
  unfold Chip.leaveReset
  dsimp only
  split
  · exact (Chip.halt_resets _ _).trans started
  · exact started

/-- HOLD of engine n, in the HOLD bits of the cabinets. -/
def heldIn (h : Fin 8 → Nat) (n : Fin 64) : Bool := h ⟨n / 8, by omega⟩ / 2 ^ (n.val % 8) % 2 == 1

theorem Chip.heldInReset_eq (n : Fin 64) : s.dev.heldInReset n = heldIn s.resets.2 n := by
  unfold Chip.resets Dev.holds
  rfl

theorem Chip.resets_run (n : Fin 64) : s.resets.1 (eng n) = s.cores[eng n].run := by
  unfold Chip.resets
  rfl

theorem Chip.release_resets (n : Fin 64) :
    (s.release n).resets = (Function.update s.resets.1 (eng n) (s.resets.1 (eng n) || !heldIn s.resets.2 n), s.resets.2) := by
  unfold Chip.release
  rw [s.heldInReset_eq n, ← s.resets_run n]
  cases hr : s.resets.1 (eng n) with
  | true =>
    rw [Bool.or_true, if_pos rfl, Bool.true_or, ← hr, Function.update_eq_self]
  | false =>
    cases heldIn s.resets.2 n with
    | true =>
      rw [Bool.or_false, if_pos rfl, Bool.not_true, Bool.or_false, ← hr, Function.update_eq_self]
    | false => exact s.leaveReset_resets n

theorem Dev.pmReset_holds (d : Dev) (n : Nat) : (d.pmReset n).holds = d.holds := by
  refine Dev.holds_of_words fun k => ?_
  unfold Dev.pmReset
  rw [Dev.word_resetRange, if_neg]
  unfold CAB_PMCTL CAB_RST
  omega

theorem Dev.wdeReload_holds (d : Dev) (n : Nat) : (d.wdeReload n).holds = d.holds := by
  unfold Dev.wdeReload
  split
  · exact Dev.holds_of_regs rfl
  · rfl

/-- An engine that has been reset runs unless it is held (R496). -/
theorem Chip.engineReset_resets (n : Fin 64) :
    (s.engineReset n).resets = (Function.update s.resets.1 (eng n) (!heldIn s.resets.2 n), s.resets.2) := by
  have down : (((((s.coreReset (eng n)).abandonAll (0x40 + n.val)).onDev fun d => (d.pmReset n).wdeReload n)).admEngineReset n).resets
      = (Function.update s.resets.1 (eng n) false, s.resets.2) := by
    refine (Chip.admEngineReset_resets _ _).trans ((Chip.onDev_resets fun d => ?_).trans ((Chip.abandonAll_resets _ _).trans (s.coreReset_resets _)))
    exact (Dev.wdeReload_holds _ _).trans (d.pmReset_holds _)
  unfold Chip.engineReset
  dsimp only
  rw [Chip.release_resets, down]
  simp only [Function.update_self, Bool.false_or, Function.update_idem]

end

/-! ### A cabinet's engines -/

/-- What a write of RST makes of engine n of its cabinet: whether it runs (R496). -/
def rstRun (pulse : Nat) (r : (CoreId → Bool) × (Fin 8 → Nat)) (n : Fin 64) : Bool :=
  if pulse / 2 ^ (n.val % 8) % 2 = 1 then !heldIn r.2 n else r.1 (eng n) || !heldIn r.2 n

/-- One engine of the cabinet. -/
def Chip.rstStep (s : Chip) (pulse : Nat) (n : Fin 64) : Chip := if pulse / 2 ^ (n.val % 8) % 2 = 1 then s.engineReset n else s.release n

theorem Chip.rstStep_resets (s : Chip) (pulse : Nat) (n : Fin 64) :
    (s.rstStep pulse n).resets = (Function.update s.resets.1 (eng n) (rstRun pulse s.resets n), s.resets.2) := by
  unfold Chip.rstStep rstRun
  split
  · exact s.engineReset_resets n
  · exact s.release_resets n

theorem eng_injective {n m : Fin 64} (h : eng n = eng m) : n = m := by
  have place := congrArg Fin.val h
  exact Fin.ext place

/-- After the first m engines of the cabinet. -/
theorem Chip.rstFold_resets (s : Chip) (k : Fin 8) (pulse : Nat) {m : Nat} (hm : m ≤ 8) :
    let t := (List.range m).foldl (fun s j => s.rstStep pulse (Fin.ofNat 64 (8 * k.val + j))) s
    t.resets.2 = s.resets.2 ∧ ∀ n : Fin 64, t.resets.1 (eng n)
      = if n.val / 8 = k.val ∧ n.val % 8 < m then rstRun pulse s.resets n else s.resets.1 (eng n) := by
  induction m with
  | zero => exact ⟨rfl, fun n => (if_neg fun h => absurd h.2 (Nat.not_lt_zero _)).symm⟩
  | succ m ih =>
    obtain ⟨holds, runs⟩ := ih (Nat.le_of_succ_le hm)
    rw [List.range_succ, List.foldl_append]
    generalize (List.range m).foldl (fun s j => s.rstStep pulse (Fin.ofNat 64 (8 * k.val + j))) s = t at holds runs ⊢
    have step := t.rstStep_resets pulse (Fin.ofNat 64 (8 * k.val + m))
    have place : (Fin.ofNat 64 (8 * k.val + m)).val = 8 * k.val + m := Nat.mod_eq_of_lt (by omega)
    dsimp only [List.foldl_cons, List.foldl_nil]
    rw [step]
    dsimp only
    refine ⟨holds, fun n => ?_⟩
    by_cases hn : n = Fin.ofNat 64 (8 * k.val + m)
    · have here : n.val = 8 * k.val + m := (congrArg Fin.val hn).trans place
      have before := runs n
      rw [if_neg (by omega)] at before
      rw [← hn, Function.update_self, if_pos (by omega)]
      unfold rstRun
      rw [before, holds]
    · have other : n.val ≠ 8 * k.val + m := fun h => hn (Fin.ext (h.trans place.symm))
      have same : (n.val / 8 = k.val ∧ n.val % 8 < m + 1) ↔ (n.val / 8 = k.val ∧ n.val % 8 < m) := by omega
      rw [Function.update_of_ne (fun h => hn (eng_injective h)), runs n]
      simp only [same]

/-- A write of RST runs through the eight engines of its cabinet. -/
theorem Chip.rstWrite_run (s : Chip) (k : Fin 8) (pulse : Nat) (n : Fin 64) :
    (s.rstWrite k pulse).cores[eng n].run = if n.val / 8 = k.val then rstRun pulse s.resets n else s.cores[eng n].run := by
  have steps : s.rstWrite k pulse = (List.range 8).foldl (fun s j => s.rstStep pulse (Fin.ofNat 64 (8 * k.val + j))) s := by
    unfold Chip.rstWrite
    refine List.foldl_ext _ _ _ fun t j hj => ?_
    have hj8 := List.mem_range.mp hj
    have place : (Fin.ofNat 64 (8 * k.val + j)).val % 8 = j := by
      rw [show (Fin.ofNat 64 (8 * k.val + j)).val = 8 * k.val + j from Nat.mod_eq_of_lt (by omega)]
      omega
    unfold Chip.rstStep
    rw [place]
  have all := (s.rstFold_resets k pulse (Nat.le_refl 8)).2 n
  rw [← steps, Chip.resets_run, Chip.resets_run] at all
  rw [all]
  simp only [Nat.mod_lt n.val (by decide : 8 > 0), and_true]

end Sys2Proof.Machine
end

section
/-! The registers of a cabinet (R496, R124 to R126): what a write of RST, CXTAB and CXCTL stores and starts. -/

namespace Sys2Proof.Machine

open Reg

/-! ### What a field takes -/

section
variable {s : Chip} {m : Sender} {a i : Nat} {v : Word} {r : RegRow} {f : FldSpec} (hf : findReg a = some (r, i)) (hb : r.back = 0)
  (hm : f ∈ r.flds) (hn : notStored a = false) (plain : f.acc = .rw ∧ f.clamp = .raw)
include hf hb hm hn plain

/-- A plain field that nothing holds back takes what is written (R11). -/
theorem Chip.takes_free (free : s.dev.frozen a f.hi f.lo = false) : bits ((s.takes m a v).dev.word a) f.hi f.lo = bits v f.hi f.lo := by
  have hr := findReg_sound hf
  obtain ⟨hin, hclamp⟩ := hr.1 f hm
  obtain ⟨u, -, hnew⟩ := s.dev.bits_storeWord hr hm hn v
  rw [Chip.takes_word hf hb, hnew, free, Bool.and_false, if_neg Bool.false_ne_true, FldSpec.bits_store_rw (.inl plain.1) hin hclamp, plain.2]
  rfl

/-- One that a rule holds back stays (R19). -/
theorem Chip.takes_held (held : s.dev.frozen a f.hi f.lo = true) :
    bits ((s.takes m a v).dev.word a) f.hi f.lo = bits (s.dev.word a) f.hi f.lo := by
  have hr := findReg_sound hf
  obtain ⟨u, hu, hnew⟩ := s.dev.bits_storeWord hr hm hn v
  have holdable : f.holdable = true := by
    unfold FldSpec.holdable
    rw [plain.1]
  rw [Chip.takes_word hf hb, hnew, held, holdable, Bool.and_self, if_pos rfl, hu, hb, Nat.sub_zero]

end

/-- A register that stores nothing keeps its word. -/
theorem Chip.takes_notStored {s : Chip} {m : Sender} {a i : Nat} {v : Word} {r : RegRow} (hf : findReg a = some (r, i)) (hb : r.back = 0)
    (hn : notStored a = true) : (s.takes m a v).dev.word a = s.dev.word a := by
  rw [Chip.takes_word hf hb]
  unfold Dev.storeWord
  rw [if_pos hn, hb, Nat.sub_zero]

/-- The value a raw field of a write takes is the one written. -/
theorem RegRow.bits_taken {r : RegRow} {f : FldSpec} (hr : r.Sound) (hm : f ∈ r.flds) (raw : f.clamp = .raw) (v : Word) :
    bits (r.taken v) f.hi f.lo = bits v f.hi f.lo := by
  obtain ⟨hin, hp⟩ := hr
  obtain ⟨⟨hle, hlt⟩, -⟩ := hin f hm
  obtain ⟨u, -, hnew⟩ := foldl_bits_of_mem (step := fun w g => setBits w g.hi g.lo (g.clamp.apply (bits v g.hi g.lo))) hm hp
    (fun g hg hgf w => bits_setBits_of_disjoint (hin g hg).1.1 (hin g hg).1.2 hle hgf.symm) 0
  unfold RegRow.taken
  rw [hnew, raw, bits_setBits hle hlt]
  exact Nat.mod_eq_of_lt (bits_lt v f.hi f.lo)

/-! ### A cabinet's block -/

theorem blockRows_cab (k : Fin 8) : blockRows (0x20 + k.val) = rowsCAB := by
  fin_cases k <;> rfl

section
variable {a off : Nat} {k : Fin 8} (ha : a / 0x10000 = 0x20 + k.val) (ho : a % 0x10000 = off)
include ha ho

theorem findReg_cab : findReg a = findIn off rowsCAB := by
  unfold findReg
  rw [ha, ho, blockRows_cab]

theorem Chip.hook_cab (s : Chip) (m : Master) (was : Nat → Bool) (old v : Word) : s.hook m a was old v = s.hookCab k off old v := by
  unfold Chip.hook
  dsimp only
  rw [ha, ho]
  fin_cases k <;> rfl

/-- A write that reaches a cabinet's register stores its fields, and does what the cabinet's block does with it. -/
theorem Chip.rowWrite_cab {s : Chip} {m : Sender} {i : Nat} {v : Word} {r : RegRow} (h : Hears s m a v) (hf : findReg a = some (r, i))
    (hb : r.back = 0) (h4 : off % 4 = 0) : s.rowWrite m a v = (s.takes m a v).hookCab k off (s.dev.word a) (r.taken v) := by
  have outside : ¬ (a / 0x10000 = 0x05 ∧ inSubmit (a % 0x10000) = true) := fun hs => by omega
  have noThr : thrQueue a = none := if_neg fun ht => by omega
  have high : 0x200000 ≤ a := by omega
  have heeded : s.dev.ignores a (r.taken v) = false := by
    unfold Dev.ignores
    dsimp only
    iterate 7 rw [if_neg fun e => absurd (e ▸ high) (by decide)]
  rw [rowWrite_hears h outside hf (by omega), writeReg_takes hf noThr heeded, Chip.hook_cab ha ho, hb, Nat.sub_zero]

end

/-! ### RST -/

section
variable (k : Fin 8)

theorem rst_place : CAB_RST k / 0x10000 = 0x20 + k.val ∧ CAB_RST k % 0x10000 = 0 := by
  unfold CAB_RST
  omega

theorem findReg_rst : ∃ r : RegRow, findReg (CAB_RST k) = some (r, 0) ∧ r.back = 0
    ∧ (⟨15, 8, .wo, 0, 0, .raw⟩ : FldSpec) ∈ r.flds ∧ (⟨7, 0, .rw, 255, 0, .raw⟩ : FldSpec) ∈ r.flds :=
  ⟨_, (findReg_cab (rst_place k).1 (rst_place k).2).trans rfl, rfl, List.mem_cons_self, List.mem_cons_of_mem _ List.mem_cons_self⟩

variable {k} {s : Chip} {m : Sender} {v : Word}

/-- A write of RST pulses the engines of its PULSE bits and lets those go whose HOLD bit is 0. -/
theorem Chip.rowWrite_rst (h : Hears s m (CAB_RST k) v) : s.rowWrite m (CAB_RST k) v = (s.takes m (CAB_RST k) v).rstWrite k (bits v 15 8) := by
  obtain ⟨r, hf, hb, pulse, -⟩ := findReg_rst k
  rw [Chip.rowWrite_cab (rst_place k).1 (rst_place k).2 h hf hb rfl]
  unfold Chip.hookCab
  rw [if_pos rfl, RegRow.bits_taken (findReg_sound hf) pulse rfl]

theorem Chip.takes_hold : (s.takes m (CAB_RST k) v).dev.get (CAB_RST_HOLD k) = bits v 7 0 := by
  obtain ⟨r, hf, hb, -, hold⟩ := findReg_rst k
  obtain ⟨block, offset⟩ := rst_place k
  refine Chip.takes_free hf hb hold ?_ ⟨rfl, rfl⟩ ?_
  · unfold notStored
    dsimp only
    rw [block, offset]
    fin_cases k <;> rfl
  · unfold Dev.frozen
    dsimp only
    rw [block, offset]
    fin_cases k <;> rfl

theorem Chip.takes_cores (s : Chip) (m : Sender) (a : Nat) (v : Word) : (s.takes m a v).cores = s.cores := by
  unfold Chip.takes Chip.storeReg
  split
  · dsimp only
    split <;> rfl
  · rfl

/-- Who runs after a write of RST: PULSE and HOLD of its word decide (R496). -/
theorem Chip.rst_run (n : Fin 64) (hold engines : BitVec 8) (hh : bits v 7 0 = hold.toNat) :
    ((s.takes m (CAB_RST k) v).rstWrite k engines.toNat).cores[eng n].run = if n.val / 8 = k.val
      then (if engines.getLsbD (n % 8) then !hold.getLsbD (n % 8) else (s.cores[eng n].run || !hold.getLsbD (n % 8)))
      else s.cores[eng n].run := by
  have pulsed : engines.toNat / 2 ^ (n.val % 8) % 2 = 1 ↔ engines.getLsbD (n.val % 8) = true := by
    rw [BitVec.getLsbD, Nat.testBit_eq_decide_div_mod_eq, decide_eq_true_eq]
  rw [Chip.rstWrite_run]
  split
  case isFalse => rw [Chip.takes_cores]
  case isTrue hk =>
    have held : heldIn (s.takes m (CAB_RST k) v).resets.2 n = hold.getLsbD (n.val % 8) := by
      unfold heldIn Chip.resets Dev.holds
      dsimp only
      rw [hk, Chip.takes_hold, hh, BitVec.getLsbD, Nat.testBit_eq_decide_div_mod_eq]
      rfl
    unfold rstRun
    rw [held, Chip.resets_run, Chip.takes_cores]
    simp only [pulsed]

end

/-! ### CXTAB -/

section
variable (k i : Fin 8) (j : Fin 64)

theorem cxtab_place : CAB_CXTAB k i j / 0x10000 = 0x20 + k.val ∧ CAB_CXTAB k i j % 0x10000 = 0x800 + 0x100 * i.val + 4 * j.val := by
  unfold CAB_CXTAB
  omega

theorem findIn_cxtab (i : Fin 8) (j : Fin 64) : (findIn (0x800 + 0x100 * i.val + 4 * j.val) rowsCAB).map (fun p => p.1.base) = some 0x800 := by
  revert i j
  decide +kernel

theorem cxtab_row : ∀ r ∈ rowsCAB, r.base = 0x800 → r.back = 0 ∧ r.flds = [⟨31, 0, .rw, 0, 0, .raw⟩] := by
  simp [rowsCAB]

theorem findReg_cxtab : ∃ (r : RegRow) (n : Nat), findReg (CAB_CXTAB k i j) = some (r, n) ∧ r.back = 0
    ∧ (⟨31, 0, .rw, 0, 0, .raw⟩ : FldSpec) ∈ r.flds := by
  obtain ⟨⟨r, n⟩, found, base⟩ := Option.map_eq_some_iff.mp (findIn_cxtab i j)
  obtain ⟨hb, hflds⟩ := cxtab_row r (findIn_mem found) base
  exact ⟨r, n, (findReg_cab (cxtab_place k i j).1 (cxtab_place k i j).2).trans found, hb, hflds ▸ List.mem_singleton_self _⟩

variable {k i j} {s : Chip} {m : Sender} {v : Word}

theorem Chip.rowWrite_cxtab (h : Hears s m (CAB_CXTAB k i j) v) : s.rowWrite m (CAB_CXTAB k i j) v = s.takes m (CAB_CXTAB k i j) v := by
  obtain ⟨r, n, hf, hb, -⟩ := findReg_cxtab k i j
  rw [Chip.rowWrite_cab (cxtab_place k i j).1 (cxtab_place k i j).2 h hf hb (by omega)]
  have outside : regIndex (0x800 + 0x100 * i.val + 4 * j.val) 0x200 4 8 = none := if_neg fun h => by omega
  unfold Chip.hookCab
  rw [if_neg (by omega), outside]

/-- An image's words past the last micro-operation store nothing (R124). -/
theorem notStored_cxtab : notStored (CAB_CXTAB k i j) = Decidable.decide (33 ≤ j.val) := by
  obtain ⟨block, offset⟩ := cxtab_place k i j
  unfold notStored
  dsimp only
  rw [block, offset]
  have debug : CAB_CXTAB k i j ≠ DBG_HPC := by
    unfold CAB_CXTAB DBG_HPC
    omega
  simp only [Bool.or_eq_decide, Bool.and_eq_decide, decide_eq_decide, beq_iff_eq, decide_eq_true_eq]
  omega

theorem frozen_cxtab (d : Dev) (hi lo : Nat) : d.frozen (CAB_CXTAB k i j) hi lo = !d.slotOpen k i := by
  obtain ⟨block, offset⟩ := cxtab_place k i j
  have slot : (0x800 + 0x100 * i.val + 4 * j.val - 0x800) / 0x100 = i.val := by omega
  unfold Dev.frozen
  dsimp only
  rw [block, offset]
  have window : (Decidable.decide (0x20 ≤ 0x20 + k.val) && Decidable.decide (0x200 ≤ 0x800 + 0x100 * i.val + 4 * j.val)
      && Decidable.decide (0x800 + 0x100 * i.val + 4 * j.val < 0x220)) = false := by
    rw [Bool.and_eq_false_iff, decide_eq_false_iff_not]
    omega
  have image : (Decidable.decide (0x20 ≤ 0x20 + k.val) && Decidable.decide (0x800 ≤ 0x800 + 0x100 * i.val + 4 * j.val)) = true := by
    rw [Bool.and_eq_true, decide_eq_true_eq, decide_eq_true_eq]
    omega
  fin_cases k <;> simp only [window, image, slot] <;> rfl

/-- An open slot takes a word of its image. -/
theorem Chip.takes_cxtab_open (hj : j.val ≤ 32) (ho : s.dev.slotOpen k i = true) : (s.takes m (CAB_CXTAB k i j) v).dev.word (CAB_CXTAB k i j) = v := by
  obtain ⟨r, n, hf, hb, hm⟩ := findReg_cxtab k i j
  have stored : notStored (CAB_CXTAB k i j) = false := notStored_cxtab.trans (decide_eq_false (by omega))
  have word := Chip.takes_free (m := m) (v := v) hf hb hm stored ⟨rfl, rfl⟩ (by rw [frozen_cxtab, ho]; rfl)
  rw [bits_whole, bits_whole] at word
  exact BitVec.eq_of_toNat_eq word

/-- A slot that is locked, committed or loaded keeps its image. -/
theorem Chip.takes_cxtab_shut (ho : s.dev.slotOpen k i = false) :
    (s.takes m (CAB_CXTAB k i j) v).dev.word (CAB_CXTAB k i j) = s.dev.word (CAB_CXTAB k i j) := by
  obtain ⟨r, n, hf, hb, hm⟩ := findReg_cxtab k i j
  cases stored : notStored (CAB_CXTAB k i j) with
  | true => exact Chip.takes_notStored hf hb stored
  | false =>
    have word := Chip.takes_held (m := m) (v := v) hf hb hm stored ⟨rfl, rfl⟩ (by rw [frozen_cxtab, ho]; rfl)
    rw [bits_whole, bits_whole] at word
    exact BitVec.eq_of_toNat_eq word

end

end Sys2Proof.Machine
end

section
/-! The custom slots' commands (R125, R126): what a write of CXCTL starts, what a commit check finds, and what it leaves. -/

namespace Sys2Proof.Machine

open Reg

/-! ### CXCTL -/

section
variable (k i : Fin 8)

theorem cxctl_place : CAB_CXCTL k i / 0x10000 = 0x20 + k.val ∧ CAB_CXCTL k i % 0x10000 = 0x200 + 4 * i.val := by
  unfold CAB_CXCTL
  omega

theorem findReg_cxctl : ∃ (r : RegRow) (n : Nat), findReg (CAB_CXCTL k i) = some (r, n) ∧ r.back = 0
    ∧ (⟨0, 0, .rw, 0, 0, .raw⟩ : FldSpec) ∈ r.flds := by
  have row : ∃ (r : RegRow) (n : Nat), findIn (0x200 + 4 * i.val) rowsCAB = some (r, n) ∧ r.back = 0
      ∧ (⟨0, 0, .rw, 0, 0, .raw⟩ : FldSpec) ∈ r.flds := by
    fin_cases i <;> exact ⟨_, _, rfl, rfl, List.mem_of_mem_getLast? rfl⟩
  rw [findReg_cab (cxctl_place k i).1 (cxctl_place k i).2]
  exact row

variable {k i} {s : Chip} {m : Sender} {v : Word}

theorem notStored_cxctl : notStored (CAB_CXCTL k i) = false := by
  revert k i
  decide

theorem frozen_cxctl (d : Dev) (hi lo : Nat) : d.frozen (CAB_CXCTL k i) hi lo = d.flag (CAB_CXCTL_LOCK k i) := by
  obtain ⟨block, offset⟩ := cxctl_place k i
  unfold Dev.frozen
  dsimp only
  rw [block, offset]
  fin_cases k <;> fin_cases i <;> rfl

/-- While the slot is not locked STATE_REQ takes what is written. -/
theorem Chip.takes_req {b : Nat} (hb : b < 2) (unlocked : s.dev.flag (CAB_CXCTL_LOCK k i) = false) :
    (s.takes m (CAB_CXCTL k i) (withField v (CAB_CXCTL_STATE_REQ k i) b)).dev.get (CAB_CXCTL_STATE_REQ k i) = b := by
  obtain ⟨r, n, hf, hback, hm⟩ := findReg_cxctl k i
  refine (Chip.takes_free hf hback hm notStored_cxctl ⟨rfl, rfl⟩ ((frozen_cxctl _ _ _).trans unlocked)).trans ?_
  unfold withField
  rw [show (CAB_CXCTL_STATE_REQ k i).hi = 0 from rfl, show (CAB_CXCTL_STATE_REQ k i).lo = 0 from rfl, bits_setBits (by decide) (by decide)]
  exact Nat.mod_eq_of_lt hb

/-- What follows a write of CXCTL: a check starts or ends, and with no engine of the cabinet at work the seam is there at once (R126). -/
def Chip.cxctlDone (s : Chip) (k i : Nat) (was : Bool) : Chip :=
  if ((s.onDev (·.cxctl k i was)).cabCores k).all Core.quiet then (s.onDev (·.cxctl k i was)).onDev (·.slotSeam k i)
  else s.onDev (·.cxctl k i was)

theorem Chip.rowWrite_cxctl (h : Hears s m (CAB_CXCTL k i) v) :
    s.rowWrite m (CAB_CXCTL k i) v = (s.takes m (CAB_CXCTL k i) v).cxctlDone k i (s.dev.flag (CAB_CXCTL_STATE_REQ k i)) := by
  obtain ⟨r, n, hf, hb, -⟩ := findReg_cxctl k i
  have slot : regIndex (0x200 + 4 * i.val) 0x200 4 8 = some i.val := by
    unfold regIndex
    rw [if_pos (by omega), Nat.add_sub_cancel_left, Nat.mul_div_cancel_left _ (by decide)]
  have was : (s.dev.word (CAB_CXCTL k i)).getLsbD 0 = s.dev.flag (CAB_CXCTL_STATE_REQ k i) := by
    show (s.dev.word (CAB_CXCTL k i)).toNat.testBit 0 = (bits (s.dev.word (CAB_CXCTL k i)) 0 0 != 0)
    rw [Nat.testBit_zero]
    unfold bits
    rcases Nat.mod_two_eq_zero_or_one (s.dev.word (CAB_CXCTL k i)).toNat with h | h <;> simp [h]
  rw [Chip.rowWrite_cab (cxctl_place k i).1 (cxctl_place k i).2 h hf hb (by omega)]
  unfold Chip.hookCab
  rw [if_neg (by omega), slot]
  dsimp only
  rw [was]
  rfl

end

/-! ### Commits and unloads -/

section
variable {s : Chip} {k i : Nat}

theorem Dev.flag_of_get {d : Dev} {f : Fld} {b : Nat} (h : d.get f = b) : d.flag f = (b != 0) := by
  unfold Dev.flag
  rw [h]

theorem Dev.cxctl_same {d : Dev} {was : Bool} (h : d.flag (CAB_CXCTL_STATE_REQ k i) = was) : d.cxctl k i was = d := if_pos h

/-- A rise starts the check, behind those that run. -/
theorem Dev.cxctl_rise {d : Dev} (h : d.flag (CAB_CXCTL_STATE_REQ k i) = true) :
    d.cxctl k i false = { d with cx := d.cx.filter (· != 8 * k + i) ++ [8 * k + i] } := by
  unfold Dev.cxctl
  dsimp only
  rw [h, if_neg Bool.noConfusion, if_pos rfl]
  rfl

/-- A fall ends one that runs. -/
theorem Dev.cxctl_fall {d : Dev} (h : d.flag (CAB_CXCTL_STATE_REQ k i) = false) :
    d.cxctl k i true = { d with cx := d.cx.filter (· != 8 * k + i) } := by
  unfold Dev.cxctl
  dsimp only
  rw [h, if_neg Bool.noConfusion, if_neg Bool.noConfusion]
  rfl

theorem Dev.slotSeam_asked {d : Dev} (h : d.flag (CAB_CXCTL_STATE_REQ k i) = true) : d.slotSeam k i = d := by
  unfold Dev.slotSeam
  rw [h]
  rfl

theorem Dev.slotSeam_unasked {d : Dev} (h : d.flag (CAB_CXCTL_STATE_REQ k i) = false) : d.slotSeam k i = d.put (CAB_CXCTL_STATE_EFF k i) 0 := by
  unfold Dev.slotSeam
  rw [h]
  rfl

theorem Chip.onDev_id {f : Dev → Dev} (h : f s.dev = s.dev) : s.onDev f = s := by
  unfold Chip.onDev
  rw [h]

/-- A commit leaves a loaded slot as it is. -/
theorem Chip.cxctlDone_up {was : Bool} {t : Chip} (h : s.onDev (·.cxctl k i was) = t) (asked : t.dev.flag (CAB_CXCTL_STATE_REQ k i) = true) :
    s.cxctlDone k i was = t := by
  have seam : t.onDev (·.slotSeam k i) = t := Chip.onDev_id (Dev.slotSeam_asked asked)
  unfold Chip.cxctlDone
  rw [h, seam, ite_self]

/-- The seam of an unload, where it is there at once. -/
def Chip.unloaded (t : Chip) (k i : Nat) : Chip := if (t.cabCores k).all Core.quiet then t.onDev (·.put (CAB_CXCTL_STATE_EFF k i) 0) else t

theorem Chip.cxctlDone_down {was : Bool} {t : Chip} (h : s.onDev (·.cxctl k i was) = t) (unasked : t.dev.flag (CAB_CXCTL_STATE_REQ k i) = false) :
    s.cxctlDone k i was = t.unloaded k i := by
  have seam : t.onDev (·.slotSeam k i) = t.onDev (·.put (CAB_CXCTL_STATE_EFF k i) 0) :=
    congrArg (fun d => ({ t with dev := d } : Chip)) (Dev.slotSeam_unasked unasked)
  unfold Chip.cxctlDone Chip.unloaded
  rw [h, seam]

end

/-! ### The check -/

/-- What a scan without a failure has found. -/
theorem scanUops_none {j marks n : Nat} {ws : List Word} (h : scanUops j marks ws = (none, n)) :
    (∀ w ∈ ws, uopErr w = 0) ∧ n = marks + (ws.map fun w => (uopMarks (bits w 31 26)).getD 0).sum := by
  induction ws generalizing j marks with
  | nil => exact ⟨fun _ hw => absurd hw List.not_mem_nil, (Prod.mk.inj h).2.symm⟩
  | cons w ws ih =>
    unfold scanUops at h
    split at h
    case isFalse => cases h
    case isTrue good =>
      obtain ⟨rest, sum⟩ := ih h
      refine ⟨List.forall_mem_cons.mpr ⟨good, rest⟩, ?_⟩
      rw [List.map_cons, List.sum_cons, sum, Nat.add_assoc]

/-- The code a scan fails with is one of a failure. -/
theorem scanUops_some {j marks n a e : Nat} {ws : List Word} (h : scanUops j marks ws = (some (a, e), n)) : e ≠ 0 := by
  induction ws generalizing j marks with
  | nil => cases h
  | cons w ws ih =>
    unfold scanUops at h
    split at h
    case isTrue => exact ih h
    case isFalse bad =>
      cases h
      exact bad

/-- An image that passes has one to thirty-two micro-operations, all of them good, and declares at least its cost (R125). -/
theorem Dev.slotCheck_passes {d : Dev} {k i : Nat} (h : (d.slotCheck k i).1 = 0) :
    1 ≤ d.slotN k i ∧ d.slotN k i ≤ 32 ∧ (∀ w ∈ d.slotOps k i, uopErr w = 0)
      ∧ (d.slotCheck k i).2.2 = 2 + ((d.slotOps k i).map fun w => (uopMarks (bits w 31 26)).getD 0).sum
      ∧ (d.slotCheck k i).2.2 ≤ d.slotDecl k i := by
  unfold Dev.slotCheck at h ⊢
  dsimp only at h ⊢
  split at h
  case isTrue => cases h
  case isFalse reserved =>
    rw [if_neg reserved]
    split at h
    case isTrue => cases h
    case isFalse size =>
      rw [if_neg size]
      simp only [Bool.or_eq_true, decide_eq_true_eq, not_or, Nat.not_lt] at size
      split at h
      case h_1 _ a e n scan => exact absurd h (scanUops_some scan)
      case h_2 _ n scan =>
        obtain ⟨good, cost⟩ := scanUops_none scan
        rw [Nat.zero_add] at cost
        split at h
        case isTrue => cases h
        case isFalse declared =>
          simp only [if_neg declared]
          simp only [Bool.or_eq_true, decide_eq_true_eq, not_or, Nat.not_lt] at declared
          exact ⟨size.1, size.2, good, congrArg (2 + ·) cost, declared.2⟩

/-- A check that completes shows what it has found (R125). -/
def Dev.checkShown (d : Dev) (k i : Nat) : Dev :=
  ((({ d with cx := d.cx.filter (· != 8 * k + i) } : Dev).put (CAB_CXCTL_ERR k i) (d.slotCheck k i).1).put
    (CAB_CXCTL_ERRIDX k i) (d.slotCheck k i).2.1).put (CAB_CXCTL_COMP k i) (d.slotCheck k i).2.2

/-- It loads the slot where it has found nothing wrong. -/
theorem Dev.cxDone_running {d : Dev} {k i : Nat} (h : 8 * k + i ∈ d.cx) :
    d.cxDone k i = if (d.slotCheck k i).1 = 0 then (d.checkShown k i).put (CAB_CXCTL_STATE_EFF k i) 1 else d.checkShown k i := by
  have running : d.cx.contains (slotKey k i) = true := List.contains_iff_mem.mpr h
  unfold Dev.cxDone
  rw [if_pos running]
  rfl

theorem Dev.cxDone_idle {d : Dev} {k i : Nat} (h : 8 * k + i ∉ d.cx) : d.cxDone k i = d := by
  have idle : ¬ d.cx.contains (slotKey k i) = true := fun hc => h (List.contains_iff_mem.mp hc)
  unfold Dev.cxDone
  rw [if_neg idle]

end Sys2Proof.Machine
end

section
/-! The canaries' readings (R24) and calibration (R27): what a reading shows, the pace each point is given, and where calibration leaves the
rails. -/

namespace Sys2Proof.Machine

open Reg

theorem wing_cases (w : Fin 2) : w = 0 ∨ w = 1 := by
  revert w
  decide

/-! ### A reading -/

section
variable (d : Dev)

theorem Dev.get_of_word {d t : Dev} {f : Fld} (h : t.word f.addr = d.word f.addr) : t.get f = d.get f := by
  unfold Dev.get
  rw [h]

theorem Dev.flag_of_word {d t : Dev} {f : Fld} (h : t.word f.addr = d.word f.addr) : t.flag f = d.flag f :=
  Dev.flag_of_get (Dev.get_of_word h)

theorem Dev.canaryRead_word {a : Nat} (k ps : Nat) (ha : CAB_PACE k ≠ a) : (d.canaryRead k ps).word a = d.word a :=
  (Dev.word_put_of_ne ha).trans ((Dev.word_put_of_ne ha).trans (Dev.word_put_of_ne ha))

/-- PACE takes the reading, SEQ counts it, and VALID is set (R24). -/
theorem Dev.canaryRead_shows (k : Nat) {ps : Nat} (hps : ps ≤ 0xFFFF) : (d.canaryRead k ps).get (CAB_PACE_PACE k) = ps
    ∧ (d.canaryRead k ps).flag (CAB_PACE_VALID k) = true ∧ (d.canaryRead k ps).get (CAB_PACE_SEQ k) = (d.get (CAB_PACE_SEQ k) + 1) % 256 := by
  have valid {t : Dev} {f : Fld} (hf : f.lo ≤ f.hi) (h : f.hi < 31) : (t.on (CAB_PACE_VALID k)).get f = t.get f :=
    Dev.get_put_of_disjoint (by decide : 31 ≤ 31) (by decide : 31 < 32) hf (.inl h)
  have seq {t : Dev} (v : Nat) : (t.put (CAB_PACE_SEQ k) v).get (CAB_PACE_PACE k) = t.get (CAB_PACE_PACE k) :=
    Dev.get_put_of_disjoint (by decide : 16 ≤ 23) (by decide : 23 < 32) (by decide : 0 ≤ 15) (.inl (by decide : 15 < 16))
  have pace {t : Dev} (v : Nat) : (t.put (CAB_PACE_PACE k) v).get (CAB_PACE_SEQ k) = t.get (CAB_PACE_SEQ k) :=
    Dev.get_put_of_disjoint (by decide : 0 ≤ 15) (by decide : 15 < 32) (by decide : 16 ≤ 23) (.inr (by decide : 15 < 16))
  refine ⟨?_, ?_, ?_⟩
  · refine (valid (by decide : 0 ≤ 15) (by decide : 15 < 31)).trans ((seq _).trans ?_)
    rw [Dev.get_put (by decide : 0 ≤ 15) (by decide : 15 < 32)]
    show min ps 0xFFFF % 65536 = ps
    omega
  · exact Dev.flag_of_get (Dev.get_put (by decide : 31 ≤ 31) (by decide : 31 < 32))
  · refine (valid (by decide : 16 ≤ 23) (by decide : 23 < 31)).trans ?_
    refine (Dev.get_put (by decide : 16 ≤ 23) (by decide : 23 < 32)).trans ?_
    show ((d.put (CAB_PACE_PACE k) (min ps 0xFFFF)).get (CAB_PACE_SEQ k) + 1) % 256 = _
    rw [pace]

/-- Where the registrar is off and no point is at or below the rail, it does not heed a reading (R265, R268). -/
theorem Dev.canarySeen_idle {k : Nat} (off : d.flag ADM_CTL_EN_EFF = false) (none : d.railPoint (engWing (8 * k)) = none) : d.canarySeen k = d := by
  unfold Dev.canarySeen Dev.reclaim
  dsimp only
  rw [none]
  dsimp only
  rw [off]
  simp only [Bool.and_false, Bool.false_and, Bool.false_eq_true, if_false]

/-- A reading changes no point's voltage, and no rail. -/
theorem Dev.canaryRead_railPoint (k ps : Nat) (w : Fin 2) : (d.canaryRead k ps).railPoint w = d.railPoint w := by
  have low {f : Fld} (h : f.addr < 0x200000) : (d.canaryRead k ps).get f = d.get f := by
    refine Dev.get_of_word (d.canaryRead_word k ps ?_)
    unfold CAB_PACE
    omega
  have lat : (d.canaryRead k ps).railLat = d.railLat := congrArg usTicks (low (by decide))
  have rail : (d.canaryRead k ps).railMv w = d.railMv w := by
    unfold Dev.railMv
    rw [lat]
    rfl
  have ptab {i : Nat} (hi : i < 16) : ADM_PTAB w i < 0x200000 := by
    unfold ADM_PTAB
    omega
  have usable : (d.canaryRead k ps).usable w = d.usable w := by
    refine List.filter_congr fun i hi => ?_
    exact Dev.flag_of_get (low (ptab (List.mem_range.mp hi)))
  unfold Dev.railPoint
  rw [usable, rail]
  congr 1
  refine List.filter_congr fun i hi => ?_
  have point : (d.canaryRead k ps).pointMv w i = d.pointMv w i := low (ptab (List.mem_range.mp (List.mem_filter.mp hi).1))
  rw [point]

/-- What a reading shows stands after the registrar has seen it. -/
theorem Dev.canary_shows (k : Fin 8) (ps : BitVec 16) : let t := (d.canaryRead k ps.toNat).canarySeen k
    t.get (CAB_PACE_PACE k) = ps.toNat ∧ t.flag (CAB_PACE_VALID k) = true ∧ t.get (CAB_PACE_SEQ k) = (d.get (CAB_PACE_SEQ k) + 1) % 256 := by
  have pace_ne {a : Nat} (h : a < 0x200000) : a ≠ CAB_PACE k := by
    unfold CAB_PACE
    omega
  have seen : ((d.canaryRead k ps.toNat).canarySeen k).word (CAB_PACE k) = (d.canaryRead k ps.toNat).word (CAB_PACE k) :=
    Dev.canarySeen_word (pace_ne (by decide)) (pace_ne (by decide)) (pace_ne (by decide)) k
  obtain ⟨pace, valid, seq⟩ := d.canaryRead_shows k (ps := ps.toNat) (by have := ps.isLt; omega)
  refine ⟨(Dev.get_of_word seen).trans pace, ?_, (Dev.get_of_word seen).trans seq⟩
  exact (Dev.flag_of_word seen).trans valid

theorem Dev.canary_of_runs {k ps : Nat} (h : d.canaryRuns (engWing (8 * k)) = true) : d.canary k ps = (d.canaryRead k ps).canarySeen k := if_pos h

/-- Below 0.42 V no reading is taken (R24). -/
theorem Dev.canary_low {k ps : Nat} (h : d.railMv (engWing (8 * k)) < 420) : d.canary k ps = d := by
  have stopped : ¬ d.canaryRuns (engWing (8 * k)) = true := by
    unfold Dev.canaryRuns
    rw [Bool.and_eq_true, decide_eq_true_eq]
    omega
  exact if_neg stopped

end

/-! ### The pace table -/

section
variable (d : Dev)

theorem Dev.calPoint_word {w i a : Nat} (live : Nat) (ha : ADM_PTAB w i ≠ a) : (d.calPoint w i live).word a = d.word a :=
  (Dev.word_put_of_ne ha).trans ((Dev.word_put_of_ne ha).trans (Dev.word_put_of_ne ha))

theorem Dev.calPoint_word_congr {d t : Dev} (w i live : Nat) (h : t.word (ADM_PTAB w i) = d.word (ADM_PTAB w i)) :
    (t.calPoint w i live).word (ADM_PTAB w i) = (d.calPoint w i live).word (ADM_PTAB w i) :=
  Dev.put_word_congr (Dev.put_word_congr (Dev.put_word_congr h))

/-- A point's pace is the worse of its fuse and its scaled reading, and it is usable where that is within its limit; its voltage stays (R27). -/
theorem Dev.calPoint_shows (w i live : Nat) :
    (d.calPoint w i live).get (ADM_PTAB_PACE w i) = min (max (Config.fusePace i) (scaledPace i live)) 0xFFFF
    ∧ ((d.calPoint w i live).flag (ADM_PTAB_USABLE w i) = true ↔ max (Config.fusePace i) (scaledPace i live) ≤ paceLimit i)
    ∧ (d.calPoint w i live).get (ADM_PTAB_MV w i) = d.get (ADM_PTAB_MV w i) := by
  have usable {t : Dev} {v : Nat} {f : Fld} (hf : f.lo ≤ f.hi) (h : f.hi < 31) : (t.put (ADM_PTAB_USABLE w i) v).get f = t.get f :=
    Dev.get_put_of_disjoint (by decide : 31 ≤ 31) (by decide : 31 < 32) hf (.inl h)
  have src {t : Dev} {v : Nat} {f : Fld} (hf : f.lo ≤ f.hi) (h : f.hi < 30) : (t.put (ADM_PTAB_SRC w i) v).get f = t.get f :=
    Dev.get_put_of_disjoint (by decide : 30 ≤ 30) (by decide : 30 < 32) hf (.inl h)
  have pace {t : Dev} {v : Nat} : (t.put (ADM_PTAB_PACE w i) v).get (ADM_PTAB_MV w i) = t.get (ADM_PTAB_MV w i) :=
    Dev.get_put_of_disjoint (by decide : 0 ≤ 15) (by decide : 15 < 32) (by decide : 16 ≤ 25) (.inr (by decide : 15 < 16))
  refine ⟨?_, ?_, ?_⟩
  · refine (usable (by decide : 0 ≤ 15) (by decide : 15 < 31)).trans ((src (by decide : 0 ≤ 15) (by decide : 15 < 30)).trans ?_)
    rw [Dev.get_put (by decide : 0 ≤ 15) (by decide : 15 < 32)]
    show min (max (Config.fusePace i) (scaledPace i live)) 0xFFFF % 65536 = _
    omega
  · have set : (d.calPoint w i live).get (ADM_PTAB_USABLE w i) = (if max (Config.fusePace i) (scaledPace i live) ≤ paceLimit i then 1 else 0) % 2 :=
      Dev.get_put (by decide : 31 ≤ 31) (by decide : 31 < 32)
    rw [Dev.flag_of_get set]
    split
    case isTrue h => exact iff_of_true rfl h
    case isFalse h => exact iff_of_false Bool.noConfusion h
  · exact (usable (by decide : 16 ≤ 25) (by decide : 25 < 31)).trans ((src (by decide : 16 ≤ 25) (by decide : 25 < 30)).trans pace)

/-- The points of one wing, the first n of them. -/
def Dev.calWing (d : Dev) (live : List Nat) (w : Fin 2) (n : Nat) : Dev :=
  (List.range n).foldl (fun d i => d.calPoint w i (live.getD (16 * w.val + i) 0)) d

theorem ptab_ne {w x : Fin 2} {i j : Nat} (hi : i < 16) (hj : j < 16) (h : w ≠ x ∨ i ≠ j) : ADM_PTAB w i ≠ ADM_PTAB x j := by
  unfold ADM_PTAB
  omega

theorem Dev.calWing_succ (live : List Nat) (w : Fin 2) (n : Nat) :
    d.calWing live w (n + 1) = (d.calWing live w n).calPoint w n (live.getD (16 * w.val + n) 0) := by
  unfold Dev.calWing
  rw [List.range_succ, List.foldl_append, List.foldl_cons, List.foldl_nil]

theorem Dev.calWing_word (live : List Nat) (w x : Fin 2) {n j : Nat} (hn : n ≤ 16) (hj : j < 16) :
    (d.calWing live w n).word (ADM_PTAB x j) = if w = x ∧ j < n then (d.calPoint x j (live.getD (16 * x.val + j) 0)).word (ADM_PTAB x j)
      else d.word (ADM_PTAB x j) := by
  induction n with
  | zero => exact (if_neg fun h => absurd h.2 (Nat.not_lt_zero _)).symm
  | succ n ih =>
    have before := ih (Nat.le_of_succ_le hn)
    rw [Dev.calWing_succ]
    by_cases here : w = x ∧ n = j
    · obtain ⟨rfl, rfl⟩ := here
      rw [if_neg fun h => absurd h.2 (Nat.lt_irrefl _)] at before
      rw [if_pos ⟨rfl, Nat.lt_succ_self _⟩]
      exact Dev.calPoint_word_congr _ _ _ before
    · have same : (w = x ∧ j < n + 1) ↔ (w = x ∧ j < n) := by omega
      rw [Dev.calPoint_word _ _ (ptab_ne (by omega) hj (by omega)), before]
      simp only [same]

/-- Both wings' points. -/
def Dev.calPoints (d : Dev) (live : List Nat) : Dev := (d.calWing live 0 16).calWing live 1 16

theorem Dev.calPoints_word (live : List Nat) (x : Fin 2) {j : Nat} (hj : j < 16) :
    (d.calPoints live).word (ADM_PTAB x j) = (d.calPoint x j (live.getD (16 * x.val + j) 0)).word (ADM_PTAB x j) := by
  unfold Dev.calPoints
  rw [Dev.calWing_word _ _ _ _ (Nat.le_refl _) hj]
  have first := d.calWing_word live 0 x (Nat.le_refl 16) hj
  rcases wing_cases x with rfl | rfl
  · rw [if_neg fun h => absurd h.1 (by decide), first, if_pos ⟨rfl, hj⟩]
  · rw [if_neg fun h => absurd h.1 (by decide)] at first
    rw [if_pos ⟨rfl, hj⟩]
    exact Dev.calPoint_word_congr _ _ _ first

end

/-! ### The rails -/

section
variable (d : Dev) (w : Fin 2) (i : Fin 16)

/-- A boot request whose write the PMIC takes moves its rail, and no register but the sequencer's status and the point shown. -/
theorem Dev.railWrite_ok {d : Dev} {r : RailReq} {rest : List RailReq} (h : d.rseq = r :: rest) :
    ∃ x : Rail, (d.railWrite true 0).1 = (d.sent r rest).setRail r.wing x ∧ x.mv = if r.ask.isVolt then d.askMv r.wing r.ask else d.rails[r.wing].mv := by
  have taken : ¬ d.writeRefused true 0 := by simp [Dev.writeRefused]
  obtain ⟨x, ht, -, -, hmv⟩ := (d.sent r rest).railTaken_eq r
  rw [Dev.sent_rails, Dev.sent_askMv] at hmv
  refine ⟨x, ?_, hmv⟩
  rw [Dev.railWrite_cons h, if_neg taken]
  exact ht

theorem Dev.sent_word {d : Dev} {r : RailReq} {rest : List RailReq} {a : Nat} (hs : SP_RSEQST ≠ a) : (d.sent r rest).word a = d.word a := by
  unfold Dev.sent
  rw [Dev.word_put_of_ne hs, Dev.word_put_of_ne hs]
  rfl

theorem Dev.setRail_word (x : Rail) (a : Nat) : (d.setRail w x).word a = d.word a := rfl

theorem Dev.railWrite_word {a : Nat} (hs : SP_RSEQST ≠ a) : (d.railWrite true 0).1.word a = d.word a := by
  cases h : d.rseq with
  | nil =>
    unfold Dev.railWrite
    rw [h]
  | cons r rest =>
    obtain ⟨x, moved, -⟩ := Dev.railWrite_ok h
    rw [moved, Dev.setRail_word, Dev.sent_word hs]

/-- A request for a point that is let in waits, and leaves rails and fuses as they are. -/
theorem Dev.admitAsk_point : (d.admitAsk ⟨w, .point i, .firmware⟩).rseq = d.rseq ∧ (d.admitAsk ⟨w, .point i, .firmware⟩).rails = d.rails
    ∧ (d.admitAsk ⟨w, .point i, .firmware⟩).sec = d.sec := by
  unfold Dev.admitAsk Dev.showAsk
  simp [RailAsk.lowers]

theorem Dev.queueAsk_keeps (r : RailReq) : (d.queueAsk r).rseq = enqueueReq d.rseq r ∧ (d.queueAsk r).rails = d.rails ∧ (d.queueAsk r).sec = d.sec := by
  unfold Dev.queueAsk
  simp

theorem Dev.bootRail_word {a : Nat} (hs : SP_RSEQST ≠ a) : (d.bootRail w i).word a = (d.put (railFld w) i).word a := by
  have asked := Dev.askRail_point_word (d := d) hs w i .firmware
  unfold Dev.bootRail
  generalize d.askRail ⟨w, .point i, .firmware⟩ = x at asked ⊢
  obtain ⟨t, failed⟩ := x
  dsimp only at asked ⊢
  split
  · exact asked
  · exact (t.railWrite_word hs).trans asked

theorem Dev.bootRail_word_of_ne {a : Nat} (hs : SP_RSEQST ≠ a) (hr : ADM_STAT ≠ a) : (d.bootRail w i).word a = d.word a :=
  (d.bootRail_word w i hs).trans (Dev.word_put_of_ne (railFld_addr w ▸ hr))

/-- While the sequencer is on and nothing waits, the rail goes to the point's voltage, and the other wing's stays. -/
theorem Dev.bootRail_moves (en : d.flag SP_RSEQCTL_EN = true) (idle : d.rseq = []) : (d.bootRail w i).rseq = []
    ∧ (d.bootRail w i).rails[w].mv = d.get (ADM_PTAB_MV w i) ∧ ∀ v ≠ w, (d.bootRail w i).rails[v] = d.rails[v] := by
  have failed : (d.askRail ⟨w, .point i, .firmware⟩).2 = false := by
    unfold Dev.askRail
    simp only [Dev.showAsk_flag_en, en, Bool.not_true, Bool.false_eq_true, if_false]
  have asked := Dev.askRail_of_enabled (r := ⟨w, .point i, .firmware⟩) en
  have table : (d.askRail ⟨w, .point i, .firmware⟩).1.get (ADM_PTAB_MV w i) = d.get (ADM_PTAB_MV w i) :=
    Dev.get_of_word (Dev.askRail_word (rseqst_ne_ptab w i) (by show 0x50004 ≠ 0x50400 + 0x40 * w.val + 4 * i.val; omega) w i .firmware)
  obtain ⟨admitted, unmoved, -⟩ := d.admitAsk_point w i
  obtain ⟨queued, kept, -⟩ := (d.admitAsk ⟨w, .point i, .firmware⟩).queueAsk_keeps ⟨w, .point i, .firmware⟩
  rw [← asked, unmoved] at kept
  have queue : (d.askRail ⟨w, .point i, .firmware⟩).1.rseq = [⟨w, .point i, .firmware⟩] := by
    rw [asked, queued, admitted, idle]
    rfl
  unfold Dev.bootRail
  generalize d.askRail ⟨w, .point i, .firmware⟩ = x at failed table kept queue ⊢
  obtain ⟨t, f⟩ := x
  dsimp only at failed table kept queue ⊢
  obtain ⟨x, moved, mv⟩ := Dev.railWrite_ok queue
  rw [failed, if_neg Bool.false_ne_true, moved, Dev.setRail_rail]
  refine ⟨?_, ?_, fun v hv => ?_⟩
  · rw [Dev.setRail_rseq, Dev.setRail_rseq, Dev.sent_rseq]
  · rw [Dev.setRail_rail]
    exact mv.trans table
  · have apart : w.val ≠ v.val := fun h => hv (Fin.ext h.symm)
    unfold Dev.setRail
    simp only [Fin.getElem_fin, Vector.getElem_set_ne _ _ apart, Dev.sent_rails, kept]

theorem Dev.showAsk_point_sec : ((d.showAsk ⟨w, .point i, .firmware⟩).on SP_RSEQST_FAIL).sec = d.sec := by
  unfold Dev.showAsk Dev.on
  simp

theorem Dev.sent_sec (r : RailReq) (rest : List RailReq) : (d.sent r rest).sec = d.sec := by
  unfold Dev.sent
  simp

theorem Dev.setRail_sec (x : Rail) : (d.setRail w x).sec = d.sec := rfl

theorem Dev.bootRail_sec : (d.bootRail w i).sec = d.sec := by
  have asked : (d.askRail ⟨w, .point i, .firmware⟩).1.sec = d.sec := by
    cases he : d.flag SP_RSEQCTL_EN with
    | false =>
      rw [Dev.askRail_of_disabled he]
      exact d.showAsk_point_sec w i
    | true =>
      rw [Dev.askRail_of_enabled he, ((d.admitAsk _).queueAsk_keeps _).2.2, (d.admitAsk_point w i).2.2]
  unfold Dev.bootRail
  generalize d.askRail ⟨w, .point i, .firmware⟩ = x at asked ⊢
  obtain ⟨t, f⟩ := x
  dsimp only at asked ⊢
  split
  · exact asked
  · cases h : t.rseq with
    | nil =>
      unfold Dev.railWrite
      rw [h]
      exact asked
    | cons r rest =>
      obtain ⟨x, moved, -⟩ := Dev.railWrite_ok h
      rw [moved, Dev.setRail_sec, Dev.setRail_sec, Dev.sent_sec, asked]

/-- Both rails to a point. -/
def Dev.bootRails (d : Dev) (i : Fin 16) : Dev := (d.bootRail 0 i).bootRail 1 i

theorem Dev.bootRails_word {a : Nat} (hs : SP_RSEQST ≠ a) (hr : ADM_STAT ≠ a) : (d.bootRails i).word a = d.word a :=
  (Dev.bootRail_word_of_ne _ 1 i hs hr).trans (d.bootRail_word_of_ne 0 i hs hr)

theorem Dev.bootRails_sec : (d.bootRails i).sec = d.sec := (Dev.bootRail_sec _ 1 i).trans (d.bootRail_sec 0 i)

/-- Each wing's point is shown. -/
theorem Dev.bootRails_shows : (d.bootRails i).get (railFld w) = i := by
  have shows (t : Dev) (v : Fin 2) : (t.bootRail v i).get (railFld v) = i := by
    refine (Dev.get_of_word (t.bootRail_word v i (by rw [railFld_addr]; decide))).trans ((Dev.get_put ?_ ?_).trans ?_)
    · rcases wing_cases v with rfl | rfl <;> decide
    · rcases wing_cases v with rfl | rfl <;> decide
    · rcases wing_cases v with rfl | rfl <;> exact Nat.mod_eq_of_lt i.isLt
  rcases wing_cases w with rfl | rfl
  · refine (Dev.get_of_word (Dev.bootRail_word _ 1 i (by decide))).trans ?_
    exact (Dev.get_put_of_disjoint (by decide) (by decide) (by decide) (by decide)).trans (shows d 0)
  · exact shows _ 1

theorem Dev.bootRails_moves (en : d.flag SP_RSEQCTL_EN = true) (idle : d.rseq = []) :
    (d.bootRails i).rseq = [] ∧ (d.bootRails i).rails[w].mv = d.get (ADM_PTAB_MV w i) := by
  have en' : (d.bootRail 0 i).flag SP_RSEQCTL_EN = true :=
    (Dev.flag_of_word (d.bootRail_word_of_ne 0 i (by decide) (by decide))).trans en
  obtain ⟨idle0, mv0, -⟩ := d.bootRail_moves 0 i en idle
  obtain ⟨idle1, mv1, other⟩ := (d.bootRail 0 i).bootRail_moves 1 i en' idle0
  refine ⟨idle1, ?_⟩
  rcases wing_cases w with rfl | rfl
  · exact (congrArg Rail.mv (other 0 (by decide))).trans mv0
  · refine mv1.trans (Dev.get_of_word (d.bootRail_word_of_ne 0 i (rseqst_ne_ptab 1 i) ?_))
    show 0x50004 ≠ 0x50400 + 0x40 * 1 + 4 * i.val
    omega

/-- The rails requested in turn. -/
def Dev.calRailed (d : Dev) (l : List (Fin 16)) : Dev := l.foldl Dev.bootRails d

theorem Dev.calRailed_word {a : Nat} (l : List (Fin 16)) (hs : SP_RSEQST ≠ a) (hr : ADM_STAT ≠ a) : (d.calRailed l).word a = d.word a := by
  induction l generalizing d with
  | nil => rfl
  | cons i l ih => exact (ih (d.bootRails i)).trans (d.bootRails_word i hs hr)

theorem Dev.calRailed_sec (l : List (Fin 16)) : (d.calRailed l).sec = d.sec := by
  induction l generalizing d with
  | nil => rfl
  | cons i l ih => exact (ih (d.bootRails i)).trans (d.bootRails_sec i)

theorem Dev.calRailed_idle (l : List (Fin 16)) (en : d.flag SP_RSEQCTL_EN = true) (idle : d.rseq = []) : (d.calRailed l).rseq = [] := by
  induction l generalizing d with
  | nil => exact idle
  | cons i l ih =>
    have en' : (d.bootRails i).flag SP_RSEQCTL_EN = true :=
      (Dev.flag_of_word (d.bootRails_word i (by decide) (by decide))).trans en
    exact ih (d.bootRails i) en' (d.bootRails_moves 0 i en idle).1

end

/-! ### Calibration -/

section
variable (d : Dev)

/-- A cabinet's last reading as calibration leaves it: free values. -/
def Dev.calCab (d : Dev) (k : Nat) : Dev :=
  ((d.put (CAB_PACE_SEQ k) (Config.free d.fresh).toNat).canaryRead k (bits (Config.free d.fresh) 31 16)).tick1

theorem Dev.tick1_word (a : Nat) : d.tick1.word a = d.word a := rfl

theorem Dev.calCab_word {a : Nat} (k : Nat) (ha : a < 0x200000) : (d.calCab k).word a = d.word a := by
  have pace : CAB_PACE k ≠ a := by
    unfold CAB_PACE
    omega
  unfold Dev.calCab
  rw [Dev.tick1_word, Dev.canaryRead_word _ k _ pace, Dev.word_put_of_ne pace]

theorem Dev.calCab_keeps (k : Nat) : (d.calCab k).rails = d.rails ∧ (d.calCab k).sec = d.sec := by
  unfold Dev.calCab Dev.tick1 Dev.canaryRead Dev.bump Dev.on
  simp

/-- The readings calibration leaves, of a list of cabinets. -/
def Dev.calRead (d : Dev) (l : List Nat) : Dev := l.foldl Dev.calCab d

theorem Dev.calRead_word {a : Nat} (l : List Nat) (ha : a < 0x200000) : (d.calRead l).word a = d.word a := by
  induction l generalizing d with
  | nil => rfl
  | cons k l ih => exact (ih (d.calCab k)).trans (d.calCab_word k ha)

theorem Dev.calRead_keeps (l : List Nat) : (d.calRead l).rails = d.rails ∧ (d.calRead l).sec = d.sec := by
  induction l generalizing d with
  | nil => exact ⟨rfl, rfl⟩
  | cons k l ih => exact ⟨(ih (d.calCab k)).1.trans (d.calCab_keeps k).1, (ih (d.calCab k)).2.trans (d.calCab_keeps k).2⟩

/-- The points requested before the last one, which is 0.60 V. -/
def calSteps : List (Fin 16) := (15 :: (List.range 16).reverse).map (Fin.ofNat 16)

/-- Calibration sets the table, moves the rails, and leaves the canaries with their last readings (R27). -/
theorem Dev.calibrate_eq (live : List Nat) : d.calibrate live = ((((d.calPoints live).calRailed calSteps).bootRails 8).calRead cabs) := by
  have rails : calRails = calSteps ++ [8] := by decide
  have railed : (d.calPoints live).calRailed calRails = ((d.calPoints live).calRailed calSteps).bootRails 8 := by
    unfold Dev.calRailed
    rw [rails, List.foldl_append, List.foldl_cons, List.foldl_nil]
  rw [← railed]
  unfold Dev.calibrate Dev.calRead Dev.calRailed Dev.calPoints Dev.calWing wings
  rw [List.foldl_cons, List.foldl_cons, List.foldl_nil]
  rfl

theorem Dev.calPoints_word_of_ne {live : List Nat} {a : Nat} (ha : a < 0x50400 ∨ 0x50480 ≤ a) : (d.calPoints live).word a = d.word a := by
  have wing (t : Dev) (w : Fin 2) (n : Nat) (hn : n ≤ 16) : (t.calWing live w n).word a = t.word a := by
    induction n with
    | zero => rfl
    | succ n ih =>
      rw [Dev.calWing_succ]
      refine (Dev.calPoint_word _ _ ?_).trans (ih (Nat.le_of_succ_le hn))
      unfold ADM_PTAB
      omega
  exact (wing _ 1 16 (Nat.le_refl _)).trans (wing d 0 16 (Nat.le_refl _))

theorem Dev.calPoint_keeps (w i live : Nat) : (d.calPoint w i live).sec = d.sec ∧ (d.calPoint w i live).rseq = d.rseq := by
  unfold Dev.calPoint
  simp

theorem Dev.calWing_keeps (live : List Nat) (w : Fin 2) (n : Nat) : (d.calWing live w n).sec = d.sec ∧ (d.calWing live w n).rseq = d.rseq := by
  induction n with
  | zero => exact ⟨rfl, rfl⟩
  | succ n ih =>
    rw [Dev.calWing_succ]
    exact ⟨(Dev.calPoint_keeps _ _ _ _).1.trans ih.1, (Dev.calPoint_keeps _ _ _ _).2.trans ih.2⟩

theorem Dev.calPoints_keeps (live : List Nat) : (d.calPoints live).sec = d.sec ∧ (d.calPoints live).rseq = d.rseq := by
  obtain ⟨sec0, rseq0⟩ := d.calWing_keeps live 0 16
  obtain ⟨sec1, rseq1⟩ := (d.calWing live 0 16).calWing_keeps live 1 16
  exact ⟨sec1.trans sec0, rseq1.trans rseq0⟩

theorem Dev.calibrate_sec (live : List Nat) : (d.calibrate live).sec = d.sec := by
  rw [Dev.calibrate_eq, (Dev.calRead_keeps _ _).2, Dev.bootRails_sec, Dev.calRailed_sec, (d.calPoints_keeps live).1]

/-- Calibration's last word on a point is the one its reading gave. -/
theorem Dev.calibrate_ptab (live : List Nat) (x : Fin 2) (i : Fin 16) :
    (d.calibrate live).word (ADM_PTAB x i) = (d.calPoint x i (live.getD (16 * x.val + i) 0)).word (ADM_PTAB x i) := by
  have low : ADM_PTAB x i < 0x200000 := by
    unfold ADM_PTAB
    omega
  have stat : ADM_STAT ≠ ADM_PTAB x i := by
    unfold ADM_STAT ADM_PTAB
    omega
  rw [Dev.calibrate_eq, Dev.calRead_word _ _ low, Dev.bootRails_word _ _ (rseqst_ne_ptab x i) stat,
    Dev.calRailed_word _ _ (rseqst_ne_ptab x i) stat, Dev.calPoints_word _ _ _ i.isLt]

theorem Dev.calibrate_point (live : List Nat) (x : Fin 2) : (d.calibrate live).get (railFld x) = 8 := by
  rw [Dev.calibrate_eq]
  exact (Dev.get_of_word (Dev.calRead_word _ _ (by rw [railFld_addr]; decide))).trans (Dev.bootRails_shows _ x 8)

/-- With the sequencer on and nothing waiting both rails end at 0.60 V. -/
theorem Dev.calibrate_rail (live : List Nat) (x : Fin 2) (en : d.flag SP_RSEQCTL_EN = true) (idle : d.rseq = []) :
    (d.calibrate live).rails[x].mv = d.get (ADM_PTAB_MV x 8) := by
  have enP : (d.calPoints live).flag SP_RSEQCTL_EN = true := (Dev.flag_of_word (d.calPoints_word_of_ne (.inr (by decide)))).trans en
  have enR : ((d.calPoints live).calRailed calSteps).flag SP_RSEQCTL_EN = true :=
    (Dev.flag_of_word (Dev.calRailed_word _ _ (by decide) (by decide))).trans enP
  have idleR := (d.calPoints live).calRailed_idle calSteps enP ((d.calPoints_keeps live).2.trans idle)
  have stat : ADM_STAT ≠ ADM_PTAB x 8 := by
    unfold ADM_STAT ADM_PTAB
    omega
  have table : ((d.calPoints live).calRailed calSteps).get (ADM_PTAB_MV x 8) = d.get (ADM_PTAB_MV x 8) := by
    rw [Dev.get_of_word (f := ADM_PTAB_MV x 8) (Dev.calRailed_word _ calSteps (rseqst_ne_ptab x 8) stat),
      Dev.get_of_word (f := ADM_PTAB_MV x 8) (d.calPoints_word live x (j := 8) (by decide))]
    obtain ⟨-, -, mv⟩ := d.calPoint_shows x 8 (live.getD (16 * x.val + 8) 0)
    exact mv
  have ends : (((d.calPoints live).calRailed calSteps).bootRails 8).rails[x].mv = ((d.calPoints live).calRailed calSteps).get (ADM_PTAB_MV x 8) :=
    (Dev.bootRails_moves _ x 8 enR idleR).2
  rw [table] at ends
  rw [Dev.calibrate_eq, (Dev.calRead_keeps _ _).1]
  exact ends

end

end Sys2Proof.Machine
end

section
/-! The cabinets' commands settled (O44): resets, custom slots, canaries and calibration, from the lemmas of the parts before. -/

namespace Sys2Proof.Machine

open Reg

/-! ### The fields of a word for RST -/

section
variable (hold engines : BitVec 8)

theorem rst_word_hold (hi : BitVec 24) : bits (hi ++ hold : Word) 7 0 = hold.toNat := by
  unfold bits
  rw [BitVec.toNat_append, Nat.shiftLeft_eq, Nat.mul_comm, ← Nat.two_pow_add_eq_or_of_lt hold.isLt]
  omega

theorem rst_word_pulse : bits (0#16 ++ engines ++ hold : Word) 15 8 = engines.toNat := by
  have low := hold.isLt
  have pulse := engines.isLt
  unfold bits
  rw [BitVec.toNat_append, Nat.shiftLeft_eq, Nat.mul_comm, ← Nat.two_pow_add_eq_or_of_lt low, BitVec.toNat_append, BitVec.toNat_ofNat]
  simp
  omega

theorem rst_word_quiet : bits (0#24 ++ hold : Word) 15 8 = 0 := by
  have low := hold.isLt
  unfold bits
  rw [BitVec.toNat_append, BitVec.toNat_ofNat]
  simp
  omega

end

theorem Chip.onDev_congr {c : Chip} {f g : Dev → Dev} (h : f c.dev = g c.dev) : c.onDev f = c.onDev g :=
  congrArg (fun d => ({ c with dev := d } : Chip)) h

/-! ### What a write of CXCTL does to a slot that is not locked -/

section
variable {c : Chip} {m : Sender} {k i : Fin 8} {v : Word} (unlocked : c.dev.flag (CAB_CXCTL_LOCK k i) = false)
include unlocked

theorem Chip.takes_asked : (c.takes m (CAB_CXCTL k i) (withField v (CAB_CXCTL_STATE_REQ k i) 1)).dev.flag (CAB_CXCTL_STATE_REQ k i) = true :=
  Dev.flag_of_get (Chip.takes_req (by decide) unlocked)

theorem Chip.takes_unasked : (c.takes m (CAB_CXCTL k i) (withField v (CAB_CXCTL_STATE_REQ k i) 0)).dev.flag (CAB_CXCTL_STATE_REQ k i) = false :=
  Dev.flag_of_get (Chip.takes_req (by decide) unlocked)

/-- A first commit starts the check, behind those that run. -/
theorem Chip.commit_starts (h : Hears c m (CAB_CXCTL k i) (withField v (CAB_CXCTL_STATE_REQ k i) 1))
    (before : c.dev.flag (CAB_CXCTL_STATE_REQ k i) = false) : c.rowWrite m (CAB_CXCTL k i) (withField v (CAB_CXCTL_STATE_REQ k i) 1)
      = (c.takes m (CAB_CXCTL k i) (withField v (CAB_CXCTL_STATE_REQ k i) 1)).onDev fun d =>
        { d with cx := d.cx.filter (· != 8 * k.val + i.val) ++ [8 * k.val + i.val] } := by
  have asked := Chip.takes_asked (m := m) (v := v) unlocked
  rw [Chip.rowWrite_cxctl h, before]
  exact Chip.cxctlDone_up (Chip.onDev_congr (Dev.cxctl_rise asked)) asked

/-- A commit of a slot that is already committed starts nothing. -/
theorem Chip.commit_again (h : Hears c m (CAB_CXCTL k i) (withField v (CAB_CXCTL_STATE_REQ k i) 1))
    (before : c.dev.flag (CAB_CXCTL_STATE_REQ k i) = true) : c.rowWrite m (CAB_CXCTL k i) (withField v (CAB_CXCTL_STATE_REQ k i) 1)
      = c.takes m (CAB_CXCTL k i) (withField v (CAB_CXCTL_STATE_REQ k i) 1) := by
  have asked := Chip.takes_asked (m := m) (v := v) unlocked
  rw [Chip.rowWrite_cxctl h, before]
  exact Chip.cxctlDone_up (Chip.onDev_id (Dev.cxctl_same asked)) asked

/-- A first unload ends the check, and the loading where the seam is there. -/
theorem Chip.unload_ends (h : Hears c m (CAB_CXCTL k i) (withField v (CAB_CXCTL_STATE_REQ k i) 0))
    (before : c.dev.flag (CAB_CXCTL_STATE_REQ k i) = true) : c.rowWrite m (CAB_CXCTL k i) (withField v (CAB_CXCTL_STATE_REQ k i) 0)
      = ((c.takes m (CAB_CXCTL k i) (withField v (CAB_CXCTL_STATE_REQ k i) 0)).onDev fun d =>
        { d with cx := d.cx.filter (· != 8 * k.val + i.val) }).unloaded k i := by
  have unasked := Chip.takes_unasked (m := m) (v := v) unlocked
  rw [Chip.rowWrite_cxctl h, before]
  exact Chip.cxctlDone_down (Chip.onDev_congr (Dev.cxctl_fall unasked)) unasked

/-- Another unload only ends the loading where the seam is there. -/
theorem Chip.unload_again (h : Hears c m (CAB_CXCTL k i) (withField v (CAB_CXCTL_STATE_REQ k i) 0))
    (before : c.dev.flag (CAB_CXCTL_STATE_REQ k i) = false) : c.rowWrite m (CAB_CXCTL k i) (withField v (CAB_CXCTL_STATE_REQ k i) 0)
      = (c.takes m (CAB_CXCTL k i) (withField v (CAB_CXCTL_STATE_REQ k i) 0)).unloaded k i := by
  have unasked := Chip.takes_unasked (m := m) (v := v) unlocked
  rw [Chip.rowWrite_cxctl h, before]
  exact Chip.cxctlDone_down (Chip.onDev_id (Dev.cxctl_same unasked)) unasked

end

/-! ### Calibration in the boot ROM -/

section
variable {s : Chip} (readings : List Nat)

/-- The boot ROM is at the step that calibrates, the rails are up and nothing waits at the sequencer (R498). -/
def Dev.calibratesNow (d : Dev) : Prop := d.cur.boot = true ∧ d.cur.stop = .none ∧ d.get SYS_BOOT_STAGE = 0 ∧ d.get PWR_STAT_STATE = 0
  ∧ d.flag PWR_STAT_BUSY = false ∧ d.pwr.parked = false ∧ d.clocksOn = true ∧ d.rseq = []

/-- The boot mode is the straps' and the life cycle's. -/
theorem Dev.bootMode_of_sec {d t : Dev} (h : t.sec = d.sec) : t.bootMode = d.bootMode := by
  unfold Dev.bootMode Dev.lcState
  rw [h]

/-- The device as calibration leaves it, before the boot ROM goes on. -/
def Dev.calibrated (d : Dev) (readings : List Nat) : Dev := (d.put SYS_BOOT_STAGE 1).calibrate readings

theorem Dev.calibrated_bootMode (d : Dev) : (d.calibrated readings).bootMode = d.bootMode :=
  Dev.bootMode_of_sec (((d.put SYS_BOOT_STAGE 1).calibrate_sec readings).trans (Dev.put_sec _ _ _))

/-- Where the boot ROM goes from calibration, by its mode: recovery, a stop for the debugger, or the next stage. -/
def Chip.bootsOn (s : Chip) (mode : Nat) : Chip :=
  match mode with
  | 2 => s.recovery
  | 4 => s
  | _ => s.onDev (·.put SYS_BOOT_STAGE 2)

theorem Chip.bootsOn_next {mode : Nat} (not2 : mode ≠ 2) (not4 : mode ≠ 4) : s.bootsOn mode = s.onDev (·.put SYS_BOOT_STAGE 2) := by
  unfold Chip.bootsOn
  split
  · exact absurd rfl not2
  · exact absurd rfl not4
  · rfl

theorem Chip.calibration_ready (ready : s.dev.calibratesNow) :
    s.calibration readings = (s.onDev (·.calibrated readings)).bootsOn s.dev.bootMode := by
  have mode : (s.onDev (·.calibrated readings)).dev.bootMode = s.dev.bootMode := s.dev.calibrated_bootMode readings
  obtain ⟨boot, stop, stage, pwr, busy, parked, clocks, idle⟩ := ready
  rw [← mode]
  unfold Chip.calibration
  simp only [boot, stop, stage, pwr, busy, parked, clocks, idle]
  rfl

theorem Chip.calibration_recovers (now : s.dev.calibratesNow) (mode : s.dev.bootMode = 2) :
    s.calibration readings = (s.onDev (·.calibrated readings)).recovery := by
  rw [Chip.calibration_ready readings now, mode]
  rfl

theorem Chip.calibration_goes_on (now : s.dev.calibratesNow) (not2 : s.dev.bootMode ≠ 2) (not4 : s.dev.bootMode ≠ 4) :
    s.calibration readings = s.onDev fun d => (d.calibrated readings).put SYS_BOOT_STAGE 2 := by
  rw [Chip.calibration_ready readings now, Chip.bootsOn_next not2 not4, Chip.onDev_onDev]

theorem Chip.calibration_past (stage : s.dev.get SYS_BOOT_STAGE ≠ 0) : s.calibration readings = s := by
  unfold Chip.calibration
  simp only [stage, decide_false, Bool.and_false, Bool.false_and, Bool.false_eq_true, if_false]

end

/-! ### The settled obligation -/

/-- What a command makes of the device it finds is what counts. -/
theorem State.becomes_congr {s : State} {f g : Dev → Dev} (h : f s.chip.dev = g s.chip.dev) : s.becomes f = s.becomes g :=
  congrArg s.leaves (Chip.onDev_congr h)

theorem exec_commitCheckComplete (s : State) (k i : Fin 8) : exec (.commitCheckComplete k i) s = s.becomes (·.cxDone k i) := rfl

theorem exec_slotSeam (s : State) (k i : Fin 8) : exec (.slotSeam k i) s = s.becomes (·.slotSeam k i) := rfl

theorem exec_canaryReading (s : State) (k : Fin 8) (ps : BitVec 16) : exec (.canaryReading k ps) s = s.becomes (·.canary k ps.toNat) := rfl

theorem exec_calibration (s : State) (live : List (BitVec 16)) :
    exec (.calibration live) s = s.leaves (s.chip.calibration (live.map (·.toNat))) := rfl

/-- Settles O44: the words for RST, CXTAB and CXCTL through what a register write stores and starts, the commit check through the scan of the
image, the canaries and calibration through what the registrar and the sequencer leave of the pace table and the rails. -/
theorem cabinetCommands : Obligations.CabinetCommands := by
  unfold Obligations.CabinetCommands
  refine ⟨fun s m k i j hold engines v => ?slots, fun s k ps live => ?paces⟩
  case slots =>
    intro c d vP vH up dn uU uD key unloaded req locked uT found
    refine ⟨?pulse, ?hold, ?table, ?commit, ?committed, ?unload, ?unloads, ?checked, ?unchecked, Dev.slotCheck_passes, ?seam, ?noSeam⟩
    case pulse =>
      intro h
      refine ⟨_, congrArg s.leaves (Chip.rowWrite_rst h), ?_, fun n => ?_⟩
      · rw [rst_word_pulse]
      · rw [rst_word_pulse]
        exact Chip.rst_run n hold engines (rst_word_hold hold _)
    case hold =>
      intro h
      refine ⟨_, congrArg s.leaves (Chip.rowWrite_rst h), ?_, fun n => ?_⟩
      · rw [rst_word_quiet]
      · have run := Chip.rst_run (s := c) (m := m) (k := k) (v := vH) n hold 0#8 (rst_word_hold hold _)
        simp only [BitVec.getLsbD_zero, Bool.false_eq_true, if_false] at run
        rw [rst_word_quiet]
        exact run
    case table =>
      intro h
      exact ⟨congrArg s.leaves (Chip.rowWrite_cxtab h), Chip.takes_cxtab_open, Chip.takes_cxtab_shut⟩
    case commit =>
      intro h unlocked before
      exact congrArg s.leaves (Chip.commit_starts unlocked h before)
    case committed =>
      intro h unlocked before
      exact congrArg s.leaves (Chip.commit_again unlocked h before)
    case unload =>
      intro h unlocked before
      exact congrArg s.leaves (Chip.unload_ends unlocked h before)
    case unloads =>
      intro h unlocked before
      exact congrArg s.leaves (Chip.unload_again unlocked h before)
    case checked =>
      intro running
      exact (exec_commitCheckComplete s k i).trans (State.becomes_congr (Dev.cxDone_running running))
    case unchecked =>
      intro idle
      exact congrArg s.leaves (Chip.onDev_id (Dev.cxDone_idle idle))
    case seam =>
      intro unasked
      exact (exec_slotSeam s k i).trans (State.becomes_congr (Dev.slotSeam_unasked unasked))
    case noSeam =>
      intro asked
      exact congrArg s.leaves (Chip.onDev_id (Dev.slotSeam_asked asked))
  case paces =>
    intro d w readings ready
    refine ⟨?reading, ?unheeded, ?low, ?boots, ?recovers, ?past, fun x i => ?table⟩
    case reading =>
      intro runs
      exact ⟨_, (exec_canaryReading s k ps).trans (State.becomes_congr (Dev.canary_of_runs d runs)), Dev.canary_shows d k ps⟩
    case unheeded =>
      intro runs off none
      have pace : CAB_PACE k ≠ ADM_CTL_EN_EFF.addr := by
        show 0x200040 + 0x10000 * k.val ≠ 0x50000
        omega
      have still : (d.canaryRead k ps.toNat).flag ADM_CTL_EN_EFF = false :=
        (Dev.flag_of_word (d.canaryRead_word k _ pace)).trans off
      have same : (d.canaryRead k ps.toNat).canarySeen k = d.canaryRead k ps.toNat :=
        Dev.canarySeen_idle _ still ((d.canaryRead_railPoint k _ _).trans none)
      exact (exec_canaryReading s k ps).trans (State.becomes_congr ((Dev.canary_of_runs d runs).trans same))
    case low =>
      intro h
      exact congrArg s.leaves (Chip.onDev_id (Dev.canary_low d h))
    case boots =>
      intro now not2 not4
      exact (exec_calibration s live).trans (congrArg s.leaves (Chip.calibration_goes_on readings now not2 not4))
    case recovers =>
      intro now mode
      exact (exec_calibration s live).trans (congrArg s.leaves (Chip.calibration_recovers readings now mode))
    case past =>
      intro stage
      exact (exec_calibration s live).trans (congrArg s.leaves (Chip.calibration_past readings stage))
    case table =>
      have word := d.calibrate_ptab readings x i
      obtain ⟨pace, usable, -⟩ := d.calPoint_shows x i (readings.getD (16 * x.val + i) 0)
      refine ⟨(Dev.get_of_word (f := ADM_PTAB_PACE x i) word).trans pace, ?_, d.calibrate_point readings x, d.calibrate_rail readings x⟩
      rw [Dev.flag_of_word (f := ADM_PTAB_USABLE x i) word]
      exact usable

end Sys2Proof.Machine
end

section
/-! Writes of the registers of the arrays and the vault (R186, R199, R200, R203): what each leaves in its fields and what it starts. -/

namespace Sys2Proof.Machine

open Reg

/-! ### A register outside ADM and DPT -/

section
variable {s : Chip} {m : Sender} {a i : Nat} {v : Word} {r : RegRow} (hf : findReg a = some (r, i)) (hb : r.back = 0)
include hf hb

/-- A write that reaches its register and that no rule makes do nothing stores its fields and starts what its block does with it. -/
theorem Chip.rowWrite_hooks (h : Hears s m a v) (h4 : a % 4 = 0) (notAdm : a / 0x10000 ≠ 0x05) (notDpt : a / 0x10000 ≠ 0x06)
    (heeded : s.dev.ignores a (r.taken v) = false) :
    s.rowWrite m a v = (s.takes m a v).hook (s.asMaster m) a s.dev.inLine (s.dev.word a) (r.taken v) := by
  rw [rowWrite_hears h (fun hs => notAdm hs.1) hf h4, writeReg_takes hf (if_neg fun ht => notDpt ht.1) heeded, hb, Nat.sub_zero]

theorem Chip.takes_get_of_ne {f : Fld} (hab : a ≠ f.addr) (ho : PRV_OVF ≠ f.addr) : (s.takes m a v).dev.get f = s.dev.get f :=
  Dev.get_of_word (Chip.takes_word_of_ne hf hb hab ho)

/-- A field that a write cannot change stays. -/
theorem Chip.takes_unwritten {f : FldSpec} (hm : f ∈ r.flds) (hn : notStored a = false) (hacc : f.acc = .ro ∨ f.acc = .wo ∨ f.acc = .rc) :
    bits ((s.takes m a v).dev.word a) f.hi f.lo = bits (s.dev.word a) f.hi f.lo := by
  obtain ⟨u, hu, hnew⟩ := s.dev.bits_storeWord (findReg_sound hf) hm hn v
  rw [hb, Nat.sub_zero] at hu
  rw [Chip.takes_word hf hb, hnew, FldSpec.store_held hacc, ite_self, hu]

/-- A field that is written 1 to set gains the bits written. -/
theorem Chip.takes_sets {f : FldSpec} (hm : f ∈ r.flds) (hn : notStored a = false) (hacc : f.acc = .w1s) :
    bits ((s.takes m a v).dev.word a) f.hi f.lo = bits (s.dev.word a) f.hi f.lo ||| bits v f.hi f.lo := by
  obtain ⟨u, hu, hnew⟩ := s.dev.bits_storeWord (findReg_sound hf) hm hn v
  rw [hb, Nat.sub_zero] at hu
  have free : f.holdable = false := by
    unfold FldSpec.holdable
    rw [hacc]
  rw [Chip.takes_word hf hb, hnew, free, Bool.false_and, if_neg Bool.false_ne_true,
    FldSpec.bits_store_w1s hacc ((findReg_sound hf).1 f hm).1, hu]

end

theorem Chip.takes_mem (s : Chip) (m : Sender) (a : Nat) (v : Word) : (s.takes m a v).mem = s.mem := by
  unfold Chip.takes Chip.storeReg
  split
  · dsimp only
    split <;> rfl
  · rfl

theorem getLsbD_eq_bits (w : Word) (i : Nat) : w.getLsbD i = (bits w i i != 0) := by
  unfold bits BitVec.getLsbD
  rw [Nat.testBit_eq_decide_div_mod_eq, Nat.sub_self, Nat.zero_add, Nat.pow_one]
  rcases Nat.mod_two_eq_zero_or_one (w.toNat / 2 ^ i) with h | h <;> simp [h]

/-- A one-bit field written as 1 acts as 1 (R537). -/
theorem RegRow.taken_flag {r : RegRow} {b rst step : Nat} {acc : Acc} (hr : r.Sound) (hm : (⟨b, b, acc, rst, step, .raw⟩ : FldSpec) ∈ r.flds)
    (hb : b < 32) (v : Word) : (r.taken (setBits v b b 1)).getLsbD b = true := by
  have taken := RegRow.bits_taken hr hm rfl (setBits v b b 1)
  rw [getLsbD_eq_bits, taken, bits_setBits (Nat.le_refl b) hb, Nat.sub_self]
  rfl

/-! ### GAL.SVC and GAL.CCTL -/

section
variable {s : Chip} {m : Sender} {v : Word}

theorem findReg_svc : ∃ r : RegRow, findReg GAL_SVC = some (r, 0) ∧ r.back = 0
    ∧ (⟨9, 8, .ro, 0, 0, .raw⟩ : FldSpec) ∈ r.flds ∧ (⟨0, 0, .rwl, 0, 0, .raw⟩ : FldSpec) ∈ r.flds :=
  ⟨_, rfl, rfl, List.mem_cons_self, List.mem_cons_of_mem _ List.mem_cons_self⟩

/-- NORMAL written as 1 acts in phase START alone (R203). -/
theorem Chip.rowWrite_normal (h : Hears s m GAL_SVC (withField v GAL_SVC_NORMAL 1)) :
    s.rowWrite m GAL_SVC (withField v GAL_SVC_NORMAL 1)
      = if s.dev.get GAL_SVC_PHASE = 0 then (s.takes m GAL_SVC (withField v GAL_SVC_NORMAL 1)).onDev Dev.normal
        else s.takes m GAL_SVC (withField v GAL_SVC_NORMAL 1) := by
  obtain ⟨r, hf, hb, -, normal⟩ := findReg_svc
  have asked : (r.taken (withField v GAL_SVC_NORMAL 1)).getLsbD 0 = true := RegRow.taken_flag (findReg_sound hf) normal (by decide) v
  have hook (t : Chip) (was : Nat → Bool) (w : Word) : t.hook (s.asMaster m) GAL_SVC was (s.dev.word GAL_SVC) w
      = t.onDev fun d => if w.getLsbD 0 && s.dev.get GAL_SVC_PHASE == 0 then d.normal else d := rfl
  rw [Chip.rowWrite_hooks hf hb h (by decide) (by decide) (by decide) rfl, hook, asked, Bool.true_and]
  by_cases start : s.dev.get GAL_SVC_PHASE = 0
  · rw [if_pos start]
    exact Chip.onDev_congr (if_pos (beq_iff_eq.mpr start))
  · rw [if_neg start]
    exact Chip.onDev_id (if_neg fun e => start (beq_iff_eq.mp e))

theorem Chip.takes_phase : (s.takes m GAL_SVC v).dev.get GAL_SVC_PHASE = s.dev.get GAL_SVC_PHASE := by
  obtain ⟨r, hf, hb, phase, -⟩ := findReg_svc
  exact Chip.takes_unwritten hf hb phase rfl (.inl rfl)

theorem findReg_cctl : ∃ r : RegRow, findReg GAL_CCTL = some (r, 0) ∧ r.back = 0 ∧ (⟨1, 1, .wo, 0, 0, .raw⟩ : FldSpec) ∈ r.flds :=
  ⟨_, rfl, rfl, List.mem_cons_self⟩

theorem Chip.rowWrite_clr (h : Hears s m GAL_CCTL (withField v GAL_CCTL_CLR 1)) :
    s.rowWrite m GAL_CCTL (withField v GAL_CCTL_CLR 1) = (s.takes m GAL_CCTL (withField v GAL_CCTL_CLR 1)).onDev Dev.conflictsClear := by
  obtain ⟨r, hf, hb, clr⟩ := findReg_cctl
  have asked : (r.taken (withField v GAL_CCTL_CLR 1)).getLsbD 1 = true := RegRow.taken_flag (findReg_sound hf) clr (by decide) v
  rw [Chip.rowWrite_hooks hf hb h (by decide) (by decide) (by decide) rfl]
  exact Chip.onDev_congr (if_pos asked)

end

/-! ### VLT.WIPE and VLT.WPROT -/

section
variable {s : Chip} {m : Sender} {v : Word}

/-- The word that asks for a wipe (R200). -/
def wipeWord : Word := 0x7A5E0001

theorem findReg_wipe : ∃ r : RegRow, findReg VLT_WIPE = some (r, 0) ∧ r.back = 0 ∧ r.taken wipeWord = wipeWord :=
  ⟨_, rfl, rfl, by decide⟩

theorem Chip.rowWrite_wipe (h : Hears s m VLT_WIPE wipeWord) : s.rowWrite m VLT_WIPE wipeWord = (s.takes m VLT_WIPE wipeWord).wipe 4 := by
  obtain ⟨r, hf, hb, whole⟩ := findReg_wipe
  have keyed : s.dev.ignores VLT_WIPE wipeWord = false := rfl
  rw [Chip.rowWrite_hooks hf hb h (by decide) (by decide) (by decide) (whole.symm ▸ keyed), whole]
  rfl

theorem Chip.takes_wipe_flag {f : Fld} (other : VLT_WIPE ≠ f.addr) (notOvf : PRV_OVF ≠ f.addr) :
    (s.takes m VLT_WIPE wipeWord).dev.flag f = s.dev.flag f := by
  obtain ⟨r, hf, hb, -⟩ := findReg_wipe
  exact Chip.takes_flag_of_ne hf hb other notOvf

theorem findReg_wprot : ∃ r : RegRow, findReg VLT_WPROT = some (r, 0) ∧ r.back = 0 ∧ (⟨15, 0, .w1s, 0, 0, .raw⟩ : FldSpec) ∈ r.flds :=
  ⟨_, rfl, rfl, List.mem_cons_self⟩

theorem Chip.rowWrite_wprot (h : Hears s m VLT_WPROT v) : s.rowWrite m VLT_WPROT v = s.takes m VLT_WPROT v := by
  obtain ⟨r, hf, hb, -⟩ := findReg_wprot
  rw [Chip.rowWrite_hooks hf hb h (by decide) (by decide) (by decide) rfl]
  rfl

/-- Write protection only grows (R199). -/
theorem Chip.takes_wprot : (s.takes m VLT_WPROT v).dev.get VLT_WPROT_WP = s.dev.get VLT_WPROT_WP ||| bits v 15 0 := by
  obtain ⟨r, hf, hb, wp⟩ := findReg_wprot
  exact Chip.takes_sets hf hb wp rfl rfl

end

end Sys2Proof.Machine
end

section
/-! The conservator (R190, R195, R196): what reading a line leaves of the arrays, the counts and the next position. -/

namespace Sys2Proof.Machine

open Reg

/-! ### Where the words of a line are stored -/

/-- Only the vault's key moves a byte (R198). -/
theorem Dev.place_of_sec {d t : Dev} (h : t.sec = d.sec) (a : Nat) : t.place a = d.place a := by
  unfold Dev.place
  rw [h]

/-- A line stays together, in a line's place. -/
theorem Dev.place_line (d : Dev) {a j : Nat} (line : a % 64 = 0) (hj : j < 8) : d.place (a + 8 * j) = d.place a + 8 * j ∧ d.place a % 8 = 0 := by
  have same : inVault (a + 8 * j) = inVault a := by
    unfold inVault
    rw [Bool.eq_iff_iff]
    simp only [Bool.and_eq_true, decide_eq_true_eq]
    omega
  have lines : (a + 8 * j) / 64 = a / 64 := by omega
  unfold Dev.place
  rw [same, lines]
  split
  · split <;> omega
  · omega

theorem scrubAddr_line (i : Nat) : scrubAddr i % 64 = 0 := by
  unfold scrubAddr
  split_ifs <;> omega

/-! ### The counts of errors and conflicts -/

theorem Dev.countCe_sec (d : Dev) (a : Nat) : (d.countCe a).sec = d.sec := rfl

theorem Dev.countUe_sec (d : Dev) (a : Nat) : (d.countUe a).sec = d.sec := by
  unfold Dev.countUe
  dsimp only
  split <;> split <;> rfl

theorem Dev.conflict_sec (d : Dev) (uid a n : Nat) : (d.conflict uid a n).sec = d.sec := by
  unfold Dev.conflict
  split <;> rfl

/-! ### Words read and corrected -/

theorem Mem.flip_setFlip (m : Mem) (p q : Nat) (f : BitVec 72) : (m.setFlip p f).flip q = if p / 8 = q / 8 then f else m.flip q := by
  unfold Mem.flip Mem.setFlip
  exact amapGet_set fun _ => rfl

/-- What a read leaves of a word's inverted bits: a single one is corrected in place (R190). -/
def corrected (f : BitVec 72) : BitVec 72 := if onesFrom f 72 = 1 then 0 else f

/-- t is s after its n words stored from p upward have been read, each corrected where it can be: stored bytes, cores and the key are as
before. -/
structure Chip.Corrects (s t : Chip) (p n : Nat) : Prop where
  cells : t.mem.cells = s.mem.cells
  cores : t.cores = s.cores
  sec : t.dev.sec = s.dev.sec
  flip : ∀ q, t.mem.flip q = if p / 8 ≤ q / 8 ∧ q / 8 < p / 8 + n then corrected (s.mem.flip q) else s.mem.flip q

section
variable {s t u : Chip} {p n : Nat}

theorem Chip.Corrects.none (s : Chip) (p : Nat) : s.Corrects s p 0 :=
  ⟨rfl, rfl, rfl, fun _ => (if_neg fun h => by omega).symm⟩

/-- One word read, then those above it. -/
theorem Chip.Corrects.cons (first : s.Corrects t p 1) (rest : t.Corrects u (p + 8) n) : s.Corrects u p (n + 1) := by
  refine ⟨rest.cells.trans first.cells, rest.cores.trans first.cores, rest.sec.trans first.sec, fun q => ?_⟩
  have next : (p + 8) / 8 = p / 8 + 1 := by omega
  rw [rest.flip, first.flip, next]
  by_cases here : q / 8 = p / 8
  · rw [if_neg (by omega), if_pos (by omega), if_pos (by omega)]
  · rw [if_neg (show ¬ (p / 8 ≤ q / 8 ∧ q / 8 < p / 8 + 1) by omega)]
    exact if_congr (by omega) rfl rfl

/-- A word of at most two inverted bits read. -/
theorem Chip.fetch64_corrects {a : Nat} (few : onesFrom (s.mem.flip (s.dev.place a)) 72 ≤ 2) : s.Corrects (s.fetch64 a).1 (s.dev.place a) 1 := by
  have same {q : Nat} (hq : s.dev.place a / 8 = q / 8) : s.mem.flip q = s.mem.flip (s.dev.place a) := by
    unfold Mem.flip
    rw [hq]
  have kept (not1 : onesFrom (s.mem.flip (s.dev.place a)) 72 ≠ 1) (q : Nat) : s.mem.flip q
      = if s.dev.place a / 8 ≤ q / 8 ∧ q / 8 < s.dev.place a / 8 + 1 then corrected (s.mem.flip q) else s.mem.flip q := by
    split_ifs with here
    · rw [same (by omega)]
      exact (if_neg not1).symm
    · rfl
  unfold Chip.fetch64
  obtain clean | one | two : onesFrom (s.mem.flip (s.dev.place a)) 72 = 0 ∨ onesFrom (s.mem.flip (s.dev.place a)) 72 = 1
      ∨ onesFrom (s.mem.flip (s.dev.place a)) 72 = 2 := by omega
  · simp only [clean]
    exact ⟨rfl, rfl, rfl, kept (by omega)⟩
  · simp only [one]
    refine ⟨rfl, rfl, Dev.countCe_sec _ _, fun q => ?_⟩
    rw [Mem.flip_setFlip]
    by_cases here : s.dev.place a / 8 = q / 8
    · rw [if_pos here, if_pos (by omega), same here]
      exact (if_pos one).symm
    · rw [if_neg here, if_neg (by omega)]
  · simp only [two]
    exact ⟨rfl, rfl, Dev.countUe_sec _ _, kept (by omega)⟩

/-- Words that are stored one after the other, read in turn. -/
theorem Chip.scrubWords_corrects {a : Nat} (stored : ∀ j < n, s.dev.place (a + 8 * j) = p + 8 * j) (whole : p % 8 = 0)
    (few : ∀ j < n, onesFrom (s.mem.flip (p + 8 * j)) 72 ≤ 2) : s.Corrects (s.scrubWords a n) p n := by
  induction n generalizing s a p with
  | zero => exact .none s p
  | succ n ih =>
    have at_p : s.dev.place a = p := stored 0 n.succ_pos
    have first : s.Corrects (s.fetch64 a).1 p 1 := by
      have read := Chip.fetch64_corrects (s := s) (a := a) (by rw [at_p]; exact few 0 n.succ_pos)
      rwa [at_p] at read
    have next (b j : Nat) : b + 8 + 8 * j = b + 8 * (j + 1) := by omega
    have moved (b : Nat) : (s.fetch64 a).1.dev.place b = s.dev.place b := Dev.place_of_sec first.sec b
    unfold Chip.scrubWords
    refine first.cons (ih (fun j hj => ?_) (by omega) fun j hj => ?_)
    · rw [moved, next, next, stored (j + 1) (by omega)]
    · rw [first.flip, if_neg (by omega), next]
      exact few (j + 1) (by omega)

/-- Words without an inverted bit, read in turn, change nothing. -/
theorem Chip.scrubWords_clean {a : Nat} (clean : ∀ j < n, s.mem.flip (s.dev.place (a + 8 * j)) = 0) : s.scrubWords a n = s := by
  induction n generalizing a with
  | zero => rfl
  | succ n ih =>
    have first : s.fetch64 a = (s, true) := Chip.fetch64_clean (clean 0 n.succ_pos)
    unfold Chip.scrubWords
    rw [first]
    refine ih fun j hj => ?_
    rw [show a + 8 + 8 * j = a + 8 * (j + 1) by omega]
    exact clean (j + 1) (by omega)

end

/-! ### The next line -/

/-- The conservator goes on from line i: to the line after it, after the last to the first with one more pass (R195), and its next interval
starts with STEP as it stands (R196). -/
def Dev.scrubbed (i : Nat) (d : Dev) : Dev :=
  { (if i + 1 < 303104 then d.put GAL_SCRPOS_LINE (i + 1) else (d.put GAL_SCRPOS_LINE 0).put GAL_SCRPOS_PASS (d.get GAL_SCRPOS_PASS + 1)) with
    scrub := ⟨d.tb, d.get GAL_SCRUB_STEP⟩ }

theorem Dev.scrubbed_eq (i : Nat) (d : Dev) :
    (if i + 1 < 303104 then d.put GAL_SCRPOS_LINE (i + 1) else (d.put GAL_SCRPOS_LINE 0).bump GAL_SCRPOS_PASS 1).scrubFrom = d.scrubbed i := by
  have pass : (d.put GAL_SCRPOS_LINE 0).get GAL_SCRPOS_PASS = d.get GAL_SCRPOS_PASS :=
    Dev.get_put_of_disjoint (by decide) (by decide) (by decide) (by decide)
  have step {e : Dev} {f : Fld} {v : Nat} (h : f.addr ≠ GAL_SCRUB_STEP.addr) :
      (e.put f v).scrubFrom = { e.put f v with scrub := ⟨e.tb, e.get GAL_SCRUB_STEP⟩ } := by
    unfold Dev.scrubFrom
    rw [Dev.get_put_of_ne h]
    rfl
  unfold Dev.scrubbed
  split_ifs
  · exact step (by decide)
  · unfold Dev.bump
    rw [pass, step (by decide), Dev.get_put_of_ne (by decide)]
    rfl

/-- The conservator's read of the line at a: a line without power, or of a vault that is shut, is passed over. -/
def Chip.scrubRead (s : Chip) (a : Nat) : Chip := if s.dev.galleryOff a || s.dev.vaultShut a then s else (s.asks 0x08 a).scrubWords a 8

section
variable {s : Chip}

theorem Chip.scrub_runs (en : s.dev.flag GAL_SCRUB_EN = true) (awake : s.dev.get PWR_STAT_STATE < 2) (running : s.dev.pwr.parked = false)
    (due : s.dev.scrub.since + 32 * s.dev.scrub.step ≤ s.dev.tb) :
    s.scrub = (s.scrubRead (scrubAddr (s.dev.get GAL_SCRPOS_LINE))).onDev (·.scrubbed (s.dev.get GAL_SCRPOS_LINE)) := by
  have asleep : s.dev.asleep = false := decide_eq_false (by omega)
  have passed : s.dev.scrubDue = true := decide_eq_true due
  unfold Chip.scrub
  rw [en, asleep, running, passed]
  simp only [Dev.scrubbed_eq]
  rfl

/-- Within the interval, and switched off, the conservator stands (R195, R196). -/
theorem Chip.scrub_stands (h : s.dev.flag GAL_SCRUB_EN = false ∨ ¬ s.dev.scrub.since + 32 * s.dev.scrub.step ≤ s.dev.tb) : s.scrub = s := by
  unfold Chip.scrub
  rcases h with off | early
  · rw [off]
    rfl
  · have waits : s.dev.scrubDue = false := decide_eq_false early
    rw [waits, Bool.and_false]
    rfl

/-- A line read leaves stored bytes and cores as they are, and corrects its words where the bank has power. -/
theorem Chip.scrubRead_corrects {a : Nat} (line : a % 64 = 0) (few : ∀ j < 8, onesFrom (s.mem.flip (s.dev.place (a + 8 * j))) 72 ≤ 2) :
    (s.scrubRead a).mem.cells = s.mem.cells ∧ (s.scrubRead a).cores = s.cores
    ∧ (s.dev.galleryOff a = false → s.dev.vaultShut a = false → ∀ j < 8, (s.scrubRead a).mem.flip (s.dev.place (a + 8 * j))
        = corrected (s.mem.flip (s.dev.place (a + 8 * j)))) := by
  have stored {j : Nat} (hj : j < 8) : s.dev.place (a + 8 * j) = s.dev.place a + 8 * j := (s.dev.place_line line hj).1
  have whole : s.dev.place a % 8 = 0 := (s.dev.place_line line (j := 0) (by decide)).2
  have read : s.Corrects ((s.asks 0x08 a).scrubWords a 8) (s.dev.place a) 8 := by
    have keyed : (s.asks 0x08 a).dev.sec = s.dev.sec := Dev.conflict_sec _ _ _ _
    obtain ⟨cells, cores, sec, flip⟩ := Chip.scrubWords_corrects (s := s.asks 0x08 a)
      (fun j hj => (Dev.place_of_sec keyed _).trans (stored hj)) whole fun j hj => stored hj ▸ few j hj
    exact ⟨cells, cores, sec.trans keyed, flip⟩
  unfold Chip.scrubRead
  refine ⟨?_, ?_, fun powered opened j hj => ?_⟩
  · rw [apply_ite Chip.mem, apply_ite Mem.cells, read.cells, ite_self]
  · rw [apply_ite Chip.cores, read.cores, ite_self]
  · rw [powered, opened, stored hj, Bool.or_false, if_neg Bool.false_ne_true]
    exact (read.flip _).trans (if_pos (by omega))

theorem Chip.scrubRead_clean {a : Nat} (unwatched : s.dev.flag GAL_CCTL_EN = false) (clean : ∀ j < 8, s.mem.flip (s.dev.place (a + 8 * j)) = 0) :
    s.scrubRead a = s := by
  unfold Chip.scrubRead
  rw [Chip.asks_off unwatched, Chip.scrubWords_clean clean, ite_self]

end

end Sys2Proof.Machine
end

section
/-! The upkeep of the arrays settled (O36): the conservator, the lines that bursts own (R182, R184), the service phase and the halves of the
gallery (R203, R206, R207) and the conflict counts (R186). -/

namespace Sys2Proof.Machine

open Reg

/-! ### Halves of the gallery (R203, R207) -/

section
variable {s : Chip} {h : Nat}

theorem Chip.halfOff_seam (normal : s.dev.get GAL_SVC_PHASE = 1) (asked : s.dev.bit GAL_PGATE_GH_REQ h = true)
    (powered : s.dev.bit GAL_PGATE_GH_EFF h = false) (free : s.mem.halfBusy h = false) :
    s.halfOff h = s.onDev (·.putBit GAL_PGATE_GH_EFF h true) := by
  unfold Chip.halfOff
  rw [normal, asked, powered, free]
  rfl

theorem Chip.halfOff_waits (waits : s.dev.bit GAL_PGATE_GH_REQ h = false ∨ s.dev.get GAL_SVC_PHASE ≠ 1 ∨ s.mem.halfBusy h = true) :
    s.halfOff h = s := by
  refine if_neg fun seam => ?_
  simp only [Bool.and_eq_true, decide_eq_true_eq, Bool.not_eq_true'] at seam
  obtain ⟨⟨⟨normal, asked⟩, -⟩, free⟩ := seam
  rcases waits with unasked | other | busy
  · exact Bool.noConfusion (asked.symm.trans unasked)
  · exact other normal
  · exact Bool.noConfusion (busy.symm.trans free)

theorem Chip.halfOn_powers (wanted : s.dev.bit GAL_PGATE_GH_REQ h = false ∨ s.dev.get GAL_SVC_PHASE ≠ 1)
    (off : s.dev.bit GAL_PGATE_GH_EFF h = true) :
    s.halfOn h = (s.clearArray (halfAddr h) (halfAddr (h + 1))).onDev (·.putBit GAL_PGATE_GH_EFF h false) := by
  have comes : (s.dev.get GAL_SVC_PHASE != 1 || !s.dev.bit GAL_PGATE_GH_REQ h) = true := by
    rcases wanted with unasked | other
    · rw [unasked, Bool.not_false, Bool.or_true]
    · rw [bne_iff_ne.mpr other, Bool.true_or]
  unfold Chip.halfOn
  rw [comes, off]
  rfl

theorem Chip.halfOn_waits (asked : s.dev.bit GAL_PGATE_GH_REQ h = true) (normal : s.dev.get GAL_SVC_PHASE = 1) : s.halfOn h = s := by
  unfold Chip.halfOn
  rw [asked, normal]
  rfl

end

/-! ### Words cleared -/

/-- A byte of a cleared range is 0, every other one as it was (R204). -/
theorem Chip.byte_clearArray (s : Chip) (lo hi a : Nat) :
    (s.clearArray lo hi).mem.byte a = if lo ≤ a ∧ a < hi then 0 else s.mem.byte a := amapGet_drop

theorem Chip.sameCores_clearArray (s : Chip) (lo hi : Nat) : SameCores s (s.clearArray lo hi) := by
  intro e
  unfold Chip.clearArray
  simp only [Fin.getElem_fin, Vector.getElem_map]
  split
  · split
    · exact .inr rfl
    · exact .inl rfl
  · exact .inl rfl

theorem resetWord_conf : ∀ i < 8, ∀ j < 128, resetWord (GAL_CONF i j) = 0 := by decide +kernel

/-- CLR sets every conflict count to zero (R186). -/
theorem Dev.conflictsClear_conf (d : Dev) {i j : Nat} (hi : i < 8) (hj : j < 128) : d.conflictsClear.word (GAL_CONF i j) = 0 := by
  have inside : GAL_CONF 0 0 ≤ GAL_CONF i j ∧ GAL_CONF i j < GAL_CONF 8 0 := by
    unfold GAL_CONF
    omega
  unfold Dev.conflictsClear
  rw [Dev.word_resetRange, if_pos inside, resetWord_conf i hi j hj]

/-! ### The service phase -/

/-- NORMAL in phase START changes to it, and the halves asked off go off (R203, R207). -/
theorem Dev.normal_start {d t : Dev} (start : t.get GAL_SVC_PHASE = 0) (same : ∀ f : Fld, f.addr = GAL_PGATE → t.get f = d.get f) :
    t.normal = ((t.put GAL_SVC_PHASE 1).put GAL_SVC_NORMAL 1).put GAL_PGATE_GH_EFF (d.get GAL_PGATE_GH_EFF ||| d.get GAL_PGATE_GH_REQ) := by
  rw [← same GAL_PGATE_GH_EFF rfl, ← same GAL_PGATE_GH_REQ rfl]
  exact if_pos start

section
variable {s : Chip} {m : Sender} {v : Word} (h : Hears s m GAL_SVC (withField v GAL_SVC_NORMAL 1))
include h

theorem Chip.normal_starts (start : s.dev.get GAL_SVC_PHASE = 0) : s.rowWrite m GAL_SVC (withField v GAL_SVC_NORMAL 1)
    = (s.takes m GAL_SVC (withField v GAL_SVC_NORMAL 1)).onDev fun t => ((t.put GAL_SVC_PHASE 1).put GAL_SVC_NORMAL 1).put GAL_PGATE_GH_EFF
        (s.dev.get GAL_PGATE_GH_EFF ||| s.dev.get GAL_PGATE_GH_REQ) := by
  obtain ⟨r, hf, hb, -⟩ := findReg_svc
  have gates (f : Fld) (hg : f.addr = GAL_PGATE) : (s.takes m GAL_SVC (withField v GAL_SVC_NORMAL 1)).dev.get f = s.dev.get f :=
    Chip.takes_get_of_ne hf hb (by rw [hg]; decide) (by rw [hg]; decide)
  rw [Chip.rowWrite_normal h, if_pos start]
  exact Chip.onDev_congr (Dev.normal_start (Chip.takes_phase.trans start) gates)

theorem Chip.normal_again (later : s.dev.get GAL_SVC_PHASE ≠ 0) :
    s.rowWrite m GAL_SVC (withField v GAL_SVC_NORMAL 1) = s.takes m GAL_SVC (withField v GAL_SVC_NORMAL 1) := by
  rw [Chip.rowWrite_normal h, if_neg later]

end

/-! ### The settled obligation -/

theorem exec_scrubLine (s : State) : exec .scrubLine s = s.leaves s.chip.scrub := rfl

theorem exec_normal (m : Sender) (v : Word) (s : State) :
    exec (.normal m v) s = s.leaves (s.chip.rowWrite m GAL_SVC (withField v GAL_SVC_NORMAL 1)) := rfl

theorem exec_clr (m : Sender) (v : Word) (s : State) :
    exec (.clr m v) s = s.leaves (s.chip.rowWrite m GAL_CCTL (withField v GAL_CCTL_CLR 1)) := rfl

theorem exec_pgateOffSeam (h : Fin 16) (s : State) : exec (.pgateOffSeam h) s = s.leaves (s.chip.halfOff h) := rfl

theorem exec_pgateOnComplete (h : Fin 16) (s : State) : exec (.pgateOnComplete h) s = s.leaves (s.chip.halfOn h) := rfl

/-- Settles O36: the conservator by what reading the eight words of a line leaves of their inverted bits; the other commands by the cases of
the halves' seams and by what a write of SVC and CCTL starts. -/
theorem arrayUpkeep : Obligations.ArrayUpkeep := by
  unfold Obligations.ArrayUpkeep
  refine ⟨fun s => ?conservator, fun s m line h v => ?commands⟩
  case conservator =>
    intro d i a due runs on word
    have line : scrubAddr i % 64 = 0 := scrubAddr_line i
    have scrubs (r : runs) : exec .scrubLine s = s.leaves ((s.chip.scrubRead (scrubAddr i)).onDev (·.scrubbed i)) := by
      obtain ⟨en, awake, running, passed⟩ := r
      rw [exec_scrubLine, Chip.scrub_runs en awake running passed]
    refine ⟨fun r few => ?_, fun r unwatched clean => ?_, fun early => ?_, fun off => ?_⟩
    · exact ⟨_, scrubs r, Chip.scrubRead_corrects line few⟩
    · rw [scrubs r, Chip.scrubRead_clean (a := scrubAddr i) unwatched clean]
      rfl
    · rw [exec_scrubLine, Chip.scrub_stands (.inr early)]
    · rw [exec_scrubLine, Chip.scrub_stands (.inl off)]
  case commands =>
    intro d home late n c half
    refine ⟨rfl, rfl, fun heard start => ?_, fun heard later => ?_, fun normal asked powered free => ?_, fun waits => ?_, fun wanted off => ?_,
      fun asked normal => ?_, fun heard => ?_⟩
    · rw [exec_normal, Chip.normal_starts heard start]
    · rw [exec_normal, Chip.normal_again heard later]
    · rw [exec_pgateOffSeam, Chip.halfOff_seam normal asked powered free]
      rfl
    · rw [exec_pgateOffSeam, Chip.halfOff_waits waits]
    · refine ⟨_, (exec_pgateOnComplete h s).trans (congrArg s.leaves (Chip.halfOn_powers wanted off)), rfl, fun b inside => ?_,
        fun b outside => ?_, s.chip.sameCores_clearArray _ _⟩
      · exact (s.chip.byte_clearArray _ _ b).trans (if_pos inside)
      · exact (s.chip.byte_clearArray _ _ b).trans (if_neg outside)
    · rw [exec_pgateOnComplete, Chip.halfOn_waits asked normal]
    · exact ⟨_, (exec_clr m v s).trans (congrArg s.leaves (Chip.rowWrite_clr heard)), fun k hk j hj => Dev.conflictsClear_conf _ hk hj,
        Chip.takes_mem _ _ _ _, Chip.takes_cores _ _ _ _⟩

end Sys2Proof.Machine
end

section
/-! The vault's wipes settled (O37): how a wipe begins and ends (R200, R201) and its write protection (R199). -/

namespace Sys2Proof.Machine

open Reg

/-! ### A wipe begins -/

section
variable {s : Chip} {cause : Nat}

/-- A wipe is under way, its cause noted: a new key is drawn and the vault is shut (R200 steps 1 to 4). -/
def Dev.wipes (cause : Nat) (d : Dev) : Dev :=
  (({ d with
      sec := { d.sec with wipe := cause, key := some (Config.random d.fresh ++ Config.random (d.fresh + 1)) }
      fresh := d.fresh + 2 } : Dev).put VLT_STAT_WIPING 1).put VLT_STAT_READY 0

theorem Dev.restartGone_invalid {d : Dev} (invalid : d.flag CUR_RESTART_VALID = false) : d.restartGone = d := by
  unfold Dev.restartGone
  rw [invalid]
  rfl

/-- A trigger while no wipe runs clears the vault and starts one. -/
theorem Chip.wipe_begins (idle : s.dev.flag VLT_STAT_WIPING = false) (invalid : s.dev.flag CUR_RESTART_VALID = false) :
    s.wipe cause = (s.clearArray 0x3000000 0x3080000).onDev (·.wipes cause) := by
  have still : (s.dev.wipes cause).flag CUR_RESTART_VALID = false :=
    (Dev.flag_put_of_ne (by decide)).trans ((Dev.flag_put_of_ne (by decide)).trans invalid)
  have idle' : (s.onDev (·.onSec fun c => { c with wipe := cause })).dev.flag VLT_STAT_WIPING = false := idle
  unfold Chip.wipe
  dsimp only
  rw [idle', if_neg Bool.false_ne_true]
  exact congrArg (fun d => ({ s.clearArray 0x3000000 0x3080000 with dev := d } : Chip)) (Dev.restartGone_invalid still)

/-- A trigger while one runs only leaves its cause (R201). -/
theorem Chip.wipe_again (wiping : s.dev.flag VLT_STAT_WIPING = true) :
    s.wipe cause = s.onDev fun d => { d with sec := { d.sec with wipe := cause } } := if_pos wiping

end

/-! ### A wipe ends -/

section
variable {d : Dev}

theorem Dev.wipeEnd_idle (idle : d.flag VLT_STAT_WIPING = false) (good : Bool) : d.wipeEnd good = d := by
  unfold Dev.wipeEnd
  rw [idle]
  rfl

section
variable (wiping : d.flag VLT_STAT_WIPING = true) (unfailed : d.sec.wipeFailed = false) (untouched : d.sec.tamper = false)
include wiping unfailed untouched

/-- A good read-back opens the vault, counts the wipe and shows its cause (R200 steps 5 and 6). -/
theorem Dev.wipeEnd_good : d.wipeEnd true
    = ((((d.put VLT_WPROT_WP 0).put VLT_STAT_WIPING 0).put VLT_STAT_READY 1).put VLT_STAT_WIPES (d.get VLT_STAT_WIPES + 1)).put VLT_STAT_CAUSE
        d.sec.wipe := by
  have count : (((d.put VLT_WPROT_WP 0).put VLT_STAT_WIPING 0).put VLT_STAT_READY 1).get VLT_STAT_WIPES = d.get VLT_STAT_WIPES := by
    rw [Dev.get_put_of_disjoint (by decide) (by decide) (by decide) (by decide),
      Dev.get_put_of_disjoint (by decide) (by decide) (by decide) (by decide), Dev.get_put_of_ne (by decide)]
  rw [← count]
  unfold Dev.wipeEnd
  rw [wiping, unfailed]
  exact if_neg fun tampered => Bool.noConfusion (untouched.symm.trans (Bool.and_eq_true_iff.mp tampered).1)

/-- A bad one leaves it shut (R201), and is an event of SEC (R505). -/
theorem Dev.wipeEnd_bad (booted : d.cur.boot = false) :
    d.wipeEnd false = ({ d with sec := { d.sec with wipeFailed := true } } : Dev).putBit SEC_IRQ_ISTAT 1 true := by
  unfold Dev.wipeEnd
  rw [wiping, unfailed]
  have waits : ((d.onSec fun c => { c with wipeFailed := true }).secEvent 1).cur.boot = false := booted
  simp only [Bool.not_false, Bool.and_self, if_true, Bool.false_eq_true, if_false, waits]
  exact if_neg fun tampered => Bool.noConfusion (untouched.symm.trans (Bool.and_eq_true_iff.mp tampered).1)

end

end

/-! ### The settled obligation -/

theorem exec_wipe (m : Sender) (s : State) : exec (.wipe m) s = s.leaves (s.chip.rowWrite m VLT_WIPE wipeWord) := rfl

theorem exec_wipeComplete (good : Bool) (s : State) : exec (.wipeComplete good) s = s.becomes (·.wipeEnd good) := rfl

theorem exec_wprot (m : Sender) (v : Word) (s : State) : exec (.wprot m v) s = s.leaves (s.chip.rowWrite m VLT_WPROT v) := rfl

/-- Settles O37: a write of WIPE with its code starts a wipe, whose beginning and end are read off the model's case splits; WP is a field
that is written 1 to set. -/
theorem vaultWipes : Obligations.VaultWipes := by
  unfold Obligations.VaultWipes
  intro s m v d key u inside secured
  refine ⟨fun heard idle invalid => ?begins, fun heard wiping => ?again, fun wiping unfailed untouched => ?good,
    fun wiping unfailed untouched booted => ?bad, fun idle good => ?idle, fun heard => ?protect⟩
  case begins =>
    have idle' : u.dev.flag VLT_STAT_WIPING = false := (Chip.takes_wipe_flag (by decide) (by decide)).trans idle
    have invalid' : u.dev.flag CUR_RESTART_VALID = false := (Chip.takes_wipe_flag (by decide) (by decide)).trans invalid
    have kept : u.mem = s.chip.mem := Chip.takes_mem _ _ _ _
    have wipe : s.chip.rowWrite m VLT_WIPE key = (u.clearArray 0x3000000 0x3080000).onDev (·.wipes 4) :=
      (Chip.rowWrite_wipe heard).trans (Chip.wipe_begins idle' invalid')
    refine ⟨_, (exec_wipe m s).trans (congrArg s.leaves wipe), rfl, fun a within => ?_, fun a outside => ?_⟩
    · exact (u.byte_clearArray _ _ a).trans (if_pos within)
    · rw [← kept]
      exact (u.byte_clearArray _ _ a).trans (if_neg outside)
  case again =>
    rw [exec_wipe, Chip.rowWrite_wipe heard, Chip.wipe_again ((Chip.takes_wipe_flag (by decide) (by decide)).trans wiping)]
    rfl
  case good => exact (exec_wipeComplete true s).trans (State.becomes_congr (Dev.wipeEnd_good wiping unfailed untouched))
  case bad => exact (exec_wipeComplete false s).trans (State.becomes_congr (Dev.wipeEnd_bad wiping unfailed untouched booted))
  case idle => exact congrArg s.leaves (Chip.onDev_id (Dev.wipeEnd_idle idle good))
  case protect => exact ⟨(exec_wprot m v s).trans (congrArg s.leaves (Chip.rowWrite_wprot heard)), Chip.takes_wprot⟩

end Sys2Proof.Machine
end

section
/-! The depot's windows (R219 to R224): who performs an operation, what a HEAD is checked against (O27), and what the reads of a queue answer
with (O30). -/

namespace Sys2Proof.Machine

open Reg

/-! ### The checks of a HEAD -/

section
variable {d : Dev} {q len : Nat}

/-- The queue has the quota, the pool the cells and the table an entry for an item of len data words (R214, R215, R231). -/
def Dev.Roomy (d : Dev) (q len : Nat) : Prop := d.held q + (len + 15) / 15 ≤ d.get (DPT_QLIM_QUOTA q)
  ∧ (len + 15) / 15 + (if q < 16 then 0 else 64) ≤ d.freeCells ∧ (d.dpt.opens.length < 64 ∨ ∃ o ∈ d.dpt.opens, o.broken = true)

theorem Dev.queueOn_iff : d.queueOn q = true ↔ d.flag DPT_CTL_EN_REQ = true ∧ d.flag DPT_CTL_EN_EFF = true
    ∧ d.flag (DPT_QCFG_EN_REQ q) = true ∧ d.flag (DPT_QCFG_EN_EFF q) = true := by
  simp [Dev.queueOn, and_assoc]

theorem Dev.headCheck_off (h : ¬ d.queueOn q = true) : d.headCheck q len = .disabled := by simp [Dev.headCheck, h]

section
variable (on : d.queueOn q = true)
include on

theorem Dev.headCheck_broken (h : d.flag (DPT_QCFG_LERR q) = true) : d.headCheck q len = .linkErr := by simp [Dev.headCheck, on, h]

variable (whole : d.flag (DPT_QCFG_LERR q) = false)
include whole

theorem Dev.headCheck_long (h : 959 < len) : d.headCheck q len = .badHead := by simp [Dev.headCheck, on, whole, h]

variable (fits : len ≤ 959)
include fits

/-- The last three checks are those of room. -/
theorem Dev.headCheck_room : d.headCheck q len = .ok ∧ d.Roomy q len ∨ d.headCheck q len = .full ∧ ¬ d.Roomy q len := by
  have table : (decide (64 ≤ d.dpt.opens.length) && !d.dpt.opens.any (·.broken)) = false
      ↔ d.dpt.opens.length < 64 ∨ ∃ o ∈ d.dpt.opens, o.broken = true := by
    simp [or_iff_not_imp_left]
  have room : d.Roomy q len ↔ ¬ d.get (DPT_QLIM_QUOTA q) < d.held q + cellsFor len ∧ ¬ d.freeCells < cellsFor len + cellReserve q
      ∧ ¬ (decide (64 ≤ d.dpt.opens.length) && !d.dpt.opens.any (·.broken)) = true := by
    rw [Bool.not_eq_true, table, Nat.not_lt, Nat.not_lt]
    exact Iff.rfl
  unfold Dev.headCheck
  rw [room, on, whole, if_neg (by decide), if_neg (by decide), if_neg (by omega)]
  split_ifs with quota cells full
  · exact .inr ⟨rfl, fun h => h.1 quota⟩
  · exact .inr ⟨rfl, fun h => h.2.1 cells⟩
  · exact .inr ⟨rfl, fun h => h.2.2 full⟩
  · exact .inl ⟨rfl, quota, cells, full⟩

end

end

/-- Settles O27: one answer to each outcome of the checks, which leave no other outcome. -/
theorem headChecks : Obligations.HeadChecks := by
  intro d q len n on roomy
  have enabled : d.queueOn q = true ↔ on := Dev.queueOn_iff
  have room : d.Roomy q len ↔ roomy := Iff.rfl
  by_cases h1 : on
  · have running := enabled.mpr h1
    by_cases h2 : d.flag (DPT_QCFG_LERR q) = true
    · simp [Dev.headCheck_broken running h2, h1, h2]
    · have whole := Bool.eq_false_iff.mpr h2
      by_cases h3 : len ≤ 959
      · obtain ⟨ok, h4⟩ | ⟨full, h4⟩ := Dev.headCheck_room running whole h3 <;> rw [room] at h4
        · simp [ok, h1, whole, h3, h4]
        · simp [full, h1, whole, h3, h4]
      · simp [Dev.headCheck_long running whole (Nat.lt_of_not_le h3), h1, whole, h3, Nat.lt_of_not_le h3]
  · simp [Dev.headCheck_off (h1 ∘ enabled.mp), h1]

/-! ### A window operation by a sender -/

section
variable {c : Chip} {m : Sender} {op : WinOp} {q uid : Nat} (h : c.wields m op q = some uid)
include h

theorem Chip.rowWindow_wields (v : Word) : c.rowWindow m op q v
    = if op.writes then (c.window uid op q v).1 else Chip.answered (c.window uid op q v) := by
  unfold Chip.wields at h
  unfold Chip.rowWindow
  cases m with
  | core e => cases h; rfl
  | debugger =>
    by_cases may : c.dev.debuggerMay op.writes (winAddr op q) = true
    · simp only [if_pos may, Option.some.injEq] at h ⊢
      subst h
      rfl
    · simp only [if_neg may] at h
      cases h
  | host => cases h

theorem Chip.rowWindow_written (w : op.writes = true) (v : Word) : c.rowWindow m op q v = (c.window uid op q v).1 := by
  rw [Chip.rowWindow_wields h, if_pos w]

theorem Chip.rowWindow_answered (r : op.writes = false) {t : Chip} {v w : Word} (read : c.window uid op q v = (t, .ok w)) :
    c.rowWindow m op q v = t.onDev (·.answers w) := by
  rw [Chip.rowWindow_wields h, if_neg (Bool.eq_false_iff.mp r), read]
  rfl

end

/-! ### Pops and peeks -/

section
variable {c : Chip} {uid q : Nat} {it : DItem} {t : Chip} {w : Word}

/-- The position after a word of an item. -/
def DItem.after (it : DItem) (p : DPos) : DPos := if p.word + 1 ≤ it.len then { p with word := p.word + 1 } else { item := p.item + 1, word := 0 }

theorem DQueue.after_item {x : DQueue} {p : DPos} (h : x.items[p.item]? = some it) : x.after p = it.after p := by
  simp [DQueue.after, DItem.after, h]

/-- A consumer's read finds the word at the cursor: the operation is let in, the cursor's cell entered without a link read, and the word
read. -/
structure Chip.Finds (c : Chip) (uid q : Nat) (it : DItem) (t : Chip) (w : Word) : Prop where
  gate : c.dev.consumerGate uid q true = .ok
  item : (c.dev.queue q).items[(c.dev.queue q).cursor.item]? = some it
  entered : c.enterCell q (c.dev.queue q).cursor = (c, true)
  read : c.wordAt q (c.dev.queue q).cursor = (t, .ok w)

section
variable (f : c.Finds uid q it t w) {move : Bool}
include f

/-- A read that moves the cursor finds its way on. -/
theorem Chip.Finds.enterNext (leads : move = true → c.enterCell q (it.after (c.dev.queue q).cursor) = (c, true)) :
    c.enterNext q (c.dev.queue q).cursor move = (c, true) := by
  unfold Chip.enterNext
  rw [DQueue.after_item f.item]
  split
  case isTrue moves => exact leads moves
  case isFalse => rfl

variable (leads : move = true → c.enterCell q (it.after (c.dev.queue q).cursor) = (c, true))
include leads

theorem Chip.Finds.popHead (header : (c.dev.queue q).cursor.word = 0) :
    c.popHead uid q move = (if move then t.moveCursor q (it.after (c.dev.queue q).cursor) else t, .ok w) := by
  have inside : (c.dev.queue q).cursor.item < (c.dev.queue q).items.length := (List.getElem?_eq_some_iff.mp f.item).1
  unfold Chip.popHead
  simp only [f.gate, header, f.entered, f.enterNext leads, f.read, DQueue.after_item f.item, ne_eq, not_true_eq_false, if_false, if_true,
    if_neg (Nat.not_le.mpr inside), Bool.not_true, Bool.false_eq_true]

theorem Chip.Finds.popWord (data : (c.dev.queue q).cursor.word ≠ 0) :
    c.popWord uid q move = (if move then t.moveCursor q (it.after (c.dev.queue q).cursor) else t, .ok w) := by
  unfold Chip.popWord
  simp only [f.gate, data, f.entered, f.enterNext leads, f.read, DQueue.after_item f.item, if_false, if_true, Bool.not_true, Bool.false_eq_true]

end

/-- From Q80 on nothing is staged (R236). -/
theorem Chip.moveCursor_unstaged (t : Chip) (h : 80 ≤ q) (p : DPos) :
    t.moveCursor q p = t.onDev fun d => d.setQueue q { d.queue q with cursor := p } := if_pos h

section
variable (gate : c.dev.consumerGate uid q true = .ok) (move : Bool)
include gate

theorem Chip.popHead_empty (header : (c.dev.queue q).cursor.word = 0) (none : (c.dev.queue q).items.length ≤ (c.dev.queue q).cursor.item) :
    c.popHead uid q move = (c.onDev (·.record uid q .empty false), .ok 1) := by
  simp [Chip.popHead, gate, header, none, statusWord, DStatus.code]

theorem Chip.popHead_away (data : (c.dev.queue q).cursor.word ≠ 0) :
    c.popHead uid q move = (c.onDev (·.record uid q .position false), .ok 7) := by
  simp [Chip.popHead, gate, data, statusWord, DStatus.code]

theorem Chip.popWord_away (header : (c.dev.queue q).cursor.word = 0) :
    c.popWord uid q move = (c.onDev (·.record uid q .position false), .ok 0) := by
  simp [Chip.popWord, gate, header]

end

end

theorem Chip.readDstat_eq (c : Chip) (uid : Nat) :
    c.readDstat uid = (c.onDev fun d => if uid = 0x19 then d else d.setSlot uid ⟨0, 0, 0⟩, .ok (c.dev.slot uid).word) := by
  unfold Chip.readDstat
  split <;> rfl

/-! ### The settled obligation on reads -/

section
variable {s : State} {m : Sender} {q : Fin 1024} {uid : Nat} {t : Chip} {w : Word}

/-- A read's answer, the operation's own effect t before it. -/
theorem State.window_answers {op : WinOp} (h : s.chip.wields m op q = some uid) (r : op.writes = false)
    (read : s.chip.window uid op q 0 = (t, .ok w)) : s.act (fun c => c.rowWindow m op q 0) = s.leaves (t.onDev (·.answers w)) :=
  congrArg s.leaves (Chip.rowWindow_answered h r read)

/-- The same of one that changes the device outside the cores and the arrays alone. -/
theorem State.window_becomes {op : WinOp} {f : Dev → Dev} (h : s.chip.wields m op q = some uid) (r : op.writes = false)
    (read : s.chip.window uid op q 0 = (s.chip.onDev f, .ok w)) :
    s.act (fun c => c.rowWindow m op q 0) = s.becomes fun d => (f d).answers w :=
  (State.window_answers h r read).trans (congrArg s.leaves (Chip.onDev_onDev s.chip f (·.answers w)))

theorem exec_poph : exec (.poph m q) s = s.act fun c => c.rowWindow m .poph q 0 := rfl

theorem exec_peekh : exec (.peekh m q) s = s.act fun c => c.rowWindow m .peekh q 0 := rfl

theorem exec_pop : exec (.pop m q) s = s.act fun c => c.rowWindow m .pop q 0 := rfl

theorem exec_peek : exec (.peek m q) s = s.act fun c => c.rowWindow m .peek q 0 := rfl

theorem exec_dstat : exec (.dstat m q) s = s.act fun c => c.rowWindow m .dstat q 0 := rfl

/-- A debugger's pop leaves the cursor, another's moves it. -/
theorem ite_quiet {α : Sort*} (uid : Nat) (moved still : α) : (if (uid != 0x19) = true then moved else still) = if uid = 0x19 then still else moved := by
  by_cases quiet : uid = 0x19 <;> simp [quiet]

end

/-- Settles O30: each read is the model's pop of a word it finds, or its answer where it finds none. -/
theorem queueReads : Obligations.QueueReads := by
  intro s m q uid it t w c d x p next found leads moved fails
  have finds : found → c.Finds uid q it t w := fun ⟨gate, item, entered, read, _⟩ => ⟨gate, item, entered, read⟩
  have way : leads → (uid != 0x19) = true → c.enterCell q (it.after p) = (c, true) := fun h other => h.resolve_left (bne_iff_ne.mp other)
  have still : false = true → c.enterCell q (it.after p) = (c, true) := Bool.noConfusion
  have quiet : (if (uid != 0x19) = true then t.moveCursor q (it.after p) else t, Reply.ok w) = (moved t, .ok w) :=
    congrArg (·, Reply.ok w) (ite_quiet uid _ _)
  refine ⟨?poph, ?peekh, ?pop, ?peek, fun free => Chip.moveCursor_unstaged t free next, ?empty, ?data, ?header, ?dstat⟩
  case poph =>
    intro h header f l
    exact exec_poph.trans (State.window_answers h rfl (((finds f).popHead (way l) header).trans quiet))
  case peekh =>
    intro h header f
    exact exec_peekh.trans (State.window_answers h rfl ((finds f).popHead still header))
  case pop =>
    intro h data f l
    exact exec_pop.trans (State.window_answers h rfl (((finds f).popWord (way l) data).trans quiet))
  case peek =>
    intro h data f
    exact exec_peek.trans (State.window_answers h rfl ((finds f).popWord still data))
  case empty =>
    intro h gate header none
    exact exec_poph.trans (State.window_becomes h rfl (Chip.popHead_empty gate (uid != 0x19) header none))
  case data =>
    intro h gate data
    exact exec_poph.trans (State.window_becomes h rfl (Chip.popHead_away gate (uid != 0x19) data))
  case header =>
    intro h gate header
    exact exec_pop.trans (State.window_becomes h rfl (Chip.popWord_away gate (uid != 0x19) header))
  case dstat =>
    intro h
    have read : s.chip.window uid .dstat q 0
        = (s.chip.onDev fun d => if uid = 0x19 then d else d.setSlot uid ⟨0, 0, 0⟩, .ok (s.chip.dev.slot uid).word) := Chip.readDstat_eq s.chip uid
    exact exec_dstat.trans ((State.window_becomes h rfl read).trans (State.becomes_congr rfl))

end Sys2Proof.Machine
end

section
/-! The pool's cells (R211 to R213): what the depot's accesses to them leave of the device. They change the arrays, the counts of errors and of
conflicts and ISTAT.POOLOFF, and end reservations; the depot's own state they leave alone, but for the free list that released cells join. -/

namespace Sys2Proof.Machine

open Reg

/-! ### Cores that only lose reservations -/

section
variable {s t u : Chip}

theorem SameCores.of_eq (h : t.cores = s.cores) : SameCores s t := fun _ => .inl (by rw [h])

theorem SameCores.refl (s : Chip) : SameCores s s := .of_eq rfl

theorem SameCores.trans (h : SameCores s t) (k : SameCores t u) : SameCores s u := by
  intro e
  rcases k e with k | k <;> rcases h e with h | h <;> rw [k, h]
  · exact .inl rfl
  · exact .inr rfl
  · exact .inr rfl
  · exact .inr rfl

theorem Chip.sameCores_clearResv (s : Chip) (line : Nat) : SameCores s (s.clearResv line) := by
  intro e
  unfold Chip.clearResv
  simp only [Fin.getElem_fin, Vector.getElem_map]
  split
  · exact .inr rfl
  · exact .inl rfl

end

/-! ### What accesses to the pool leave -/

/-- The counts and status words that an access to an array may change: errors (R190, R192), conflicts (R186), an armed injection (R194) and
ISTAT.POOLOFF (R538). -/
def accessCount (a : Nat) : Prop :=
  a ∈ [GAL_CECNT, VLT_CECNT, VLT_ESTAT, VLT_UEADDR, GAL_UECNT, GAL_ESTAT, GAL_UEADDR, GAL_EINJ, DPT_ISTAT] ∨ 0x71000 ≤ a ∧ a < 0x72000

/-- t is s after accesses to the pool that have released n cells. -/
structure Chip.PoolWork (s t : Chip) (n : Nat) : Prop where
  dpt : ∃ l, l.length = n ∧ t.dev.dpt = { s.dev.dpt with free := l ++ s.dev.dpt.free }
  words : ∀ a, ¬ accessCount a → t.dev.word a = s.dev.word a
  rails : t.dev.rails = s.dev.rails
  cores : SameCores s t

namespace Chip.PoolWork

variable {s t u : Chip} {n k : Nat}

theorem refl (s : Chip) : s.PoolWork s 0 := ⟨⟨[], rfl, rfl⟩, fun _ _ => rfl, rfl, .refl s⟩

theorem trans (h : s.PoolWork t n) (w : t.PoolWork u k) : s.PoolWork u (n + k) := by
  obtain ⟨l, hl, hd⟩ := h.dpt
  obtain ⟨l', hl', hd'⟩ := w.dpt
  refine ⟨⟨l' ++ l, ?_, ?_⟩, fun a ha => (w.words a ha).trans (h.words a ha), w.rails.trans h.rails, h.cores.trans w.cores⟩
  · rw [List.length_append, hl, hl', Nat.add_comm]
  · rw [hd', hd, List.append_assoc]

/-- The device's registers change in counts alone. -/
theorem of_dev {d : Dev} (m : Mem) (dpt : d.dpt = s.dev.dpt) (words : ∀ a, ¬ accessCount a → d.word a = s.dev.word a) (rails : d.rails = s.dev.rails) :
    s.PoolWork { s with mem := m, dev := d } 0 := ⟨⟨[], rfl, dpt⟩, words, rails, .of_eq rfl⟩

theorem of_mem (s : Chip) (m : Mem) : s.PoolWork { s with mem := m } 0 := of_dev m rfl (fun _ _ => rfl) rfl

theorem of_put (s : Chip) (m : Mem) {f : Fld} (hf : accessCount f.addr) (v : Nat) : s.PoolWork { s with mem := m, dev := s.dev.put f v } 0 :=
  of_dev m rfl (fun _ ha => Dev.word_put_of_ne fun e => ha (e ▸ hf)) rfl

/-- Accesses that release no cell leave the depot as it is. -/
theorem queue (h : s.PoolWork t n) (q : Nat) : t.dev.queue q = s.dev.queue q := by
  obtain ⟨l, -, hd⟩ := h.dpt
  unfold Dev.queue
  rw [hd]

theorem opens (h : s.PoolWork t n) : t.dev.dpt.opens = s.dev.dpt.opens := by
  obtain ⟨l, -, hd⟩ := h.dpt
  rw [hd]

theorem free (h : s.PoolWork t n) : t.dev.dpt.free.length = s.dev.dpt.free.length + n := by
  obtain ⟨l, hl, hd⟩ := h.dpt
  rw [hd, List.length_append, hl, Nat.add_comm]

theorem get (h : s.PoolWork t n) {f : Fld} (hf : ¬ accessCount f.addr) : t.dev.get f = s.dev.get f := Dev.get_of_word (h.words _ hf)

theorem flag (h : s.PoolWork t n) {f : Fld} (hf : ¬ accessCount f.addr) : t.dev.flag f = s.dev.flag f := Dev.flag_of_word (h.words _ hf)

end Chip.PoolWork

/-! ### Accesses to the arrays -/

section
variable (s : Chip)

/-- Device changes in counts alone, on the whole. -/
theorem Chip.poolWork_onDev {f : Dev → Dev} (dpt : (f s.dev).dpt = s.dev.dpt) (words : ∀ a, ¬ accessCount a → (f s.dev).word a = s.dev.word a)
    (rails : (f s.dev).rails = s.dev.rails) : s.PoolWork (s.onDev f) 0 := .of_dev s.mem dpt words rails

theorem Dev.countCe_word (d : Dev) (a : Nat) {b : Nat} (hb : ¬ accessCount b) : (d.countCe a).word b = d.word b := by
  refine Dev.word_put_of_ne fun e => hb (e ▸ .inl ?_)
  split <;> decide

theorem Dev.countUe_dpt (d : Dev) (a : Nat) : (d.countUe a).dpt = d.dpt := by
  unfold Dev.countUe
  dsimp only
  split <;> split <;> rfl

theorem Dev.countUe_rails (d : Dev) (a : Nat) : (d.countUe a).rails = d.rails := by
  unfold Dev.countUe
  dsimp only
  split <;> split <;> rfl

theorem Dev.countUe_word (d : Dev) (a : Nat) {b : Nat} (hb : ¬ accessCount b) : (d.countUe a).word b = d.word b := by
  have put {d : Dev} {f : Fld} {v : Nat} (hf : accessCount f.addr) : (d.put f v).word b = d.word b := Dev.word_put_of_ne fun e => hb (e ▸ hf)
  unfold Dev.countUe
  dsimp only
  split
  · split
    · exact put (.inl (by decide))
    · exact (put (.inl (by decide))).trans (put (.inl (by decide)))
  · split
    · exact (put (.inl (by decide))).trans (put (.inl (by decide)))
    · exact (put (.inl (by decide))).trans ((put (.inl (by decide))).trans (put (.inl (by decide))))

theorem Chip.asks_poolWork (uid a n : Nat) : s.PoolWork (s.asks uid a n) 0 := by
  refine s.poolWork_onDev ?_ (fun b hb => ?_) ?_ <;> unfold Dev.conflict
  · split <;> rfl
  · split
    case isFalse => rfl
    case isTrue h =>
      simp only [Bool.and_eq_true, decide_eq_true_eq] at h
      refine Dev.word_put_of_ne fun e => hb (e ▸ .inr ?_)
      show 0x71000 ≤ 0x71000 + 0x200 * (a / 0x200000 % 8) + 0x4 * uid ∧ 0x71000 + 0x200 * (a / 0x200000 % 8) + 0x4 * uid < 0x72000
      omega
  · split <;> rfl

theorem Chip.fetch64_poolWork (a : Nat) : s.PoolWork (s.fetch64 a).1 0 := by
  have counted (d : Dev) (m : Mem) (dpt : d.dpt = s.dev.dpt) (words : ∀ b, d.word b = s.dev.word b) (rails : d.rails = s.dev.rails) :
      s.PoolWork { s with mem := m, dev := d.countCe a } 0 :=
    .of_dev m dpt (fun b hb => (d.countCe_word a hb).trans (words b)) rails
  unfold Chip.fetch64
  dsimp only
  split
  · exact .refl s
  · exact counted _ _ rfl (fun _ => rfl) rfl
  · exact s.poolWork_onDev (f := fun d => d.countUe a) (s.dev.countUe_dpt a) (fun b hb => s.dev.countUe_word a hb) (s.dev.countUe_rails a)
  · split
    · exact s.poolWork_onDev (f := fun d => d.tick1.countUe a) (Dev.countUe_dpt _ a) (fun b hb => Dev.countUe_word _ a hb) (Dev.countUe_rails _ a)
    · exact counted _ _ rfl (fun _ => rfl) rfl
    · exact .of_dev _ rfl (fun _ _ => rfl) rfl

theorem Chip.memRead_poolWork (a n : Nat) : s.PoolWork (s.memRead a n).1 0 := by
  have read := s.fetch64_poolWork a
  unfold Chip.memRead
  dsimp only
  generalize s.fetch64 a = x at read ⊢
  obtain ⟨t, good⟩ := x
  split_ifs
  · exact .refl s
  · exact .refl s
  · exact .refl s
  · exact read
  · exact read

theorem Chip.inject_poolWork (cur : Bool) (a : Nat) (old : BitVec 72) : s.PoolWork (s.inject cur a old) 0 := by
  unfold Chip.inject
  split
  · exact .of_put s _ (f := GAL_EINJ_ARM) (.inl (by decide)) 0
  · exact .refl s

theorem Chip.takeLine_poolWork (p : Port) (a : Nat) : s.PoolWork (s.takeLine p a) 0 := by
  unfold Chip.takeLine
  split
  · exact .of_mem s _
  · exact .refl s

theorem Chip.clearResv_poolWork (line : Nat) : s.PoolWork (s.clearResv line) 0 := ⟨⟨[], rfl, rfl⟩, fun _ _ => rfl, rfl, s.sameCores_clearResv line⟩

theorem Chip.memWrite_poolWork (p : Port) (a n : Nat) (v : Word) : s.PoolWork (s.memWrite p a n v).1 0 := by
  have read := s.fetch64_poolWork a
  unfold Chip.memWrite
  dsimp only
  generalize s.fetch64 a = x at read ⊢
  obtain ⟨t, good⟩ := x
  split
  · exact .refl s
  split
  · exact .refl s
  split
  · exact .refl s
  cases good with
  | false => exact read
  | true =>
    have ready := read.trans ((t.takeLine_poolWork p a).trans (Chip.clearResv_poolWork _ (lineOf a)))
    exact ready.trans ((Chip.PoolWork.of_mem _ _).trans (Chip.inject_poolWork _ _ _ _))

theorem Chip.memWrite64_poolWork (a v : Nat) : s.PoolWork (s.memWrite64 a v).1 0 := by
  unfold Chip.memWrite64
  split
  · exact .refl s
  split
  · exact .refl s
  · exact (s.clearResv_poolWork _).trans (.of_mem _ _)

theorem Chip.burst_poolWork (a n : Nat) : s.PoolWork (s.burst a n) 0 := by
  unfold Chip.burst
  split
  · exact .refl s
  · exact .of_mem s _

end

/-! ### The depot's own accesses -/

section
variable (s : Chip)

theorem Chip.poolLost_poolWork (r : Reply) : s.PoolWork (s.poolLost r) 0 := by
  unfold Chip.poolLost
  split
  · exact .of_put s s.mem (f := DPT_ISTAT_POOLOFF) (.inl (by decide)) 1
  · exact .refl s

theorem Chip.writeLink_poolWork (c : Nat) (w : Word) : s.PoolWork (s.writeLink c w) 0 := by
  have written := (s.asks_poolWork 0x0A (s.dev.cellAddr c + 60) 1).trans
    ((s.asks 0x0A (s.dev.cellAddr c + 60)).memWrite_poolWork dptPort (s.dev.cellAddr c + 60) 4 w)
  unfold Chip.writeLink
  exact written.trans (Chip.poolLost_poolWork _ _)

theorem Chip.writeWords_poolWork (a : Nat) (ws : List Word) : s.PoolWork (s.writeWords a ws) 0 := by
  induction s, a, ws using Chip.writeWords.induct with
  | case1 s a w0 w1 ws t r written ih =>
    have mem : s.PoolWork t 0 := by
      have step := s.memWrite64_poolWork a (w0.toNat + w1.toNat * 2 ^ 32)
      rwa [written] at step
    unfold Chip.writeWords
    simp only [written]
    exact mem.trans ((t.poolLost_poolWork r).trans ih)
  | case2 s a t short =>
    unfold Chip.writeWords
    split
    · exact (short _ _ _ rfl).elim
    · exact .refl _

theorem Chip.writeCells_poolWork (ws : List Word) (cs js : List Nat) : s.PoolWork (s.writeCells ws cs js) 0 := by
  induction js generalizing s with
  | nil => exact .refl s
  | cons j js ih =>
    have line (a : Nat) (l : List Word) : s.PoolWork (((s.asks 0x0A a).writeWords a l).burst a 64) 0 :=
      (s.asks_poolWork 0x0A a 1).trans ((Chip.writeWords_poolWork _ a l).trans (Chip.burst_poolWork _ a 64))
    exact (line _ _).trans (ih _)

theorem Chip.freeCell_poolWork (c : Nat) : s.PoolWork (s.freeCell c) 1 := by
  have joined (t : Chip) : t.PoolWork (t.onDev fun d => { d with dpt := { d.dpt with free := c :: d.dpt.free } }) 1 :=
    ⟨⟨[c], rfl, rfl⟩, fun _ _ => rfl, rfl, .refl t⟩
  unfold Chip.freeCell
  exact (s.writeLink_poolWork c _).trans (joined _)

theorem Chip.freeCellsOf_poolWork (cs : List Nat) : s.PoolWork (s.freeCellsOf cs) cs.length := by
  induction cs generalizing s with
  | nil => exact .refl s
  | cons c cs ih =>
    rw [List.length_cons, Nat.add_comm]
    exact (s.freeCell_poolWork c).trans (ih _)

theorem Chip.poolRead_poolWork (c i : Nat) : s.PoolWork (s.poolRead c i).1 0 := (s.asks_poolWork _ _ _).trans (Chip.memRead_poolWork _ _ _)

theorem Chip.readLink_poolWork (c : Nat) : s.PoolWork (s.readLink c).1 0 := by
  have read := s.poolRead_poolWork c 15
  unfold Chip.readLink
  split
  case h_1 h => rwa [h] at read
  case h_2 h => rwa [h] at read

theorem Chip.poolWord_poolWork (c i : Nat) : s.PoolWork (s.poolWord c i).1 0 := by
  have read := s.poolRead_poolWork c i
  unfold Chip.poolWord
  split
  case h_1 h => rwa [h] at read
  case h_2 h => rwa [h] at read
  case h_3 h => rwa [h] at read

theorem Chip.poolCell_poolWork (c : Nat) (is : List Nat) : s.PoolWork (s.poolCell c is).1 0 := by
  induction is generalizing s with
  | nil => exact .refl s
  | cons i is ih => exact (s.poolWord_poolWork c i).trans (ih (s.poolWord c i).1)

end

end Sys2Proof.Machine
end

section
/-! Queues (R212, R222 to R236): one queue's state after a change of it, the cursor's way over the links, the staged cell, and the events of
thresholds. -/

namespace Sys2Proof.Machine

open Reg

/-! ### A queue set -/

theorem amapDel_idem {α : Type} (k : Nat) (m : List (Nat × α)) : amapDel k (amapDel k m) = amapDel k m := by
  induction m with
  | nil => rfl
  | cons p m ih =>
    obtain ⟨j, u⟩ := p
    by_cases h : k = j <;> simp [amapDel, h, ih]
    rw [← h, ih]

/-- Of two writes at a key the later one counts. -/
theorem amapSet_again {α : Type} [DecidableEq α] (d u v : α) (k : Nat) (m : List (Nat × α)) :
    amapSet d k v (amapSet d k u m) = amapSet d k v m := by
  induction m with
  | nil => by_cases h : u = d <;> simp [amapSet, h]
  | cons p m ih =>
    obtain ⟨j, w⟩ := p
    by_cases lt : k < j
    · by_cases h : u = d <;> simp [amapSet, lt, h, amapDel_idem]
    · by_cases eq : k = j
      · simp [amapSet, eq]
        rw [← eq, ih]
      · simp [amapSet, lt, eq, ih]

section
variable (d : Dev) (q : Nat) (x : DQueue)

theorem Dev.queue_setQueue (p : Nat) : (d.setQueue q x).queue p = if q = p then x else d.queue p := amapGet_set fun _ => rfl

@[simp] theorem Dev.queue_setQueue_self : (d.setQueue q x).queue q = x := (d.queue_setQueue q x q).trans (if_pos rfl)

theorem Dev.queue_setQueue_other {p : Nat} (h : p ≠ q) : (d.setQueue q x).queue p = d.queue p :=
  (d.queue_setQueue q x p).trans (if_neg h.symm)

@[simp] theorem Dev.setQueue_setQueue (y : DQueue) : (d.setQueue q x).setQueue q y = d.setQueue q y := by
  unfold Dev.setQueue
  simp only [amapSet_again]

@[simp] theorem Dev.queue_put (f : Fld) (v : Nat) : (d.put f v).queue q = d.queue q := rfl

end

/-! ### The links -/

/-- A queue as the links tell its cells: cursor, mark and items are as before, but for the cells of the items. -/
structure DQueue.Relinked (x y : DQueue) : Prop where
  cursor : y.cursor = x.cursor
  mark : y.mark = x.mark
  kinds : y.items.map DItem.kind = x.items.map DItem.kind

theorem DQueue.Relinked.refl (x : DQueue) : x.Relinked x := ⟨rfl, rfl, rfl⟩

theorem DQueue.Relinked.trans {x y z : DQueue} (h : x.Relinked y) (k : y.Relinked z) : x.Relinked z :=
  ⟨k.cursor.trans h.cursor, k.mark.trans h.mark, k.kinds.trans h.kinds⟩

theorem DQueue.setCell_relinked (x : DQueue) (p : DPos) (c : Nat) (known : List Nat) : x.Relinked { x.setCell p c with known := known } := by
  refine ⟨rfl, rfl, ?_⟩
  show (x.items.modify p.item fun it => { it with cells := it.cells.set (p.word / 15) c }).map DItem.kind = _
  refine List.ext_getElem? fun i => ?_
  rw [List.getElem?_map, List.getElem?_map, List.getElem?_modify]
  cases x.items[i]? with
  | none => rfl
  | some it => by_cases h : p.item = i <;> simp [h, DItem.kind]

/-- Every cell of a queue's items has had its link read. -/
def DQueue.AllKnown (x : DQueue) : Prop := ∀ it ∈ x.items, ∀ b ∈ it.cells, b ∈ x.known

/-- The cell before a position's own is a cell of an item. -/
theorem DQueue.cellAt_before {x : DQueue} {p : DPos} {c b : Nat} (h : x.cellAt p = some (c, some b)) : ∃ it ∈ x.items, b ∈ it.cells := by
  unfold DQueue.cellAt at h
  split at h
  case h_1 => cases h
  case h_2 it hit =>
    dsimp only at h
    split at h
    case h_1 => cases h
    case h_2 =>
      simp only [Option.some.injEq, Prod.mk.injEq] at h
      obtain ⟨-, h⟩ := h
      split_ifs at h with inside reached first
      · exact ⟨it, List.mem_of_getElem? hit, List.mem_of_getElem? h⟩
      · split at h
        case h_1 last hlast => exact ⟨last, List.mem_of_getElem? hlast, List.mem_of_mem_drop (List.mem_of_getLast? h)⟩
        case h_2 => cases h

section
variable (s : Chip) (q : Nat) (p : DPos)

theorem Chip.enterCell_of_known (h : (s.dev.queue q).AllKnown) : s.enterCell q p = (s, true) := by
  unfold Chip.enterCell
  dsimp only
  split
  case h_2 => rfl
  case h_1 b found =>
    obtain ⟨it, hit, hb⟩ := DQueue.cellAt_before found
    rw [if_pos (List.contains_iff_mem.mpr (h it hit b hb))]

/-- The cursor enters a cell without a link read; or the link of the cell before leads to it, or is broken. -/
theorem Chip.enterCell_cases : s.enterCell q p = (s, true) ∨ ∃ u b, s.PoolWork u 0 ∧
    ((∃ c, s.enterCell q p = (u.onDev fun d => d.setQueue q { (d.queue q).setCell p c with known := b :: (d.queue q).known }, true))
    ∨ s.enterCell q p
      = (u.onDev fun d => ((d.setQueue q { d.queue q with broke := some (some b) }).on (DPT_QCFG_LERR q)).on DPT_ISTAT_LERR, false)) := by
  unfold Chip.enterCell
  dsimp only
  split
  case h_2 => exact .inl rfl
  case h_1 b found =>
    have link := s.readLink_poolWork b
    by_cases known : (s.dev.queue q).known.contains b = true
    · exact .inl (if_pos known)
    · rw [if_neg known]
      generalize s.readLink b = r at link ⊢
      obtain ⟨u, c⟩ := r
      refine .inr ⟨u, b, link, ?_⟩
      cases c with
      | some c => exact .inl ⟨c, rfl⟩
      | none => exact .inr rfl

theorem Chip.enterCell_relinked : (s.dev.queue q).Relinked ((s.enterCell q p).1.dev.queue q) := by
  rcases s.enterCell_cases q p with h | ⟨u, b, work, ⟨c, h⟩ | h⟩ <;> rw [h]
  · exact .refl _
  · rw [← work.queue q, Chip.onDev_dev, Dev.queue_setQueue_self]
    exact DQueue.setCell_relinked _ p c _
  · simp only [Chip.onDev_dev, Dev.on, Dev.queue_put, Dev.queue_setQueue_self, work.queue q]
    exact ⟨rfl, rfl, rfl⟩

end

/-! ### The staged cell -/

section
variable (s : Chip) (q : Nat)

theorem Chip.stage_high (h : 80 ≤ q) : s.stage q = s := if_pos h

/-- Staging: nothing, where the cell is staged already or the queue has no staged cell; else the cell at the cursor is entered, where there
is one, and read. -/
theorem Chip.stage_cases : s.stage q = s ∨ ∃ u v w, (u = s ∨ u = (s.enterCell q (s.dev.queue q).cursor).1) ∧ u.PoolWork v 0
    ∧ s.stage q = v.onDev fun d => d.setQueue q { d.queue q with staged := w } := by
  unfold Chip.stage
  split
  · exact .inl rfl
  dsimp only
  split
  · exact .inr ⟨s, s, none, .inl rfl, .refl s, rfl⟩
  split
  · exact .inl rfl
  generalize s.enterCell q (s.dev.queue q).cursor = x
  obtain ⟨u, good⟩ := x
  refine .inr ?_
  dsimp only
  split
  · exact ⟨u, _, _, .inr rfl, u.poolCell_poolWork _ _, rfl⟩
  · exact ⟨u, u, none, .inr rfl, .refl u, rfl⟩

theorem Chip.stage_relinked : (s.dev.queue q).Relinked ((s.stage q).dev.queue q) := by
  rcases s.stage_cases q with h | ⟨u, v, w, entered, read, h⟩ <;> rw [h]
  · exact .refl _
  · have way : (s.dev.queue q).Relinked (u.dev.queue q) := by
      rcases entered with rfl | rfl
      · exact .refl _
      · exact s.enterCell_relinked q _
    rw [Chip.onDev_dev, Dev.queue_setQueue_self, read.queue q]
    exact way.trans ⟨rfl, rfl, rfl⟩

/-- With every link known staging changes no item. -/
theorem Chip.stage_items (h : (s.dev.queue q).AllKnown) : ((s.stage q).dev.queue q).items = (s.dev.queue q).items := by
  rcases s.stage_cases q with e | ⟨u, v, w, entered, read, e⟩
  · rw [e]
  · have same : u = s := by
      rcases entered with rfl | rfl
      · rfl
      · rw [s.enterCell_of_known q _ h]
    subst same
    rw [e, Chip.onDev_dev, Dev.queue_setQueue_self, read.queue q]

/-- Without an item nothing is staged. -/
theorem Chip.restage_empty (h : (s.dev.queue q).items = []) :
    s.restage q = s.onDev fun d => d.setQueue q { d.queue q with staged := none } := by
  have nowhere (x : DQueue) (p : DPos) (hx : x.items = []) : x.cellAt p = none := by simp [DQueue.cellAt, hx]
  unfold Chip.restage
  by_cases high : 80 ≤ q
  · exact Chip.stage_high _ q high
  · unfold Chip.stage
    rw [if_neg high]
    simp [nowhere, h]

end

/-! ### Thresholds -/

/-- t is s after events on the event network: latches and the count of merged ones. -/
structure Chip.Events (s t : Chip) : Prop where
  dev : ∃ d, t = s.onDev fun _ => d
  dpt : t.dev.dpt = s.dev.dpt
  words : ∀ a, EVN_MERGE_COUNT.addr ≠ a → t.dev.word a = s.dev.word a

namespace Chip.Events

variable {s t u : Chip}

theorem refl (s : Chip) : s.Events s := ⟨⟨s.dev, rfl⟩, rfl, fun _ _ => rfl⟩

theorem trans (h : s.Events t) (k : t.Events u) : s.Events u := by
  obtain ⟨d, hd⟩ := h.dev
  obtain ⟨d', hd'⟩ := k.dev
  exact ⟨⟨d', by rw [hd', hd]; rfl⟩, k.dpt.trans h.dpt, fun a ha => (k.words a ha).trans (h.words a ha)⟩

theorem event (s : Chip) (n : Nat) : s.Events (s.onDev (·.event n)) := by
  refine ⟨⟨s.dev.event n, rfl⟩, ?_, fun a ha => ?_⟩ <;> rw [Chip.onDev_dev] <;> unfold Dev.event <;> split
  · rfl
  · rfl
  · exact Dev.word_put_of_ne ha
  · rfl

/-- The device after events, as a change of what is outside the cores and the arrays. -/
theorem exists_dev (h : s.Events t) : ∃ d : Dev, t = s.onDev (fun _ => d) ∧ d.dpt = s.dev.dpt
    ∧ ∀ {f : Fld}, EVN_MERGE_COUNT.addr ≠ f.addr → d.flag f = s.dev.flag f := by
  obtain ⟨⟨d, rfl⟩, dpt, words⟩ := h
  exact ⟨d, rfl, dpt, fun hf => Dev.flag_of_word (words _ hf)⟩

theorem queue (h : s.Events t) (q : Nat) : t.dev.queue q = s.dev.queue q := by
  unfold Dev.queue
  rw [h.dpt]

theorem cores (h : s.Events t) : t.cores = s.cores := by
  obtain ⟨d, rfl⟩ := h.dev
  rfl

theorem flag (h : s.Events t) {f : Fld} (hf : EVN_MERGE_COUNT.addr ≠ f.addr) : t.dev.flag f = s.dev.flag f := Dev.flag_of_word (h.words _ hf)

end Chip.Events

/-- A queue's threshold condition that has become true sends its event (R232). -/
def Chip.thresholdSeen (s : Chip) (q : Nat) (t : Chip) : Chip :=
  if !s.dev.threshold q && t.dev.threshold q && t.dev.flag (DPT_QTHR_EEN q) then t.onDev (·.event (t.dev.get (DPT_QTHR_ENG q))) else t

theorem Chip.withThr_eq (s : Chip) (q : Nat) (f : Chip → Chip) : s.withThr q f = s.thresholdSeen q (f s) := rfl

theorem Chip.thresholdSeen_events (s : Chip) (q : Nat) (t : Chip) : t.Events (s.thresholdSeen q t) := by
  unfold Chip.thresholdSeen
  split
  · exact .event t _
  · exact .refl t

theorem Chip.withAllThr_events (s : Chip) (f : Chip → Chip) : (f s).Events (s.withAllThr f) := by
  unfold Chip.withAllThr
  dsimp only
  generalize List.range 1024 = l
  generalize f s = t
  induction l generalizing t with
  | nil => exact .refl t
  | cons q l ih => exact (s.thresholdSeen_events q t).trans (ih _)

end Sys2Proof.Machine
end

section
/-! Queue control and the depot's enables (O31): MARK, REWIND and SKIP (R224), RELEASE (R226), flushes (R230, R231) and the seams of the
enables (R240). -/

namespace Sys2Proof.Machine

open Reg

/-! ### MARK, REWIND, SKIP -/

section
variable {c : Chip} {uid q : Nat}

theorem Chip.markQ_gate (gate : c.dev.consumerGate uid q false = .ok) :
    c.markQ uid q = c.onDev fun d => d.setQueue q { d.queue q with mark := (d.queue q).cursor } := by simp [Chip.markQ, gate]

theorem Chip.rewindQ_gate (gate : c.dev.consumerGate uid q false = .ok) : c.rewindQ uid q
    = c.thresholdSeen q ((c.onDev fun d => d.setQueue q { d.queue q with cursor := (d.queue q).mark, staged := none }).stage q) := by
  simp [Chip.rewindQ, gate, Chip.restage, Chip.withThr_eq]

theorem Chip.skipQ_header (gate : c.dev.consumerGate uid q true = .ok) (header : (c.dev.queue q).cursor.word = 0) : c.skipQ uid q = c := by
  unfold Chip.skipQ
  rw [gate]
  dsimp only
  split
  · rfl
  · exact if_pos header

theorem Chip.enterCells_of_known (h : (c.dev.queue q).AllKnown) (k : Nat) (js : List Nat) : c.enterCells q k js = (c, true) := by
  induction js with
  | nil => rfl
  | cons j js ih =>
    unfold Chip.enterCells
    rw [c.enterCell_of_known q _ h]
    exact ih

/-- With every link known SKIP goes to the next header position (R224). -/
theorem Chip.skipQ_known (gate : c.dev.consumerGate uid q true = .ok) (data : (c.dev.queue q).cursor.word ≠ 0)
    (inside : (c.dev.queue q).cursor.item < (c.dev.queue q).items.length) (known : (c.dev.queue q).AllKnown) :
    c.skipQ uid q = c.moveCursor q ⟨(c.dev.queue q).cursor.item + 1, 0⟩ := by
  unfold Chip.skipQ
  rw [gate]
  simp only [List.getElem?_eq_getElem inside, if_neg data, Chip.enterCells_of_known known, c.enterCell_of_known q _ known, ite_self, if_true]

theorem Chip.moveCursor_known (known : (c.dev.queue q).AllKnown) (p : DPos) :
    ((c.moveCursor q p).dev.queue q).cursor = p ∧ ((c.moveCursor q p).dev.queue q).items = (c.dev.queue q).items := by
  have there : (c.onDev fun d => d.setQueue q { d.queue q with cursor := p }).dev.queue q = { c.dev.queue q with cursor := p } :=
    Dev.queue_setQueue_self _ _ _
  refine ⟨?_, ?_⟩
  · exact (Chip.stage_relinked _ q).cursor.trans (by rw [there])
  · refine (Chip.stage_items _ q ?_).trans (by rw [there])
    rw [there]
    exact known

end

/-! ### RELEASE -/

section
variable {c : Chip} {uid q : Nat}

/-- The cells of sealed items that are no launch records go back to the pool. -/
theorem Chip.giveUps_poolWork (c : Chip) (q : Nat) {items : List DItem} (plain : ∀ it ∈ items, it.launch = false) :
    c.PoolWork (items.foldl (fun s it => s.giveUp q it.launch it.live) c) (items.map (·.live.length)).sum := by
  induction items generalizing c with
  | nil => exact .refl c
  | cons it items ih =>
    have here : c.giveUp q it.launch it.live = c.freeCellsOf it.live := by
      rw [plain it List.mem_cons_self]
      rfl
    rw [List.foldl_cons, here]
    exact (c.freeCellsOf_poolWork it.live).trans (ih _ fun x hx => plain x (List.mem_cons_of_mem it hx))

/-- The items a RELEASE leaves: the one the cursor stands in, its cells before the cursor freed, and those after it (R226). -/
def DQueue.unreleased (x : DQueue) : List DItem := match x.items[x.cursor.item]? with
  | some it => { it with freed := max it.freed (x.cursor.word / 15) } :: x.items.drop (x.cursor.item + 1)
  | none => x.items.drop x.cursor.item

/-- How many cells it frees. -/
def DQueue.releasable (x : DQueue) : Nat := ((x.items.take x.cursor.item).map (·.live.length)).sum
  + (match x.items[x.cursor.item]? with | some it => ((it.cells.take (x.cursor.word / 15)).drop it.freed).length | none => 0)

/-- Queue x after a RELEASE, z being what giving up its cells has made of it: the mark moves on where its cell is freed. -/
def DQueue.released (x z : DQueue) : DQueue :=
  let gone := x.cursor.word / 15
  let freed := ((x.items.take x.cursor.item).map DItem.live).flatten ++ (match x.items[x.cursor.item]? with | some it => it.cells.take gone | none => [])
  let passed := x.mark.item < x.cursor.item || (x.mark.item == x.cursor.item && x.mark.word / 15 < gone)
  { z with
    items := x.unreleased, cursor := { x.cursor with item := 0 }
    mark := if passed then { x.cursor with item := 0 } else { x.mark with item := x.mark.item - x.cursor.item }
    known := x.known.filter fun c => !freed.contains c
    broke := x.broke.map fun b => if b.any freed.contains then none else b }

/-- The cells before the cursor given up. -/
def Chip.releaseCells (s : Chip) (q : Nat) : Chip :=
  let x := s.dev.queue q
  let t := (x.items.take x.cursor.item).foldl (fun s it => s.giveUp q it.launch it.live) s
  match x.items[x.cursor.item]? with
  | some it => t.giveUp q it.launch ((it.cells.take (x.cursor.word / 15)).drop it.freed)
  | none => t

theorem Chip.releaseQ_gate (gate : c.dev.consumerGate uid q false = .ok) : c.releaseQ uid q
    = c.thresholdSeen q ((c.releaseCells q).onDev fun d => d.setQueue q ((c.dev.queue q).released (d.queue q))) := by
  unfold Chip.releaseQ
  rw [gate]
  rfl

/-- Without launch records the cells before the cursor join the free list. -/
theorem Chip.releaseCells_poolWork (plain : ∀ it ∈ (c.dev.queue q).items, it.launch = false) :
    c.PoolWork (c.releaseCells q) (c.dev.queue q).releasable := by
  have done := c.giveUps_poolWork q fun it hit => plain it (List.mem_of_mem_take (i := (c.dev.queue q).cursor.item) hit)
  unfold Chip.releaseCells DQueue.releasable
  dsimp only
  cases cur : (c.dev.queue q).items[(c.dev.queue q).cursor.item]? with
  | none => exact done
  | some it =>
    dsimp only
    rw [plain it (List.mem_of_getElem? cur)]
    exact done.trans (Chip.freeCellsOf_poolWork _ _)

end

/-! ### Flushes -/

/-- t is s but for queue q and cells given up: the open-item table and the other queues stand. -/
structure Chip.Clears (q : Nat) (s t : Chip) : Prop where
  opens : t.dev.dpt.opens = s.dev.dpt.opens
  others : ∀ p, p ≠ q → t.dev.queue p = s.dev.queue p
  cores : SameCores s t

namespace Chip.Clears

variable {q : Nat} {s t u : Chip}

theorem trans (h : Clears q s t) (k : Clears q t u) : Clears q s u :=
  ⟨k.opens.trans h.opens, fun p hp => (k.others p hp).trans (h.others p hp), h.cores.trans k.cores⟩

theorem of_poolWork {n : Nat} (h : s.PoolWork t n) : Clears q s t := ⟨h.opens, fun p _ => h.queue p, h.cores⟩

theorem giveUp (s : Chip) (q : Nat) (launch : Bool) (cs : List Nat) : Clears q s (s.giveUp q launch cs) := by
  unfold Chip.giveUp
  split
  · split
    · exact of_poolWork (.refl s)
    case h_2 c rest =>
      have kept : Clears q s (s.onDev fun d => d.setQueue q { d.queue q with standing := some c }) :=
        ⟨rfl, fun p hp => Dev.queue_setQueue_other _ _ _ hp, .refl s⟩
      exact kept.trans (of_poolWork (Chip.freeCellsOf_poolWork _ rest))
  · exact of_poolWork (s.freeCellsOf_poolWork cs)

theorem giveUps (s : Chip) (q : Nat) (cs : List Nat) : Clears q s (cs.foldl (fun s c => s.giveUp q true [c]) s) := by
  induction cs generalizing s with
  | nil => exact of_poolWork (.refl s)
  | cons c cs ih => exact (giveUp s q true [c]).trans (ih _)

end Chip.Clears

/-- The cells that a flush gives up: those of the sealed items that it can reach, and those of the open items (R230, R231, R234). -/
def Chip.flushCells (s : Chip) (q : Nat) : Chip :=
  let reach := reachable (s.dev.queue q).broke (s.dev.queue q).cells
  let launches := (((s.dev.queue q).items.filter (·.launch)).map DItem.live).flatten
  let t := ((reach.filter launches.contains).foldl (fun s c => s.giveUp q true [c]) s).freeCellsOf (reach.filter fun c => !launches.contains c)
  t.freeCellsOf ((t.dev.opensOf q).map (·.cells)).flatten

theorem Chip.flushCells_clears (s : Chip) (q : Nat) : Clears q s (s.flushCells q) :=
  ((Chip.Clears.giveUps s q _).trans (.of_poolWork (Chip.freeCellsOf_poolWork _ _))).trans (.of_poolWork (Chip.freeCellsOf_poolWork _ _))

/-- The queue without items, its open items broken (R230, R231). -/
def Dev.flushed (d : Dev) (q lost : Nat) : Dev :=
  let d := { d with dpt := { d.dpt with
    opens := d.dpt.opens.map fun (o : OpenItem) => if o.q = q then { o with broken := true, cells := [], words := [] } else o } }
  (d.setQueue q { d.queue q with items := [], cursor := ⟨0, 0⟩, mark := ⟨0, 0⟩, known := [], broke := none, lost := lost }).off (DPT_QCFG_LERR q)

theorem Chip.flush_eq (s : Chip) (q : Nat) :
    ∃ lost, s.flush q = s.thresholdSeen q (((s.flushCells q).onDev (·.flushed q lost)).restage q) := ⟨_, rfl⟩

/-- What a flush of queue q makes of u. -/
structure Chip.Flushed (q : Nat) (u t : Chip) : Prop where
  items : (t.dev.queue q).items = []
  cursor : (t.dev.queue q).cursor = ⟨0, 0⟩
  mark : (t.dev.queue q).mark = ⟨0, 0⟩
  staged : (t.dev.queue q).staged = none
  link : t.dev.flag (DPT_QCFG_LERR q) = false
  cores : SameCores u t
  opens : t.dev.dpt.opens = u.dev.dpt.opens.map (fun o => if o.q = q then { o with broken := true, cells := [], words := [] } else o)
  others : ∀ p, p ≠ q → t.dev.queue p = u.dev.queue p

theorem Dev.flag_put_zero {d : Dev} {f : Fld} (h1 : f.lo ≤ f.hi) (h2 : f.hi < 32) : (d.put f 0).flag f = false := by
  rw [Dev.flag_of_get (Dev.get_put h1 h2), Nat.zero_mod]
  rfl

/-- Events leave a queue's LERR alone. -/
theorem merge_ne_qcfg (q : Nat) : EVN_MERGE_COUNT.addr ≠ DPT_QCFG q := by
  have count : EVN_MERGE_COUNT.addr < 0x64000 := by decide
  unfold DPT_QCFG
  omega

theorem Chip.Flushed.events {q : Nat} {u t v : Chip} (h : Flushed q u t) (e : t.Events v) : Flushed q u v := by
  obtain ⟨items, cursor, mark, staged, link, cores, opens, others⟩ := h
  rw [← e.queue q] at items cursor mark staged
  refine ⟨items, cursor, mark, staged, (e.flag (merge_ne_qcfg q)).trans link, cores.trans (.of_eq e.cores), ?_, fun p hp => ?_⟩
  · rw [e.dpt, opens]
  · rw [e.queue, others p hp]

theorem Chip.flush_flushed (s : Chip) (q : Nat) : ∃ t, s.flush q = s.thresholdSeen q t ∧ Flushed q s t := by
  obtain ⟨lost, h⟩ := s.flush_eq q
  refine ⟨_, h, ?_⟩
  obtain ⟨opens, others, cores⟩ := s.flushCells_clears q
  generalize s.flushCells q = u at opens others cores
  have empty : (u.onDev (·.flushed q lost)).dev.queue q
      = { u.dev.queue q with items := [], cursor := ⟨0, 0⟩, mark := ⟨0, 0⟩, known := [], broke := none, lost := lost } :=
    Dev.queue_setQueue_self _ _ _
  have other (p : Nat) (hp : p ≠ q) : (u.onDev (·.flushed q lost)).dev.queue p = u.dev.queue p := Dev.queue_setQueue_other _ _ _ hp
  rw [Chip.restage_empty _ q (by rw [empty])]
  have link : (u.dev.flushed q lost).flag (DPT_QCFG_LERR q) = false := Dev.flag_put_zero (by decide : 29 ≤ 29) (by decide : 29 < 32)
  refine ⟨?_, ?_, ?_, ?_, link, cores.trans (.of_eq rfl), congrArg _ opens, fun p hp => ?_⟩
  · rw [Chip.onDev_dev, Dev.queue_setQueue_self, empty]
  · rw [Chip.onDev_dev, Dev.queue_setQueue_self, empty]
  · rw [Chip.onDev_dev, Dev.queue_setQueue_self, empty]
  · rw [Chip.onDev_dev, Dev.queue_setQueue_self]
  · rw [Chip.onDev_dev, Dev.queue_setQueue_other _ _ _ hp, other p hp, others p hp]

/-! ### QCMD and CTL -/

section
variable {s : Chip} {m : Sender} {a i : Nat} {v : Word} {r : RegRow} (hf : findReg a = some (r, i)) (hb : r.back = 0)
include hf hb

/-- A write of a register of DPT that moves no threshold stores its fields and starts what its block does with it. -/
theorem Chip.rowWrite_dpt (h : Hears s m a v) (h4 : a % 4 = 0) (block : a / 0x10000 = 0x06) (plain : thrQueue a = none)
    (heeded : s.dev.ignores a (r.taken v) = false) :
    s.rowWrite m a v = (s.takes m a v).hookDpt (a % 0x10000) (s.dev.word a) (r.taken v) := by
  rw [rowWrite_hears h (fun hs => by omega) hf h4, writeReg_takes hf plain heeded, hb, Nat.sub_zero]
  unfold Chip.hook
  rw [block]
  rfl

end

section
variable {s : Chip} {m : Sender}

/-- The word that flushes queue q through QCMD (R230). -/
def qcmdWord (q : Fin 1024) : Word := 0x80000000 ||| BitVec.ofNat 32 q.val

theorem qcmdWord_toNat (q : Fin 1024) : (qcmdWord q).toNat = 2 ^ 31 + q.val := by
  have low := q.isLt
  have sum := Nat.two_pow_add_eq_or_of_lt (i := 31) (b := q.val) (by omega) 1
  rw [qcmdWord, BitVec.toNat_or, BitVec.toNat_ofNat, Nat.mod_eq_of_lt (by omega)]
  exact sum.symm

theorem qcmdWord_queue (q : Fin 1024) : bits (qcmdWord q) 9 0 = q.val := by
  have low := q.isLt
  unfold bits
  rw [qcmdWord_toNat]
  omega

theorem qcmdWord_flush (q : Fin 1024) : bits (qcmdWord q) 31 31 = 1 := by
  have low := q.isLt
  unfold bits
  rw [qcmdWord_toNat]
  omega

theorem findReg_qcmd : ∃ r : RegRow, findReg DPT_QCMD = some (r, 0) ∧ r.back = 0 ∧ (⟨31, 31, .wo, 0, 0, .raw⟩ : FldSpec) ∈ r.flds
    ∧ (⟨9, 0, .wo, 0, 0, .raw⟩ : FldSpec) ∈ r.flds :=
  ⟨_, rfl, rfl, List.mem_cons_self, List.mem_cons_of_mem _ List.mem_cons_self⟩

theorem Chip.rowWrite_qcmd {q : Fin 1024} (h : Hears s m DPT_QCMD (qcmdWord q)) :
    s.rowWrite m DPT_QCMD (qcmdWord q) = (s.takes m DPT_QCMD (qcmdWord q)).flush q := by
  obtain ⟨r, hf, hb, flush, queue⟩ := findReg_qcmd
  have hook (t : Chip) (old w : Word) : t.hookDpt (DPT_QCMD % 0x10000) old w = if w.getLsbD 31 then t.flush (bits w 9 0) else t := rfl
  have asked : (r.taken (qcmdWord q)).getLsbD 31 = true := by
    rw [getLsbD_eq_bits, RegRow.bits_taken (findReg_sound hf) flush rfl, qcmdWord_flush]
    rfl
  have named : bits (r.taken (qcmdWord q)) 9 0 = q.val :=
    (RegRow.bits_taken (findReg_sound hf) queue rfl _).trans (qcmdWord_queue q)
  rw [Chip.rowWrite_dpt hf hb h (by decide) (by decide) (by decide) rfl, hook, if_pos asked, named]

theorem findReg_dptCtl : ∃ r : RegRow, findReg DPT_CTL = some (r, 0) ∧ r.back = 0 ∧ (⟨1, 1, .ro, 0, 0, .raw⟩ : FldSpec) ∈ r.flds
    ∧ (⟨0, 0, .rw, 0, 0, .raw⟩ : FldSpec) ∈ r.flds :=
  ⟨_, rfl, rfl, List.mem_cons_of_mem _ List.mem_cons_self, List.mem_cons_of_mem _ (List.mem_cons_of_mem _ List.mem_cons_self)⟩

variable {v : Word}

theorem Chip.takes_enReq : (s.takes m DPT_CTL (withField v DPT_CTL_EN_REQ 1)).dev.flag DPT_CTL_EN_REQ = true := by
  obtain ⟨r, hf, hb, -, req⟩ := findReg_dptCtl
  have taken := Chip.takes_free (s := s) (m := m) (v := withField v DPT_CTL_EN_REQ 1) hf hb req rfl ⟨rfl, rfl⟩ rfl
  have one : (s.takes m DPT_CTL (withField v DPT_CTL_EN_REQ 1)).dev.get DPT_CTL_EN_REQ = 1 := taken.trans (bits_setBits (Nat.le_refl 0) (by decide))
  exact Dev.flag_of_get one

theorem Chip.takes_enEff : (s.takes m DPT_CTL v).dev.flag DPT_CTL_EN_EFF = s.dev.flag DPT_CTL_EN_EFF := by
  obtain ⟨r, hf, hb, eff, -⟩ := findReg_dptCtl
  exact Dev.flag_of_get (Chip.takes_unwritten hf hb eff rfl (.inl rfl))

/-- A rise of EN_REQ takes effect at once (R240). -/
theorem Chip.rowWrite_rise (h : Hears s m DPT_CTL (withField v DPT_CTL_EN_REQ 1)) (req : s.dev.flag DPT_CTL_EN_REQ = false)
    (eff : s.dev.flag DPT_CTL_EN_EFF = false) : s.rowWrite m DPT_CTL (withField v DPT_CTL_EN_REQ 1)
      = (s.takes m DPT_CTL (withField v DPT_CTL_EN_REQ 1)).onDev Dev.depotRise := by
  obtain ⟨r, hf, hb, -⟩ := findReg_dptCtl
  have unasked : (s.dev.word DPT_CTL).getLsbD 0 = false := (getLsbD_eq_bits _ 0).trans req
  have hook (t : Chip) (old w : Word) : t.hookDpt (DPT_CTL % 0x10000) old w = if t.dev.flag DPT_CTL_EN_REQ then
      t.onDev fun d => if !old.getLsbD 0 && !d.flag DPT_CTL_EN_EFF then d.depotRise else d
    else t.depotSeam := rfl
  rw [Chip.rowWrite_dpt hf hb h (by decide) (by decide) (by decide) rfl, hook, if_pos Chip.takes_enReq]
  refine Chip.onDev_congr (if_pos ?_)
  rw [unasked, Chip.takes_enEff, eff]
  rfl

/-- What is asked of the pool stands over a write of CTL. -/
theorem Chip.takes_pool {f : Fld} (hf : f.addr = DPT_POOL) : (s.takes m DPT_CTL v).dev.get f = s.dev.get f := by
  obtain ⟨r, hr, hb, -⟩ := findReg_dptCtl
  exact Chip.takes_get_of_ne hr hb (hf ▸ by decide) (hf ▸ by decide)

end

/-! ### The enables -/

section
variable {d : Dev}

theorem Dev.depotRise_fits (h : d.get DPT_POOL_BASE_REQ + d.get DPT_POOL_SIZE_REQ ≤ 64) : d.depotRise
    = (((d.put DPT_POOL_SIZE_EFF (d.get DPT_POOL_SIZE_REQ)).put DPT_POOL_BASE_EFF (d.get DPT_POOL_BASE_REQ)).put DPT_CTL_ERR 0).put DPT_CTL_EN_EFF 1 := by
  have base : (d.put DPT_POOL_SIZE_EFF (d.get DPT_POOL_SIZE_REQ)).get DPT_POOL_BASE_REQ = d.get DPT_POOL_BASE_REQ :=
    Dev.get_put_of_disjoint (by decide) (by decide) (by decide) (by decide)
  unfold Dev.depotRise
  rw [if_pos h]
  rfl

theorem Dev.depotRise_unfit (h : ¬ d.get DPT_POOL_BASE_REQ + d.get DPT_POOL_SIZE_REQ ≤ 64) :
    d.depotRise = (d.put DPT_CTL_ERR 1).put DPT_ISTAT_POOLERR 1 := if_neg h

/-- The LERR of some queues cleared. -/
def Dev.clearLerrs (d : Dev) (qs : List Nat) : Dev := qs.foldl (fun d q => d.off (DPT_QCFG_LERR q)) d

theorem Dev.clearLerrs_dpt (qs : List Nat) (d : Dev) : (d.clearLerrs qs).dpt = d.dpt := by
  induction qs generalizing d with
  | nil => rfl
  | cons q qs ih => exact ih _

theorem Dev.clearLerrs_flag (qs : List Nat) (d : Dev) {k : Nat} (h : k ∈ qs ∨ d.flag (DPT_QCFG_LERR k) = false) :
    (d.clearLerrs qs).flag (DPT_QCFG_LERR k) = false := by
  induction qs generalizing d with
  | nil => exact h.resolve_left List.not_mem_nil
  | cons q qs ih =>
    refine ih (d.off (DPT_QCFG_LERR q)) ?_
    by_cases hq : q = k
    · exact .inr (hq ▸ Dev.flag_put_zero (by decide : 29 ≤ 29) (by decide : 29 < 32))
    · refine h.imp (fun mem => (List.mem_cons.mp mem).resolve_left (Ne.symm hq)) fun clear => ?_
      refine (Dev.flag_put_of_ne ?_).trans clear
      show 0x64000 + 0x10 * q ≠ 0x64000 + 0x10 * k
      omega

theorem Dev.depotFall_eq (d : Dev) : d.depotFall = ({ d.clearLerrs (List.range 1024) with
    dpt := { (d.clearLerrs (List.range 1024)).dpt with queues := [], opens := [], walk := 0, free := [] } } : Dev).off DPT_CTL_EN_EFF := by
  unfold Dev.depotFall Dev.clearLerrs
  dsimp only

theorem Dev.flag_fallen {d : Dev} {f : Fld} (hf : DPT_CTL_EN_EFF.addr ≠ f.addr) (x : Dpt) :
    (({ d with dpt := x } : Dev).off DPT_CTL_EN_EFF).flag f = d.flag f := Dev.flag_put_of_ne hf

theorem Dev.depotFall_clear (d : Dev) (k : Fin 1024) : d.depotFall.flag (DPT_QCFG_LERR k) = false := by
  have ctl : DPT_CTL_EN_EFF.addr ≠ (DPT_QCFG_LERR k).addr := by
    show 0x60000 ≠ 0x64000 + 0x10 * k.val
    omega
  rw [Dev.depotFall_eq, Dev.flag_fallen ctl]
  exact Dev.clearLerrs_flag _ d (.inl (List.mem_range.mpr k.isLt))

theorem Dev.depotFall_off (d : Dev) : d.depotFall.flag DPT_CTL_EN_EFF = false := Dev.flag_put_zero (by decide) (by decide)

theorem Dev.depotFall_dpt (d : Dev) : d.depotFall.dpt = { d.dpt with queues := [], opens := [], walk := 0, free := [] } := by
  have kept := Dev.clearLerrs_dpt (List.range 1024) d
  rw [Dev.depotFall_eq]
  generalize d.clearLerrs (List.range 1024) = e at kept ⊢
  rw [← kept]
  rfl

end

section
variable {s : Chip}

/-- The depot's seam: every item is discarded, and thresholds see it (R232, R240). -/
theorem Chip.depotSeam_falls (req : s.dev.flag DPT_CTL_EN_REQ = false) (eff : s.dev.flag DPT_CTL_EN_EFF = true)
    (broken : ∀ o ∈ s.dev.dpt.opens, o.broken = true) (free : s.dev.noReserved = true) :
    s.depotSeam = s.withAllThr (·.onDev Dev.depotFall) := by
  have idle : s.dev.depotIdle = true := by
    unfold Dev.depotIdle
    rw [free, Bool.and_true, List.all_eq_true]
    exact broken
  unfold Chip.depotSeam
  rw [req, eff, idle]
  rfl

theorem Chip.depotSeam_waits (h : s.dev.flag DPT_CTL_EN_REQ = true ∨ s.dev.flag DPT_CTL_EN_EFF = false ∨ ∃ o ∈ s.dev.dpt.opens, o.broken = false) :
    s.depotSeam = s := by
  refine if_neg fun seam => ?_
  simp only [Dev.depotIdle, Bool.and_eq_true, Bool.not_eq_true', List.all_eq_true] at seam
  obtain ⟨⟨req, eff⟩, broken, -⟩ := seam
  rcases h with asked | off | ⟨o, ho, whole⟩
  · exact Bool.noConfusion (asked.symm.trans req)
  · exact Bool.noConfusion (off.symm.trans eff)
  · exact Bool.noConfusion (whole.symm.trans (broken o ho))

theorem Dev.opensOf_isEmpty {d : Dev} {q : Nat} : (d.opensOf q).isEmpty = true ↔ ∀ o ∈ d.dpt.opens, o.q = q → o.broken = true := by
  simp [Dev.opensOf, List.isEmpty_iff, List.filter_eq_nil_iff]

theorem Dev.queueSeam_falls {d : Dev} {q : Nat} (req : d.flag (DPT_QCFG_EN_REQ q) = false) (eff : d.flag (DPT_QCFG_EN_EFF q) = true)
    (broken : ∀ o ∈ d.dpt.opens, o.q = q → o.broken = true) : d.queueSeam q = d.put (DPT_QCFG_EN_EFF q) 0 := by
  unfold Dev.queueSeam
  rw [req, eff, Dev.opensOf_isEmpty.mpr broken]
  rfl

theorem Dev.queueSeam_waits {d : Dev} {q : Nat} (h : d.flag (DPT_QCFG_EN_REQ q) = true ∨ d.flag (DPT_QCFG_EN_EFF q) = false
    ∨ ∃ o ∈ d.dpt.opens, o.q = q ∧ o.broken = false) : d.queueSeam q = d := by
  refine if_neg fun seam => ?_
  simp only [Bool.and_eq_true, Bool.not_eq_true'] at seam
  obtain ⟨⟨req, eff⟩, empty⟩ := seam
  rcases h with asked | off | ⟨o, ho, here, whole⟩
  · exact Bool.noConfusion (asked.symm.trans req)
  · exact Bool.noConfusion (off.symm.trans eff)
  · exact Bool.noConfusion (whole.symm.trans (Dev.opensOf_isEmpty.mp empty o ho here))

end

/-! ### The settled obligation on control and enables -/

section
variable (s : State) (m : Sender) (q : Fin 1024) (v : Word)

theorem exec_mark : exec (.mark m q v) s = s.act fun c => c.rowWindow m .mark q v := rfl

theorem exec_rewind : exec (.rewind m q v) s = s.act fun c => c.rowWindow m .rewind q v := rfl

theorem exec_skip : exec (.skip m q v) s = s.act fun c => c.rowWindow m .skip q v := rfl

theorem exec_release : exec (.release m q v) s = s.act fun c => c.rowWindow m .release q v := rfl

theorem exec_queueFlush : exec (.queueFlush m q v) s = s.act fun c => c.rowWindow m .flush q v := rfl

theorem exec_qcmdFlush : exec (.qcmdFlush m q) s = s.act fun c => c.rowWrite m DPT_QCMD (qcmdWord q) := rfl

theorem exec_depotEnable : exec (.depotEnable m v) s = s.act fun c => c.rowWrite m DPT_CTL (withField v DPT_CTL_EN_REQ 1) := rfl

theorem exec_depotDisableSeam : exec .depotDisableSeam s = s.leaves s.chip.depotSeam := rfl

theorem exec_queueDisableSeam : exec (.queueDisableSeam q) s = s.becomes (·.queueSeam q) := rfl

variable {s m q v}

/-- A window operation that writes leaves the device as the operation makes it. -/
theorem State.window_leaves {op : WinOp} {uid : Nat} {t : Chip} (h : s.chip.wields m op q = some uid) (w : op.writes = true)
    (done : (s.chip.window uid op q v).1 = t) : s.act (fun c => c.rowWindow m op q v) = s.leaves t :=
  congrArg s.leaves ((Chip.rowWindow_written h w v).trans done)

end

/-- Settles O31: each control by what it makes of its queue, QCMD and CTL by what their writes start, the seams by what they wait for. -/
theorem queueControlAndEnables : Obligations.QueueControlAndEnables := by
  unfold Obligations.QueueControlAndEnables
  refine ⟨fun s m q v uid => ?control, fun s m q v => ?enables⟩
  case control =>
    intro c d x thr gate gone qcmd told flushed
    have flushes {u t : Chip} (f : Chip.Flushed q u t) : flushed u t :=
      ⟨f.items, f.cursor, f.mark, f.staged, f.link, f.cores, f.opens, f.others⟩
    refine ⟨?mark, ?rewind, ?rewound, ?skip, ?stay, ?release, ?flush, ?qcmd⟩
    case mark =>
      intro h g
      exact (exec_mark s m q v).trans ((State.window_leaves h rfl (Chip.markQ_gate g)).trans (State.becomes_congr rfl))
    case rewind =>
      intro h g high
      refine (exec_rewind s m q v).trans (State.window_leaves h rfl ((Chip.rewindQ_gate g).trans ?_))
      rw [Chip.stage_high _ _ high]
      rfl
    case rewound =>
      intro h g
      have there := Dev.queue_setQueue_self c.dev q { c.dev.queue q with cursor := (c.dev.queue q).mark, staged := none }
      have staged := Chip.stage_relinked (c.onDev fun d => d.setQueue q { d.queue q with cursor := (d.queue q).mark, staged := none }) q
      refine ⟨_, (exec_rewind s m q v).trans (State.window_leaves h rfl (Chip.rewindQ_gate g)), ?_, ?_, fun known => ?_⟩
      · exact staged.cursor.trans (congrArg DQueue.cursor there)
      · exact staged.kinds.trans (congrArg (·.items.map DItem.kind) there)
      · exact (Chip.stage_items _ q (there ▸ known)).trans (congrArg (·.items) there)
    case skip =>
      intro h g data inside known
      exact ⟨_, (exec_skip s m q v).trans (State.window_leaves h rfl (Chip.skipQ_known g data inside known)), Chip.moveCursor_known known _⟩
    case stay =>
      intro h g header
      exact (exec_skip s m q v).trans (State.window_leaves h rfl (Chip.skipQ_header g header))
    case release =>
      intro h g plain
      have work := Chip.releaseCells_poolWork plain
      have there := Dev.queue_setQueue_self (c.releaseCells q).dev q (x.released ((c.releaseCells q).dev.queue q))
      refine ⟨_, (exec_release s m q v).trans (State.window_leaves h rfl (Chip.releaseQ_gate g)), ?_, ?_, ?_⟩
      · exact congrArg DQueue.items there
      · exact congrArg DQueue.cursor there
      · exact work.free.trans (Nat.add_assoc _ _ _).symm
    case flush =>
      intro h g
      obtain ⟨t, flush, made⟩ := c.flush_flushed q
      have opened : c.flushQ uid q = c.flush q := by
        unfold Chip.flushQ
        rw [g]
      exact ⟨t, (exec_queueFlush s m q v).trans (State.window_leaves h rfl (opened.trans flush)), flushes made⟩
    case qcmd =>
      intro h
      obtain ⟨t, flush, made⟩ := told.flush_flushed q
      refine ⟨(exec_qcmdFlush s m q).trans (congrArg s.leaves (Chip.rowWrite_qcmd h)), flushes ?_⟩
      rw [flush]
      exact made.events (told.thresholdSeen_events q t)
  case enables =>
    intro d w u fits rise
    have base : u.dev.get DPT_POOL_BASE_REQ = d.get DPT_POOL_BASE_REQ := Chip.takes_pool rfl
    have size : u.dev.get DPT_POOL_SIZE_REQ = d.get DPT_POOL_SIZE_REQ := Chip.takes_pool rfl
    have rises : rise → exec (.depotEnable m v) s = s.leaves (u.onDev Dev.depotRise) := fun ⟨h, req, eff⟩ =>
      (exec_depotEnable s m v).trans (congrArg s.leaves (Chip.rowWrite_rise h req eff))
    refine ⟨?fits, ?unfit, ?falls, ?waits, ?queueFalls, ?queueWaits⟩
    case fits =>
      intro h fit
      have inside : u.dev.get DPT_POOL_BASE_REQ + u.dev.get DPT_POOL_SIZE_REQ ≤ 64 := by
        rw [base, size]
        exact of_decide_eq_true fit
      refine (rises h).trans (congrArg s.leaves (Chip.onDev_congr ?_))
      rw [Dev.depotRise_fits inside, base, size]
    case unfit =>
      intro h unfit
      have outside : ¬ u.dev.get DPT_POOL_BASE_REQ + u.dev.get DPT_POOL_SIZE_REQ ≤ 64 := by
        rw [base, size]
        exact of_decide_eq_false unfit
      exact (rises h).trans (congrArg s.leaves (Chip.onDev_congr (Dev.depotRise_unfit outside)))
    case falls =>
      intro req eff broken free
      obtain ⟨t, seen, dpt, flags⟩ := (s.chip.withAllThr_events (·.onDev Dev.depotFall)).exists_dev
      simp only [Chip.onDev_dev] at dpt flags
      have seam : s.chip.depotSeam = s.chip.onDev fun _ => t :=
        (Chip.depotSeam_falls req eff broken free).trans (seen.trans (Chip.onDev_onDev s.chip Dev.depotFall fun _ => t))
      have fallen : t.dpt = { d.dpt with queues := [], opens := [], walk := 0, free := [] } := dpt.trans d.depotFall_dpt
      refine ⟨t, (exec_depotDisableSeam s).trans (congrArg s.leaves seam), ?_⟩
      rw [fallen]
      refine ⟨rfl, rfl, rfl, rfl, ?_, fun k => ?_, rfl⟩
      · exact (flags (by decide)).trans d.depotFall_off
      · exact (flags (merge_ne_qcfg k)).trans (d.depotFall_clear k)
    case waits =>
      intro h
      exact (exec_depotDisableSeam s).trans (congrArg s.leaves (Chip.depotSeam_waits h))
    case queueFalls =>
      intro req eff broken
      exact (exec_queueDisableSeam s q).trans (State.becomes_congr (Dev.queueSeam_falls req eff broken))
    case queueWaits =>
      intro h
      exact (exec_queueDisableSeam s q).trans (congrArg s.leaves (Chip.onDev_id (Dev.queueSeam_waits h)))

end Sys2Proof.Machine
end

section
/-! A sealed item's words in the pool (O29): a cell written as a line, and the staged copy read from it (R176, R191, R212, R236). -/

namespace Sys2Proof.Machine

open Reg

/-! ### Bytes stored -/

theorem Mem.bytesLE_congr {m m' : Mem} {a n : Nat} (h : ∀ k < n, m.byte (a + k) = m'.byte (a + k)) : m.bytesLE a n = m'.bytesLE a n := by
  induction n generalizing a with
  | zero => rfl
  | succ n ih =>
    have first : m.byte a = m'.byte a := h 0 n.succ_pos
    have rest : m.bytesLE (a + 1) n = m'.bytesLE (a + 1) n := ih fun k hk => by
      rw [Nat.add_right_comm, Nat.add_assoc]
      exact h (k + 1) (by omega)
    show (m.byte a).toNat + 256 * m.bytesLE (a + 1) n = (m'.byte a).toNat + 256 * m'.bytesLE (a + 1) n
    rw [first, rest]

/-- Bytes stored read as the value stored. -/
theorem Mem.bytesLE_setBytes (m : Mem) (a n v : Nat) : (m.setBytes a n v).bytesLE a n = v % 256 ^ n := by
  induction n generalizing m a v with
  | zero => exact (Nat.mod_one v).symm
  | succ n ih =>
    have first : (((m.setByte a (BitVec.ofNat 8 v)).setBytes (a + 1) n (v / 256)).byte a).toNat = v % 256 := by
      rw [Mem.byte_setBytes, if_neg (by omega), Mem.byte_setByte, if_pos rfl, BitVec.toNat_ofNat]
    show (((m.setByte a (BitVec.ofNat 8 v)).setBytes (a + 1) n (v / 256)).byte a).toNat
      + 256 * ((m.setByte a (BitVec.ofNat 8 v)).setBytes (a + 1) n (v / 256)).bytesLE (a + 1) n = v % 256 ^ (n + 1)
    rw [first, ih, Nat.pow_succ', Nat.mod_mul]

/-- Two words stored as one 64-bit word read as they are. -/
theorem Mem.bytesLE_setPair (m : Mem) (a : Nat) (w0 w1 : Word) : (m.setBytes a 8 (w0.toNat + w1.toNat * 2 ^ 32)).bytesLE a 4 = w0.toNat
    ∧ (m.setBytes a 8 (w0.toNat + w1.toNat * 2 ^ 32)).bytesLE (a + 4) 4 = w1.toNat := by
  have whole := m.bytesLE_setBytes a 8 (w0.toNat + w1.toNat * 2 ^ 32)
  have low := (m.setBytes a 8 (w0.toNat + w1.toNat * 2 ^ 32)).bytesLE_lt a 4
  rw [Mem.bytesLE_add _ a 4 4] at whole
  have h0 := w0.isLt
  have h1 := w1.isLt
  omega

/-! ### A line written -/

/-- t is s after the words ws have been stored from a upward: they read as they are, without an inverted bit; the device outside the arrays is
as it was, and so is every byte elsewhere and every word below. -/
structure Chip.Stored (s t : Chip) (a : Nat) (ws : List Word) : Prop where
  dev : t.dev = s.dev
  words : ∀ i, (h : i < ws.length) → t.mem.bytesLE (a + 4 * i) 4 = ws[i].toNat
  clean : ∀ b, a ≤ b → b < a + 4 * ws.length → t.mem.flip b = 0
  below : ∀ b < a, t.mem.byte b = s.mem.byte b ∧ t.mem.flip b = s.mem.flip b

section
variable {s t u : Chip} {a : Nat} {ws : List Word}

/-- Two words of a powered array below the vault stored as one 64-bit word (R191). -/
theorem Chip.memWrite64_stored (w0 w1 : Word) (whole : a % 8 = 0) (low : a < 0x3000000) (powered : s.dev.galleryOff a = false) :
    ∃ t, s.memWrite64 a (w0.toNat + w1.toNat * 2 ^ 32) = (t, .ok 0) ∧ s.Stored t a [w0, w1] := by
  have at_a : a / 8 * 8 = a := by omega
  unfold Chip.memWrite64
  rw [Dev.writeShut_low low, powered, if_neg (by decide), if_neg (by decide)]
  refine ⟨_, rfl, rfl, fun i hi => ?_, fun b lo hi => ?_, fun b hb => ?_⟩
  all_goals
    dsimp only
    rw [Dev.place_low (d := (s.clearResv (lineOf a)).dev) low, at_a]
  · obtain ⟨first, second⟩ := (s.clearResv (lineOf a)).mem.bytesLE_setPair a w0 w1
    match i, hi with
    | 0, _ => exact first
    | 1, _ => exact second
  · rw [Mem.flip_setFlip, if_pos (by simp only [List.length_cons, List.length_nil] at hi; omega)]
  · refine ⟨?_, ?_⟩
    · exact (Mem.byte_setBytes _ _ _ _ _).trans (if_neg (by omega))
    · rw [Mem.flip_setFlip, if_neg (by omega), Mem.flip_setBytes]
      rfl

/-- Two words stored, then those above them. -/
theorem Chip.Stored.append {w0 w1 : Word} (first : s.Stored t a [w0, w1]) (rest : t.Stored u (a + 8) ws) : s.Stored u a (w0 :: w1 :: ws) := by
  have kept (i : Nat) (hi : i < 2) : u.mem.bytesLE (a + 4 * i) 4 = t.mem.bytesLE (a + 4 * i) 4 :=
    Mem.bytesLE_congr fun k hk => (rest.below _ (by omega)).1
  refine ⟨rest.dev.trans first.dev, fun i hi => ?_, fun b lo hi => ?_, fun b hb => ?_⟩
  · match i, hi with
    | 0, _ => exact (kept 0 (by decide)).trans (first.words 0 Nat.zero_lt_two)
    | 1, _ => exact (kept 1 (by decide)).trans (first.words 1 Nat.one_lt_two)
    | i + 2, hi =>
      rw [show a + 4 * (i + 2) = a + 8 + 4 * i by omega]
      exact rest.words i (by simpa using hi)
  · simp only [List.length_cons] at hi
    by_cases here : b < a + 8
    · rw [(rest.below b here).2]
      exact first.clean b lo here
    · exact rest.clean b (by omega) (by omega)
  · obtain ⟨byte, flip⟩ := rest.below b (by omega)
    obtain ⟨byte', flip'⟩ := first.below b hb
    exact ⟨byte.trans byte', flip.trans flip'⟩

/-- A line of whole 64-bit words written to a powered array below the vault. -/
theorem Chip.writeWords_stored (n : Nat) (len : ws.length = 2 * n) (whole : a % 8 = 0) (low : a + 4 * ws.length ≤ 0x3000000)
    (powered : ∀ k < 4 * ws.length, s.dev.galleryOff (a + k) = false) : s.Stored (s.writeWords a ws) a ws := by
  induction n generalizing s a ws with
  | zero =>
    obtain rfl := List.length_eq_zero_iff.mp len
    exact ⟨rfl, fun i hi => absurd hi (Nat.not_lt_zero i), fun b lo hi => absurd hi (by simp; omega), fun b _ => ⟨rfl, rfl⟩⟩
  | succ n ih =>
    match ws, len with
    | w0 :: w1 :: ws, len =>
      simp only [List.length_cons] at len low powered
      obtain ⟨t, written, first⟩ := Chip.memWrite64_stored (s := s) w0 w1 whole (by omega) (powered 0 (by omega))
      have step : s.writeWords a (w0 :: w1 :: ws) = t.writeWords (a + 8) ws := by
        rw [Chip.writeWords, written]
        rfl
      rw [step]
      refine first.append (ih (by omega) (by omega) (by omega) fun k hk => ?_)
      rw [first.dev, Nat.add_assoc]
      exact powered (8 + k) (by omega)

end

/-! ### The staged copy -/

section
variable {s t : Chip}

/-- Accesses to the pool leave the halves' power and the pool's place. -/
theorem Chip.PoolWork.galleryOff {n : Nat} (h : s.PoolWork t n) (a : Nat) : t.dev.galleryOff a = s.dev.galleryOff a := by
  unfold Dev.galleryOff Dev.wingLost Dev.bit
  rw [h.rails, h.get (f := GAL_PGATE_GH_EFF) (by unfold accessCount; decide)]

theorem Chip.PoolWork.cellAddr {n : Nat} (h : s.PoolWork t n) (c : Nat) : t.dev.cellAddr c = s.dev.cellAddr c := by
  unfold Dev.cellAddr
  rw [h.get (f := DPT_POOL_BASE_EFF) (by unfold accessCount; decide)]

/-- Every word of a cell can be read as it is: it lies in a powered half and has no inverted bit. -/
structure Chip.CellClean (s : Chip) (c : Nat) : Prop where
  low : s.dev.cellAddr c + 64 ≤ 0x2000000
  powered : ∀ k < 64, s.dev.galleryOff (s.dev.cellAddr c + k) = false
  clean : ∀ k < 64, s.mem.flip (s.dev.cellAddr c + k) = 0

theorem Chip.CellClean.of_poolWork {c : Nat} (h : s.CellClean c) (w : s.PoolWork t 0) (mem : t.mem = s.mem) : t.CellClean c := by
  obtain ⟨low, powered, clean⟩ := h
  refine ⟨?_, fun k hk => ?_, fun k hk => ?_⟩ <;> rw [w.cellAddr]
  · exact low
  · rw [w.galleryOff]
    exact powered k hk
  · rw [mem]
    exact clean k hk

theorem Chip.poolWord_mem {c i : Nat} (h : s.CellClean c) (hi : i < 16) : (s.poolWord c i).1.mem = s.mem := by
  have asked := s.asks_poolWork 0x0A (s.dev.cellAddr c + 4 * i) 1
  have low := h.low
  have read := Chip.memRead_clean (s := s.asks 0x0A (s.dev.cellAddr c + 4 * i)) 4 (by omega : s.dev.cellAddr c + 4 * i < 0x3000000)
    ((asked.galleryOff _).trans (h.powered (4 * i) (by omega))) (h.clean (4 * i) (by omega))
  unfold Chip.poolWord Chip.poolRead
  dsimp only
  rw [read]
  rfl

theorem Chip.poolCell_mem {c : Nat} {is : List Nat} (h : s.CellClean c) (his : ∀ i ∈ is, i < 16) : (s.poolCell c is).1.mem = s.mem := by
  induction is generalizing s with
  | nil => rfl
  | cons i is ih =>
    have first := Chip.poolWord_mem h (his i List.mem_cons_self)
    exact (ih (h.of_poolWork (s.poolWord_poolWork c i) first) fun j hj => his j (List.mem_cons_of_mem i hj)).trans first

/-- In a queue of one item of one cell no link leads to the cursor. -/
theorem DQueue.cellAt_single {x : DQueue} {it : DItem} {c : Nat} (items : x.items = [it]) (cells : it.cells = [c]) (p : DPos) :
    x.cellAt p = none ∨ x.cellAt p = some (c, none) := by
  obtain ⟨item, word⟩ := p
  unfold DQueue.cellAt
  rw [items]
  match item with
  | 0 =>
    simp only [List.getElem?_cons_zero, cells]
    cases word / 15 with
    | zero => exact .inr rfl
    | succ j => exact .inl rfl
  | k + 1 => exact .inl rfl

/-- Staging the one cell of the one item of a queue only reads it. -/
theorem Chip.stage_single_mem {q c : Nat} {it : DItem} (items : (s.dev.queue q).items = [it]) (cells : it.cells = [c]) (h : s.CellClean c) :
    (s.stage q).mem = s.mem := by
  unfold Chip.stage
  split
  · rfl
  dsimp only
  rcases DQueue.cellAt_single items cells (s.dev.queue q).cursor with at_end | here
  · rw [at_end]
    rfl
  · have entered : s.enterCell q (s.dev.queue q).cursor = (s, true) := by
      unfold Chip.enterCell
      dsimp only
      rw [here]
    rw [here]
    dsimp only
    split
    · rfl
    · rw [entered]
      simp only [if_true, here]
      exact Chip.poolCell_mem h fun i hi => Nat.lt_succ_of_lt (List.mem_range.mp hi)

end

/-! ### The settled obligation on sealed items -/

section
variable (s : Chip) (q tag c : Nat) (words : List Word) (launch : Bool)

/-- The line of an item's one cell: the stored header, the data words, and the link word of a queue's last cell (R212). -/
def itemLine (tag c : Nat) (words : List Word) : List Word := cellWords (headerWord words.length tag :: words) [c] 0

/-- The cell written as its line. -/
def Chip.writeItem (s : Chip) (tag c : Nat) (words : List Word) : Chip :=
  (((s.asks 0x0A (s.dev.cellAddr c)).writeWords (s.dev.cellAddr c) (itemLine tag c words)).burst (s.dev.cellAddr c) 64)

/-- An item of one cell sealed into an empty queue: its cell written, the item put into the queue and staged. -/
theorem Chip.seal_single (empty : (s.dev.queue q).items = []) (short : words.length ≤ 14) : s.seal q tag words [c] launch
    = ((s.writeItem tag c words).onDev fun d => d.setQueue q { d.queue q with items := [⟨[c], 0, tag, words.length, launch⟩] }).stage q := by
  have one : cellsFor words.length = 1 := by
    unfold cellsFor
    omega
  have written : s.PoolWork (s.writeItem tag c words) 0 := s.writeCells_poolWork (headerWord words.length tag :: words) [c] [0]
  have still : ((s.writeItem tag c words).dev.queue q).items = [] := (congrArg DQueue.items (written.queue q)).trans empty
  have none : ((s.writeItem tag c words).dev.queue q).cells = [] := by
    unfold DQueue.cells
    rw [still]
    rfl
  have line : s.writeCells (headerWord words.length tag :: words) [c] [0] = s.writeItem tag c words := rfl
  unfold Chip.seal Chip.sealFrom
  dsimp only
  rw [one]
  show (((match ((s.writeCells (headerWord words.length tag :: words) [c] [0]).dev.queue q).cells.getLast?, [c].head? with
    | some l, some f => (s.writeCells (headerWord words.length tag :: words) [c] [0]).writeLink l (linkTo (some f))
    | _, _ => s.writeCells (headerWord words.length tag :: words) [c] [0]).onDev _).stage q) = _
  rw [line, none]
  refine congrArg (Chip.stage · q) (Chip.onDev_congr ?_)
  dsimp only [List.getLast?_nil]
  rw [still]
  rfl

theorem itemLine_length : (itemLine tag c words).length = 16 := rfl

theorem itemLine_word {i : Nat} (hi : i < words.length) (short : words.length ≤ 14) (h : i + 1 < (itemLine tag c words).length) :
    (itemLine tag c words)[i + 1] = words[i] := by
  have line : (itemLine tag c words)[i + 1]? = some words[i] := by
    unfold itemLine cellWords
    rw [List.getElem?_append_left (by simp; omega)]
    simp [List.getElem?_range (show i + 1 < 15 by omega), List.getElem?_eq_getElem hi]
  exact (List.getElem?_eq_some_iff.mp line).2

/-- A cell marked as line data holds what it held. -/
theorem Chip.burst_byte (a n b : Nat) : (s.burst a n).mem.byte b = s.mem.byte b := by
  unfold Chip.burst
  split <;> rfl

theorem Chip.burst_flip (a n b : Nat) : (s.burst a n).mem.flip b = s.mem.flip b := by
  unfold Chip.burst
  split <;> rfl

/-- The line of a powered cell of the gallery, written. -/
theorem Chip.writeItem_stored (low : s.dev.cellAddr c + 64 ≤ 0x2000000) (powered : ∀ k < 64, s.dev.galleryOff (s.dev.cellAddr c + k) = false) :
    (∀ i, (h : i < (itemLine tag c words).length) →
      (s.writeItem tag c words).mem.bytesLE (s.dev.cellAddr c + 4 * i) 4 = (itemLine tag c words)[i].toNat)
    ∧ ∀ k < 64, (s.writeItem tag c words).mem.flip (s.dev.cellAddr c + k) = 0 := by
  have asked := s.asks_poolWork 0x0A (s.dev.cellAddr c) 1
  have aligned : s.dev.cellAddr c % 8 = 0 := by
    unfold Dev.cellAddr
    omega
  obtain ⟨-, stored, clean, -⟩ := Chip.writeWords_stored (s := s.asks 0x0A (s.dev.cellAddr c)) (ws := itemLine tag c words) 8 rfl aligned
    (show s.dev.cellAddr c + 4 * 16 ≤ 0x3000000 by omega) fun k hk => (asked.galleryOff _).trans (powered k hk)
  refine ⟨fun i hi => (Mem.bytesLE_congr fun k _ => Chip.burst_byte _ _ _ _).trans (stored i hi), fun k hk => ?_⟩
  exact (Chip.burst_flip _ _ _ _).trans (clean _ (Nat.le_add_right _ _) (Nat.add_lt_add_left hk _))

/-- An item of one cell sealed into an empty queue leaves the arrays as its line was written. -/
theorem Chip.seal_single_mem (empty : (s.dev.queue q).items = []) (short : words.length ≤ 14) (low : s.dev.cellAddr c + 64 ≤ 0x2000000)
    (powered : ∀ k < 64, s.dev.galleryOff (s.dev.cellAddr c + k) = false) :
    (s.seal q tag words [c] launch).mem = (s.writeItem tag c words).mem := by
  have written : s.PoolWork (s.writeItem tag c words) 0 := s.writeCells_poolWork (headerWord words.length tag :: words) [c] [0]
  have clean := (s.writeItem_stored tag c words low powered).2
  rw [s.seal_single q tag c words launch empty short]
  refine Chip.stage_single_mem (congrArg DQueue.items (Dev.queue_setQueue_self _ _ _)) rfl ⟨?_, fun k hk => ?_, fun k hk => ?_⟩
  · exact (congrArg (· + 64) (written.cellAddr c)).trans_le low
  · exact ((written.galleryOff _).trans (congrArg (s.dev.galleryOff <| · + k) (written.cellAddr c))).trans (powered k hk)
  · exact (congrArg ((s.writeItem tag c words).mem.flip <| · + k) (written.cellAddr c)).trans (clean k hk)

theorem headerWord_toNat {len : Nat} (hl : len ≤ 14) (ht : tag < 0x10000) : (headerWord len tag).toNat = 0x80000000 + 0x10000 * len + tag := by
  unfold headerWord
  rw [BitVec.toNat_ofNat]
  omega

end

/-- Settles O29: the line is stored word by word, and staging it reads it without a correction. -/
theorem sealedItemsStandInThePool : Obligations.SealedItemsStandInThePool := by
  intro s q tag c words launch empty short tagged low powered t
  obtain ⟨stored, -⟩ := s.writeItem_stored tag c words low powered
  have mem : t.mem = (s.writeItem tag c words).mem := s.seal_single_mem q tag c words launch empty short low powered
  rw [mem]
  refine ⟨?_, fun i hi => ?_, ?_⟩
  · rw [← headerWord_toNat tag short tagged]
    exact stored 0 (by simp [itemLine_length])
  · have inside : i + 1 < (itemLine tag c words).length := by
      rw [itemLine_length]
      omega
    rw [stored (i + 1) inside, itemLine_word tag c words hi short]
  · exact stored 15 (by simp [itemLine_length])

end Sys2Proof.Machine
end

section
/-! How far a shadowed write lies ahead (R64): no write of a core that has been reset waits more than three instructions, whatever is done to the
device after that. What memory accesses, the depot and the registrar leave of it. -/

namespace Sys2Proof.Machine

open Reg

/-- No write of the core waits more than three instructions in its shadow. -/
def Core.Near (c : Core) : Prop := ∀ w ∈ c.shadows, w.left ≤ 3

theorem Core.Near.of_eq {c c' : Core} (h : c.Near) (hs : c'.shadows = c.shadows) : c'.Near := by
  unfold Core.Near
  rw [hs]
  exact h

/-- No write of core j waits more than three instructions in its shadow. -/
def Chip.Near (s : Chip) (j : CoreId) : Prop := s.cores[j].Near

section
variable {s t : Chip} {j : CoreId}

theorem SameCores.near (w : SameCores s t) (h : s.Near j) : t.Near j := by
  refine h.of_eq ?_
  rcases w j with w | w <;> rw [w]

theorem Chip.onDev_near (f : Dev → Dev) (h : s.Near j) : (s.onDev f).Near j := h

theorem Chip.mk_near (d : Dev) (m : Mem) (h : s.Near j) : (Chip.mk s.cores m d).Near j := h

theorem Chip.onCore_near (e : CoreId) (f : Core → Core) (hf : ∀ c : Core, c.Near → (f c).Near) (h : s.Near j) : (s.onCore e f).Near j := by
  unfold Chip.Near
  by_cases here : j = e
  · rw [here, Chip.onCore_core]
    exact hf _ (here ▸ h)
  · rw [Chip.onCore_other _ _ _ here]
    exact h

/-- A change of a core that is not of its shadows. -/
theorem Chip.onCore_kept (e : CoreId) (f : Core → Core) (hf : ∀ c : Core, (f c).shadows = c.shadows) (h : s.Near j) : (s.onCore e f).Near j :=
  s.onCore_near e f (fun c hc => hc.of_eq (hf c)) h

theorem Chip.foldl_near {α : Type} {f : Chip → α → Chip} (hf : ∀ s x, s.Near j → (f s x).Near j) (l : List α) (h : s.Near j) :
    (l.foldl f s).Near j := by
  induction l generalizing s with
  | nil => exact h
  | cons x l ih => exact ih (hf s x h)

/-! ### Memory -/

theorem Chip.clearResv_near (line : Nat) (h : s.Near j) : (s.clearResv line).Near j := (s.sameCores_clearResv line).near h

theorem Chip.memRead_near (a n : Nat) (h : s.Near j) : (s.memRead a n).1.Near j := (s.memRead_poolWork a n).cores.near h

theorem Chip.memWrite_near (p : Port) (a n : Nat) (v : Word) (h : s.Near j) : (s.memWrite p a n v).1.Near j :=
  (s.memWrite_poolWork p a n v).cores.near h

theorem Chip.memAtomic_near (p : Port) (a : Nat) (f : Word → Word) (h : s.Near j) : (s.memAtomic p a f).1.Near j := by
  have read := (s.fetch64_poolWork a).cores.near h
  unfold Chip.memAtomic Chip.inject Chip.takeLine
  grind [!Chip.clearResv_near, !Chip.mk_near]

theorem Chip.bulkRead_near (a n : Nat) (h : s.Near j) : (s.bulkRead a n).1.Near j := by
  fun_induction Chip.bulkRead <;> grind [!Chip.memRead_near]

/-! ### The depot -/

theorem Chip.freeCellsOf_near (cs : List Nat) (h : s.Near j) : (s.freeCellsOf cs).Near j := (s.freeCellsOf_poolWork cs).cores.near h

theorem Chip.enterCell_near (q : Nat) (p : DPos) (h : s.Near j) : (s.enterCell q p).1.Near j := by
  have read (b : Nat) : (s.readLink b).1.Near j := (s.readLink_poolWork b).cores.near h
  unfold Chip.enterCell
  grind [!Chip.onDev_near]

theorem Chip.stage_near (q : Nat) (h : s.Near j) : (s.stage q).Near j := by
  have read (t : Chip) (c : Nat) (is : List Nat) (ht : t.Near j) : (t.poolCell c is).1.Near j := (t.poolCell_poolWork c is).cores.near ht
  unfold Chip.stage
  grind [!Chip.enterCell_near, !Chip.onDev_near]

theorem Chip.restage_near (q : Nat) (h : s.Near j) : (s.restage q).Near j := Chip.stage_near q h

theorem Chip.wordAt_near (q : Nat) (p : DPos) (h : s.Near j) : (s.wordAt q p).1.Near j := by
  have read (c i : Nat) : ((s.onDev Dev.slowWait).poolRead c i).1.Near j := (Chip.poolRead_poolWork _ c i).cores.near h
  unfold Chip.wordAt
  grind

theorem Chip.withThr_near (q : Nat) (f : Chip → Chip) (hf : (f s).Near j) : (s.withThr q f).Near j := by
  unfold Chip.withThr
  grind [!Chip.onDev_near]

theorem Chip.withAllThr_near (f : Chip → Chip) (hf : (f s).Near j) : (s.withAllThr f).Near j := by
  refine Chip.foldl_near (fun t q ht => ?_) _ hf
  split
  · exact ht
  · exact ht

theorem Chip.moveCursor_near (q : Nat) (p : DPos) (h : s.Near j) : (s.moveCursor q p).Near j := Chip.stage_near q h

theorem Chip.popHead_near (uid q : Nat) (move : Bool) (h : s.Near j) : (s.popHead uid q move).1.Near j := by
  unfold Chip.popHead Chip.enterNext
  grind [!Chip.enterCell_near, !Chip.wordAt_near, !Chip.moveCursor_near, !Chip.onDev_near]

theorem Chip.popWord_near (uid q : Nat) (move : Bool) (h : s.Near j) : (s.popWord uid q move).1.Near j := by
  unfold Chip.popWord Chip.enterNext
  grind [!Chip.enterCell_near, !Chip.wordAt_near, !Chip.moveCursor_near, !Chip.onDev_near]

theorem Chip.rewindQ_near (uid q : Nat) (h : s.Near j) : (s.rewindQ uid q).Near j := by
  unfold Chip.rewindQ
  grind [!Chip.withThr_near, !Chip.restage_near, !Chip.onDev_near]

theorem Chip.enterCells_near (q k : Nat) (js : List Nat) (h : s.Near j) : (s.enterCells q k js).1.Near j := by
  induction js generalizing s with
  | nil => exact h
  | cons i is ih =>
    unfold Chip.enterCells
    grind [!Chip.enterCell_near]

theorem Chip.skipQ_near (uid q : Nat) (h : s.Near j) : (s.skipQ uid q).Near j := by
  unfold Chip.skipQ
  grind [!Chip.enterCells_near, !Chip.enterCell_near, !Chip.moveCursor_near, !Chip.onDev_near]

theorem Chip.giveUp_near (q : Nat) (launch : Bool) (cs : List Nat) (h : s.Near j) : (s.giveUp q launch cs).Near j := by
  unfold Chip.giveUp
  grind [!Chip.freeCellsOf_near, !Chip.onDev_near]

theorem Chip.giveUps_near {α : Type} (q : Nat) (launch : α → Bool) (cells : α → List Nat) (l : List α) (h : s.Near j) :
    (l.foldl (fun s x => s.giveUp q (launch x) (cells x)) s).Near j :=
  Chip.foldl_near (fun _ x ht => Chip.giveUp_near q (launch x) (cells x) ht) l h

theorem Chip.releaseQ_near (uid q : Nat) (h : s.Near j) : (s.releaseQ uid q).Near j := by
  unfold Chip.releaseQ
  split
  · refine Chip.withThr_near q _ (Chip.onDev_near _ ?_)
    have done := Chip.giveUps_near q DItem.launch DItem.live ((s.dev.queue q).items.take (s.dev.queue q).cursor.item) h
    split
    · exact Chip.giveUp_near q _ _ done
    · exact done
  · exact h

theorem Chip.flush_near (q : Nat) (h : s.Near j) : (s.flush q).Near j := by
  unfold Chip.flush
  refine Chip.withThr_near q _ (Chip.restage_near q (Chip.onDev_near _ (Chip.onDev_near _ ?_)))
  exact Chip.freeCellsOf_near _ (Chip.freeCellsOf_near _ (Chip.giveUps_near q (fun _ => true) (fun c => [c]) _ h))

theorem Chip.abandon_near (o : OpenItem) (h : s.Near j) : (s.abandon o).Near j := by
  unfold Chip.abandon
  grind [!Chip.freeCellsOf_near, !Chip.onDev_near]

theorem Chip.sealFrom_near (q tag len : Nat) (words : List Word) (cells : List Nat) (launch : Bool) (done : Nat) (h : s.Near j) :
    (s.sealFrom q tag len words cells launch done).Near j := by
  have written (t : Chip) (ws : List Word) (cs js : List Nat) (ht : t.Near j) : (t.writeCells ws cs js).Near j :=
    (t.writeCells_poolWork ws cs js).cores.near ht
  have linked (t : Chip) (c : Nat) (w : Word) (ht : t.Near j) : (t.writeLink c w).Near j := (t.writeLink_poolWork c w).cores.near ht
  unfold Chip.sealFrom
  grind [!Chip.freeCellsOf_near, !Chip.stage_near, !Chip.onDev_near]

theorem Chip.seal_near (q tag : Nat) (words : List Word) (cells : List Nat) (launch : Bool) (h : s.Near j) :
    (s.seal q tag words cells launch).Near j :=
  Chip.sealFrom_near q tag words.length words cells launch 0 h

theorem Chip.head_near (uid q : Nat) (v : Word) (h : s.Near j) : (s.head uid q v).Near j := by
  unfold Chip.head
  grind [!Chip.withThr_near, !Chip.abandon_near, !Chip.seal_near, !Chip.onDev_near, !Chip.mk_near]

theorem Chip.push_near (uid q : Nat) (v : Word) (last : Bool) (h : s.Near j) : (s.push uid q v last).Near j := by
  have written (t : Chip) (ws : List Word) (cs js : List Nat) (ht : t.Near j) : (t.writeCells ws cs js).Near j :=
    (t.writeCells_poolWork ws cs js).cores.near ht
  unfold Chip.push
  grind [!Chip.withThr_near, !Chip.sealFrom_near, !Chip.onDev_near]

theorem Chip.window_near (uid : Nat) (op : WinOp) (q : Nat) (v : Word) (h : s.Near j) : (s.window uid op q v).1.Near j := by
  unfold Chip.window Chip.readDstat Chip.markQ Chip.flushQ
  cases op <;> grind [!Chip.head_near, !Chip.push_near, !Chip.popHead_near, !Chip.popWord_near, !Chip.rewindQ_near, !Chip.releaseQ_near,
    !Chip.flush_near, !Chip.skipQ_near, !Chip.onDev_near]

theorem Chip.abandonAll_near (uid : Nat) (h : s.Near j) : (s.abandonAll uid).Near j :=
  Chip.foldl_near (fun _ o ht => Chip.withThr_near o.q (·.abandon o) (Chip.abandon_near o ht)) _ h

/-! ### The registrar -/

theorem Chip.withdraw_near (n : Nat) (h : s.Near j) : (s.withdraw n).Near j := by
  unfold Chip.withdraw
  grind [!Chip.withThr_near, !Chip.freeCellsOf_near, !Chip.onDev_near]

theorem Chip.dispatch_near (n : Nat) (h : s.Near j) : (s.dispatch n).Near j := by
  unfold Chip.dispatch
  grind [!Chip.withThr_near, !Chip.seal_near, !Chip.onDev_near]

theorem Chip.disown_near (n : Nat) (h : s.Near j) : (s.disown n).Near j := by
  have freed (t : Chip) (c : Nat) (ht : t.Near j) : (t.freeCell c).Near j := (t.freeCell_poolWork c).cores.near ht
  unfold Chip.disown
  grind [!Chip.withThr_near, !Chip.withdraw_near, !Chip.onDev_near]

theorem Chip.ownSeam_near (n : Nat) (h : s.Near j) : (s.ownSeam n).Near j := by
  unfold Chip.ownSeam
  grind [!Chip.disown_near]

theorem Chip.retire_near (x : Promise) (status reason : Nat) (result : Word) (h : s.Near j) : (s.retire x status reason result).Near j := by
  unfold Chip.retire Chip.complete
  grind [!Chip.withThr_near, !Chip.seal_near, !Chip.ownSeam_near, !Chip.onDev_near]

theorem Chip.breach_near (x : Promise) (reason : Nat) (h : s.Near j) : (s.breach x reason).Near j := Chip.retire_near x 2 reason 0 h

theorem Chip.breachAll_near (xs : List Promise) (reason : Nat) (h : s.Near j) : (s.breachAll xs reason).Near j :=
  Chip.foldl_near (fun _ x ht => Chip.breach_near x reason ht) xs h

theorem Chip.engineFault_near (n : Nat) (h : s.Near j) : (s.engineFault n).Near j := by
  unfold Chip.engineFault
  grind [!Chip.breach_near, !Chip.onDev_near]

theorem Chip.admEngineReset_near (n : Nat) (h : s.Near j) : (s.admEngineReset n).Near j := by
  unfold Chip.admEngineReset
  grind [!Chip.breach_near, !Chip.withdraw_near, !Chip.onDev_near, !Chip.mk_near]

theorem Chip.admDone_near (uid : Nat) (v : Word) (h : s.Near j) : (s.admDone uid v).Near j := by
  unfold Chip.admDone Chip.afterEnd
  grind [!Chip.retire_near, !Chip.dispatch_near, !Chip.onDev_near]

theorem Chip.thermWing_near (w : Fin 2) (h : s.Near j) : (s.thermWing w).Near j := by
  unfold Chip.thermWing
  dsimp only
  split
  · exact h
  · exact Chip.foldl_near (fun _ _ ht => Chip.breachAll_near _ 4 ht) _ h

theorem Chip.thermEval_near (h : s.Near j) : s.thermEval.Near j := by
  unfold Chip.thermEval Chip.thermStart
  grind [!Chip.thermWing_near, !Chip.onDev_near]

theorem Chip.ownWrite_near (c : Nat) (h : s.Near j) : (s.ownWrite c).Near j := Chip.foldl_near (fun _ n ht => Chip.ownSeam_near n ht) _ h

theorem Chip.admFabricReset_near (h : s.Near j) : s.admFabricReset.Near j := by
  have breached := Chip.breachAll_near s.dev.adm.proms 5 h
  unfold Chip.admFabricReset
  exact Chip.onDev_near _ (Chip.foldl_near (fun _ n ht => Chip.disown_near n ht) _ breached)

end

end Sys2Proof.Machine
end

section
/-! What a core's own accesses leave of the shadowed writes: stores, fetches, exceptions and returns (R74, R77, R141). -/

namespace Sys2Proof.Machine

open Reg

section
variable (c : Core)

theorem Core.dcStore_shadows (a n v : Nat) : (c.dcStore a n v).shadows = c.shadows := rfl

theorem Core.dcDrop_shadows (a : Nat) : (c.dcDrop a).shadows = c.shadows := rfl

theorem Core.icDrop_shadows (a : Nat) : (c.icDrop a).shadows = c.shadows := rfl

theorem Core.sbMark_shadows (i : Nat) (w : SbWay) : (c.sbMark i w).shadows = c.shadows := rfl

theorem Core.sbAcked_shadows : c.sbAcked.shadows = c.shadows := rfl

theorem Core.applyShadow_shadows (w : Shadow) : (c.applyShadow w).shadows = c.shadows := by
  unfold Core.applyShadow
  split <;> rfl

theorem Core.restore_shadows (epc st ecause eval : Word) (rc : Option Word) : (c.restore epc st ecause eval rc).shadows = c.shadows :=
  c.wr_shadows 31 (c.sp + (if rc.isSome then 20 else 16))

theorem Core.repKeep_shadows (n : Nat) : (c.repKeep n).shadows = c.shadows := rfl

theorem Core.fenceA_shadows : c.fenceA.shadows = c.shadows := rfl

/-- A core all whose writes have taken effect. -/
theorem Core.near_of_nil {c : Core} (h : c.shadows = []) : c.Near := by
  intro w hw
  rw [h] at hw
  cases hw

end

section
variable {s t : Chip} {j : CoreId} (e : CoreId)

/-! ### Stores on their way -/

theorem Chip.writePieces_near (v : Nat) (ps : List (Nat × Nat)) (h : s.Near j) : (s.writePieces e v ps).1.Near j := by
  induction ps generalizing s v with
  | nil => exact h
  | cons p ps ih =>
    unfold Chip.writePieces Chip.asks
    grind [!Chip.memWrite_near, !Chip.onDev_near, !Chip.onCore_kept, Core.dcStore_shadows]

theorem Chip.arrWrite_near (a size : Nat) (v : Word) (h : s.Near j) : (s.arrWrite e a size v).1.Near j := Chip.writePieces_near e _ _ h

theorem Chip.countIn_near (km : Bool) (ev n : Nat) (h : s.Near j) : (s.countIn e km ev n).Near j := by
  unfold Chip.countIn
  grind [!Chip.onDev_near]

theorem Chip.count_near (ev n : Nat) (h : s.Near j) : (s.count e ev n).Near j := Chip.countIn_near e _ ev n h

theorem Chip.farPerform_near (st : SbEntry) (h : s.Near j) : (s.farPerform e st).1.Near j := by
  unfold Chip.farPerform
  grind [!Chip.clearResv_near, !Chip.mk_near, !Chip.onCore_kept, Core.dcStore_shadows]

theorem Chip.dropPost_near (st : SbEntry) (h : s.Near j) : (s.dropPost e st).Near j := Chip.onCore_kept e _ (fun _ => rfl) h

theorem Chip.perform_near (st : SbEntry) (h : s.Near j) : (s.perform e st).1.Near j := by
  unfold Chip.perform
  grind [!Chip.arrWrite_near, !Chip.farPerform_near, !Chip.dropPost_near, !Chip.onDev_near]

theorem Chip.sendStore_near (i : Nat) (h : s.Near j) : (s.sendStore e i).Near j := by
  unfold Chip.sendStore
  grind [!Chip.perform_near, !Chip.onCore_kept, Core.sbMark_shadows]

theorem Chip.drain1_near (h : s.Near j) : (s.drain1 e).Near j := by
  unfold Chip.drain1
  grind [!Chip.sendStore_near, !Chip.onCore_kept, Core.sbAcked_shadows]

theorem Chip.drainN_near (n : Nat) (h : s.Near j) : (s.drainN e n).Near j := by
  induction n generalizing s with
  | zero => exact h
  | succ n ih => exact ih (Chip.drain1_near e h)

theorem Chip.drainAll_near (h : s.Near j) : (s.drainAll e).Near j := Chip.onCore_kept e _ (fun _ => rfl) (Chip.drainN_near e _ h)

theorem Chip.sendOlder_near (o : Nat) (h : s.Near j) : (s.sendOlder e o).Near j := by
  unfold Chip.sendOlder
  dsimp only
  split
  · exact h
  · exact Chip.onCore_kept e _ Core.sbAcked_shadows (Chip.foldl_near (fun _ i ht => Chip.sendStore_near e i ht) _ (Chip.onDev_near _ h))

/-! ### Fetches -/

theorem Chip.parityOk_near (a : Nat) (line : Option (List Byte)) (drop : Core → Nat → Core) (kept : ∀ c : Core, (drop c a).shadows = c.shadows)
    (h : s.Near j) : (s.parityOk e a line drop).1.Near j := by
  unfold Chip.parityOk
  grind [!Chip.onDev_near, !Chip.onCore_kept]

theorem Chip.arrFill_near (a : Nat) (h : s.Near j) : (s.arrFill e a).1.Near j := by
  unfold Chip.arrFill
  grind [!Chip.bulkRead_near]

theorem Chip.icKeep_near (a : Nat) (data : List Byte) (h : s.Near j) : (s.icKeep e a data).Near j := by
  unfold Chip.icKeep
  exact Chip.onDev_near _ (Chip.onCore_kept e _ (fun _ => rfl) h)

theorem Chip.farFetch_near (a : Nat) (h : s.Near j) : (s.farFetch e a).1.Near j := by
  unfold Chip.farFetch
  grind [!Chip.count_near, !Chip.icKeep_near, !Chip.mk_near]

theorem Chip.countPort_near (a : Nat) (h : s.Near j) : (s.countPort e a).Near j := by
  unfold Chip.countPort
  grind [!Chip.count_near]

theorem Chip.atPort_near (a : Nat) (h : s.Near j) : (s.atPort e a).Near j := Chip.countPort_near e a h

theorem Chip.arrFetch_near (a : Nat) (h : s.Near j) : (s.arrFetch e a).1.Near j := by
  have read := Chip.memRead_near (canon e a) 4 (Chip.atPort_near e a h)
  unfold Chip.arrFetch
  split
  next t v ht =>
    rw [ht] at read
    grind [!Chip.arrFill_near, !Chip.icKeep_near]
  next => exact read

theorem Chip.tokens_near (ts : List Token) (h : s.Near j) : (s.tokens e ts).Near j := by
  unfold Chip.tokens
  grind [!Chip.onDev_near]

theorem Chip.unwait_near (h : s.Near j) : (s.unwait e).Near j := by
  unfold Chip.unwait Chip.sysToken
  grind [!Chip.tokens_near]

theorem Chip.enterLine_near (a : Nat) (ok : Bool) (h : s.Near j) : (s.enterLine e a ok).Near j := by
  unfold Chip.enterLine
  grind [!Chip.tokens_near, !Chip.onDev_near]

theorem Chip.fetch_near (a : Nat) (h : s.Near j) : (s.fetch e a).1.Near j := by
  have found := Chip.parityOk_near e a (if fetchCached e s.cores[e] a then s.cores[e].icLine a else none) Core.icDrop
    (fun c => c.icDrop_shadows a) h
  unfold Chip.fetch
  grind [!Chip.arrFetch_near, !Chip.farFetch_near, !Chip.count_near, !Chip.enterLine_near]

/-! ### Exceptions -/

theorem Chip.frameFault_near (h : s.Near j) : (s.frameFault e).Near j := by
  unfold Chip.frameFault
  grind [!Chip.onCore_kept, !Chip.onDev_near]

theorem Chip.pushFrame_near (o i : Nat) (ws : List Word) (h : s.Near j) : (s.pushFrame e o i ws).1.Near j := by
  induction ws generalizing s i with
  | nil => exact h
  | cons w ws ih =>
    unfold Chip.pushFrame Chip.frameTokens
    grind [!Chip.countPort_near, !Chip.arrWrite_near, !Chip.tokens_near]

theorem Chip.of_pushFrame {o i : Nat} {ws : List Word} {good : Bool} (pushed : s.pushFrame e o i ws = (t, good)) (h : s.Near j) : t.Near j := by
  have near := Chip.pushFrame_near e o i ws h
  rwa [pushed] at near

theorem Chip.holdCore_near (w : Nat → Wait) (a : Nat) (wake : Bool) (h : s.Near j) : (s.holdCore e w a wake).Near j :=
  Chip.onCore_kept e _ (fun _ => rfl) h

theorem Chip.slotFetch_near (h : s.Near j) : (s.slotFetch e).Near j := by
  unfold Chip.slotFetch
  grind [!Chip.fetch_near, !Chip.frameFault_near, !Chip.holdCore_near]

theorem Chip.vector_near (code : Nat) (h : s.Near j) : (s.vector e code).Near j :=
  Chip.slotFetch_near e (Chip.onCore_kept e _ (fun _ => rfl) h)

theorem Chip.enter_near (x : Entry) (h : s.Near j) : (s.enter e x).Near j := by
  have load (t : Chip) (ht : t.Near j) : (t.onCore e fun c => { c with epc := x.epc, ecause := x.ecause, eval := x.eval }).Near j :=
    Chip.onCore_kept e _ (fun _ => rfl) ht
  unfold Chip.enter
  dsimp only
  have counted := Chip.count_near e 21 1 (Chip.onCore_kept e (fun c => { c with resv := none, wait := .none, tblPair := false }) (fun _ => rfl)
    (Chip.sendOlder_near e s.cores[e].frameOff h))
  split
  · split
    next u hu => exact Chip.frameFault_near e (load _ (Chip.of_pushFrame e hu counted))
    next u hu => exact Chip.vector_near e _ (Chip.onCore_kept e _ (fun c => c.wr_shadows 31 (c.sp - if c.rx then 20 else 16))
        (load _ (Chip.of_pushFrame e hu counted)))
  · exact Chip.frameFault_near e (load _ counted)

theorem Chip.raise_near (x : Cause) (off : BitVec 24) (eval : Word) (sec : Bool) (h : s.Near j) : (s.raise e x off eval sec).Near j :=
  Chip.enter_near e _ (Chip.onCore_near e _ (fun _ _ => Core.near_of_nil rfl) h)

theorem Chip.raiseImprecise_near (h : s.Near j) : (s.raiseImprecise e).Near j := by
  unfold Chip.raiseImprecise
  grind [!Chip.enter_near, !Chip.onCore_kept]

theorem Chip.enterInterrupt_near (p n : Nat) (h : s.Near j) : (s.enterInterrupt e p n).Near j := by
  unfold Chip.enterInterrupt Chip.acceptTokens
  grind [!Chip.tokens_near, !Chip.count_near, !Chip.enter_near, !Chip.onDev_near]

/-! ### Returns -/

theorem Chip.readPieces_near (ps : List (Nat × Nat)) (h : s.Near j) : (s.readPieces e ps).1.Near j := by
  fun_induction Chip.readPieces <;> grind [!Chip.memRead_near]

theorem Chip.frameRead_near (sec : Bool) (i : Nat) (h : s.Near j) : (s.frameRead e sec i).1.Near j := by
  unfold Chip.frameRead Chip.arrRead Chip.frameTokens
  grind [!Chip.atPort_near, !Chip.readPieces_near, !Chip.tokens_near]

theorem Chip.rfeFault_near (x : Cause) (i : Nat) (h : s.Near j) : (s.rfeFault e x i).Near j :=
  Chip.frameFault_near e (Chip.onCore_kept e _ (fun _ => rfl) h)

theorem Chip.popFrame_near (sec : Bool) (is : List Nat) (h : s.Near j) : (s.popFrame e sec is).1.Near j := by
  fun_induction Chip.popFrame <;> grind [!Chip.frameRead_near]

/-- A tail chain (R78). -/
theorem Chip.tailChain_near (p n : Nat) (h : s.Near j) :
    (((((s.onDev (·.accept e p n)).acceptTokens e p n).count e 21 1).count e 22 1).onCore e fun c =>
      { c with ecause := BitVec.ofNat 32 (0x10 + p), eval := BitVec.ofNat 32 n, pri := BitVec.ofNat 5 p, km := true, ie := false }).Near j :=
  Chip.onCore_kept e _ (fun _ => rfl) (Chip.count_near e 22 1 (Chip.count_near e 21 1 (Chip.tokens_near e _ (Chip.onDev_near _ h))))

theorem Chip.rfe_near (sec : Bool) (h : s.Near j) : (s.rfe e sec).Near j := by
  have read := Chip.frameRead_near e sec 1 (Chip.onCore_kept e (fun c => { c with resv := none }) (fun _ => rfl)
    (Chip.sendOlder_near e (s.cores[e].sp.toNat % 0x1000000) h))
  unfold Chip.rfe
  dsimp only
  split
  next t x ht =>
    rw [ht] at read
    exact Chip.rfeFault_near e x 1 read
  next t ht =>
    rw [ht] at read
    exact read
  next t st ht =>
    rw [ht] at read
    split
    · exact Chip.vector_near e _ (Chip.tailChain_near e _ _ read)
    · have popped := Chip.popFrame_near e sec ([0, 2, 3] ++ if st.getLsbD 30 = true then [4] else []) read
      split
      next u x i hu =>
        rw [hu] at popped
        exact Chip.rfeFault_near e x i popped
      next u ws hu =>
        rw [hu] at popped
        exact Chip.onCore_kept e _ (fun c => c.restore_shadows _ _ _ _ _) popped

end

end Sys2Proof.Machine
end

section
/-! What resets and register writes leave of the shadowed writes (R493, R496): a reset core has none. -/

namespace Sys2Proof.Machine

open Reg

theorem Core.rest_near (cur : Bool) (c : Core) : ((Core.rest cur).kept c).Near := Core.near_of_nil rfl

theorem Core.start_near (cur : Bool) (a : Word) (c : Core) : ((Core.start cur a).kept c).Near := Core.near_of_nil rfl

section
variable {s : Chip} {j : CoreId} (e : CoreId)

/-- A core that is given a value without waiting writes has none. -/
theorem Chip.onCore_near_self (f : Core → Core) (hf : ∀ c : Core, (f c).Near) : (s.onCore e f).Near e := by
  unfold Chip.Near
  rw [Chip.onCore_core]
  exact hf _

theorem Chip.mapCores_near (f : Core → Core) (d : Dev) (m : Mem) (kept : ∀ c : Core, (f c).shadows = c.shadows) (h : s.Near j) :
    (Chip.mk (s.cores.map f) m d).Near j := by
  refine h.of_eq ?_
  show ((s.cores.map f)[j.val]).shadows = (s.cores[j.val]).shadows
  rw [Vector.getElem_map]
  exact kept _

/-! ### A core's reset -/

theorem Chip.loseStores_near (h : s.Near j) : (s.loseStores e).Near j := by
  unfold Chip.loseStores
  grind [!Chip.drainN_near, !Chip.onDev_near]

theorem Chip.coreDown_near (h : s.Near j) : (s.coreDown e).Near j := by
  unfold Chip.coreDown
  exact Chip.onDev_near _ (Chip.onCore_near e _ (fun c _ => Core.rest_near _ c) (Chip.loseStores_near e h))

theorem Chip.coreDown_near_self : (s.coreDown e).Near e := by
  unfold Chip.coreDown
  exact Chip.onDev_near _ (Chip.onCore_near_self e _ (Core.rest_near _))

theorem Chip.coreReset_near (h : s.Near j) : (s.coreReset e).Near j := Chip.onDev_near _ (Chip.coreDown_near e h)

theorem Chip.coreReset_near_self : (s.coreReset e).Near e := Chip.onDev_near _ (Chip.coreDown_near_self e)

theorem Chip.halt_near (h : s.Near j) : (s.halt e).Near j := by
  unfold Chip.halt
  exact Chip.onDev_near _ (Chip.onCore_kept e _ (fun _ => rfl) (Chip.tokens_near e _ h))

theorem Chip.release_near (n : Fin 64) (h : s.Near j) : (s.release n).Near j := by
  have started : (s.onCore (eng n) fun c => (Core.start false (s.dev.word (CAB_START (n / 8) (n % 8)))).kept c).Near j :=
    Chip.onCore_near _ _ (fun c _ => Core.start_near _ _ c) h
  unfold Chip.release Chip.leaveReset
  grind [!Chip.halt_near]

/-- What a reset of an engine does after the core's own. -/
theorem Chip.afterReset_near (n : Fin 64) (h : s.Near j) :
    ((((s.abandonAll (0x40 + n.val)).onDev fun d => (d.pmReset n).wdeReload n).admEngineReset n).release n).Near j :=
  Chip.release_near n (Chip.admEngineReset_near n (Chip.onDev_near _ (Chip.abandonAll_near _ h)))

theorem Chip.engineReset_near (n : Fin 64) (h : s.Near j) : (s.engineReset n).Near j := Chip.afterReset_near n (Chip.coreReset_near _ h)

theorem Chip.engineReset_near_self (n : Fin 64) : (s.engineReset n).Near (eng n) := Chip.afterReset_near n (Chip.coreReset_near_self _)

theorem Chip.rstWrite_near (k pulse : Nat) (h : s.Near j) : (s.rstWrite k pulse).Near j := by
  refine Chip.foldl_near (fun t i ht => ?_) _ h
  dsimp only
  split
  · exact Chip.engineReset_near _ ht
  · exact Chip.release_near _ ht

/-! ### The host port and the secure unit -/

theorem Chip.presence_near (h : s.Near j) : s.presence.Near j := by
  unfold Chip.presence
  dsimp only
  split
  · exact Chip.mapCores_near _ _ _ (fun _ => rfl) h
  · split
    · exact Chip.mapCores_near _ _ _ (fun _ => rfl) h
    · exact h

theorem Chip.hmem_near (h : s.Near j) : s.hmem.Near j := by
  unfold Chip.hmem
  grind [!Chip.presence_near, !Chip.onDev_near]

theorem Chip.lten_near (was : Bool) (h : s.Near j) : (s.lten was).Near j := by
  unfold Chip.lten Chip.linkLost
  grind [!Chip.presence_near, !Chip.onDev_near]

theorem Chip.clearArray_near (lo hi : Nat) (h : s.Near j) : (s.clearArray lo hi).Near j := by
  refine Chip.mapCores_near _ _ _ (fun c => ?_) h
  split
  · split <;> rfl
  · rfl

theorem Chip.wipe_near (cause : Nat) (h : s.Near j) : (s.wipe cause).Near j := by
  unfold Chip.wipe Chip.vaultClear
  grind [!Chip.clearArray_near, !Chip.onDev_near]

theorem Chip.lcRequest_near (t : Nat) (h : s.Near j) : (s.lcRequest t).Near j := by
  unfold Chip.lcRequest
  grind [!Chip.wipe_near, !Chip.onDev_near]

theorem Chip.pgate_near (h : s.Near j) : s.pgate.Near j := by
  refine Chip.foldl_near (fun t i ht => ?_) _ h
  unfold Chip.halfOff
  split
  · exact ht
  · exact ht

/-! ### Run control -/

theorem Chip.resume_near (h : s.Near j) : (s.resume e).Near j := by
  have resumed (t : Chip) (ht : t.Near j) :
      (t.onCore e fun c => { c with halted := false, resumed := true, df := if isCur e then c.df else false }).Near j :=
    Chip.onCore_kept e _ (fun _ => rfl) ht
  unfold Chip.resume
  grind [!Chip.tokens_near, !Chip.onDev_near]

theorem Chip.rctl_near (cmd target : Nat) (h : s.Near j) : (s.rctl cmd target).Near j := by
  refine Chip.foldl_near (fun t e ht => ?_) _ h
  split <;> grind [!Chip.resume_near, !Chip.onDev_near]

theorem Chip.setHpc_near (v : Word) (h : s.Near j) : (s.setHpc v).Near j := by
  unfold Chip.setHpc
  grind [!Chip.onCore_kept]

/-! ### Register writes -/

theorem Chip.depotSeam_near (h : s.Near j) : s.depotSeam.Near j := by
  unfold Chip.depotSeam
  grind [!Chip.withAllThr_near, !Chip.onDev_near]

theorem Chip.hookAdm_near (m : Master) (off : Nat) (old v : Word) (h : s.Near j) : (s.hookAdm m off old v).Near j := by
  unfold Chip.hookAdm
  grind [!Chip.thermEval_near, !Chip.admDone_near, !Chip.ownWrite_near, !Chip.onDev_near]

theorem Chip.hookDpt_near (off : Nat) (old v : Word) (h : s.Near j) : (s.hookDpt off old v).Near j := by
  unfold Chip.hookDpt
  grind [!Chip.depotSeam_near, !Chip.flush_near, !Chip.onDev_near]

theorem Chip.hookHpt_near (off : Nat) (old v : Word) (h : s.Near j) : (s.hookHpt off old v).Near j := by
  unfold Chip.hookHpt
  grind [!Chip.lten_near, !Chip.hmem_near, !Chip.onDev_near]

theorem Chip.hookSec_near (off : Nat) (v : Word) (h : s.Near j) : (s.hookSec off v).Near j := by
  unfold Chip.hookSec
  grind [!Chip.lcRequest_near, !Chip.onDev_near]

theorem Chip.hookDbg_near (m : Master) (off : Nat) (old v : Word) (h : s.Near j) : (s.hookDbg m off old v).Near j := by
  unfold Chip.hookDbg
  grind [!Chip.rctl_near, !Chip.setHpc_near, !Chip.onDev_near]

theorem Chip.hookCab_near (k off : Nat) (old v : Word) (h : s.Near j) : (s.hookCab k off old v).Near j := by
  unfold Chip.hookCab
  grind [!Chip.rstWrite_near, !Chip.onDev_near]

theorem Chip.hook_near (m : Master) (a : Nat) (was : Nat → Bool) (old v : Word) (h : s.Near j) : (s.hook m a was old v).Near j := by
  unfold Chip.hook
  dsimp only
  split
  case h_5 => exact Chip.hookAdm_near m _ old v h
  case h_6 => exact Chip.hookDpt_near _ old v h
  case h_9 => exact Chip.hookHpt_near _ old v h
  case h_13 => exact Chip.hookSec_near _ v h
  case h_14 => exact Chip.hookDbg_near m _ old v h
  all_goals grind [!Chip.pgate_near, Chip.hookVlt, !Chip.wipe_near, !Chip.hookCab_near, !Chip.onDev_near]

theorem Chip.storeReg_near (m : Master) (r : RegRow) (a : Nat) (v : Word) (h : s.Near j) : (s.storeReg m r a v).Near j := by
  unfold Chip.storeReg
  grind [!Chip.onDev_near]

theorem Chip.writeReg_near (m : Master) (r : RegRow) (a : Nat) (v : Word) (h : s.Near j) : (s.writeReg m r a v).Near j := by
  have stored := Chip.storeReg_near m r a v h
  unfold Chip.writeReg
  grind [!Chip.hook_near, !Chip.withThr_near]

theorem Chip.regWrite_near (m : Master) (a : Nat) (v : Word) (h : s.Near j) : (s.regWrite m a v).1.Near j := by
  unfold Chip.regWrite Chip.logRefused
  grind [!Chip.writeReg_near, !Chip.onDev_near]

theorem Chip.regRead_near (m : Master) (a : Nat) (h : s.Near j) : (s.regRead m a).1.Near j := by
  unfold Chip.regRead
  grind [!Chip.onDev_near]

end

end Sys2Proof.Machine
end

section
/-! What instructions leave of the shadowed writes: an MTS puts its own three instructions ahead, and each that runs brings them nearer (R64). -/

namespace Sys2Proof.Machine

open Reg

section
variable {s : Chip} {j : CoreId} (e : CoreId)

/-! ### Loads -/

theorem Chip.dcKeep_near (a : Nat) (data : List Byte) (h : s.Near j) : (s.dcKeep e a data).Near j := by
  unfold Chip.dcKeep
  exact Chip.onDev_near _ (Chip.onCore_kept e _ (fun _ => rfl) h)

theorem Chip.farRead_near (a n : Nat) (fill : Bool) (h : s.Near j) : (s.farRead e a n fill).1.Near j := by
  unfold Chip.farRead
  grind [!Chip.count_near, !Chip.dcKeep_near, !Chip.mk_near]

theorem Chip.arrPiece_near (a n : Nat) (fill : Bool) (h : s.Near j) : (s.arrPiece e a n fill).1.Near j := by
  unfold Chip.arrPiece
  grind [!Chip.atPort_near, !Chip.arrFill_near, !Chip.dcKeep_near, !Chip.memRead_near]

theorem Chip.loadPiece_near (a n : Nat) (h : s.Near j) : (s.loadPiece e a n).1.Near j := by
  have found := Chip.parityOk_near e a (if dataCached s.dev e s.cores[e] a then s.cores[e].dcLine a else none) Core.dcDrop
    (fun c => c.dcDrop_shadows a) h
  unfold Chip.loadPiece
  grind [!Chip.farRead_near, !Chip.arrPiece_near, !Chip.count_near]

theorem Chip.loadPieces_near (ps : List (Nat × Nat)) (h : s.Near j) : (s.loadPieces e ps).1.Near j := by
  fun_induction Chip.loadPieces <;> grind [!Chip.loadPiece_near]

theorem Chip.memLoad_near (a size : Nat) (h : s.Near j) : (s.memLoad e a size).1.Near j := by
  unfold Chip.memLoad
  grind [!Chip.loadPieces_near, !Chip.count_near]

/-- An access made once the older stores are. -/
theorem Chip.settled_near (k : Chip → Chip × Got) (hk : ∀ t : Chip, t.Near j → (k t).1.Near j) (h : s.Near j) : (s.settled e k).1.Near j := by
  unfold Chip.settled
  grind [!Chip.drainAll_near]

theorem Chip.ioLoad_near (x : Ctx) (a : Nat) (h : s.Near j) : (s.ioLoad e x a).1.Near j := by
  unfold Chip.ioLoad
  grind [!Chip.regRead_near, !Chip.window_near]

theorem Chip.ioStore_near (x : Ctx) (a : Nat) (v : Word) (h : s.Near j) : (s.ioStore e x a v).1.Near j := by
  unfold Chip.ioStore
  grind [!Chip.regWrite_near, !Chip.window_near]

theorem Chip.load_near (x : Ctx) (a size : Nat) (h : s.Near j) : (s.load e x a size).1.Near j := by
  unfold Chip.load
  split
  · exact Chip.settled_near e _ (fun _ ht => Chip.ioLoad_near e x a ht) h
  · exact Chip.memLoad_near e a size h

/-! ### Stores -/

theorem Chip.farStorePrecise_near (a size : Nat) (v : Word) (h : s.Near j) : (s.farStorePrecise e a size v).1.Near j := by
  unfold Chip.farStorePrecise
  grind [!Chip.count_near, !Chip.farPerform_near]

theorem Chip.countStore_near (a size : Nat) (h : s.Near j) : (s.countStore e a size).Near j := by
  unfold Chip.countStore
  split
  · exact Chip.count_near e 28 1 h
  · exact Chip.foldl_near (fun _ p ht => Chip.countPort_near e p.1 ht) _ h

theorem Chip.storeNow_near (a size : Nat) (v : Word) (h : s.Near j) : (s.storeNow e a size v).1.Near j := by
  unfold Chip.storeNow
  grind [!Chip.countStore_near, !Chip.perform_near, !Chip.onCore_kept]

theorem Chip.storeBuffer_near (a size : Nat) (v : Word) (h : s.Near j) : (s.storeBuffer e a size v).1.Near j := by
  unfold Chip.storeBuffer
  grind [!Chip.drain1_near, !Chip.countStore_near, !Chip.onCore_kept]

theorem Chip.dropOwnResv_near (a : Nat) (h : s.Near j) : (s.dropOwnResv e a).Near j := by
  unfold Chip.dropOwnResv
  refine Chip.onCore_kept e _ (fun c => ?_) h
  split <;> rfl

theorem Chip.store_near (x : Ctx) (a size : Nat) (v : Word) (h : s.Near j) : (s.store e x a size v).1.Near j := by
  have dropped := Chip.dropOwnResv_near e a h
  unfold Chip.store
  split
  · exact Chip.settled_near e _ (fun _ ht => Chip.ioStore_near e x a v ht) h
  · dsimp only
    split
    · exact Chip.settled_near e _ (fun _ ht => Chip.farStorePrecise_near e a size v ht) dropped
    · split
      · exact Chip.storeNow_near e a size v dropped
      · exact Chip.storeBuffer_near e a size v dropped

/-! ### Reservations and atomics -/

theorem Chip.llOp_near (a : Nat) (h : s.Near j) : (s.llOp e a).1.Near j := by
  refine Chip.settled_near e _ (fun t ht => ?_) h
  unfold Chip.llRead
  grind [!Chip.farRead_near, !Chip.arrPiece_near, !Chip.onCore_kept]

theorem Chip.scWrite_near (a : Nat) (v : Word) (h : s.Near j) : (s.scWrite e a v).1.Near j := by
  unfold Chip.scWrite
  grind [!Chip.farStorePrecise_near, !Chip.countPort_near, !Chip.arrWrite_near]

theorem Chip.scOp_near (a : Nat) (v : Word) (h : s.Near j) : (s.scOp e a v).1.Near j := by
  refine Chip.settled_near e _ (fun t ht => ?_) h
  grind [!Chip.scWrite_near, !Chip.onCore_kept, Core.dcDrop_shadows]

theorem Chip.amoMem_near (a : Nat) (f : Word → Word) (h : s.Near j) : (s.amoMem e a f).1.Near j := by
  unfold Chip.amoMem
  grind [!Chip.count_near, !Chip.clearResv_near, !Chip.atPort_near, !Chip.memAtomic_near, !Chip.mk_near]

theorem Chip.amoOp_near (a : Nat) (f : Word → Word) (h : s.Near j) : (s.amoOp e a f).1.Near j := by
  refine Chip.settled_near e _ (fun t ht => ?_) h
  grind [!Chip.amoMem_near, !Chip.dropOwnResv_near, !Chip.onCore_kept, Core.dcDrop_shadows]

/-! ### Lines -/

theorem Chip.invalLine_near (a : Nat) (sel : BitVec 2) (h : s.Near j) : (s.invalLine e a sel).Near j := by
  unfold Chip.invalLine
  grind [!Chip.onCore_kept, !Chip.onDev_near, Core.dcDrop_shadows, Core.icDrop_shadows]

theorem Chip.flushLine_near (a : Nat) (h : s.Near j) : (s.flushLine e a).1.Near j := by
  unfold Chip.flushLine
  split
  · exact h
  · refine Chip.settled_near e _ (fun t ht => ?_) h
    grind [!Chip.onCore_kept, !Chip.onDev_near, Core.dcDrop_shadows]

/-! ### One instruction -/

theorem Chip.accessTokens_near (x : Ctx) (k : TokKind) (a size : Nat) (data : List Word) (g : Got) (h : s.Near j) :
    (s.accessTokens e x k a size data g).Near j := by
  unfold Chip.accessTokens
  grind [!Chip.tokens_near]

theorem Chip.access_near (x : Ctx) (op : Op) (t : DataAcc) (h : s.Near j) : (s.access e x op t).1.Near j := by
  have reached : (s.reach e x op t).1.Near j := by
    unfold Chip.reach
    grind [!Chip.store_near, !Chip.llOp_near, !Chip.scOp_near, !Chip.amoOp_near, !Chip.load_near]
  unfold Chip.access
  grind [!Chip.accessTokens_near]

theorem Chip.retired_near (km : Bool) (op : Op) (h : s.Near j) : (s.retired e km op).Near j :=
  Chip.foldl_near (fun _ ev ht => Chip.countIn_near e km ev 1 ht) _ h

theorem Chip.touched_near (x : Ctx) (t : DataAcc) (h : s.Near j) : (s.touched e x t).Near j := by
  unfold Chip.touched Chip.askHalt
  grind [!Chip.countIn_near, !Chip.onDev_near]

theorem Chip.memOp_near (x : Ctx) (op : Op) (t : DataAcc) (h : s.Near j) : (s.memOp e x op t).1.Near j := by
  unfold Chip.memOp
  grind [!Chip.access_near, !Chip.touched_near, !Chip.retired_near, !Chip.onCore_kept, Op.commit_shadows]

theorem Chip.mfs_near (x : Ctx) (rd : GReg) (sr : BitVec 8) (h : s.Near j) : (s.mfs e x rd sr).1.Near j := by
  unfold Chip.mfs Chip.srLatch Chip.srTokens
  grind [!Chip.tokens_near, !Chip.retired_near, !Chip.onCore_kept, Core.wr_shadows]

theorem Chip.mts_near (x : Ctx) (sr : BitVec 8) (ra : GReg) (h : s.Near j) : (s.mts e x sr ra).1.Near j := by
  unfold Chip.mts Chip.srStore
  grind [!Chip.retired_near, !Chip.onCore_kept, !Chip.onDev_near, Core.applyShadow_shadows, Core.srWrite_shadows]

theorem Chip.afterStores_near (x : Ctx) (op : Op) (f : Chip → Chip) (hf : ∀ t : Chip, t.Near j → (f t).Near j) (h : s.Near j) :
    (s.afterStores e x op f).1.Near j := by
  have done := Chip.settled_near e (fun t => (f t, .val 0)) hf h
  unfold Chip.afterStores
  grind [!Chip.retired_near]

theorem Chip.flushOp_near (x : Ctx) (ra : GReg) (h : s.Near j) : (s.flushOp e x ra).1.Near j := by
  unfold Chip.flushOp Chip.flushed
  grind [!Chip.flushLine_near, !Chip.accessTokens_near, !Chip.retired_near]

theorem Chip.invalOp_near (x : Ctx) (ra : GReg) (sel : BitVec 2) (h : s.Near j) : (s.invalOp e x ra sel).1.Near j := by
  unfold Chip.invalOp
  grind [!Chip.invalLine_near, !Chip.accessTokens_near, !Chip.retired_near]

theorem Chip.sysToken_near (k : TokKind) (data : List Word) (h : s.Near j) : (s.sysToken e k data).Near j := Chip.tokens_near e _ h

theorem Chip.leaveToken_near (by' k : TokKind) (data : List Word) (h : s.Near j) : (s.leaveToken e by' k data).Near j := Chip.tokens_near e _ h

theorem Chip.waittEnd_near (rd : GReg) (t : BitVec 64) (h : s.Near j) : (s.waittEnd e rd t).Near j :=
  Chip.onCore_kept e _ (fun c => c.wr_shadows rd _) (Chip.leaveToken_near e _ _ _ (Chip.onDev_near _ h))

theorem Chip.waits_near (x : Ctx) (h : s.Near j) : (s.wfeOp e x).1.Near j ∧ ∀ rd ra, (s.waittOp e x rd ra).1.Near j := by
  unfold Chip.wfeOp Chip.waittOp
  grind [!Chip.sysToken_near, !Chip.leaveToken_near, !Chip.waittEnd_near, !Chip.retired_near, !Chip.onDev_near]

theorem Chip.sevOp_near (x : Ctx) (op : Op) (scope target : Nat) (h : s.Near j) : (s.sevOp e x op scope target).1.Near j :=
  Chip.afterStores_near e x op _ (fun _ ht => Chip.onDev_near _ (Chip.sysToken_near e _ _ ht)) h

theorem Chip.cxOp_near (x : Ctx) (slot : Fin 8) (rd ra rb : GReg) (i : BitVec 11) (h : s.Near j) : (s.cxOp e x slot rd ra rb i).1.Near j := by
  unfold Chip.cxOp
  grind [!Chip.retired_near, !Chip.onCore_kept, Core.cxRun_shadows]

theorem Chip.regOp_near (x : Ctx) (op : Op) (h : s.Near j) : (s.regOp e x op).1.Near j :=
  Chip.onCore_kept e _ (fun c => op.commit_shadows 0 c) (Chip.retired_near e x.km op h)

theorem Chip.sysOp_near (x : Ctx) (op : Op) (h : s.Near j) : (s.sysOp e x op).1.Near j := by
  cases op
  case mfs rd sr => exact Chip.mfs_near e x rd sr h
  case mts sr ra => exact Chip.mts_near e x sr ra h
  case trap i => exact h
  case bkpt i =>
    show (if s.dev.bkptHalts e then (s, Ran.stop) else (s, Ran.trap .brk s.cores[e].off (i.zeroExtend 32))).1.Near j
    split <;> exact h
  case rfe =>
    show (if x.km then (s.rfe e x.sec, Ran.entered) else (s, Ran.trap (.access 4) s.cores[e].off Op.rfe.encode)).1.Near j
    split
    · exact Chip.rfe_near e x.sec h
    · exact h
  case fenceA => exact Chip.onCore_kept e _ Core.fenceA_shadows (Chip.retired_near e x.km _ h)
  case fenceR => exact Chip.afterStores_near e x _ id (fun _ ht => ht) h
  case inval ra sel => exact Chip.invalOp_near e x ra sel h
  case flush ra => exact Chip.flushOp_near e x ra h
  case wfe => exact (Chip.waits_near e x h).1
  case sev scope t => exact Chip.sevOp_near e x _ scope.toNat t.toNat h
  case sevr scope ra => exact Chip.sevOp_near e x _ scope.toNat _ h
  case waitt rd ra => exact (Chip.waits_near e x h).2 rd ra
  case cx slot rd ra rb i => exact Chip.cxOp_near e x slot rd ra rb i h
  all_goals exact Chip.regOp_near e x _ h

theorem Chip.oneOp_near (x : Ctx) (op : Op) (h : s.Near j) : (s.oneOp e x op).1.Near j := by
  unfold Chip.oneOp
  grind [!Chip.memOp_near, !Chip.sysOp_near]

/-! ### Repeat pairs -/

theorem Chip.repnLoop_near (x : Ctx) (b : Op) (n : Nat) (h : s.Near j) : (s.repnLoop e x b n).1.Near j := by
  fun_induction Chip.repnLoop <;> grind [!Chip.oneOp_near, !Chip.onCore_kept, Core.repDone_shadows, Core.repKeep_shadows]

theorem Chip.repiStep_near (x : Ctx) (b : Op) (n : Nat) (h : s.Near j) : (s.repiStep e x b n).1.Near j := by
  fun_cases Chip.repiStep <;> grind [!Chip.oneOp_near, !Chip.onCore_kept, Core.repDone_shadows, Core.repKeep_shadows]

theorem Chip.effect_near (x : Ctx) (op : Op) (body : Word) (h : s.Near j) : (s.effect e x op body).1.Near j := by
  unfold Chip.effect Chip.repPair
  grind [!Chip.fetch_near, !Chip.repnLoop_near, !Chip.repiStep_near, !Chip.oneOp_near]

/-! ### Around an instruction -/

theorem Core.shadowStep_near {c : Core} (h : c.Near) : c.shadowStep.Near := by
  intro w hw
  obtain ⟨hw, -⟩ := List.mem_filter.mp hw
  obtain ⟨v, hv, rfl⟩ := List.mem_map.mp hw
  exact (Nat.sub_le _ _).trans (h v hv)

/-- An MTS's write waits three instructions (R64). -/
theorem Op.newShadow_left (op : Op) (c : Core) : ∀ w ∈ op.newShadow e c, w.left ≤ 3 := by
  unfold Op.newShadow shadowOf
  grind

theorem Chip.counted_near (ws : List Shadow) (hw : ∀ w ∈ ws, w.left ≤ 3) (h : s.Near j) : (s.counted e ws).Near j := by
  have stepped : (s.onCore e fun c => { c.shadowStep with shadows := c.shadowStep.shadows ++ ws }).Near j :=
    Chip.onCore_near e _ (fun c hc w mem => (List.mem_append.mp mem).elim (Core.shadowStep_near hc w) (hw w)) h
  unfold Chip.counted
  grind [!Chip.drainAll_near]

theorem Chip.traceFetch_near (pc : Nat) (as : List Nat) (h : s.Near j) : (s.traceFetch e pc as).Near j :=
  Chip.foldl_near (fun _ _ ht => Chip.onDev_near _ ht) _ h

theorem Chip.timed_near (km : Bool) (h : s.Near j) : (s.timed e km).Near j := by
  unfold Chip.timed
  split
  · exact h
  · refine Chip.foldl_near (fun t ev ht => ?_) _ h
    grind [!Chip.countIn_near, !Chip.onDev_near]

theorem Chip.haltEffect_near (h : s.Near j) : (s.haltEffect e).Near j := by
  unfold Chip.haltEffect
  grind [!Chip.tokens_near, !Chip.unwait_near, !Chip.halt_near, !Chip.onDev_near]

theorem Chip.faultSeen_near (was : Bool) (h : s.Near j) : (s.faultSeen e was).Near j := by
  unfold Chip.faultSeen
  grind [!Chip.engineFault_near]

theorem Chip.conclude_near (x : Ctx) (op : Op) (body : Word) (c : Core) (r : Ran) (h : s.Near j) : (s.conclude e x op body c r).Near j := by
  have fresh := Op.newShadow_left e op c
  have none : ∀ w ∈ ([] : List Shadow), w.left ≤ 3 := fun w hw => absurd hw List.not_mem_nil
  unfold Chip.conclude
  grind [!Chip.counted_near, !Chip.traceFetch_near, !Chip.haltEffect_near, !Chip.raise_near, !Chip.faultSeen_near, !Chip.holdCore_near,
    !Chip.raiseImprecise_near, !Chip.retired_near, !Chip.halt_near, !Chip.onCore_kept]

theorem Chip.decided_near (t : Chip) (op : Op) (body : Word) (offers : Bool) (r : Ran) (h : s.Near j) (ht : t.Near j) :
    (s.decided e op body offers (t, r)).Near j := by
  unfold Chip.decided
  grind [!Chip.enterInterrupt_near, !Chip.faultSeen_near, !Chip.conclude_near]

theorem Chip.attempt_near (op : Op) (body : Word) (h : s.Near j) : (s.attempt e op body).1.Near j := by
  unfold Chip.attempt
  grind [!Chip.fetch_near, !Chip.timed_near, !Chip.effect_near]

theorem Chip.begin_near (h : s.Near j) : (s.begin e).Near j := by
  unfold Chip.begin
  grind [!Chip.onDev_near]

theorem Chip.fromBoundary_near (op : Op) (body : Word) (offers : Bool) (h : s.Near j) : (s.fromBoundary e op body offers).Near j := by
  unfold Chip.fromBoundary Chip.fetchStop Chip.askHalt
  grind [!Chip.begin_near, !Chip.raiseImprecise_near, !Chip.faultSeen_near, !Chip.drainAll_near, !Chip.haltEffect_near, !Chip.attempt_near,
    !Chip.decided_near, !Chip.onCore_kept, !Chip.onDev_near]

end

end Sys2Proof.Machine
end

section
/-! No consequence of a command puts a write further ahead than three instructions. -/

namespace Sys2Proof.Machine

open Reg

section
variable {s : Chip} {j : CoreId} (e : CoreId)

/-! ### Instructions executed again, fed and stepped -/

theorem Chip.again_near (op : Op) (body : Word) (n : Option Nat) (h : s.Near j) : (s.again e op body n).Near j := by
  cases n with
  | none => exact Chip.fromBoundary_near e op body true h
  | some n =>
    have begun := Chip.begin_near e h
    unfold Chip.again Chip.repnAgain
    grind [!Chip.repnLoop_near, !Chip.conclude_near]

theorem Chip.retry_near (f : Chip → Chip) (hf : ∀ t : Chip, t.Near j → (f t).Near j) (h : s.Near j) : (s.retry e f).Near j := by
  have tried := hf _ (Chip.onCore_kept e (fun c => { c with wait := .none }) (fun _ => rfl) (Chip.onDev_near (·.forget e) h))
  unfold Chip.retry
  grind [!Chip.onDev_near]

theorem Chip.redo_near (h : s.Near j) : (s.redo e).Near j := by
  unfold Chip.redo
  split
  · split
    · exact Chip.retry_near e _ (fun _ ht => Chip.again_near e _ _ _ ht) h
    · exact Chip.retry_near e _ (fun _ ht => Chip.again_near e _ _ _ ht) h
    · exact Chip.retry_near e _ (fun _ ht => Chip.fromBoundary_near e _ _ true ht) h
    · exact Chip.retry_near e _ (fun _ ht => Chip.haltEffect_near e (Chip.faultSeen_near e _ (Chip.slotFetch_near e ht))) h
    · exact h
  · exact h

theorem Chip.interrupt_near (h : s.Near j) : (s.interrupt e).Near j := by
  have ready : (((s.begin e).unwait e).onDev (·.discard e)).Near j := Chip.onDev_near _ (Chip.unwait_near e (Chip.begin_near e h))
  unfold Chip.interrupt Chip.takeImprecise
  grind [!Chip.raiseImprecise_near, !Chip.enterInterrupt_near, !Chip.faultSeen_near]

theorem Chip.fedEffect_near (op : Op) (h : s.Near j) : (s.fedEffect e op).1.Near j := by
  have ready := Chip.onCore_kept e (fun c => { c with impErr := [] }) (fun _ => rfl) (Chip.drainAll_near e h)
  exact Chip.onCore_kept e _ (fun _ => rfl) (Chip.drainAll_near e (Chip.effect_near e fedCtx op 0 ready))

theorem Chip.feed_near (w : Word) (h : s.Near j) : (s.feed w).Near j := by
  unfold Chip.feed Chip.feedWait
  grind [!Chip.tokens_near, !Chip.fedEffect_near, !Chip.onDev_near]

theorem Chip.feedAgain_near (h : s.Near j) : s.feedAgain.Near j := by
  unfold Chip.feedAgain
  grind [!Chip.feed_near, !Chip.onDev_near]

theorem Chip.runNext_near (h : s.Near j) : (s.runNext e).Near j := by
  unfold Chip.runNext
  grind [!Chip.fromBoundary_near, !Chip.conclude_near]

theorem Chip.stepHalt_near (h : s.Near j) : (s.stepHalt e).Near j := by
  unfold Chip.stepHalt
  exact Chip.onDev_near _ (Chip.onCore_kept e _ (fun _ => rfl) (Chip.tokens_near e _ h))

theorem Chip.stepCore_near (h : s.Near j) : (s.stepCore e).Near j := by
  have going : (((s.tokens e [s.cores[e].token .dbgi .resume 0 []]).onCore e fun c => { c with halted := false, resumed := true }).onDev
      (·.released e)).Near j :=
    Chip.onDev_near _ (Chip.onCore_kept e _ (fun _ => rfl) (Chip.tokens_near e _ h))
  unfold Chip.stepCore Chip.askHalt
  grind [!Chip.interrupt_near, !Chip.runNext_near, !Chip.stepHalt_near, !Chip.onDev_near]

/-! ### Accesses the port held -/

theorem Chip.postAnswered_near (id : Nat) (w : SbWay) (h : s.Near j) : (s.postAnswered e id w).Near j := by
  unfold Chip.postAnswered
  exact Chip.onCore_kept e _ (fun _ => rfl) (Chip.onDev_near _ h)

theorem Chip.postAgain_near (id : Nat) (st : SbEntry) (h : s.Near j) : (s.postAgain id e st).Near j := by
  unfold Chip.postAgain
  grind [!Chip.postAnswered_near, !Chip.dropPost_near, !Chip.farPerform_near]

theorem Chip.sink_near (x : Held) (h : s.Near j) : (s.sink x).Near j := by
  unfold Chip.sink
  grind [!Chip.onDev_near]

theorem Chip.heldAgain_near (x : Held) (h : s.Near j) : (s.heldAgain x).Near j := by
  unfold Chip.heldAgain
  grind [!Chip.feedAgain_near, !Chip.redo_near, !Chip.postAgain_near, !Chip.sink_near, !Chip.onDev_near]

theorem Chip.buffersOn_near (h : s.Near j) : s.buffersOn.Near j := by
  refine Chip.foldl_near (fun t n ht => ?_) _ h
  split
  · exact Chip.redo_near _ (Chip.drainN_near _ _ ht)
  · exact ht

theorem Chip.farRise_near (h : s.Near j) : s.farRise.Near j :=
  Chip.feedAgain_near (Chip.buffersOn_near (Chip.foldl_near (fun _ x ht => Chip.heldAgain_near x ht) _ h))

/-! ### Resets -/

theorem Chip.bootStart_near (h : s.Near j) : s.bootStart.Near j := Chip.lten_near _ (Chip.onDev_near _ h)

/-- The cores as a system reset leaves them. -/
theorem bootCores_near (present : Bool) : (bootCores present)[j].Near := by
  unfold bootCores
  by_cases here : 64 = j.val
  · simp only [Fin.getElem_fin, ← here, Vector.getElem_set_self]
    exact Core.near_of_nil rfl
  · simp only [Fin.getElem_fin, Vector.getElem_set_ne _ _ here, Vector.getElem_replicate]
    exact Core.near_of_nil rfl

theorem Chip.systemReset_near (bit : Nat) : (s.systemReset bit).Near j := Chip.bootStart_near (bootCores_near false)

theorem Chip.powerOn_near (keepHold keepDbg : Bool) : (s.powerOn keepHold keepDbg).Near j := bootCores_near false

theorem Chip.curatorReset_near_self : s.curatorReset.Near curator := by
  have started (a : Word) : ((s.coreReset curator).onCore curator fun c => { Core.start true a with present := c.present }).Near curator :=
    Chip.onCore_near_self _ _ fun _ => Core.near_of_nil rfl
  unfold Chip.curatorReset
  dsimp only
  split
  · exact Chip.onDev_near _ (started _)
  · exact Chip.bootStart_near (Chip.onDev_near _ (started _))

theorem Chip.curatorReset_near (h : s.Near j) : s.curatorReset.Near j := by
  have started (a : Word) : ((s.coreReset curator).onCore curator fun c => { Core.start true a with present := c.present }).Near j :=
    Chip.onCore_near _ _ (fun _ _ => Core.near_of_nil rfl) (Chip.coreReset_near _ h)
  unfold Chip.curatorReset
  dsimp only
  split
  · exact Chip.onDev_near _ (started _)
  · exact Chip.bootStart_near (Chip.onDev_near _ (started _))

theorem Chip.unitsBack_near (h : s.Near j) : s.unitsBack.Near j := by
  have arrays (l : List Nat) (keep : Nat → Bool) (lo hi : Nat → Nat) (t : Chip) (ht : t.Near j) :
      (l.foldl (fun t k => if keep k then t else t.clearArray (lo k) (hi k)) t).Near j :=
    Chip.foldl_near (fun u k hu => by
      split
      · exact hu
      · exact Chip.clearArray_near _ _ hu) _ ht
  have scratches := arrays (List.range 8) (fun k => s.dev.pwr.ret.getLsbD (16 + k)) (fun k => 0x2000000 + 0x40000 * k)
    (fun k => 0x2000000 + 0x40000 * (k + 1)) _ (arrays (List.range 16) (fun k => s.dev.pwr.ret.getLsbD k) halfAddr (fun k => halfAddr (k + 1)) s h)
  unfold Chip.unitsBack Chip.vaultClear
  grind [!Chip.wipe_near, !Chip.clearArray_near, !Chip.onDev_near]

theorem Chip.comeUp_near (h : s.Near j) : s.comeUp.Near j := Chip.bootStart_near (Chip.onDev_near _ h)

theorem Chip.exitStart_near (late : Bool) (h : s.Near j) : (s.exitStart late).Near j := by
  unfold Chip.exitStart
  grind [!Chip.powerOn_near, !Chip.comeUp_near, !Chip.unitsBack_near, !Chip.onDev_near]

theorem Chip.advance_near (h : s.Near j) : s.advance.Near j := by
  unfold Chip.advance Chip.entryDone
  grind [!Chip.exitStart_near, !Chip.onDev_near]

theorem Chip.sysReset_near (bit : Nat) (h : s.Near j) : (s.sysReset bit).Near j := by
  unfold Chip.sysReset
  grind [!Chip.systemReset_near, !Chip.onDev_near]

theorem Chip.belowEngines_near (h : s.Near j) : s.belowEngines.Near j := by
  unfold Chip.belowEngines
  exact Chip.onDev_near _ (Chip.foldl_near (fun _ n ht => Chip.resume_near (eng n) ht) _ h)

theorem Chip.setLevel_near (l : Nat) (h : s.Near j) : (s.setLevel l).Near j := by
  unfold Chip.setLevel Chip.belowFull
  grind [!Chip.belowEngines_near, !Chip.resume_near, !Chip.onDev_near]

theorem Chip.dbgReset_near (h : s.Near j) : s.dbgReset.Near j := Chip.onDev_near _ (Chip.setLevel_near 0 h)

end

end Sys2Proof.Machine
end

section
/-! What the other units' own doings leave of the depot: all of it. -/

namespace Sys2Proof.Machine

open Reg

section
variable (d : Dev)

theorem Dev.on_dpt (f : Fld) : (d.on f).dpt = d.dpt := rfl

theorem Dev.off_dpt (f : Fld) : (d.off f).dpt = d.dpt := rfl

theorem Dev.bumpSat_dpt (f : Fld) (n m : Nat) : (d.bumpSat f n m).dpt = d.dpt := rfl

theorem Dev.emit_dpt (o : Out) : (d.emit o).dpt = d.dpt := rfl

theorem Dev.later_dpt (t : Todo) : (d.later t).dpt = d.dpt := rfl

theorem Dev.logHw_dpt (a : Nat) (old : Word) : (d.logHw a old).dpt = d.dpt := by
  unfold Dev.logHw Dev.log
  dsimp only
  split <;> rfl

theorem Dev.foldl_dpt {α : Type} {f : Dev → α → Dev} (h : ∀ d x, (f d x).dpt = d.dpt) (l : List α) : (l.foldl f d).dpt = d.dpt := by
  induction l generalizing d with
  | nil => rfl
  | cons x l ih => exact (ih (f d x)).trans (h d x)

/-! ### The safe state and the pins -/

theorem Dev.espiHwWire_dpt (b : Nat) (v : Bool) : (d.espiHwWire b v).dpt = d.dpt := by
  unfold Dev.espiHwWire Dev.espiWires
  grind [Dev.putBit, Dev.put_dpt, Dev.emit_dpt]

theorem Dev.padHold_dpt (cur : Bool) : (d.padHold cur).dpt = d.dpt := by
  unfold Dev.padHold
  split <;> rfl

theorem Dev.faultRecord_dpt (code hint : Nat) (at? : Option (Nat × Word × Word)) : (d.faultRecord code hint at?).dpt = d.dpt := by
  unfold Dev.faultRecord
  rw [Dev.logHw_dpt]
  split <;> rfl

theorem Dev.safeReset_dpt : d.safeReset.dpt = d.dpt := by
  unfold Dev.safeReset
  grind [Dev.later_dpt]

theorem Dev.safeState_dpt (code hint : Nat) (at? : Option (Nat × Word × Word)) : (d.safeState code hint at?).dpt = d.dpt := by
  have onCur (d : Dev) (f : Cur → Cur) : (d.onCur f).dpt = d.dpt := rfl
  unfold Dev.safeState
  grind [Dev.on_dpt, Dev.faultRecord_dpt, Dev.padHold_dpt, Dev.espiHwWire_dpt, Dev.safeReset_dpt]

/-! ### The host port -/

theorem Dev.farAlloc_dpt (l : FarLine) : (d.farAlloc l).dpt = d.dpt := by
  unfold Dev.farAlloc Dev.farWriteBack
  grind [Dev.farRemove, Dev.tick1, Dev.emit_dpt]

theorem Dev.farLine_dpt (a : Nat) (own : Bool) : (d.farLine a own).1.dpt = d.dpt := by
  unfold Dev.farLine
  grind [Dev.hostAsked, Dev.tick1]

theorem Dev.farLoad_dpt (a n : Nat) : (d.farLoad a n).1.dpt = d.dpt := by
  unfold Dev.farLoad
  grind [!Dev.farLine_dpt, Dev.farAlloc_dpt, Dev.hostAsked, Dev.tick1]

theorem Dev.farStore_dpt (a n : Nat) (v : Word) : (d.farStore a n v).1.dpt = d.dpt := by
  unfold Dev.farStore
  grind [!Dev.farLine_dpt, Dev.farAlloc_dpt, Dev.hostAsked, Dev.hostPost, Dev.tick1, Dev.emit_dpt]

theorem Dev.loseWrite_dpt (a : Nat) : (d.loseWrite a).dpt = d.dpt := by
  unfold Dev.loseWrite
  grind [Dev.on_dpt, Dev.put_dpt, Dev.bumpSat_dpt]

theorem Dev.farWakeWire_dpt : d.farWakeWire.dpt = d.dpt := by
  unfold Dev.farWakeWire
  grind [Dev.espiHwWire_dpt]

/-! ### Rings -/

theorem Dev.cqCount_dpt (c : Nat) (imm : Bool) : (d.cqCount c imm).dpt = d.dpt := by
  unfold Dev.cqCount Dev.cqMessage Dev.msix
  grind [Dev.setCq, Dev.onRng, Dev.onHpt, Dev.emit_dpt]

theorem Dev.writeRecord_dpt (c : Nat) (rec : List Byte) (imm : Bool) : (d.writeRecord c rec imm).dpt = d.dpt := by
  unfold Dev.writeRecord
  dsimp only
  rw [Dev.cqCount_dpt]
  rfl

theorem Dev.finish_dpt (x : Desc) (rec : List Byte) : (d.finish x rec).dpt = d.dpt := by
  unfold Dev.finish
  split
  · rfl
  · split
    · rfl
    · rw [Dev.writeRecord_dpt]
      rfl

theorem Dev.ringEnd_dpt (slot status reason eng admAt finish : Nat) (result : Word) :
    (d.ringEnd slot status reason eng admAt finish result).dpt = d.dpt := by
  unfold Dev.ringEnd Dev.refused
  grind [Dev.finish_dpt]

/-! ### Rails -/

theorem Dev.askRail_dpt (r : RailReq) : (d.askRail r).1.dpt = d.dpt := by
  have shown : (d.showAsk r).dpt = d.dpt := by
    unfold Dev.showAsk
    split <;> rfl
  have stopped (d : Dev) (w : Nat) : (d.canaryStop w).dpt = d.dpt := by
    unfold Dev.canaryStop
    exact Dev.foldl_dpt d (fun d _ => d.off_dpt _) _
  unfold Dev.askRail Dev.showBusy
  grind [Dev.on_dpt, Dev.put_dpt]

theorem Dev.admAsk_dpt (w : Fin 2) (i : Nat) : (d.admAsk w i).dpt = d.dpt := by
  unfold Dev.admAsk
  grind [!Dev.askRail_dpt, Dev.onAdm, Dev.on_dpt]

theorem Dev.railTrouble_dpt (w : Fin 2) (f : Fld) : (d.railTrouble w f).dpt = d.dpt := by
  unfold Dev.railTrouble
  grind [Dev.admAsk_dpt, Dev.onAdm, Dev.on_dpt]

theorem Dev.powerAsk_dpt (w : Fin 2) (a : RailAsk) : (d.powerAsk w a).dpt = d.dpt := by
  unfold Dev.powerAsk Dev.powerRailFail
  grind [!Dev.askRail_dpt, Dev.railTrouble_dpt, Dev.onPwr, Dev.setRail, Dev.on_dpt, Dev.put_dpt]

theorem Dev.runDefer_dpt : d.runDefer.dpt = d.dpt := by
  unfold Dev.runDefer
  refine Dev.foldl_dpt _ (fun d x => ?_) _
  split
  · rfl
  · exact Dev.admAsk_dpt _ _ _

/-! ### Power states and debug -/

theorem Dev.sampleItc_dpt : d.sampleItc.dpt = d.dpt := by
  unfold Dev.sampleItc Dev.wakeUp
  grind

theorem Dev.exitRails_dpt : d.exitRails.dpt = d.dpt := by
  unfold Dev.exitRails
  grind [Dev.powerAsk_dpt, Dev.onPwr]

theorem Dev.tamperDone_dpt : d.tamperDone.dpt = d.dpt := by
  unfold Dev.tamperDone
  grind [Dev.logHw_dpt, Dev.bumpSat_dpt, Dev.later_dpt, Dev.secEvent, Dev.putBit, Dev.put_dpt, Dev.onSec]

theorem Dev.exitDone_dpt : d.exitDone.dpt = d.dpt := by
  unfold Dev.exitDone
  grind [Dev.tamperDone_dpt, Dev.onPwr, Dev.put_dpt, Dev.on_dpt, Dev.off_dpt]

theorem Dev.restartGone_dpt : d.restartGone.dpt = d.dpt := by
  unfold Dev.restartGone
  grind [Dev.logHw_dpt, Dev.off_dpt]

theorem Dev.cabTablesLost_dpt : d.cabTablesLost.dpt = d.dpt := by
  have slots (d : Dev) (k : Nat) (l : List Nat) : (l.foldl (fun d i => d.off (CAB_CXCTL_STATE_EFF k i)) d).dpt = d.dpt :=
    Dev.foldl_dpt d (fun d i => d.off_dpt _) l
  unfold Dev.cabTablesLost
  exact (Dev.foldl_dpt _ (fun d k => slots (d.resetRange (CAB_CXTAB k 0 0) (CAB_CXTAB k 8 0)) k _) _).trans rfl

theorem Dev.cmpOff_dpt (f : Fld) : (d.cmpOff f).dpt = d.dpt := by
  unfold Dev.cmpOff
  grind [Dev.logHw_dpt, Dev.put_dpt]

end

end Sys2Proof.Machine
end

section
/-! What a command can set going while every core is in reset: nothing at the depot, unless a core is reset once more. -/

namespace Sys2Proof.Machine

open Reg

/-- The core is in reset and waits for nothing. -/
structure Core.Down (c : Core) : Prop where
  run : c.run = false
  halted : c.halted = false
  wait : c.wait = .none

/-- Every core is in reset, and the depot's own state is p. -/
structure Chip.Unmoved (p : Dpt) (s : Chip) : Prop where
  down : ∀ e : CoreId, s.cores[e].Down
  dpt : s.dev.dpt = p

/-- The same, or some core has been reset. -/
def Chip.UnmovedOrReset (p : Dpt) (s : Chip) : Prop := s.Unmoved p ∨ ∃ j, s.Near j

section
variable {p : Dpt} {s : Chip} (e : CoreId)

theorem Chip.Unmoved.onDev (u : s.Unmoved p) {f : Dev → Dev} (hf : (f s.dev).dpt = s.dev.dpt) : (s.onDev f).Unmoved p :=
  ⟨u.down, hf.trans u.dpt⟩

theorem Chip.Unmoved.mapCores (u : s.Unmoved p) (f : Core → Core) {d : Dev} (m : Mem) (hd : d.dpt = s.dev.dpt)
    (hf : ∀ c : Core, c.Down → (f c).Down) : (Chip.mk (s.cores.map f) m d).Unmoved p := by
  refine ⟨fun e => ?_, hd.trans u.dpt⟩
  show ((s.cores.map f)[e.val]).Down
  rw [Vector.getElem_map]
  exact hf _ (u.down e)

theorem Chip.Unmoved.onCore (u : s.Unmoved p) {f : Core → Core} (hf : ∀ c : Core, c.Down → (f c).Down) : (s.onCore e f).Unmoved p := by
  refine ⟨fun k => ?_, u.dpt⟩
  by_cases here : k = e
  · rw [here, Chip.onCore_core]
    exact hf _ (u.down e)
  · rw [Chip.onCore_other _ _ _ here]
    exact u.down k

theorem Chip.Unmoved.foldl {α : Type} {f : Chip → α → Chip} (hf : ∀ s x, s.Unmoved p → (f s x).Unmoved p) (l : List α) (u : s.Unmoved p) :
    (l.foldl f s).Unmoved p := by
  induction l generalizing s with
  | nil => exact u
  | cons x l ih => exact ih (hf s x u)

theorem Chip.Unmoved.clearResv (u : s.Unmoved p) (line : Nat) : (s.clearResv line).Unmoved p := by
  refine u.mapCores _ _ rfl fun c hc => ?_
  split
  · exact ⟨hc.run, hc.halted, hc.wait⟩
  · exact hc

theorem Chip.Unmoved.clearArray (u : s.Unmoved p) (lo hi : Nat) : (s.clearArray lo hi).Unmoved p := by
  refine u.mapCores _ _ rfl fun c hc => ?_
  split
  · split
    · exact ⟨hc.run, hc.halted, hc.wait⟩
    · exact hc
  · exact hc

/-! ### Cores -/

/-- A core in reset takes up nothing it waited for. -/
theorem Chip.Unmoved.redo (u : s.Unmoved p) : s.redo e = s := by
  have idle : s.ready e = false := by
    unfold Chip.ready
    dsimp only
    rw [(u.down e).run]
    rfl
  unfold Chip.redo
  rw [idle]
  rfl

/-- No halted core, none to step. -/
theorem Chip.Unmoved.stepCore (u : s.Unmoved p) : s.stepCore e = s := by
  unfold Chip.stepCore
  rw [(u.down e).halted]
  rfl

theorem Chip.Unmoved.resume (u : s.Unmoved p) : s.resume e = s := by
  unfold Chip.resume
  rw [(u.down e).halted]
  rfl

theorem Chip.Unmoved.feed (u : s.Unmoved p) (w : Word) : (s.feed w).Unmoved p := by
  have quiet : (s.onDev (·.onDbg fun b => { b with feeding := none })).Unmoved p := u.onDev rfl
  unfold Chip.feed
  dsimp only
  rw [(quiet.down _).halted]
  exact quiet.onDev (f := (·.feedResult 3 1 0 0)) rfl

theorem Chip.Unmoved.feedAgain (u : s.Unmoved p) : s.feedAgain.Unmoved p := by
  unfold Chip.feedAgain
  split
  · exact Chip.Unmoved.feed (u.onDev rfl) _
  · exact u

/-! ### Accesses the port held -/

theorem Chip.Unmoved.postAnswered (u : s.Unmoved p) (id : Nat) (w : SbWay) : (s.postAnswered e id w).Unmoved p :=
  Chip.Unmoved.onCore e (u.onDev rfl) fun _ hc => ⟨hc.run, hc.halted, hc.wait⟩

theorem Chip.Unmoved.farPerform (u : s.Unmoved p) (st : SbEntry) : (s.farPerform e st).1.Unmoved p := by
  have stored : (s.onDev fun d => (d.farStore st.addr.toNat st.size st.data).1).Unmoved p := u.onDev (Dev.farStore_dpt _ _ _ _)
  unfold Chip.farPerform
  dsimp only
  split
  · exact Chip.Unmoved.onCore e (f := (·.dcStore st.addr.toNat st.size st.data.toNat)) (stored.clearResv _)
      fun _ hc => ⟨hc.run, hc.halted, hc.wait⟩
  · exact stored

theorem Chip.Unmoved.postAgain (u : s.Unmoved p) (id : Nat) (st : SbEntry) : (s.postAgain id e st).Unmoved p := by
  have dropped : (s.dropPost e st).Unmoved p :=
    Chip.Unmoved.onCore e (u.onDev (Dev.loseWrite_dpt _ _)) fun _ hc => ⟨hc.run, hc.halted, hc.wait⟩
  have performed := u.farPerform e st
  unfold Chip.postAgain
  split
  · exact u
  · exact u
  · exact Chip.Unmoved.postAnswered e u id _
  · exact Chip.Unmoved.postAnswered e dropped id _
  · exact Chip.Unmoved.postAnswered e performed id _

theorem Chip.Unmoved.sink (u : s.Unmoved p) (x : Held) : (s.sink x).Unmoved p := by
  unfold Chip.sink
  split
  · exact u
  · exact u
  · exact u.onDev (Dev.farLoad_dpt _ _ _)
  · exact u.onDev rfl

theorem Chip.Unmoved.heldAgain (u : s.Unmoved p) (x : Held) : (s.heldAgain x).Unmoved p := by
  have sent : (s.onDev (·.onHpt fun h => { h with sending := if x.wake then some x.addr else none })).Unmoved p := u.onDev rfl
  unfold Chip.heldAgain
  split
  · exact u
  · refine Chip.Unmoved.onDev ?_ rfl
    cases x.who with
    | core e =>
      have again : (Chip.redo _ e).Unmoved p := (sent.redo e).symm ▸ sent
      exact iteInduction (motive := Chip.Unmoved p) (fun _ => sent.feedAgain) fun _ => again
    | post e st => exact Chip.Unmoved.postAgain e sent _ _
    | sunk _ => exact sent.sink x

theorem Chip.Unmoved.farRise (u : s.Unmoved p) : s.farRise.Unmoved p := by
  have held : (s.dev.hpt.held.foldl Chip.heldAgain s).Unmoved p := u.foldl (fun _ x v => v.heldAgain x) _
  have buffers (t : Chip) (v : t.Unmoved p) : t.buffersOn.Unmoved p := by
    refine v.foldl (fun t n v => ?_) _
    rw [(v.down (eng n)).wait]
    exact v
  exact (buffers _ held).feedAgain

/-! ### Power states -/

theorem Chip.Unmoved.wipe (u : s.Unmoved p) (cause : Nat) : (s.wipe cause).Unmoved p := by
  have asked : (s.onDev (·.onSec fun c => { c with wipe := cause })).Unmoved p := u.onDev rfl
  unfold Chip.wipe
  dsimp only
  split
  · exact asked
  · exact (asked.clearArray 0x3000000 0x3080000).onDev (Dev.restartGone_dpt _)

theorem Chip.Unmoved.unitsBack (u : s.Unmoved p) : s.unitsBack.Unmoved p := by
  have arrays (l : List Nat) (keep : Nat → Bool) (lo hi : Nat → Nat) (t : Chip) (v : t.Unmoved p) :
      (l.foldl (fun t k => if keep k then t else t.clearArray (lo k) (hi k)) t).Unmoved p :=
    v.foldl (fun t k v => by
      split
      · exact v
      · exact v.clearArray _ _) _
  have scratches := arrays (List.range 8) (fun k => s.dev.pwr.ret.getLsbD (16 + k)) (fun k => 0x2000000 + 0x40000 * k)
    (fun k => 0x2000000 + 0x40000 * (k + 1)) _ (arrays (List.range 16) (fun k => s.dev.pwr.ret.getLsbD k) halfAddr (fun k => halfAddr (k + 1)) s u)
  unfold Chip.unitsBack Chip.vaultClear
  grind [!Chip.Unmoved.wipe, !Chip.Unmoved.clearArray, !Chip.Unmoved.onDev, Dev.onHpt, Dev.cabTablesLost_dpt]

/-! ### What settles -/

theorem Chip.UnmovedOrReset.onDev (u : s.UnmovedOrReset p) {f : Dev → Dev} (hf : (f s.dev).dpt = s.dev.dpt) : (s.onDev f).UnmovedOrReset p :=
  u.imp (fun v => v.onDev hf) fun ⟨j, h⟩ => ⟨j, Chip.onDev_near f h⟩

/-- A cut-off of the debugger resumes no core, since none is halted. -/
theorem Chip.Unmoved.dbgReset (u : s.Unmoved p) : s.dbgReset.Unmoved p := by
  have cut (d : Dev) (ns : List (Fin 64)) (l : List Nat) :
      ((ns.foldl (fun d n => l.foldl (fun d c => d.cmpOff (DBG_CMP_CTL_ACTION n c)) d) d).cmpOff DBG_CTL_EMUSLEEP).dpt = d.dpt :=
    (Dev.cmpOff_dpt _ _).trans (Dev.foldl_dpt d (fun d n => Dev.foldl_dpt d (fun d c => d.cmpOff_dpt _) l) ns)
  have below (t : Chip) (v : t.Unmoved p) : t.belowEngines.Unmoved p := by
    have resumed := v.foldl (f := fun t n => t.resume (eng n)) (fun t n v => (v.resume (eng n)).symm ▸ v) engines
    unfold Chip.belowEngines
    exact resumed.onDev (cut _ _ _)
  have full (t : Chip) (v : t.Unmoved p) : t.belowFull.Unmoved p := by
    unfold Chip.belowFull
    rw [v.resume]
    exact v.onDev (Dev.foldl_dpt _ (fun d c => d.cmpOff_dpt _) _)
  have lowered : (s.onDev (·.onDbg fun b => { b with level := 0 })).Unmoved p := u.onDev rfl
  unfold Chip.dbgReset
  refine Chip.Unmoved.onDev ?_ rfl
  unfold Chip.setLevel
  dsimp only
  split
  · exact full _ (below _ lowered)
  · exact lowered

/-- An exit from Off powers the cores on anew; one from another state leaves them in reset. -/
theorem Chip.Unmoved.exitStart (u : s.Unmoved p) (late : Bool) : (s.exitStart late).UnmovedOrReset p := by
  have shown : (s.onDev (·.setWakesrc (s.dev.get PWR_STAT_STATE) late)).Unmoved p := u.onDev rfl
  have woken (t : Chip) (v : t.Unmoved p) : (t.onDev fun d => (d.exitStat (s.dev.get PWR_STAT_STATE)).hfoscStart).Unmoved p := v.onDev rfl
  have back (t : Chip) (v : t.Unmoved p) : (if s.dev.get PWR_STAT_STATE = 3 then t.unitsBack else t).Unmoved p := by
    split
    · exact v.unitsBack
    · exact v
  have noted (t : Chip) (v : t.UnmovedOrReset p) : (if late then t.onDev (·.on PWR_ISTAT_LATE) else t).UnmovedOrReset p := by
    split
    · exact v.onDev rfl
    · exact v
  unfold Chip.exitStart
  refine noted _ ?_
  split
  · exact .inr ⟨curator, Chip.onDev_near _ (Chip.comeUp_near (Chip.powerOn_near _ _))⟩
  · exact .inl (woken _ (back _ shown))

theorem Chip.Unmoved.entryDone (u : s.Unmoved p) : s.entryDone.UnmovedOrReset p := by
  unfold Chip.entryDone
  have slept (t : Nat) : (s.onDev fun d =>
      let d := (((d.put PWR_STAT_STATE t).put PWR_STAT_PHASE 0).put PWR_STAT_TARGET 0).off PWR_STAT_BUSY
      if d.emulated then d else d.hfoscStop).Unmoved p :=
    u.onDev (by dsimp only; split <;> rfl)
  dsimp only
  split
  · exact (slept _).exitStart true
  · exact .inl (slept _)

theorem Chip.Unmoved.advance (u : s.Unmoved p) : s.advance.UnmovedOrReset p := by
  have asked : (if s.dev.pwr.railsUp then s else s.onDev Dev.exitRails).Unmoved p := by
    split
    · exact u
    · exact u.onDev (Dev.exitRails_dpt _)
  unfold Chip.advance
  dsimp only
  split
  · split
    · exact .inl u
    · exact u.entryDone
  · split
    · split
      · exact .inl u
      · exact iteInduction (motive := Chip.UnmovedOrReset p) (fun _ => .inl asked) fun _ => .inl (asked.onDev (Dev.exitDone_dpt _))
    · exact .inl u

theorem Chip.sysReset_cases (bit : Nat) : s.sysReset bit = s ∨ ∀ j, (s.sysReset bit).Near j := by
  unfold Chip.sysReset
  dsimp only
  split
  · exact .inl rfl
  · right
    intro j
    split
    · exact Chip.onDev_near _ (Chip.systemReset_near bit)
    · exact Chip.systemReset_near bit

theorem Chip.foldl_near_of_mem {α : Type} {j : CoreId} {f : Chip → α → Chip} (hf : ∀ t x, t.Near j → (f t x).Near j) {x : α}
    (hx : ∀ t, (f t x).Near j) {l : List α} (hm : x ∈ l) : (l.foldl f s).Near j := by
  induction hm generalizing s with
  | head l => exact Chip.foldl_near hf l (hx s)
  | tail y _ ih => exact ih

theorem Chip.fabricReset_near {j : CoreId} (h : s.Near j) : s.fabricReset.Near j := by
  unfold Chip.fabricReset
  refine Chip.onDev_near _ (Chip.foldl_near (fun _ n ht => Chip.release_near n ht) _ (Chip.onDev_near _ ?_))
  refine Chip.foldl_near (fun t n ht => ?_) _ (Chip.admFabricReset_near h)
  exact Chip.onDev_near _ (Chip.onCore_kept _ _ (fun _ => rfl) (Chip.coreReset_near _ ht))

theorem Chip.fabricReset_near_self : s.fabricReset.Near (eng 0) := by
  have first : (0 : Fin 64) ∈ engines := by decide
  unfold Chip.fabricReset
  refine Chip.onDev_near _ (Chip.foldl_near (fun _ n ht => Chip.release_near n ht) _ (Chip.onDev_near _ ?_))
  refine Chip.foldl_near_of_mem (fun t n ht => ?_) (fun t => ?_) first
  · exact Chip.onDev_near _ (Chip.onCore_kept _ _ (fun _ => rfl) (Chip.coreReset_near _ ht))
  · exact Chip.onDev_near _ (Chip.onCore_kept _ _ (fun _ => rfl) (Chip.coreReset_near_self _))

theorem Chip.UnmovedOrReset.handle (u : s.UnmovedOrReset p) (t : Todo) : (s.handle t).UnmovedOrReset p := by
  rcases u with u | ⟨j, h⟩
  · cases t with
    | safeState code hint => exact .inl (u.onDev (f := (·.safeState code hint none)) (Dev.safeState_dpt _ _ _ _))
    | rise => exact .inl u.farRise
    | hostLine l => exact .inl (u.clearResv l)
    | engineReset n c => exact .inr ⟨_, Chip.engineReset_near_self n⟩
    | ringEnd _ slot status reason eng admAt finish result =>
      exact .inl (u.onDev (f := (·.ringEnd slot status reason eng admAt finish result)) (Dev.ringEnd_dpt _ _ _ _ _ _ _ _))
    | sysReset bit =>
      rcases s.sysReset_cases bit with same | reset
      · exact .inl (same.symm ▸ u : (s.sysReset bit).Unmoved p)
      · exact .inr ⟨curator, reset curator⟩
    | fabReset => exact .inr ⟨_, Chip.fabricReset_near_self⟩
    | curReset => exact .inr ⟨_, Chip.curatorReset_near_self⟩
    | dbgReset => exact .inl u.dbgReset
    | feed w => exact .inl (u.feed w)
    | step e => exact .inl ((u.stepCore e).symm ▸ u : (s.stepCore e).Unmoved p)
  · refine .inr ⟨j, ?_⟩
    cases t with
    | safeState code hint => exact Chip.onDev_near _ h
    | rise => exact Chip.farRise_near h
    | hostLine l => exact Chip.clearResv_near l h
    | engineReset n c => exact Chip.engineReset_near n h
    | ringEnd _ slot status reason eng admAt finish result => exact Chip.onDev_near _ h
    | sysReset bit => exact Chip.sysReset_near bit h
    | fabReset => exact Chip.fabricReset_near h
    | curReset => exact Chip.curatorReset_near h
    | dbgReset => exact Chip.dbgReset_near h
    | feed w => exact Chip.feed_near w h
    | step e => exact Chip.stepCore_near e h

theorem Chip.UnmovedOrReset.handleAll (n : Nat) (u : s.UnmovedOrReset p) : (s.handleAll n).UnmovedOrReset p := by
  induction n generalizing s with
  | zero => exact u.onDev rfl
  | succ n ih =>
    unfold Chip.handleAll
    split
    · exact u
    · exact ih (Chip.UnmovedOrReset.handle (u.onDev rfl) _)

theorem Chip.UnmovedOrReset.settle (u : s.UnmovedOrReset p) : s.settle.UnmovedOrReset p := by
  have defers (d : Dev) : ((d.runDefer.sampleItc).farWakeWire).dpt = d.dpt := by
    rw [Dev.farWakeWire_dpt, Dev.sampleItc_dpt, Dev.runDefer_dpt]
  have ready := (u.handleAll 4096).onDev (f := fun d => (d.runDefer.sampleItc).farWakeWire) (defers _)
  refine Chip.UnmovedOrReset.handleAll 4096 ?_
  rcases ready with v | ⟨j, h⟩
  · exact v.advance
  · exact .inr ⟨j, Chip.advance_near h⟩

end

end Sys2Proof.Machine
end

section
/-! HEAD, BODY and LAST (O28). An item sealed into an empty queue is staged for a cursor that already stands behind its first cell, so its link is
read from the pool, and the second cell becomes the one it names. -/

namespace Sys2Proof.Machine

open Reg

/-- A core in reset with a write four instructions ahead, which none has made. -/
def farCore : Core := { Core.rest false with shadows := [⟨.db, 0, 4⟩] }

theorem farCore_not_near : ¬ farCore.Near := fun h => absurd (h ⟨.db, 0, 4⟩ (by decide)) (by decide)

/-- The device at rest with the depot on, 15 words of an item of 16 open on queue 0, and that queue's cursor at the first word of a second
cell. -/
def behind : Dev :=
  let d := (((Dev.rest ⟨Vector.replicate 4 0, 0⟩).put DPT_CTL_EN_EFF 1).put DPT_POOL_SIZE_EFF 1)
  let d := { d with
    pwr := { d.pwr with parked := false }
    rails := Vector.replicate 2 { on := true, mv := 800, lower := 800, since := 0, bad := false }
    dpt := { d.dpt with opens := [⟨0x40, 0, false, 7, 16, List.replicate 15 0, [0, 1]⟩], walk := 2 } }
  d.setQueue 0 { DQueue.empty with cursor := ⟨0, 15⟩ }

def behindChip : Chip := { cores := Vector.replicate 65 farCore, mem := ⟨[], [], []⟩, dev := behind }

/-- The same after the item's last word. -/
def sealedBehind : Chip := behindChip.push 0x40 0 0 true

theorem behind_down (e : CoreId) : behindChip.cores[e] = farCore := Vector.getElem_replicate ..

theorem sealedBehind_cores : sealedBehind.cores = behindChip.cores := by decide +kernel

theorem sealedBehind_calm : Calm sealedBehind.dev :=
  ⟨by decide +kernel, by decide +kernel, by decide +kernel, by decide +kernel, by decide +kernel⟩

/-- The second cell is the one that the unwritten link names. -/
theorem sealedBehind_items : (sealedBehind.dev.queue 0).items = [⟨[0, 0], 0, 7, 16, false⟩] := by decide +kernel

theorem sealedBehind_not_near (j : CoreId) : ¬ sealedBehind.Near j := by
  unfold Chip.Near
  rw [sealedBehind_cores, behind_down]
  exact farCore_not_near

/-- Whatever else a device with these cores is on its way to, it cannot settle as the sealed one with another queue 0: what a core in reset does
not stop leaves the depot, and what resets a core leaves it without the far write. -/
theorem sealedBehind_queue {t : Chip} (same : SameCores behindChip t) (settled : sealedBehind.settle = t.settle) :
    (t.dev.queue 0).items = [⟨[0, 0], 0, 7, 16, false⟩] := by
  have down (e : CoreId) : t.cores[e].Down := by
    rcases same e with h | h <;> rw [h, behind_down] <;> exact ⟨rfl, rfl, rfl⟩
  have unmoved : t.settle.UnmovedOrReset t.dev.dpt := Chip.UnmovedOrReset.settle (.inl ⟨down, rfl⟩)
  rw [← settled, Chip.settle_of_calm sealedBehind_calm] at unmoved
  rcases unmoved with ⟨-, dpt⟩ | ⟨j, near⟩
  · unfold Dev.queue
    rw [← dpt]
    exact sealedBehind_items
  · exact absurd near (sealedBehind_not_near j)

theorem behind_items : (behindChip.dev.queue 0).items = [] := by decide +kernel

/-- The item as the statement has it sealed. -/
def sealedItem : DItem := { cells := [0, 1].take (cellsFor 16), freed := 0, tag := 7, len := 16, launch := false }

theorem exec_last {s : State} {m : Sender} {q : Fin 1024} {v : Word} {uid : Nat} (h : s.chip.wields m .last q = some uid) :
    exec (.last m q v) s = s.leaves (s.chip.push uid q v true) :=
  congrArg s.leaves (Chip.rowWindow_written h rfl v)

theorem State.leaves_inj {s : State} {t u : Chip} (h : s.leaves t = s.leaves u) : t.settle = u.settle :=
  congrArg State.chip (Host.Outcome.next.inj h)

/-- Refutes O28: the item's first cell has been written without its link, the queue is empty, and its cursor stands behind that cell. -/
theorem not_queuePushes : ¬ Obligations.QueuePushes := by
  intro h
  obtain ⟨-, -, -, -, -, -, -, last, -⟩ := h ⟨behindChip, []⟩ (.core 0) 0 0 0x40 ⟨0x40, 0, false, 7, 16, List.replicate 15 0, [0, 1]⟩
  obtain ⟨t, left, ⟨-, items⟩, -, -, -, same⟩ := last rfl (by decide +kernel) (by decide +kernel) rfl
  have stands : (t.dev.queue 0).items = (behindChip.dev.queue 0).items ++ [sealedItem] := items (.inr behind_items)
  have events := behindChip.thresholdSeen_events 0 t
  rw [exec_last (uid := 0x40) rfl] at left
  have settled : sealedBehind.settle = (behindChip.thresholdSeen 0 t).settle := State.leaves_inj left
  have cores : SameCores behindChip (behindChip.thresholdSeen 0 t) := by
    unfold SameCores
    rw [events.cores]
    exact same
  have queue := sealedBehind_queue cores settled
  rw [events.queue, stands, behind_items] at queue
  exact absurd queue (by decide)

end Sys2Proof.Machine
end

section
/-! What the depot's work leaves of the registrar (R248, R263): its own state, and the registers of its block. -/

namespace Sys2Proof.Machine

open Reg

/-! ### The registrar's part of the device -/

/-- The registrar's own state with the words of its block. -/
@[irreducible] def Dev.registrar (d : Dev) : Adm × (Fin 0x10000 → Word) := (d.adm, fun a => d.word (0x50000 + a.val))

section
variable {d t : Dev}

theorem Dev.registrar_of (adm : t.adm = d.adm) (words : ∀ a, a / 0x10000 = 0x05 → t.word a = d.word a) : t.registrar = d.registrar := by
  unfold Dev.registrar
  exact Prod.ext adm (funext fun a => words _ (by omega))

theorem Dev.registrar_of_regs (adm : t.adm = d.adm) (regs : t.regs = d.regs) : t.registrar = d.registrar :=
  Dev.registrar_of adm fun _ _ => by unfold Dev.word; rw [regs]

theorem Dev.adm_of_registrar (h : t.registrar = d.registrar) : t.adm = d.adm := by
  unfold Dev.registrar at h
  exact congrArg Prod.fst h

theorem Dev.word_of_registrar (h : t.registrar = d.registrar) {a : Nat} (block : a / 0x10000 = 0x05) : t.word a = d.word a := by
  unfold Dev.registrar at h
  have word : t.word (0x50000 + a % 0x10000) = d.word (0x50000 + a % 0x10000) :=
    congrFun (congrArg Prod.snd h) ⟨a % 0x10000, Nat.mod_lt _ (by decide)⟩
  rwa [show 0x50000 + a % 0x10000 = a by omega] at word

/-- A register of another block. -/
theorem Dev.put_registrar {f : Fld} {v : Nat} (other : f.addr / 0x10000 ≠ 0x05) : (d.put f v).registrar = d.registrar :=
  Dev.registrar_of rfl fun _ ha => Dev.word_put_of_ne fun e => other (e ▸ ha)

theorem Dev.tick1_registrar (d : Dev) : d.tick1.registrar = d.registrar := Dev.registrar_of_regs rfl rfl

theorem Dev.setQueue_registrar (d : Dev) (q : Nat) (x : DQueue) : (d.setQueue q x).registrar = d.registrar := Dev.registrar_of_regs rfl rfl

theorem Dev.event_registrar (d : Dev) (n : Nat) : (d.event n).registrar = d.registrar := by
  unfold Dev.event
  split
  · exact Dev.put_registrar (by decide)
  · exact Dev.registrar_of_regs rfl rfl

theorem Dev.conflict_registrar (d : Dev) (uid a n : Nat) : (d.conflict uid a n).registrar = d.registrar := by
  have counted (v : Nat) : (d.put (GAL_CONF_COUNT (a / 0x200000 % 8) uid) v).registrar = d.registrar := by
    refine Dev.put_registrar ?_
    show (0x71000 + 0x200 * (a / 0x200000 % 8) + 0x4 * uid) / 0x10000 ≠ 0x05
    omega
  unfold Dev.conflict
  split
  · exact (Dev.tick1_registrar _).trans (counted _)
  · rfl

theorem Dev.countCe_registrar (d : Dev) (a : Nat) : (d.countCe a).registrar = d.registrar := Dev.put_registrar (by split <;> decide)

theorem Dev.countUe_registrar (d : Dev) (a : Nat) : (d.countUe a).registrar = d.registrar := by
  unfold Dev.countUe Dev.on Dev.bumpSat
  dsimp only
  split <;> split <;> repeat rw [Dev.put_registrar (by decide)]

end

/-! ### Accesses to the pool -/

section
variable (s : Chip)

theorem Chip.fetch64_registrar (a : Nat) : (s.fetch64 a).1.dev.registrar = s.dev.registrar := by
  unfold Chip.fetch64
  dsimp only
  split
  · rfl
  · exact s.dev.countCe_registrar a
  · exact s.dev.countUe_registrar a
  · split
    · exact (Dev.countUe_registrar _ a).trans s.dev.tick1_registrar
    · exact (Dev.countCe_registrar _ a).trans s.dev.tick1_registrar
    · exact s.dev.tick1_registrar

theorem Chip.memRead_registrar (a n : Nat) : (s.memRead a n).1.dev.registrar = s.dev.registrar := by
  have read := s.fetch64_registrar a
  unfold Chip.memRead
  grind

theorem Chip.memWrite_registrar (p : Port) (a n : Nat) (v : Word) : (s.memWrite p a n v).1.dev.registrar = s.dev.registrar := by
  have read := s.fetch64_registrar a
  have injected (t : Chip) (cur : Bool) (old : BitVec 72) : (t.inject cur a old).dev.registrar = t.dev.registrar := by
    unfold Chip.inject
    split
    · exact Dev.put_registrar (f := GAL_EINJ_ARM) (by decide)
    · rfl
  have taken (t : Chip) : ((t.takeLine p a).clearResv (lineOf a)).dev.registrar = t.dev.registrar := by
    unfold Chip.takeLine
    split <;> rfl
  unfold Chip.memWrite
  grind

theorem Chip.memWrite64_registrar (a v : Nat) : (s.memWrite64 a v).1.dev.registrar = s.dev.registrar := by
  unfold Chip.memWrite64
  split
  · rfl
  split <;> rfl

theorem Chip.asks_registrar (uid a n : Nat) : (s.asks uid a n).dev.registrar = s.dev.registrar := s.dev.conflict_registrar uid a n

theorem Chip.poolLost_registrar (r : Reply) : (s.poolLost r).dev.registrar = s.dev.registrar := by
  unfold Chip.poolLost
  split
  · exact Dev.put_registrar (f := DPT_ISTAT_POOLOFF) (by decide)
  · rfl

theorem Chip.writeLink_registrar (c : Nat) (w : Word) : (s.writeLink c w).dev.registrar = s.dev.registrar := by
  unfold Chip.writeLink
  dsimp only
  rw [Chip.poolLost_registrar, Chip.memWrite_registrar, Chip.asks_registrar]

theorem Chip.writeWords_registrar (a : Nat) (ws : List Word) : (s.writeWords a ws).dev.registrar = s.dev.registrar := by
  induction s, a, ws using Chip.writeWords.induct with
  | case1 s a w0 w1 ws t r written ih =>
    have mem := s.memWrite64_registrar a (w0.toNat + w1.toNat * 2 ^ 32)
    unfold Chip.writeWords
    rw [written] at mem ⊢
    exact ih.trans ((t.poolLost_registrar r).trans mem)
  | case2 s a t short =>
    unfold Chip.writeWords
    split
    · exact (short _ _ _ rfl).elim
    · rfl

theorem Chip.foldl_registrar {α : Type} {f : Chip → α → Chip} (h : ∀ s x, (f s x).dev.registrar = s.dev.registrar) (l : List α) :
    (l.foldl f s).dev.registrar = s.dev.registrar := by
  induction l generalizing s with
  | nil => rfl
  | cons x l ih => exact (ih (f s x)).trans (h s x)

theorem Chip.writeCells_registrar (ws : List Word) (cs js : List Nat) : (s.writeCells ws cs js).dev.registrar = s.dev.registrar := by
  have burst (t : Chip) (a n : Nat) : (t.burst a n).dev.registrar = t.dev.registrar := by
    unfold Chip.burst
    split <;> rfl
  exact Chip.foldl_registrar s (fun t _ => (burst _ _ _).trans ((Chip.writeWords_registrar _ _ _).trans (t.asks_registrar _ _ _))) js

theorem Chip.freeCell_registrar (c : Nat) : (s.freeCell c).dev.registrar = s.dev.registrar := by
  have joined (t : Chip) (p : Dpt) : (t.onDev fun d => { d with dpt := p }).dev.registrar = t.dev.registrar := Dev.registrar_of_regs rfl rfl
  unfold Chip.freeCell
  exact (joined _ _).trans (s.writeLink_registrar c _)

theorem Chip.freeCellsOf_registrar (cs : List Nat) : (s.freeCellsOf cs).dev.registrar = s.dev.registrar :=
  Chip.foldl_registrar s Chip.freeCell_registrar cs

theorem Chip.poolRead_registrar (c i : Nat) : (s.poolRead c i).1.dev.registrar = s.dev.registrar :=
  (Chip.memRead_registrar _ _ _).trans (s.asks_registrar _ _ _)

theorem Chip.poolCell_registrar (c : Nat) (is : List Nat) : (s.poolCell c is).1.dev.registrar = s.dev.registrar := by
  have word (t : Chip) (i : Nat) : (t.poolWord c i).1.dev.registrar = t.dev.registrar := by
    have read := t.poolRead_registrar c i
    unfold Chip.poolWord
    grind
  induction is generalizing s with
  | nil => rfl
  | cons i is ih => exact (ih _).trans (word s i)

/-! ### The depot's own work -/

theorem Chip.enterCell_registrar (q : Nat) (p : DPos) : (s.enterCell q p).1.dev.registrar = s.dev.registrar := by
  have link (b : Nat) : (s.readLink b).1.dev.registrar = s.dev.registrar := by
    have read := s.poolRead_registrar b 15
    unfold Chip.readLink
    grind
  have broken (d : Dev) : ((d.on (DPT_QCFG_LERR q)).on DPT_ISTAT_LERR).registrar = d.registrar := by
    refine (Dev.put_registrar (f := DPT_ISTAT_LERR) (by decide)).trans (Dev.put_registrar ?_)
    show (0x64000 + 0x10 * q) / 0x10000 ≠ 0x05
    omega
  unfold Chip.enterCell
  grind [Chip.onDev_dev, Dev.setQueue_registrar]

theorem Chip.stage_registrar (q : Nat) : (s.stage q).dev.registrar = s.dev.registrar := by
  unfold Chip.stage
  grind [Chip.onDev_dev, Dev.setQueue_registrar, !Chip.enterCell_registrar, !Chip.poolCell_registrar]

theorem Chip.seal_registrar (q tag : Nat) (words : List Word) (cells : List Nat) (launch : Bool) :
    (s.seal q tag words cells launch).dev.registrar = s.dev.registrar := by
  unfold Chip.seal Chip.sealFrom
  grind [Chip.onDev_dev, Dev.setQueue_registrar, !Chip.stage_registrar, !Chip.writeLink_registrar, !Chip.writeCells_registrar, !Chip.freeCellsOf_registrar]

theorem Chip.withThr_registrar (q : Nat) {f : Chip → Chip} (h : (f s).dev.registrar = s.dev.registrar) :
    (s.withThr q f).dev.registrar = s.dev.registrar := by
  unfold Chip.withThr
  dsimp only
  split
  · exact (Dev.event_registrar _ _).trans h
  · exact h

end

end Sys2Proof.Machine
end

section
/-! A record of one cell that the registrar seals into a queue (R246, R248, R263). -/

namespace Sys2Proof.Machine

open Reg

/-! ### The cells a queue reserves -/

/-- The cells reserved on a queue are as before. -/
structure DQueue.Reserves (x y : DQueue) : Prop where
  standing : y.standing = x.standing
  compl : y.compl = x.compl

theorem DQueue.Reserves.refl (x : DQueue) : x.Reserves x := ⟨rfl, rfl⟩

section
variable (s : Chip) (q : Nat)

theorem Chip.enterCell_reserves (p : DPos) : (s.dev.queue q).Reserves ((s.enterCell q p).1.dev.queue q) := by
  rcases s.enterCell_cases q p with h | ⟨u, b, work, ⟨c, h⟩ | h⟩ <;> rw [h]
  · exact .refl _
  · rw [← work.queue q, Chip.onDev_dev, Dev.queue_setQueue_self]
    exact ⟨rfl, rfl⟩
  · simp only [Chip.onDev_dev, Dev.on, Dev.queue_put, Dev.queue_setQueue_self, work.queue q]
    exact ⟨rfl, rfl⟩

theorem Chip.stage_reserves : (s.dev.queue q).Reserves ((s.stage q).dev.queue q) := by
  rcases s.stage_cases q with h | ⟨u, v, w, rfl | rfl, read, h⟩ <;> rw [h]
  · exact .refl _
  all_goals rw [Chip.onDev_dev, Dev.queue_setQueue_self, read.queue q]
  · exact ⟨rfl, rfl⟩
  · exact ⟨(s.enterCell_reserves q _).standing, (s.enterCell_reserves q _).compl⟩

/-- Staging the one cell of the one item of a queue enters no other cell. -/
theorem Chip.stage_single_items {it : DItem} {c : Nat} (items : (s.dev.queue q).items = [it]) (cells : it.cells = [c]) :
    ((s.stage q).dev.queue q).items = [it] := by
  have entered : s.enterCell q (s.dev.queue q).cursor = (s, true) := by
    unfold Chip.enterCell
    dsimp only
    rcases DQueue.cellAt_single items cells (s.dev.queue q).cursor with h | h <;> rw [h]
  rcases s.stage_cases q with h | ⟨u, v, w, way, read, h⟩ <;> rw [h]
  · exact items
  · rw [entered, or_self] at way
    rw [Chip.onDev_dev, Dev.queue_setQueue_self, read.queue q, way]
    exact items

end

/-! ### The sealed record -/

section
variable (s : Chip) (q tag c : Nat) (words : List Word) (launch : Bool)

/-- The queue with the record behind its items, before that is staged. -/
theorem Chip.seal_record (short : words.length ≤ 14) : ∃ v : Chip, s.seal q tag words [c] launch = v.stage q
    ∧ v.dev.queue q = { s.dev.queue q with items := (s.dev.queue q).items ++ [⟨[c], 0, tag, words.length, launch⟩] } := by
  have one : cellsFor words.length = 1 := by
    unfold cellsFor
    omega
  have linked (t : Chip) (l f : Option Nat) : t.PoolWork (match l, f with
      | some c, some f => t.writeLink c (linkTo (some f))
      | _, _ => t) 0 := by
    split
    · exact t.writeLink_poolWork _ _
    · exact .refl t
  have written := s.writeCells_poolWork (headerWord words.length tag :: words) [c] [0]
  have work := written.trans (linked _ ((s.writeCells (headerWord words.length tag :: words) [c] [0]).dev.queue q).cells.getLast? (some c))
  unfold Chip.seal Chip.sealFrom
  dsimp only
  rw [one]
  refine ⟨_, rfl, (Dev.queue_setQueue_self _ _ _).trans ?_⟩
  rw [← work.queue q]
  rfl

/-- It keeps the cells reserved on the queue. -/
theorem Chip.seal_reserves (short : words.length ≤ 14) : (s.dev.queue q).Reserves ((s.seal q tag words [c] launch).dev.queue q) := by
  obtain ⟨v, sealed, put⟩ := s.seal_record q tag c words launch short
  have reserves := v.stage_reserves q
  rw [put] at reserves
  rw [sealed]
  exact ⟨reserves.standing, reserves.compl⟩

theorem Chip.seal_kinds (short : words.length ≤ 14) : ((s.seal q tag words [c] launch).dev.queue q).items.map DItem.kind
    = (s.dev.queue q).items.map DItem.kind ++ [(0, tag, words.length, launch)] := by
  obtain ⟨v, sealed, put⟩ := s.seal_record q tag c words launch short
  have kinds := (v.stage_relinked q).kinds
  rw [put] at kinds
  rw [sealed, kinds]
  exact List.map_append

/-- From Q80 on, and in an empty queue, no link is read and the item is the record's own cell. -/
theorem Chip.seal_items (short : words.length ≤ 14) (plain : 80 ≤ q ∨ (s.dev.queue q).items = []) :
    ((s.seal q tag words [c] launch).dev.queue q).items = (s.dev.queue q).items ++ [⟨[c], 0, tag, words.length, launch⟩] := by
  obtain ⟨v, sealed, put⟩ := s.seal_record q tag c words launch short
  have items := congrArg DQueue.items put
  rw [sealed]
  rcases plain with high | empty
  · rw [v.stage_high q high, items]
  · rw [empty, List.nil_append] at items ⊢
    exact v.stage_single_items q items rfl

end

end Sys2Proof.Machine
end

section
/-! Writes of the registrar's registers (R245, R250): RESULT, DONE and a profile's CTL. -/

namespace Sys2Proof.Machine

open Reg

theorem Chip.takes_adm (s : Chip) (m : Sender) (a : Nat) (v : Word) : (s.takes m a v).dev.adm = s.dev.adm := by
  have logged (d : Dev) (a : Nat) (old req stored : Word) (origin flags : Nat) : (d.log a old req stored origin flags).adm = d.adm := by
    unfold Dev.log
    dsimp only
    split <;> rfl
  unfold Chip.takes Chip.storeReg
  split
  · dsimp only
    split
    · exact logged _ _ _ _ _ _ _
    · rfl
  · rfl

section
variable {s : Chip} {m : Sender} {a i : Nat} {v : Word} {r : RegRow} (hf : findReg a = some (r, i)) (hb : r.back = 0)
include hf hb

/-- A write of a register of ADM outside the SUBMIT page stores its fields and starts what its block does with it. -/
theorem Chip.rowWrite_adm (h : Hears s m a v) (h4 : a % 4 = 0) (block : a / 0x10000 = 0x05) (outside : inSubmit (a % 0x10000) = false) :
    s.rowWrite m a v = (s.takes m a v).hookAdm (s.asMaster m) (a % 0x10000) (s.dev.word a) (r.taken v) := by
  have heeded : s.dev.ignores a (r.taken v) = false := by
    have elsewhere {k : Nat} (other : k / 0x10000 ≠ 0x05) : a ≠ k := fun e => other (e ▸ block)
    unfold Dev.ignores
    dsimp only
    iterate 7 rw [if_neg (elsewhere (by decide))]
  rw [rowWrite_hears h (fun hs => Bool.false_ne_true (outside.symm.trans hs.2)) hf h4, writeReg_takes hf (if_neg fun ht => by omega) heeded, hb,
    Nat.sub_zero]
  unfold Chip.hook
  rw [block]
  rfl

end

/-! ### RESULT and DONE -/

section
variable {s : Chip} {v : Word} {n : Fin 64}

theorem asMaster_engine (s : Chip) (n : Fin 64) : (s.asMaster (.core (eng n))).uid = 0x40 + n.val :=
  if_neg fun h => eng_ne_curator n (Fin.ext (beq_iff_eq.mp h))

/-- Its registers beside the one written say the same of who is owned. -/
theorem Chip.takes_owned {m : Sender} {a i : Nat} {r : RegRow} (hf : findReg a = some (r, i)) (hb : r.back = 0) (ha : ADM_CTL + 0x40 ≤ a) :
    (s.takes m a v).dev.owned n = s.dev.owned n := by
  have own : a ≠ ADM_OWN (n.val / 8) := by
    unfold ADM_CTL at ha
    unfold ADM_OWN
    omega
  have ovf : PRV_OVF ≠ ADM_OWN (n.val / 8) := by
    unfold PRV_OVF ADM_OWN
    omega
  unfold Dev.owned Dev.bit
  rw [Chip.takes_get_of_ne (f := ADM_OWN_OWN_EFF (n.val / 8)) hf hb own ovf]

theorem Chip.takes_running (s : Chip) (m : Sender) (a : Nat) (v : Word) (n : Nat) : (s.takes m a v).dev.running n = s.dev.running n := by
  unfold Dev.running
  rw [Chip.takes_adm]

theorem findReg_result : ∃ r : RegRow, findReg ADM_RESULT = some (r, 0) ∧ r.back = 0 ∧ (⟨31, 0, .wo, 0, 0, .raw⟩ : FldSpec) ∈ r.flds :=
  ⟨_, rfl, rfl, List.mem_singleton_self _⟩

/-- RESULT by an engine goes to the registrar as it is written. -/
theorem Chip.rowWrite_result (h : Hears s (.core (eng n)) ADM_RESULT v) :
    s.rowWrite (.core (eng n)) ADM_RESULT v = (s.takes (.core (eng n)) ADM_RESULT v).onDev (·.admResult (0x40 + n.val) v) := by
  obtain ⟨r, hf, hb, value⟩ := findReg_result
  have whole : r.taken v = v := by
    have taken := RegRow.bits_taken (findReg_sound hf) value rfl v
    rw [bits_whole, bits_whole] at taken
    exact BitVec.eq_of_toNat_eq taken
  rw [Chip.rowWrite_adm hf hb h (by decide) (by decide) (by decide), whole, ← asMaster_engine s n]
  rfl

theorem findReg_done : ∃ r : RegRow, findReg ADM_DONE = some (r, 0) ∧ r.back = 0 ∧ (⟨31, 31, .wo, 0, 0, .raw⟩ : FldSpec) ∈ r.flds
    ∧ (⟨23, 16, .wo, 0, 0, .range 0 31⟩ : FldSpec) ∈ r.flds ∧ (⟨11, 0, .wo, 0, 0, .raw⟩ : FldSpec) ∈ r.flds :=
  ⟨_, rfl, rfl, List.mem_cons_self, List.mem_cons_of_mem _ List.mem_cons_self,
    List.mem_cons_of_mem _ (List.mem_cons_of_mem _ List.mem_cons_self)⟩

/-- What a field of a write takes (R13, R537). -/
theorem RegRow.bits_taken_clamped {r : RegRow} {f : FldSpec} (hr : r.Sound) (hm : f ∈ r.flds) (v : Word) :
    bits (r.taken v) f.hi f.lo = f.clamp.apply (bits v f.hi f.lo) := by
  obtain ⟨hin, hp⟩ := hr
  obtain ⟨⟨hle, hlt⟩, hclamp⟩ := hin f hm
  obtain ⟨u, -, hnew⟩ := foldl_bits_of_mem (step := fun w g => setBits w g.hi g.lo (g.clamp.apply (bits v g.hi g.lo))) hm hp
    (fun g hg hgf w => bits_setBits_of_disjoint (hin g hg).1.1 (hin g hg).1.2 hle hgf.symm) 0
  unfold RegRow.taken
  rw [hnew, bits_setBits hle hlt]
  exact Nat.mod_eq_of_lt (Clamp.apply_lt hclamp (bits_lt v f.hi f.lo))

/-- The launch that a DONE by engine n ends, as its status, its reason and the count it raises tell (R250, R263). -/
def Chip.ends (s : Chip) (n : Nat) (x : Promise) (counter status reason : Nat) (result : Word) : Chip :=
  ((s.onDev (·.bumpSat (ADM_CNT_COUNT counter) 1 0xFFFFFFFF)).retire x status reason result).afterEnd n

/-- DONE by an engine that is owned and runs a launch. -/
theorem Chip.rowWrite_done (h : Hears s (.core (eng n)) ADM_DONE v) {x : Promise} (owned : s.dev.owned n = true)
    (runs : s.dev.running n = some x) : let t := s.takes (.core (eng n)) ADM_DONE v
    s.rowWrite (.core (eng n)) ADM_DONE v = if bits v 11 0 ≠ x.pid then t
      else if v.getLsbD 31 then t.ends n x 10 3 (min (bits v 23 16) 0x1F) 0 else t.ends n x 8 0 0 x.result := by
  obtain ⟨r, hf, hb, fault, cause, pid⟩ := findReg_done
  intro t
  have flag : (r.taken v).getLsbD 31 = v.getLsbD 31 := by
    rw [getLsbD_eq_bits, getLsbD_eq_bits, RegRow.bits_taken (findReg_sound hf) fault rfl]
  have number : bits (r.taken v) 11 0 = bits v 11 0 := RegRow.bits_taken (findReg_sound hf) pid rfl v
  have reason : min (bits (r.taken v) 23 16) 0x1F = min (bits v 23 16) 0x1F := by
    have taken : bits (r.taken v) 23 16 = max 0 (min 31 (bits v 23 16)) :=
      (RegRow.bits_taken_clamped (findReg_sound hf) cause v).trans (Clamp.apply_range (by decide) _)
    omega
  have hooked (u : Chip) (m : Master) (old w : Word) : u.hookAdm m (ADM_DONE % 0x10000) old w = u.admDone m.uid w := rfl
  have ours : (Decidable.decide (0x40 ≤ 0x40 + n.val) && Decidable.decide (0x40 + n.val < 0x80) && t.dev.owned (0x40 + n.val - 0x40)) = true := by
    rw [Nat.add_sub_cancel_left, Chip.takes_owned hf hb (by decide), owned]
    have := n.isLt
    simp
    omega
  rw [Chip.rowWrite_adm hf hb h (by decide) (by decide) (by decide), hooked, asMaster_engine]
  unfold Chip.admDone
  dsimp only
  rw [if_pos ours, Nat.add_sub_cancel_left, Chip.takes_running, runs]
  dsimp only
  rw [number, flag, reason]
  by_cases hp : bits v 11 0 = x.pid
  · rw [if_pos hp, if_neg (not_not_intro hp)]
    cases v.getLsbD 31 <;> rfl
  · rw [if_neg hp, if_pos hp]

end

end Sys2Proof.Machine
end

section
/-! Launches and their ends (R246, R248, R250, R260 to R263). -/

namespace Sys2Proof.Machine

open Reg

/-! ### The end of a promise -/

section
variable (s : Chip)

/-- Cells given back leave the other queues. -/
theorem Chip.withdraw_other (n : Nat) {p : Nat} (other : p ≠ 16 + n) : (s.withdraw n).dev.queue p = s.dev.queue p := by
  unfold Chip.withdraw
  dsimp only
  split
  · rfl
  · rw [(Chip.freeCellsOf_poolWork _ _).queue, Chip.withThr_eq, (Chip.thresholdSeen_events _ _ _).queue]
    exact Dev.queue_setQueue_other _ _ _ other

theorem Chip.disown_other (n : Nat) {p : Nat} (other : p ≠ 16 + n) : (s.disown n).dev.queue p = s.dev.queue p := by
  have taken (t : Chip) (k : Nat) (v : Bool) : (t.onDev (·.setOwned k v)).dev.queue p = t.dev.queue p := rfl
  unfold Chip.disown
  dsimp only
  rw [taken, Chip.withThr_eq, (Chip.thresholdSeen_events _ _ _).queue, ← s.withdraw_other n other]
  split
  · rw [(Chip.freeCell_poolWork _ _).queue]
    exact Dev.queue_setQueue_other _ _ _ other
  · rfl

theorem Chip.ownSeam_other (n : Nat) {p : Nat} (other : p ≠ 16 + n) : (s.ownSeam n).dev.queue p = s.dev.queue p := by
  unfold Chip.ownSeam
  split
  · exact s.disown_other n other
  · rfl

theorem Chip.withdraw_registrar (n : Nat) : (s.withdraw n).dev.registrar = s.dev.registrar := by
  unfold Chip.withdraw
  dsimp only
  split
  · rfl
  · exact (Chip.freeCellsOf_registrar _ _).trans (Chip.withThr_registrar _ _ (Dev.setQueue_registrar _ _ _))

/-- The end of an ownership, but for the bit that shows it. -/
theorem Chip.disown_shown (n : Nat) : ∃ d : Dev, (s.disown n).dev = d.setOwned n false ∧ d.registrar = s.dev.registrar := by
  unfold Chip.disown
  refine ⟨_, rfl, ?_⟩
  dsimp only
  refine (Chip.withThr_registrar _ _ ?_).trans (s.withdraw_registrar n)
  split
  · exact (Chip.freeCell_registrar _ _).trans (Dev.setQueue_registrar _ _ _)
  · rfl

theorem Chip.ownSeam_adm (n : Nat) : (s.ownSeam n).dev.adm = s.dev.adm := by
  unfold Chip.ownSeam
  split
  · obtain ⟨d, shown, same⟩ := s.disown_shown n
    have kept : d.adm = s.dev.adm := Dev.adm_of_registrar same
    rw [shown]
    exact kept
  · rfl

/-- A promise's record goes into the cell reserved for it (R258, R263). -/
theorem Chip.complete_queue {x : Promise} {uid q c : Nat} {cs : List Nat} (src : x.req.src = .queue uid q)
    (compl : (s.dev.queue q).compl = c :: cs) (status reason : Nat) (result : Word) :
    s.complete x status reason result = s.thresholdSeen q ((s.onDev fun d => d.setQueue q { d.queue q with compl := cs }).seal q x.req.prof
      (completionWords x status reason s.dev.tb result) [c] false) := by
  unfold Chip.complete
  rw [src]
  dsimp only
  rw [compl]
  rfl

theorem Chip.complete_registrar (x : Promise) (status reason : Nat) (result : Word) :
    (s.complete x status reason result).dev.registrar = s.dev.registrar := by
  unfold Chip.complete
  split
  · split
    · exact Chip.withThr_registrar _ _ ((Chip.seal_registrar _ _ _ _ _ _).trans (Dev.setQueue_registrar _ _ _))
    · rfl
  · exact Dev.registrar_of_regs rfl rfl

/-- The device once a promise is no longer among the outstanding ones. -/
def Dev.without (d : Dev) (x : Promise) : Dev := (d.onAdm fun a => { a with proms := a.proms.filter (·.order != x.order) }).showOut

theorem Chip.retire_eq (x : Promise) (status reason : Nat) (result : Word) : s.retire x status reason result
    = (((s.onDev (·.without x)).complete x status reason result).ownSeam x.eng).onDev fun d => (d.profSeam x.req.prof).admSeam := rfl

theorem Dev.profSeam_adm (d : Dev) (p : Nat) : (d.profSeam p).adm = d.adm := by
  unfold Dev.profSeam
  split <;> rfl

theorem Dev.admSeam_adm (d : Dev) : d.admSeam.adm = d.adm := by
  unfold Dev.admSeam
  split <;> rfl

theorem Dev.seams_queue (d : Dev) (p q : Nat) : (d.profSeam p).admSeam.queue q = d.queue q := by
  unfold Dev.admSeam Dev.profSeam
  split <;> split <;> rfl

theorem Chip.retire_proms (x : Promise) (status reason : Nat) (result : Word) :
    (s.retire x status reason result).dev.adm.proms = s.dev.adm.proms.filter (·.order != x.order) := by
  have adm := (Chip.ownSeam_adm _ x.eng).trans (Dev.adm_of_registrar ((s.onDev (·.without x)).complete_registrar x status reason result))
  rw [Chip.retire_eq, Chip.onDev_dev, Dev.admSeam_adm, Dev.profSeam_adm, adm]
  rfl

theorem completionWords_length (x : Promise) (status reason finish : Nat) (result : Word) :
    (completionWords x status reason finish result).length = 8 := rfl

/-- The queue that a promise's record goes to. -/
theorem Chip.retire_queue {x : Promise} {uid q c : Nat} {cs : List Nat} (src : x.req.src = .queue uid q)
    (compl : (s.dev.queue q).compl = c :: cs) (other : q ≠ 16 + x.eng) (status reason : Nat) (result : Word) :
    let y := (s.retire x status reason result).dev.queue q
    y.compl = cs ∧ y.items.map DItem.kind = (s.dev.queue q).items.map DItem.kind ++ [(0, x.req.prof, 8, false)]
    ∧ (80 ≤ q → y.items = (s.dev.queue q).items ++ [{ cells := [c], freed := 0, tag := x.req.prof, len := 8, launch := false }]) := by
  intro y
  generalize hu : (s.onDev (·.without x)).onDev (fun d => d.setQueue q { d.queue q with compl := cs }) = u
  have before : u.dev.queue q = { s.dev.queue q with compl := cs } := by
    rw [← hu]
    exact Dev.queue_setQueue_self _ _ _
  have record : y = (u.seal q x.req.prof (completionWords x status reason s.dev.tb result) [c] false).dev.queue q := by
    show (s.retire x status reason result).dev.queue q = _
    rw [Chip.retire_eq, Chip.onDev_dev, Dev.seams_queue, Chip.ownSeam_other _ _ other, (s.onDev (·.without x)).complete_queue src compl,
      (Chip.thresholdSeen_events _ _ _).queue, hu]
    rfl
  have short := (completionWords_length x status reason s.dev.tb result).trans_le (by decide : 8 ≤ 14)
  have reserves := u.seal_reserves q x.req.prof c _ false short
  have kinds := u.seal_kinds q x.req.prof c _ false short
  have items := fun high => u.seal_items q x.req.prof c _ false short (.inl high)
  rw [record]
  rw [before] at reserves kinds items
  exact ⟨reserves.compl, kinds, items⟩

end

/-! ### The start of a launch -/

/-- The launch x of a device has started. -/
def Dev.started (d : Dev) (x : Promise) : Dev :=
  d.onAdm fun a => { a with proms := a.proms.map fun y => if y.order = x.order then { y with start := some d.tb } else y }

/-- Its record goes into the cell that its engine keeps reserved. -/
def Chip.sealLaunch (s : Chip) (n : Nat) (x : Promise) (c : Nat) : Chip :=
  s.thresholdSeen (16 + n) ((s.onDev fun d => d.setQueue (16 + n) { d.queue (16 + n) with standing := none }).seal (16 + n) x.req.prof
    (launchWords x) [c] true)

section
variable (s : Chip) {n : Nat} {x : Promise} {c : Nat}

/-- Nothing starts, or a launch does and its record is sealed. -/
theorem Chip.dispatch_cases (n : Nat) : s.dispatch n = s ∨ ∃ x c, s.dispatch n = (s.onDev (·.started x)).sealLaunch n x c := by
  unfold Chip.dispatch
  split
  · split
    case h_1 x _ c _ _ =>
      split
      · exact .inl rfl
      · exact .inr ⟨x, c, rfl⟩
    case h_2 => exact .inl rfl
  · exact .inl rfl

theorem Chip.dispatch_starts {rest : List Promise} (owned : s.dev.owned n = true) (ready : s.dev.adm.unready.getLsbD n = false)
    (next : s.dev.timeline n = x :: rest) (waits : x.start = none) (cell : (s.dev.queue (16 + n)).standing = some c) :
    s.dispatch n = (s.onDev (·.started x)).sealLaunch n x c := by
  unfold Chip.dispatch
  simp only [owned, ready, next, cell, waits, Bool.not_false, Bool.and_self, if_true, Option.isSome_none, Bool.false_eq_true, if_false]
  rfl

theorem Chip.thresholdSeen_registrar (t : Chip) (q : Nat) : (s.thresholdSeen q t).dev.registrar = t.dev.registrar := by
  unfold Chip.thresholdSeen
  split
  · exact Dev.event_registrar _ _
  · rfl

theorem Chip.sealLaunch_registrar (n : Nat) (x : Promise) (c : Nat) : (s.sealLaunch n x c).dev.registrar = s.dev.registrar := by
  have cleared (u : Chip) (q : Nat) (y : DQueue) : (u.onDev (·.setQueue q y)).dev.registrar = u.dev.registrar := Dev.setQueue_registrar _ _ _
  unfold Chip.sealLaunch
  rw [Chip.thresholdSeen_registrar, Chip.seal_registrar]
  exact cleared s _ _

theorem launchWords_length (args : x.req.args.length = 6) : (launchWords x).length = 12 := by simp [launchWords, args]

/-- The engine's queue then. -/
theorem Chip.sealLaunch_queue (args : x.req.args.length = 6) : let y := (s.sealLaunch n x c).dev.queue (16 + n)
    y.standing = none ∧ y.items.map DItem.kind = (s.dev.queue (16 + n)).items.map DItem.kind ++ [(0, x.req.prof, 12, true)]
    ∧ ((s.dev.queue (16 + n)).items = [] → y.items = [{ cells := [c], freed := 0, tag := x.req.prof, len := 12, launch := true }]) := by
  intro y
  generalize hu : s.onDev (fun d => d.setQueue (16 + n) { d.queue (16 + n) with standing := none }) = u
  have before : u.dev.queue (16 + n) = { s.dev.queue (16 + n) with standing := none } := by
    rw [← hu]
    exact Dev.queue_setQueue_self _ _ _
  have record : y = (u.seal (16 + n) x.req.prof (launchWords x) [c] true).dev.queue (16 + n) := by
    show (s.sealLaunch n x c).dev.queue (16 + n) = _
    unfold Chip.sealLaunch
    rw [(Chip.thresholdSeen_events _ _ _).queue, hu]
  have short := (launchWords_length args).trans_le (by decide : 12 ≤ 14)
  have reserves := u.seal_reserves (16 + n) x.req.prof c (launchWords x) true short
  have kinds := u.seal_kinds (16 + n) x.req.prof c (launchWords x) true short
  have items := fun empty => u.seal_items (16 + n) x.req.prof c (launchWords x) true short (.inr empty)
  rw [record]
  rw [before, launchWords_length args] at kinds items
  rw [before] at reserves
  refine ⟨reserves.standing, kinds, fun empty => (items empty).trans ?_⟩
  rw [empty]
  rfl

end

/-! ### RESULT, deadlines and stubs -/

section
variable {s : Chip} {n : Fin 64} {v : Word}

theorem Dev.admResult_engine (d : Dev) (n : Fin 64) (v : Word) : d.admResult (0x40 + n.val) v = if d.owned n then d.onAdm fun a =>
    { a with proms := a.proms.map fun x => if x.eng = n.val ∧ x.start.isSome = true then { x with result := v } else x } else d := by
  have below : 0x40 + n.val < 0x80 := by omega
  unfold Dev.admResult
  simp only [Nat.add_sub_cancel_left, Nat.le_add_right, below, decide_true, Bool.true_and]

/-- What a deadline that has passed makes of its launch (R261, R262). -/
theorem Chip.deadlinePassed_eq {pid : Nat} {x : Promise} (named : s.dev.adm.proms.find? (·.pid == pid) = some x) :
    s.deadlinePassed pid = if x.req.deadline ≤ s.dev.tb + 66 then s.deadlineBreach x else s := by
  unfold Chip.deadlinePassed Dev.overdue margin
  rw [named]
  simp only [decide_eq_true_eq]

/-- An engine without a promise has an empty timeline. -/
theorem Dev.timeline_empty {d : Dev} (none : ∀ y ∈ d.adm.proms, y.eng ≠ n.val) : d.timeline n = [] := by
  have filtered : d.adm.proms.filter (·.eng == n.val) = [] := List.filter_eq_nil_iff.mpr fun y hy => by simpa using none y hy
  unfold Dev.timeline
  rw [filtered]
  rfl

theorem Chip.stubReady_idle (unready : s.dev.adm.unready.getLsbD n = true) (none : ∀ y ∈ s.dev.adm.proms, y.eng ≠ n.val) :
    s.stubReady n = (s.onDev (·.onAdm fun a => { a with unready := a.unready &&& ~~~(1#64 <<< n.val) })).afterEnd n := by
  have empty : (s.onDev (·.onAdm fun a => { a with unready := a.unready &&& ~~~(1#64 <<< n.val) })).dev.timeline n = [] :=
    Dev.timeline_empty none
  unfold Chip.stubReady
  rw [if_pos unready]
  dsimp only
  rw [empty]
  rfl

end

/-! ### The settled obligation -/

section
variable (s : State) (n : Fin 64) (v : Word)

theorem exec_result : exec (.result (.core (eng n)) v) s = s.leaves (s.chip.rowWrite (.core (eng n)) ADM_RESULT v) := rfl

theorem exec_done : exec (.done (.core (eng n)) v) s = s.leaves (s.chip.rowWrite (.core (eng n)) ADM_DONE v) := rfl

theorem exec_deadlineBreach (pid : BitVec 12) : exec (.deadlineBreach pid) s = s.leaves (s.chip.deadlinePassed pid.toNat) := rfl

theorem exec_stubReady : exec (.stubReady n) s = s.leaves (s.chip.stubReady n) := rfl

end

/-- Settles O34: records by what a seal leaves of its queue, commands by the branch of the registrar's answer they reach. -/
theorem launches : Obligations.Launches := by
  refine ⟨fun s x rest status reason uid q c n cs result => ?records, fun s n v x pid => ?commands⟩
  case records =>
    intro d t u
    refine ⟨s.retire_proms x status reason result, fun src compl other => s.retire_queue src compl other status reason result,
      fun owned ready next waits args cell => ?_⟩
    have starts : u = (s.onDev (·.started x)).sealLaunch n x c := s.dispatch_starts owned ready next waits cell
    obtain ⟨standing, kinds, items⟩ := (s.onDev (·.started x)).sealLaunch_queue (n := n) (c := c) args
    rw [starts]
    exact ⟨standing, kinds, items, congrArg Adm.proms (Dev.adm_of_registrar (Chip.sealLaunch_registrar _ n x c))⟩
  case commands =>
    intro d m tR tD runs named overdue why breached ready
    have result (h : Hears s.chip m ADM_RESULT v) : exec (.result m v) s = s.leaves (tR.onDev (·.admResult (0x40 + n.val) v)) :=
      (exec_result s n v).trans (congrArg s.leaves (Chip.rowWrite_result h))
    have owner : tR.dev.owned n = d.owned n := by
      obtain ⟨r, hf, hb, -⟩ := findReg_result
      exact Chip.takes_owned hf hb (by decide)
    have done (h : Hears s.chip m ADM_DONE v) (run : runs) := (exec_done s n v).trans (congrArg s.leaves (Chip.rowWrite_done h run.1 run.2))
    have deadline (x : Promise) (h : d.adm.proms.find? (·.pid == pid.toNat) = some x) :=
      (exec_deadlineBreach s pid).trans (congrArg s.leaves (Chip.deadlinePassed_eq h))
    refine ⟨fun h run => ?kept, fun h other => ?foreign, fun h run same ok => ?ends, fun h run same fault => ?faults, fun h run other => ?differs,
      fun h late runs => ?reset, fun h late waits => ?breach, fun h soon => ?soon, fun unready none => ?ready, fun stands => ?stands⟩
    case kept => rw [result h, Chip.onDev_congr (Dev.admResult_engine tR.dev n v), owner, run.1]; rfl
    case foreign => rw [result h, Chip.onDev_congr (Dev.admResult_engine tR.dev n v), owner, other]; rfl
    case ends => rw [done h run, if_neg (not_not_intro same), if_neg (Bool.eq_false_iff.mp ok)]; rfl
    case faults => rw [done h run, if_neg (not_not_intro same), if_pos fault]; rfl
    case differs => rw [done h run, if_pos other]
    case reset =>
      rw [deadline x h, if_pos (show x.req.deadline ≤ s.chip.dev.tb + 66 from late)]
      unfold Chip.deadlineBreach
      dsimp only
      rw [if_pos runs]
      rfl
    case breach =>
      rw [deadline x h, if_pos (show x.req.deadline ≤ s.chip.dev.tb + 66 from late)]
      unfold Chip.deadlineBreach
      dsimp only
      rw [if_neg (Bool.eq_false_iff.mp waits)]
      rfl
    case soon => rw [deadline x h, if_neg (show ¬ x.req.deadline ≤ s.chip.dev.tb + 66 from soon)]
    case ready => rw [exec_stubReady, Chip.stubReady_idle unready none]; rfl
    case stands =>
      rw [exec_stubReady]
      exact congrArg s.leaves (if_neg (Bool.eq_false_iff.mp stands))

end Sys2Proof.Machine
end

section
/-! The admission test (R255 to R257): the order of its checks, and what a fit of its search says. -/

namespace Sys2Proof.Machine

open Reg

/-! ### The checks -/

section
variable (d : Dev) (r : Request)

/-- Check 1 of R256 fails: admission is off, or no engine is eligible. -/
def Dev.shut : Bool := !(d.flag ADM_CTL_EN_REQ && d.flag ADM_CTL_EN_EFF) || d.flag ADM_STAT_ENTRY || (d.eligEngines r.prof).isEmpty

/-- Check 2: the profile is not committed. -/
def Dev.uncommitted : Bool := !(d.flag (ADM_CAT_CTL_STATE_REQ r.prof) && d.flag (ADM_CAT_CTL_STATE_EFF r.prof))

/-- Check 3: a buffer is badly placed. -/
def Dev.misplaced : Bool := r.hostBuf || !r.bufs.all d.placed

/-- No room for the promise or for its record. -/
def Dev.crowded : Bool := 4096 ≤ d.adm.proms.length || !(match r.src with
  | .queue _ q => d.canReserve q
  | .ring _ _ => true)

/-- The checks on time, where the others pass: some engine could finish it in time, and the search finds one that does. -/
def Dev.timeChecks : Fit ⊕ Nat :=
  if !(d.eligEngines r.prof).any fun n => d.tb + launchCost (d.newPromise r n).m (d.newPromise r n).g
      (d.ptabPace (engWing n) ((d.usable (engWing n)).getLast?.getD 15)) + margin ≤ r.deadline then .inr 5
  else d.searchFit r (d.eligEngines r.prof)

/-- The order of the checks. -/
theorem Dev.admTest_eq : d.admTest r = if d.shut r then .inr 6 else if d.uncommitted r then .inr 3 else if d.misplaced r then .inr 4
    else if d.crowded r then .inr 7 else d.timeChecks r := rfl

theorem Dev.shut_iff : d.shut r = true
    ↔ d.flag ADM_CTL_EN_REQ = false ∨ d.flag ADM_CTL_EN_EFF = false ∨ d.flag ADM_STAT_ENTRY = true ∨ d.eligEngines r.prof = [] := by
  simp [Dev.shut, or_assoc]

theorem Dev.uncommitted_iff : d.uncommitted r = true
    ↔ d.flag (ADM_CAT_CTL_STATE_REQ r.prof) = false ∨ d.flag (ADM_CAT_CTL_STATE_EFF r.prof) = false := by
  simp [Dev.uncommitted]

theorem Dev.misplaced_iff : d.misplaced r = true ↔ r.hostBuf = true ∨ ∃ b ∈ r.bufs, d.placed b = false := by
  simp only [Dev.misplaced, Bool.or_eq_true, Bool.not_eq_true', List.all_eq_false, Bool.not_eq_true]

theorem Dev.crowded_iff : d.crowded r = true
    ↔ 4096 ≤ d.adm.proms.length ∨ ∃ uid q, r.src = .queue uid q ∧ d.canReserve q = false := by
  unfold Dev.crowded
  cases r.src <;> simp

variable {d r} {f : Fit}

theorem Dev.timeChecks_fit (h : d.timeChecks r = .inl f) : d.searchFit r (d.eligEngines r.prof) = .inl f := by
  unfold Dev.timeChecks at h
  split at h
  · cases h
  · exact h

/-- A fit has passed every check, and it is one that the search finds. -/
theorem Dev.admTest_fit (h : d.admTest r = .inl f) : ¬ d.shut r = true ∧ ¬ d.uncommitted r = true ∧ ¬ d.misplaced r = true
    ∧ ¬ d.crowded r = true ∧ d.searchFit r (d.eligEngines r.prof) = .inl f := by
  rw [Dev.admTest_eq] at h
  split at h
  case isTrue => cases h
  case isFalse shut =>
  split at h
  case isTrue => cases h
  case isFalse uncommitted =>
  split at h
  case isTrue => cases h
  case isFalse misplaced =>
  split at h
  case isTrue => cases h
  case isFalse crowded => exact ⟨shut, uncommitted, misplaced, crowded, Dev.timeChecks_fit h⟩

end

/-! ### The best of several -/

/-- A choice that keeps what it has or takes what it is offered finds one of what it was offered. -/
theorem foldl_choice_mem {α : Type} {f : Option α → α → Option α} (h : ∀ a b, f a b = a ∨ f a b = some b) (l : List α) {a : Option α}
    {x : α} (found : l.foldl f a = some x) : a = some x ∨ x ∈ l := by
  induction l generalizing a with
  | nil => exact .inl found
  | cons b l ih =>
    rcases ih found with chosen | later
    · rcases h a b with kept | taken
      · exact .inl (kept.symm.trans chosen)
      · exact .inr (List.mem_cons.mpr (.inl (Option.some.inj (chosen.symm.trans taken))))
    · exact .inr (List.mem_cons_of_mem b later)

theorem bestFit_choice (a : Option Fit) (b : Fit) : bestFit a b = a ∨ bestFit a b = some b := by
  unfold bestFit
  split
  · exact .inr rfl
  · split
    · exact .inr rfl
    · exact .inl rfl

theorem betterFit_choice (a : Option (Nat × Nat)) (b : Nat × Nat) : betterFit a b = a ∨ betterFit a b = some b := by
  unfold betterFit
  split
  · exact .inr rfl
  · split
    · exact .inr rfl
    · exact .inl rfl

/-- The best fit is one of the fits. -/
theorem bestFit_mem {l : List Fit} {f : Fit} (h : l.foldl bestFit none = some f) : f ∈ l :=
  (foldl_choice_mem bestFit_choice l h).resolve_left (nomatch ·)

section
variable {d : Dev} {r : Request}

/-- The best engine is one of those tried, and its timeline fits. -/
theorem Dev.bestOn_mem {k : TestAt} {ns : List Nat} {b : Nat × Nat} (h : d.bestOn r k ns = some b) :
    b.2 ∈ ns ∧ d.tryOn r k b.2 = some b.1 := by
  have offered : d.bestOn r k ns = (ns.filterMap fun n => (d.tryOn r k n).map (·, n)).foldl betterFit none := by
    rw [List.foldl_filterMap]
    refine congrArg (fun g => ns.foldl g none) (funext fun a => funext fun n => ?_)
    cases d.tryOn r k n <;> rfl
  rw [offered] at h
  obtain ⟨n, hn, tried⟩ := List.mem_filterMap.mp ((foldl_choice_mem betterFit_choice _ h).resolve_left (nomatch ·))
  obtain ⟨finish, ran, rfl⟩ := Option.map_eq_some_iff.mp tried
  exact ⟨hn, ran⟩

/-- A launch is tried on an engine all of whose launches are then in time. -/
theorem Dev.tryOn_inTime {k : TestAt} {n finish : Nat} (h : d.tryOn r k n = some finish) :
    ∀ x ∈ k.finishes k.t (timelineOf (d.adm.proms.filter (·.eng == n) ++ [d.newPromise r n])), x.2 + 66 ≤ x.1.req.deadline := by
  unfold Dev.tryOn at h
  dsimp only at h
  split at h
  case isTrue fits => exact fun x hx => of_decide_eq_true (List.all_eq_true.mp fits x hx)
  case isFalse => cases h

/-! ### The two stages -/

variable {elig : List Nat} {w : Fin 2} {f : Fit}

/-- What stage 1 finds. -/
theorem Dev.stageOne_fit (h : d.stageOne r elig w = some f) : f.eng ∈ elig ∧ engWing f.eng = w ∧ ∃ sp, d.stagePoint w = some sp
    ∧ d.tryOn r (d.testAt w sp d.tb (if f.also.isNone then 1 else 2)) f.eng = some f.finish := by
  unfold Dev.stageOne at h
  split at h
  case h_1 => cases h
  case h_2 sp point =>
    dsimp only at h
    split at h
    case isTrue => cases h
    case isFalse possible =>
      obtain ⟨b, best, rfl⟩ := Option.map_eq_some_iff.mp h
      obtain ⟨among, ran⟩ := Dev.bestOn_mem best
      obtain ⟨eligible, wing⟩ := List.mem_filter.mp among
      refine ⟨eligible, beq_iff_eq.mp wing, sp, point, ?_⟩
      generalize (d.needsCross r w && Decidable.decide (d.get (cmtFld (other w)) < d.get (cmtFld w))) = raise at *
      cases raise
      · exact ran
      · have raised : ((d.usable (other w)).filter (d.get (cmtFld w) ≤ ·)).head?.isNone = false := by simpa using possible
        simp only [if_true, raised]
        exact ran

/-- What stage 2 finds brings the point it was looked for at. -/
theorem Dev.stageTwo_point {i : Nat} (h : d.stageTwo r elig w i = some f) : f.point = i := by
  unfold Dev.stageTwo at h
  dsimp only at h
  split at h
  · cases h
  · split at h
    · cases h; rfl
    · cases h

theorem Dev.fitsAt_point {i : Nat} (h : f ∈ d.fitsAt r elig i) : f.point = i := by
  obtain ⟨w, -, found⟩ := List.mem_filterMap.mp h
  exact Dev.stageTwo_point (Option.ite_none_right_eq_some.mp found).2

/-- A fit that keeps the committed points is one of stage 1. -/
theorem Dev.searchFit_here (h : d.searchFit r elig = .inl f) (keeps : f.point = 16) : ∃ w, d.stageOne r elig w = some f := by
  unfold Dev.searchFit at h
  dsimp only at h
  split at h
  case h_1 best =>
    cases h
    obtain ⟨w, -, found⟩ := List.mem_filterMap.mp (List.mem_of_mem_filter (bestFit_mem best))
    exact ⟨w, found⟩
  case h_2 =>
    split at h
    case h_1 best =>
      cases h
      obtain ⟨fs, among, chosen⟩ := List.exists_of_findSome?_eq_some best
      obtain ⟨i, below, rfl⟩ := List.mem_map.mp among
      have point := Dev.fitsAt_point (List.mem_of_mem_filter (bestFit_mem chosen))
      have := List.mem_range.mp below
      omega
    case h_2 => cases h

end

/-- Settles O33: such a fit is one of stage 1, whose engine's timeline fits with the new launch. -/
theorem admittedPromisesFit : Obligations.AdmittedPromisesFit := by
  intro d r f admitted keeps w line
  obtain ⟨-, -, -, -, found⟩ := Dev.admTest_fit admitted
  obtain ⟨v, one⟩ := Dev.searchFit_here found keeps
  obtain ⟨eligible, rfl, sp, point, ran⟩ := Dev.stageOne_fit one
  exact ⟨eligible, sp, point, Dev.tryOn_inTime ran⟩

end Sys2Proof.Machine
end

section
/-! What requests to the rails and the start of a launch leave of the promises (R248, R257 to R259, R264). -/

namespace Sys2Proof.Machine

open Reg

/-! ### The promises apart from their progress -/

/-- A promise as it was admitted, whatever has become of it since. -/
def Promise.terms (x : Promise) : Promise := { x with start := none, result := 0, railf := false }

/-- The same promises, in the same order, and the same results of the submitters. -/
structure Adm.Keeps (a b : Adm) : Prop where
  proms : b.proms.map Promise.terms = a.proms.map Promise.terms
  results : b.results = a.results

theorem Adm.Keeps.refl (a : Adm) : a.Keeps a := ⟨rfl, rfl⟩

theorem Adm.Keeps.of_eq {a b : Adm} (h : b = a) : a.Keeps b := h ▸ .refl a

theorem Adm.Keeps.trans {a b c : Adm} (h : a.Keeps b) (h' : b.Keeps c) : a.Keeps c :=
  ⟨h'.proms.trans h.proms, h'.results.trans h.results⟩

/-- A mark on some of the promises. -/
theorem Adm.Keeps.of_map {a : Adm} {f : Promise → Promise} (h : ∀ x, (f x).terms = x.terms) :
    a.Keeps { a with proms := a.proms.map f } :=
  ⟨by rw [List.map_map]; exact List.map_congr_left fun x _ => h x, rfl⟩

/-! ### Requests to the rails -/

section
variable (d : Dev)

theorem Dev.askRail_adm (r : RailReq) : (d.askRail r).1.adm = d.adm := by
  have shown : (d.showAsk r).adm = d.adm := by
    unfold Dev.showAsk
    split <;> rfl
  have stopped (t : Dev) (w : Nat) : (t.canaryStop w).adm = t.adm := by
    unfold Dev.canaryStop
    generalize cabsOf w = l
    induction l generalizing t with
    | nil => rfl
    | cons j l ih => exact ih _
  cases en : d.flag SP_RSEQCTL_EN with
  | false => rw [Dev.askRail_of_disabled en]; exact shown
  | true =>
    have admitted : (d.admitAsk r).adm = d.adm := by
      unfold Dev.admitAsk
      split
      · exact (stopped _ _).trans shown
      · exact shown
    rw [Dev.askRail_of_enabled en]
    exact admitted

theorem Dev.admAsk_keeps (w : Fin 2) (i : Nat) : d.adm.Keeps (d.admAsk w i).adm := by
  have asked := d.askRail_adm ⟨w, .point (Fin.ofNat 16 i), .registrar⟩
  unfold Dev.admAsk
  split
  case isFalse => exact .refl _
  case isTrue =>
    show d.adm.Keeps (if (d.askRail ⟨w, .point (Fin.ofNat 16 i), .registrar⟩).2 then _
      else (d.askRail ⟨w, .point (Fin.ofNat 16 i), .registrar⟩).1).adm
    split
    · exact (Adm.Keeps.of_eq asked).trans (.of_map fun x => by split <;> rfl)
    · exact .of_eq asked

theorem Dev.raisePair_keeps (w : Fin 2) : d.adm.Keeps (d.raisePair w).adm := by
  unfold Dev.raisePair
  dsimp only
  split
  · exact (d.admAsk_keeps _ _).trans ⟨rfl, rfl⟩
  · exact ⟨rfl, rfl⟩

end

/-! ### The start of a launch -/

theorem Chip.sealLaunch_adm (s : Chip) (n : Nat) (x : Promise) (c : Nat) : (s.sealLaunch n x c).dev.adm = s.dev.adm :=
  Dev.adm_of_registrar (s.sealLaunch_registrar n x c)

theorem Chip.dispatch_keeps (s : Chip) (n : Nat) : s.dev.adm.Keeps (s.dispatch n).dev.adm := by
  rcases s.dispatch_cases n with idle | ⟨x, c, starts⟩
  · exact .of_eq (congrArg (·.dev.adm) idle)
  · rw [starts, Chip.sealLaunch_adm]
    exact .of_map fun y => by split <;> rfl

/-- It writes no register of the registrar. -/
theorem Chip.dispatch_word (s : Chip) (n : Nat) {a : Nat} (block : a / 0x10000 = 0x05) : (s.dispatch n).dev.word a = s.dev.word a := by
  rcases s.dispatch_cases n with idle | ⟨x, c, starts⟩
  · rw [idle]
  · rw [starts]
    exact Dev.word_of_registrar (Chip.sealLaunch_registrar _ n x c) block

end Sys2Proof.Machine
end

section
/-! Submissions and decisions (R251 to R253, R256 to R258, R263). -/

namespace Sys2Proof.Machine

open Reg

/-! ### The SUBMIT page -/

/-- A write of the SUBMIT page by a core goes to the registrar (R251). -/
theorem Chip.rowWrite_submit {s : Chip} {e : CoreId} {a : Nat} {v : Word} (h : Hears s (.core e) a v)
    (submit : a / 0x10000 = 0x05 ∧ inSubmit (a % 0x10000) = true) :
    s.rowWrite (.core e) a v = s.onDev (·.subWrite (uidOf e) ((a % 0x10000 - 0x800) / 4) v) := by
  have may : s.dev.mayWrite (s.master e) a v = true := h.may
  unfold Chip.rowWrite
  simp only [h.clock, Bool.false_and, Bool.false_eq_true, if_false]
  unfold Chip.whoWrite Chip.regWrite
  dsimp only
  rw [if_neg (by simp [h.listed]), if_neg (by simp [h.on]), if_neg (by simp [may]), if_pos submit]
  rfl

section
variable (s : State) (e : CoreId) (v : Word)

theorem exec_subGo : exec (.subGo (.core e) v) s = s.leaves (s.chip.rowWrite (.core e) ADM_SUB_GO v) := rfl

theorem exec_subRes : exec (.subRes (.core e)) s = s.leaves (s.chip.rowRead (.core e) ADM_SUB_RES) := rfl

theorem exec_admissionDecision : exec .admissionDecision s = s.leaves s.chip.decide := rfl

/-- SUB_GO submits the staged request, unless PEND is set. -/
theorem exec_subGo_hears (h : Hears s.chip (.core e) ADM_SUB_GO v) : exec (.subGo (.core e) v) s = s.becomes (·.subWrite (uidOf e) 14 v) :=
  (exec_subGo s e v).trans (congrArg s.leaves (Chip.rowWrite_submit h (by decide)))

end

theorem Dev.subWrite_pending {d : Dev} {uid i : Nat} {v : Word} (pending : (d.subResult uid).getLsbD 30 = true) :
    d.subWrite uid i v = d := by
  unfold Dev.subWrite
  rw [pending]
  rfl

theorem Dev.subWrite_go {d : Dev} {uid : Nat} {v : Word} (free : (d.subResult uid).getLsbD 30 = false) :
    d.subWrite uid 14 v = (d.submit (d.stagedRequest uid (bits v 9 0))).setResult uid subPend := by
  unfold Dev.subWrite
  rw [free]
  rfl

/-- The input stage with the request in it, or held back behind it. -/
theorem Dev.submit_adm (d : Dev) (r : Request) : d.submit r = { d with adm := { d.adm with
    stage := if d.adm.stage.length < 4 && d.adm.waiting.isEmpty then d.adm.stage ++ [r] else d.adm.stage
    waiting := if d.adm.stage.length < 4 && d.adm.waiting.isEmpty then d.adm.waiting else d.adm.waiting ++ [r] } } := by
  unfold Dev.submit Dev.onAdm
  dsimp only
  split <;> rfl

/-! ### The number of a promise -/

/-- The numbers that are tried from p on. -/
def nthPid (p : Nat) : Nat → Nat
  | 0 => p
  | i + 1 => (p + i + 1) % 4096

theorem nthPid_succ (p i : Nat) : nthPid ((p + 1) % 4096) i = nthPid p (i + 1) := by
  cases i with
  | zero => rfl
  | succ i => simp only [nthPid]; omega

theorem nthPid_injOn (p : Nat) : Set.InjOn (nthPid p) {i | i < 4096} := by
  intro i hi j hj same
  simp only [Set.mem_ofPred_eq] at hi hj
  cases i <;> cases j <;> simp only [nthPid] at same <;> omega

/-- Where the number found is in use, so are all that were tried. -/
theorem nthPid_mem_of_freePid_mem {used : List Nat} {n p : Nat} (h : freePid used n p ∈ used) : ∀ i ≤ n, nthPid p i ∈ used := by
  induction n generalizing p with
  | zero =>
    intro i hi
    rw [Nat.le_zero.mp hi]
    exact h
  | succ n ih =>
    unfold freePid at h
    split at h
    case isTrue taken =>
      intro i hi
      cases i with
      | zero => exact List.contains_iff_mem.mp taken
      | succ i => exact nthPid_succ p i ▸ ih h i (Nat.le_of_succ_le_succ hi)
    case isFalse free => exact absurd (List.contains_iff_mem.mpr h) free

/-- Fewer than 4096 numbers in use leave one that is not. -/
theorem freePid_not_mem {used : List Nat} (few : used.length < 4096) (p : Nat) : freePid used used.length p ∉ used := by
  intro taken
  have all := nthPid_mem_of_freePid_mem taken
  have distinct : Set.InjOn (nthPid p) (Finset.range (used.length + 1)) :=
    (nthPid_injOn p).mono fun i hi => by have := Finset.mem_range.mp hi; simp only [Set.mem_ofPred_eq]; omega
  have fits := Finset.card_le_card_of_injOn (t := used.toFinset) (nthPid p)
    (fun i hi => List.mem_toFinset.mpr (all i (Nat.le_of_lt_succ (Finset.mem_range.mp hi)))) distinct
  rw [Finset.card_range] at fits
  have := List.toFinset_card_le used
  omega

/-! ### A decision -/

/-- The device once the oldest request is taken from the input stage, which the first one held back enters. -/
def Dev.taking (d : Dev) (rest : List Request) : Dev := d.onAdm fun a => { a with stage := rest ++ a.waiting.take 1, waiting := a.waiting.drop 1 }

section
variable {s : Chip} {r : Request} {rest : List Request}

theorem Chip.decide_empty (empty : s.dev.adm.stage = []) : s.decide = s := by
  unfold Chip.decide
  rw [empty]

theorem Chip.decide_refused (staged : s.dev.adm.stage = r :: rest) {reason : Nat} (refused : (s.dev.taking rest).admTest r = .inr reason) :
    s.decide = s.onDev fun d => ((d.taking rest).bumpSat (ADM_CNT_COUNT reason) 1 0xFFFFFFFF).decided r reason none := by
  have test : (s.onDev (·.onAdm fun a => { a with stage := rest ++ a.waiting.take 1, waiting := a.waiting.drop 1 })).dev.admTest r
    = .inr reason := refused
  unfold Chip.decide
  rw [staged]
  dsimp only
  rw [test]
  rfl

theorem Chip.decide_granted (staged : s.dev.adm.stage = r :: rest) {f : Fit} (fits : (s.dev.taking rest).admTest r = .inl f) :
    s.decide = (s.onDev (·.taking rest)).grant r f := by
  have test : (s.onDev (·.onAdm fun a => { a with stage := rest ++ a.waiting.take 1, waiting := a.waiting.drop 1 })).dev.admTest r
    = .inl f := fits
  unfold Chip.decide
  rw [staged]
  dsimp only
  rw [test]
  rfl

end

/-! ### An admission -/

section
variable (d : Dev) (r : Request) (f : Fit)

/-- The number the next promise gets. -/
def Dev.nextFree : Nat := freePid (d.adm.proms.map (·.pid)) d.adm.proms.length d.adm.nextPid

/-- The promise of a request. -/
def Dev.promiseOf : Promise := { d.newPromise r f.eng with pid := d.nextFree }

/-- A cell for the promise's record is reserved on its queue. -/
def Dev.reserved (q : Nat) : Dev := d.takeCell.1.setQueue q { d.takeCell.1.queue q with compl := (d.takeCell.1.queue q).compl ++ [d.takeCell.2] }

/-- The promise is outstanding, counted and shown to its submitter. -/
def Dev.promised : Dev :=
  (((d.onAdm fun a => { a with proms := a.proms ++ [d.promiseOf r f], nextPid := (d.nextFree + 1) % 4096, nextOrder := a.nextOrder + 1 }).showOut).bumpSat
    (ADM_CNT_COUNT 0) 1 0xFFFFFFFF).decided r 0 (some (d.promiseOf r f))

/-- The points that a fit raises (R257, R259). -/
def Dev.raised : Dev :=
  let d := if f.point = 16 then d else d.put (cmtFld (engWing f.eng)) f.point
  match f.also with
  | some j => (d.put (cmtFld (other (engWing f.eng))) j).raisePair (engWing f.eng)
  | none => if f.point = 16 then d else d.admAsk (engWing f.eng) f.point

theorem Chip.grant_queue (s : Chip) {uid q : Nat} (src : r.src = .queue uid q) :
    s.grant r f = (s.onDev fun d => ((d.reserved q).promised r f).raised f).dispatch f.eng := by
  unfold Chip.grant
  rw [src]
  rfl

theorem Dev.reserved_registrar (q : Nat) : (d.reserved q).registrar = d.registrar := by
  have taken : d.takeCell.1.registrar = d.registrar := by
    unfold Dev.takeCell
    split <;> exact Dev.registrar_of_regs rfl rfl
  exact (Dev.setQueue_registrar _ _ _).trans taken

theorem Dev.raised_keeps : d.adm.Keeps (d.raised f).adm := by
  have put (t : Dev) (x : Fld) (v : Nat) : t.adm.Keeps (t.put x v).adm := .refl _
  unfold Dev.raised
  dsimp only
  split
  · refine .trans ?_ (Dev.raisePair_keeps _ _)
    split <;> exact .refl _
  · split
    · exact .refl _
    · exact (put _ _ _).trans (Dev.admAsk_keeps _ _ _)

theorem Dev.raised_word {a : Nat} (hs : SP_RSEQST ≠ a) (hr : ADM_STAT ≠ a) (hi : ADM_ISTAT ≠ a) : (d.raised f).word a = d.word a := by
  have put (t : Dev) (w : Fin 2) (i : Nat) : (t.put (cmtFld w) i).word a = t.word a := Dev.word_put_of_ne (cmtFld_addr w ▸ hr)
  unfold Dev.raised
  dsimp only
  split
  · rw [Dev.raisePair_word hs hr hi, put]
    split
    · rfl
    · exact put _ _ _
  · split
    · rfl
    · rw [Dev.admAsk_word hs hr hi, put]

variable {d r f} {uid q : Nat} (src : r.src = .queue uid q)
include src

theorem Dev.promised_adm : (d.promised r f).adm = { d.adm with
    proms := d.adm.proms ++ [d.promiseOf r f], nextPid := (d.nextFree + 1) % 4096, nextOrder := d.adm.nextOrder + 1
    results := amapSet 0 uid (BitVec.ofNat 32 (0x80000000 + 0x10000 * f.eng + d.nextFree)) d.adm.results } := by
  unfold Dev.promised Dev.decided
  rw [src]
  rfl

theorem Dev.promised_count : (d.promised r f).get (ADM_CNT_COUNT 0) = min 0xFFFFFFFF (d.get (ADM_CNT_COUNT 0) + 1) := by
  have bounded (n : Nat) : min 0xFFFFFFFF n < 2 ^ 32 := Nat.lt_of_le_of_lt (Nat.min_le_left _ _) (by decide)
  have listed (a : Adm → Adm) : ((d.onAdm a).showOut).get (ADM_CNT_COUNT 0) = d.get (ADM_CNT_COUNT 0) :=
    Dev.get_put_of_ne (d := d.onAdm a) (f := ADM_STAT_OUT) (by decide)
  have counted (t : Dev) : (t.bumpSat (ADM_CNT_COUNT 0) 1 0xFFFFFFFF).get (ADM_CNT_COUNT 0) = min 0xFFFFFFFF (t.get (ADM_CNT_COUNT 0) + 1) :=
    (Dev.get_put (f := ADM_CNT_COUNT 0) (by decide) (by decide)).trans (Nat.mod_eq_of_lt (bounded _))
  have shown (t : Dev) (w : Word) : (t.setResult uid w).get (ADM_CNT_COUNT 0) = t.get (ADM_CNT_COUNT 0) := rfl
  unfold Dev.promised Dev.decided
  rw [src]
  dsimp only
  rw [shown, counted, listed]

end

/-! ### The settled obligation -/

section
variable {s : Chip} {r : Request} {f : Fit} {uid q : Nat} (src : r.src = .queue uid q)
include src

/-- The device after an admission, before what goes on in the rails and the engine. -/
theorem Chip.grant_keeps : ((s.dev.reserved q).promised r f).adm.Keeps (s.grant r f).dev.adm := by
  rw [Chip.grant_queue r f s src]
  exact (Dev.raised_keeps _ f).trans (Chip.dispatch_keeps (s.onDev fun d => ((d.reserved q).promised r f).raised f) f.eng)

theorem Chip.grant_result : (s.grant r f).dev.subResult uid = BitVec.ofNat 32 (0x80000000 + 0x10000 * f.eng + s.dev.nextFree) := by
  have same : (s.dev.reserved q).adm = s.dev.adm := Dev.adm_of_registrar (s.dev.reserved_registrar q)
  unfold Dev.subResult Dev.nextFree
  rw [(Chip.grant_keeps src).results, Dev.promised_adm src, amapGet_set fun _ => rfl, if_pos rfl, ← same]
  rfl

/-- The promises then, but for their progress. -/
theorem Chip.grant_terms : (s.grant r f).dev.adm.proms.map Promise.terms
    = s.dev.adm.proms.map Promise.terms ++ [((s.dev.reserved q).promiseOf r f).terms] := by
  have same : (s.dev.reserved q).adm = s.dev.adm := Dev.adm_of_registrar (s.dev.reserved_registrar q)
  rw [(Chip.grant_keeps src).proms, Dev.promised_adm src, same]
  exact List.map_append

theorem Chip.grant_count : (s.grant r f).dev.get (ADM_CNT_COUNT 0) = min 0xFFFFFFFF (s.dev.get (ADM_CNT_COUNT 0) + 1) := by
  have raised := Dev.get_of_word (f := ADM_CNT_COUNT 0) (Dev.raised_word ((s.dev.reserved q).promised r f) f
    (a := ADM_CNT_COUNT 0 |>.addr) (by decide) (by decide) (by decide))
  have before := Dev.get_of_word (f := ADM_CNT_COUNT 0) (Dev.word_of_registrar (s.dev.reserved_registrar q) (by decide))
  have dispatched := Dev.get_of_word (f := ADM_CNT_COUNT 0) (Chip.dispatch_word (s.onDev fun d => ((d.reserved q).promised r f).raised f) f.eng (by decide))
  rw [Chip.grant_queue r f s src, dispatched, Chip.onDev_dev, raised, Dev.promised_count src, before]

/-- The new promise is among the outstanding ones. -/
theorem Chip.grant_promise : ∃ x ∈ (s.grant r f).dev.adm.proms, x.req = r ∧ x.eng = f.eng ∧ x.pid = s.dev.nextFree
    ∧ x.order = s.dev.adm.nextOrder := by
  have same : (s.dev.reserved q).adm = s.dev.adm := Dev.adm_of_registrar (s.dev.reserved_registrar q)
  have listed : ((s.dev.reserved q).promiseOf r f).terms ∈ (s.grant r f).dev.adm.proms.map Promise.terms := by
    rw [Chip.grant_terms src]
    exact List.mem_append_right _ (List.mem_singleton_self _)
  obtain ⟨x, among, terms⟩ := List.mem_map.mp listed
  refine ⟨x, among, congrArg Promise.req terms, congrArg Promise.eng terms, (congrArg Promise.pid terms).trans ?_,
    (congrArg Promise.order terms).trans (congrArg Adm.nextOrder same)⟩
  show (s.dev.reserved q).nextFree = _
  unfold Dev.nextFree
  rw [same]

end

/-- Settles O32: the checks in the order of the test, and the decision by what the test answers. -/
theorem admission : Obligations.Admission := by
  refine ⟨fun s e v => ?submissions, fun d r => ?checks, fun s r rest uid q reason f => ?decisions⟩
  case submissions =>
    intro d uid w q
    refine ⟨fun h free => ?_, fun h pending => ?_, fun h => ?_⟩
    · rw [exec_subGo_hears s e v h]
      refine State.becomes_congr ((Dev.subWrite_go free).trans ?_)
      rw [Dev.submit_adm]
      rfl
    · rw [exec_subGo_hears s e v h]
      exact congrArg s.leaves (Chip.onDev_congr (g := id) (Dev.subWrite_pending pending))
    · rw [exec_subRes, rowRead_shows h]
      rfl
  case checks =>
    intro closed uncommitted misplaced crowded
    simp only [closed, uncommitted, misplaced, crowded, ← Dev.shut_iff, ← Dev.uncommitted_iff, ← Dev.misplaced_iff, ← Dev.crowded_iff]
    rw [Dev.admTest_eq]
    refine ⟨fun shut => ?_, fun shut un => ?_, fun shut un mis => ?_, fun shut un mis crowd => ?_, fun f fits => ?_⟩
    · rw [if_pos shut]
    · rw [if_neg shut, if_pos un]
    · rw [if_neg shut, if_neg un, if_pos mis]
    · rw [if_neg shut, if_neg un, if_neg mis, if_pos crowd]
    · obtain ⟨shut, un, mis, crowd, -⟩ := Dev.admTest_fit ((Dev.admTest_eq d r).trans fits)
      exact ⟨shut, un, mis, crowd⟩
  case decisions =>
    intro d taken
    refine ⟨fun empty => ?_, fun staged src refused => ?_, fun staged src fits => ?_⟩
    · rw [exec_admissionDecision, Chip.decide_empty empty]
    · rw [exec_admissionDecision, Chip.decide_refused staged refused]
      refine State.becomes_congr ?_
      unfold Dev.decided
      rw [src]
      rfl
    · have few : d.adm.proms.length < 4096 := by
        obtain ⟨-, -, -, crowd, -⟩ := Dev.admTest_fit fits
        exact Nat.lt_of_not_le fun many => crowd ((Dev.crowded_iff _ r).mpr (.inl many))
      have lengths := congrArg List.length (Chip.grant_terms (s := s.chip.onDev (·.taking rest)) (f := f) src)
      refine ⟨(s.chip.onDev (·.taking rest)).grant r f, d.nextFree, ?_, fun x hx same => ?_, Chip.grant_result src, ?_, Chip.grant_promise src,
        Chip.grant_count src⟩
      · rw [exec_admissionDecision, Chip.decide_granted staged fits]
      · have few : (d.adm.proms.map (·.pid)).length < 4096 := by rwa [List.length_map]
        have free := freePid_not_mem few d.adm.nextPid
        rw [List.length_map] at free
        exact free (List.mem_map.mpr ⟨x, hx, same⟩)
      · rw [List.length_append, List.length_map, List.length_map] at lengths
        exact lengths

end Sys2Proof.Machine
end

section
/-! Thermal emergencies (R266, R267): what the registrar's other work leaves of one, and its start and end. -/

namespace Sys2Proof.Machine

open Reg

/-! ### What a thermal emergency shows -/

/-- Two fields that share no bit. -/
def Fld.Apart (f g : Fld) : Prop := f.addr ≠ g.addr ∨ (f.lo ≤ f.hi ∧ f.hi < 32 ∧ g.lo ≤ g.hi) ∧ (g.hi < f.lo ∨ f.hi < g.lo)

theorem Dev.get_put_of_apart {d : Dev} {f g : Fld} {v : Nat} (h : f.Apart g) : (d.put f v).get g = d.get g := by
  rcases h with other | ⟨⟨hf, hf', hg⟩, disjoint⟩
  · exact Dev.get_put_of_ne other
  · exact Dev.get_put_of_disjoint hf hf' hg disjoint

/-- The fields that show a thermal emergency and its limit. -/
def thermFlds : List Fld := [ADM_THERM_PIN, ADM_THERM_ACTIVE, ADM_STAT_THERM, ADM_ISTAT_THERM, ADM_VTHERM_POINT]

/-- The effective ceilings. -/
def ceilFlds : List Fld := [ADM_VCEIL_VCEIL_EFF 0, ADM_VCEIL_VCEIL_EFF 1]

/-- Every field of either kind is one of the first registers of the registrar, and none of ownership. -/
theorem thermFlds_addr : ∀ g ∈ thermFlds ++ ceilFlds, g.addr < 0x50020 ∨ (0x50040 ≤ g.addr ∧ g.addr ≤ 0x50050) := by decide

theorem ceilFld_mem (w : Fin 2) : ADM_VCEIL_VCEIL_EFF w ∈ ceilFlds := by
  revert w
  decide

/-- A field that shares no bit with one of them. -/
def Fld.Cold (f : Fld) : Prop := ∀ g ∈ thermFlds ++ ceilFlds, f.Apart g

/-- Registers elsewhere. -/
theorem Fld.cold_of_addr {f : Fld} (h : 0x50050 < f.addr ∨ (0x50020 ≤ f.addr ∧ f.addr < 0x50040)) : f.Cold := fun g hg => by
  have := thermFlds_addr g hg
  exact .inl fun same => by omega

/-- A thermal emergency is shown as before, the ceilings are no higher, and the promises are those of before. -/
structure Dev.StaysHot (d t : Dev) : Prop where
  shown : ∀ g ∈ thermFlds, t.get g = d.get g
  ceil : ∀ g ∈ ceilFlds, t.get g ≤ d.get g
  proms : t.adm.proms.map Promise.terms ⊆ d.adm.proms.map Promise.terms

theorem Dev.StaysHot.refl (d : Dev) : d.StaysHot d := ⟨fun _ _ => rfl, fun _ _ => Nat.le_refl _, List.Subset.refl _⟩

theorem Dev.StaysHot.trans {d t u : Dev} (h : d.StaysHot t) (h' : t.StaysHot u) : d.StaysHot u :=
  ⟨fun g hg => (h'.shown g hg).trans (h.shown g hg), fun g hg => (h'.ceil g hg).trans (h.ceil g hg), List.Subset.trans h'.proms h.proms⟩

section
variable {d t : Dev}

/-- The same fields, and no promise that was not there. -/
theorem Dev.StaysHot.of_get (fields : ∀ g ∈ thermFlds ++ ceilFlds, t.get g = d.get g)
    (proms : t.adm.proms.map Promise.terms ⊆ d.adm.proms.map Promise.terms) : d.StaysHot t :=
  ⟨fun g hg => fields g (List.mem_append_left _ hg), fun g hg => (fields g (List.mem_append_right _ hg)).le, proms⟩

theorem Dev.StaysHot.of_keeps (fields : ∀ g ∈ thermFlds ++ ceilFlds, t.get g = d.get g) (proms : d.adm.Keeps t.adm) : d.StaysHot t :=
  .of_get fields fun _ h => proms.proms ▸ h

theorem Dev.StaysHot.of_registrar (h : t.registrar = d.registrar) : d.StaysHot t := by
  have block : ∀ g ∈ thermFlds ++ ceilFlds, g.addr / 0x10000 = 0x05 := by decide
  exact .of_keeps (fun g hg => Dev.get_of_word (Dev.word_of_registrar h (block g hg))) (.of_eq (Dev.adm_of_registrar h))

theorem Dev.StaysHot.put {f : Fld} {v : Nat} (cold : f.Cold) : d.StaysHot (d.put f v) :=
  .of_keeps (fun g hg => Dev.get_put_of_apart (cold g hg)) (.refl _)

/-- A ceiling lowered. -/
theorem Dev.StaysHot.lower (w : Fin 2) {v : Nat} (low : v ≤ d.get (ADM_VCEIL_VCEIL_EFF w)) : d.StaysHot (d.put (ADM_VCEIL_VCEIL_EFF w) v) := by
  have apart : ∀ w : Fin 2, ∀ g ∈ thermFlds, (ADM_VCEIL_VCEIL_EFF w).addr ≠ g.addr := by decide
  refine ⟨fun g hg => Dev.get_put_of_ne (apart w g hg), fun g hg => ?_, List.Subset.refl _⟩
  have ours : ∀ w : Fin 2, ∀ g ∈ ceilFlds, g = ADM_VCEIL_VCEIL_EFF w ∨ (ADM_VCEIL_VCEIL_EFF w).addr ≠ g.addr := by decide
  rcases ours w g hg with rfl | other
  · rw [Dev.get_put (Nat.le_add_left 8 3) (by show 11 < 32; omega)]
    exact (Nat.mod_le _ _).trans low
  · exact (Dev.get_put_of_ne other).le

end

/-! ### The registrar's work on rails and points -/

theorem railFld_cold (w : Fin 2) : (railFld w).Cold := by unfold Fld.Cold Fld.Apart; revert w; decide
theorem cmtFld_cold (w : Fin 2) : (cmtFld w).Cold := by unfold Fld.Cold Fld.Apart; revert w; decide
theorem railfFld_cold (w : Fin 2) : (railfFld w).Cold := by unfold Fld.Cold Fld.Apart; revert w; decide

section
variable (d : Dev)

theorem Dev.admAsk_staysHot (w : Fin 2) (i : Nat) : d.StaysHot (d.admAsk w i) := by
  have status : ∀ g ∈ thermFlds ++ ceilFlds, SP_RSEQST ≠ g.addr := by decide
  have asked : d.StaysHot (d.askRail ⟨w, .point (Fin.ofNat 16 i), .registrar⟩).1 := by
    refine .of_keeps (fun g hg => ?_) (.of_eq (d.askRail_adm _))
    exact (Dev.get_of_word (Dev.askRail_point_word (status g hg) w _ _)).trans (Dev.get_put_of_apart (railFld_cold w g hg))
  unfold Dev.admAsk
  split
  case isFalse => exact .refl _
  case isTrue =>
    show d.StaysHot (if (d.askRail ⟨w, .point (Fin.ofNat 16 i), .registrar⟩).2 then _
      else (d.askRail ⟨w, .point (Fin.ofNat 16 i), .registrar⟩).1)
    split
    · refine asked.trans ((Dev.StaysHot.put (railfFld_cold w)).trans (.of_keeps (fun _ _ => rfl) (.of_map fun x => ?_)))
      split <;> rfl
    · exact asked

theorem Dev.raisePair_staysHot (w : Fin 2) : d.StaysHot (d.raisePair w) := by
  unfold Dev.raisePair
  dsimp only
  split
  · exact (d.admAsk_staysHot _ _).trans (.of_keeps (fun _ _ => rfl) ⟨rfl, rfl⟩)
  · exact .of_keeps (fun _ _ => rfl) ⟨rfl, rfl⟩

theorem Dev.moveTo_staysHot (w : Fin 2) (i : Nat) : d.StaysHot (d.moveTo w i) := by
  have committed : d.StaysHot (d.put (cmtFld w) i) := .put (cmtFld_cold w)
  unfold Dev.moveTo
  dsimp only
  split
  · exact committed
  · exact committed.trans (Dev.admAsk_staysHot _ _ _)

theorem Dev.ceilSeam_staysHot (w : Fin 2) : d.StaysHot (d.ceilSeam w) := by
  unfold Dev.ceilSeam
  dsimp only
  split
  case isTrue h =>
    have falls := (Bool.and_eq_true_iff.mp h).1
    exact .lower w (Nat.le_of_lt (of_decide_eq_true falls))
  case isFalse => exact .refl _

theorem Dev.recompute_staysHot : d.StaysHot d.recompute := by
  have pair (w : Fin 2) (x y : Nat) : d.StaysHot (((d.put (cmtFld 0) x).put (cmtFld 1) y).raisePair w) :=
    (Dev.StaysHot.put (cmtFld_cold 0)).trans ((Dev.StaysHot.put (cmtFld_cold 1)).trans (Dev.raisePair_staysHot _ w))
  have moved (w v : Fin 2) (x y : Nat) : d.StaysHot ((d.moveTo w x).moveTo v y) := (d.moveTo_staysHot w x).trans (Dev.moveTo_staysHot _ v y)
  unfold Dev.recompute
  dsimp only
  refine .trans ?_ ((Dev.ceilSeam_staysHot _ 0).trans (Dev.ceilSeam_staysHot _ 1))
  split
  · exact pair 0 _ _
  split
  · exact pair 1 _ _
  split
  · exact moved 1 0 _ _
  · exact moved 0 1 _ _

/-! ### A promise's end -/

theorem Dev.without_staysHot (x : Promise) : d.StaysHot (d.without x) := by
  have left : d.StaysHot (d.onAdm fun a => { a with proms := a.proms.filter (·.order != x.order) }) :=
    .of_get (fun _ _ => rfl) (List.map_subset _ fun _ => List.mem_of_mem_filter)
  exact left.trans (.put (f := ADM_STAT_OUT) (by unfold Fld.Cold Fld.Apart; decide))

theorem Dev.profSeam_staysHot (p : Nat) : d.StaysHot (d.profSeam p) := by
  unfold Dev.profSeam
  split
  · refine .put (Fld.cold_of_addr (.inl ?_))
    show 0x50050 < 0x5100C + 0x10 * p
    omega
  · exact .refl _

theorem Dev.admSeam_staysHot : d.StaysHot d.admSeam := by
  unfold Dev.admSeam
  split
  · exact .put (f := ADM_CTL_EN_EFF) (by unfold Fld.Cold Fld.Apart; decide)
  · exact .refl _

theorem Dev.setOwned_staysHot {n : Nat} (hn : n < 64) (v : Bool) : d.StaysHot (d.setOwned n v) := by
  refine .put (Fld.cold_of_addr (.inr ?_))
  show 0x50020 ≤ 0x50020 + 0x4 * (n / 8) ∧ 0x50020 + 0x4 * (n / 8) < 0x50040
  omega

/-- The registers of a breach. -/
def Dev.breached (x : Promise) (reason : Nat) : Dev :=
  ((((d.on ADM_ISTAT_BREACH).put ADM_LASTB_REASON reason).put ADM_LASTB_ENG x.eng).put ADM_LASTB_PID x.pid).bumpSat (ADM_CNT_COUNT 9) 1 0xFFFFFFFF

theorem Dev.breached_staysHot (x : Promise) (reason : Nat) : d.StaysHot (d.breached x reason) := by
  have istat : d.StaysHot (d.on ADM_ISTAT_BREACH) := .put (by unfold Fld.Cold Fld.Apart; decide)
  have elsewhere (t : Dev) (f : Fld) (v : Nat) (h : 0x50050 < f.addr) : t.StaysHot (t.put f v) := .put (Fld.cold_of_addr (.inl h))
  exact istat.trans ((elsewhere _ _ _ (by decide)).trans ((elsewhere _ _ _ (by decide)).trans ((elsewhere _ _ _ (by decide)).trans
    (elsewhere _ _ _ (by decide)))))

end

section
variable (s : Chip) {x : Promise}

theorem Chip.ownSeam_staysHot {n : Nat} (hn : n < 64) : s.dev.StaysHot (s.ownSeam n).dev := by
  unfold Chip.ownSeam
  split
  · obtain ⟨d, shown, same⟩ := s.disown_shown n
    rw [shown]
    exact (Dev.StaysHot.of_registrar same).trans (d.setOwned_staysHot hn false)
  · exact .refl _

theorem Chip.retire_staysHot (hx : x.eng < 64) (status reason : Nat) (result : Word) : s.dev.StaysHot (s.retire x status reason result).dev := by
  have left : s.dev.StaysHot (s.onDev (·.without x)).dev := s.dev.without_staysHot x
  have ended := left.trans (.of_registrar (Chip.complete_registrar _ x status reason result))
  rw [Chip.retire_eq]
  exact (ended.trans (Chip.ownSeam_staysHot _ hx)).trans ((Dev.profSeam_staysHot _ _).trans (Dev.admSeam_staysHot _))

theorem Chip.breach_staysHot (hx : x.eng < 64) (reason : Nat) : s.dev.StaysHot (s.breach x reason).dev := by
  have recorded : s.dev.StaysHot (s.onDev (·.breached x reason)).dev := s.dev.breached_staysHot x reason
  exact recorded.trans (Chip.retire_staysHot (s.onDev (·.breached x reason)) hx 2 reason 0)

theorem Chip.breachAll_staysHot {xs : List Promise} (hxs : ∀ x ∈ xs, x.eng < 64) (reason : Nat) : s.dev.StaysHot (s.breachAll xs reason).dev := by
  unfold Chip.breachAll
  induction xs generalizing s with
  | nil => exact .refl _
  | cons x xs ih =>
    exact (s.breach_staysHot (hxs x List.mem_cons_self) reason).trans (ih _ fun y hy => hxs y (List.mem_cons_of_mem x hy))

end

/-! ### The launches shed -/

theorem mem_of_mem_insertLaunch {x y : Promise} {l : List Promise} (h : y ∈ insertLaunch x l) : y = x ∨ y ∈ l := by
  induction l with
  | nil => exact .inl (List.mem_singleton.mp h)
  | cons z l ih =>
    unfold insertLaunch at h
    split at h
    · exact List.mem_cons.mp h
    · rcases List.mem_cons.mp h with rfl | h
      · exact .inr List.mem_cons_self
      · exact (ih h).imp_right (List.mem_cons_of_mem z)

/-- A timeline holds the promises it is made of. -/
theorem mem_of_mem_timelineOf {ps : List Promise} {x : Promise} (h : x ∈ timelineOf ps) : x ∈ ps := by
  have sorted (l : List Promise) (h : x ∈ l.foldr insertLaunch []) : x ∈ l := by
    induction l with
    | nil => exact h
    | cons y l ih =>
      rcases mem_of_mem_insertLaunch h with rfl | h
      · exact List.mem_cons_self
      · exact List.mem_cons_of_mem y (ih h)
  rcases List.mem_append.mp h with run | waits
  · exact List.mem_of_mem_filter run
  · exact List.mem_of_mem_filter (sorted _ waits)

theorem Dev.eng_of_mem_timeline {d : Dev} {n : Nat} {x : Promise} (h : x ∈ d.timeline n) : x.eng = n :=
  beq_iff_eq.mp (List.mem_filter.mp (mem_of_mem_timelineOf h)).2

/-- The finish bounds are those of the timeline's launches. -/
theorem TestAt.finishes_fst (k : TestAt) (s : Nat) (l : List Promise) : (k.finishes s l).map Prod.fst = l := by
  induction l generalizing s with
  | nil => rfl
  | cons x l ih => exact congrArg (x :: ·) (ih _)

theorem TestAt.mem_of_mem_shed {k : TestAt} {n : Nat} {tl : List Promise} {x : Promise} (h : x ∈ k.shed n tl) : x ∈ tl := by
  induction n generalizing tl with
  | zero => cases h
  | succ n ih =>
    unfold TestAt.shed at h
    split at h
    case h_1 y last =>
      have among : y.1 ∈ tl := by
        have found := List.mem_of_mem_filter (List.mem_of_getLast? last)
        exact k.finishes_fst k.t tl ▸ List.mem_map_of_mem found
      rcases List.mem_cons.mp h with rfl | h
      · exact among
      · exact List.mem_of_mem_filter (ih h)
    case h_2 => cases h

theorem Dev.lt_of_mem_busyEngines {d : Dev} {w : Fin 2} {n : Nat} (h : n ∈ d.busyEngines w) : n < 64 := by
  obtain ⟨i, hi, rfl⟩ := List.mem_map.mp (List.mem_of_mem_filter h)
  have := List.mem_range.mp hi
  omega

/-! ### The start -/

section
variable (s : Chip)

/-- The engines of a list shed what no longer fits. -/
theorem Chip.shed_staysHot (k : TestAt) (reason : Nat) {ns : List Nat} (hns : ∀ n ∈ ns, n < 64) : s.dev.StaysHot
    (ns.foldl (fun s n => s.breachAll (k.shed (s.dev.timeline n).length (s.dev.timeline n)) reason) s).dev := by
  induction ns generalizing s with
  | nil => exact .refl _
  | cons n ns ih =>
    have below : ∀ x ∈ k.shed (s.dev.timeline n).length (s.dev.timeline n), x.eng < 64 := fun x hx =>
      Dev.eng_of_mem_timeline (TestAt.mem_of_mem_shed hx) ▸ hns n List.mem_cons_self
    exact (s.breachAll_staysHot below reason).trans (ih _ fun m hm => hns m (List.mem_cons_of_mem n hm))

/-- The device with a wing's effective ceiling at the limit or below. -/
def Dev.capped (d : Dev) (w : Fin 2) : Dev := d.put (ADM_VCEIL_VCEIL_EFF w) (min (d.get (ADM_VCEIL_VCEIL_EFF w)) (d.get ADM_VTHERM_POINT))

theorem Dev.capped_staysHot (d : Dev) (w : Fin 2) : d.StaysHot (d.capped w) := .lower w (Nat.min_le_left _ _)

theorem Dev.capped_ceil (d : Dev) (w : Fin 2) : (d.capped w).get (ADM_VCEIL_VCEIL_EFF w) ≤ d.get ADM_VTHERM_POINT := by
  unfold Dev.capped
  rw [Dev.get_put (Nat.le_add_left 8 3) (by show 11 < 32; omega)]
  exact (Nat.mod_le _ _).trans (Nat.min_le_right _ _)

/-- After its ceiling has fallen a wing's points fall, and its waiting launches that no longer fit go. -/
theorem Chip.thermWing_staysHot (w : Fin 2) : (s.dev.capped w).StaysHot (s.thermWing w).dev := by
  have lowered (d : Dev) (i j : Nat) : d.StaysHot ((d.put (cmtFld w) i).admAsk w j) :=
    (Dev.StaysHot.put (cmtFld_cold w)).trans (Dev.admAsk_staysHot _ w j)
  unfold Chip.thermWing
  dsimp only
  split
  · exact .refl _
  · refine .trans ?_ (Chip.shed_staysHot _ _ 4 fun n hn => Dev.lt_of_mem_busyEngines hn)
    split
    · exact lowered _ _ _
    · exact .refl _

/-- The device at the start of a thermal emergency, before its points fall. -/
def Dev.heated (d : Dev) : Dev :=
  (((d.on ADM_THERM_ACTIVE).on ADM_STAT_THERM).on ADM_ISTAT_THERM).onAdm fun a => { a with proms := a.proms.map fun x => { x with therm := true } }

theorem Chip.thermStart_eq : s.thermStart = (((s.onDev Dev.heated).thermWing 0).thermWing 1).onDev Dev.recompute := rfl

theorem Dev.flag_put_one {d : Dev} {f : Fld} (bit : f.lo = f.hi) (h : f.hi < 32) : (d.put f 1).flag f = true := by
  rw [Dev.flag_of_get (Dev.get_put bit.le h), bit, Nat.sub_self]
  rfl

theorem Dev.flag_put_of_apart {d : Dev} {f g : Fld} {v : Nat} (h : f.Apart g) : (d.put f v).flag g = d.flag g :=
  Dev.flag_of_get (Dev.get_put_of_apart h)

/-- What it shows. -/
theorem Dev.heated_shown (d : Dev) : d.heated.flag ADM_THERM_ACTIVE = true ∧ d.heated.flag ADM_STAT_THERM = true
    ∧ d.heated.flag ADM_ISTAT_THERM = true ∧ d.heated.flag ADM_THERM_PIN = d.flag ADM_THERM_PIN
    ∧ d.heated.get ADM_VTHERM_POINT = d.get ADM_VTHERM_POINT := by
  have get (t : Dev) (f : Adm → Adm) (g : Fld) : (t.onAdm f).get g = t.get g := rfl
  have flag (t : Dev) (f : Adm → Adm) (g : Fld) : (t.onAdm f).flag g = t.flag g := rfl
  unfold Dev.heated Dev.on
  simp only [get, flag]
  refine ⟨?_, ?_, ?_, ?_, ?_⟩
  · rw [Dev.flag_put_of_ne (by decide), Dev.flag_put_of_ne (by decide), Dev.flag_put_one rfl (by decide)]
  · rw [Dev.flag_put_of_ne (by decide), Dev.flag_put_one rfl (by decide)]
  · exact Dev.flag_put_one rfl (by decide)
  · rw [Dev.flag_put_of_ne (by decide), Dev.flag_put_of_ne (by decide), Dev.flag_put_of_apart (by unfold Fld.Apart; decide)]
  · rw [Dev.get_put_of_ne (by decide), Dev.get_put_of_ne (by decide), Dev.get_put_of_ne (by decide)]

theorem Dev.StaysHot.flag {d t : Dev} (h : d.StaysHot t) {g : Fld} (hg : g ∈ thermFlds) : t.flag g = d.flag g := Dev.flag_of_get (h.shown g hg)

/-- A mark of the emergency stays on every promise. -/
theorem Dev.StaysHot.therm {d t : Dev} (h : d.StaysHot t) (all : ∀ x ∈ d.adm.proms, x.therm = true) : ∀ x ∈ t.adm.proms, x.therm = true := by
  intro x hx
  obtain ⟨y, hy, terms⟩ := List.mem_map.mp (h.proms (List.mem_map_of_mem hx))
  exact (congrArg Promise.therm terms).symm.trans (all y hy)

/-- The start leaves the device as hot, with both ceilings at the limit or below. -/
theorem Chip.thermStart_staysHot : s.dev.heated.StaysHot s.thermStart.dev
    ∧ ∀ w : Fin 2, s.thermStart.dev.get (ADM_VCEIL_VCEIL_EFF w) ≤ s.dev.heated.get ADM_VTHERM_POINT := by
  generalize hu : (s.onDev Dev.heated).thermWing 0 = u
  have first : (s.dev.heated.capped 0).StaysHot u.dev := hu ▸ (s.onDev Dev.heated).thermWing_staysHot 0
  have zero : s.dev.heated.StaysHot u.dev := (s.dev.heated.capped_staysHot 0).trans first
  have one := u.thermWing_staysHot 1
  have last : (u.thermWing 1).dev.StaysHot s.thermStart.dev := by
    rw [Chip.thermStart_eq, hu]
    exact Dev.recompute_staysHot _
  have rest : u.dev.StaysHot s.thermStart.dev := ((u.dev.capped_staysHot 1).trans one).trans last
  have limit := zero.shown ADM_VTHERM_POINT (by decide)
  refine ⟨zero.trans rest, fun w => ?_⟩
  match w with
  | 0 => exact (rest.ceil _ (ceilFld_mem 0)).trans ((first.ceil _ (ceilFld_mem 0)).trans (s.dev.heated.capped_ceil 0))
  | 1 => exact ((one.trans last).ceil _ (ceilFld_mem 1)).trans ((u.dev.capped_ceil 1).trans limit.le)

/-! ### The pin -/

/-- The thermal inputs once the pin is seen: what asks for an emergency, and whether there is one. -/
theorem Chip.thermPin_eq (low : Bool) : s.thermPin low =
    let d := s.dev
    let want := (low && d.flag ADM_THERM_PINEN) || (d.flag ADM_THERM_HOST && d.flag ADM_THERM_HOSTEN)
    let t := s.onDev (·.put ADM_THERM_PIN (one low))
    if want && !d.flag ADM_THERM_ACTIVE then t.thermStart else if !want && d.flag ADM_THERM_ACTIVE then t.onDev Dev.thermEnd else t := by
  have pin : (s.dev.put ADM_THERM_PIN (one low)).flag ADM_THERM_PIN = low := by
    cases low
    · exact Dev.flag_put_zero (by decide) (by decide)
    · exact Dev.flag_put_one rfl (by decide)
  unfold Chip.thermPin Chip.thermEval
  dsimp only
  rw [Chip.onDev_dev, pin]
  iterate 4 rw [Dev.flag_put_of_apart (f := ADM_THERM_PIN) (by unfold Fld.Apart; decide)]

/-- Firmware's own input asks for an emergency. -/
def Dev.hostHot (d : Dev) : Bool := d.flag ADM_THERM_HOST && d.flag ADM_THERM_HOSTEN

theorem Chip.thermPin_starts (counts : s.dev.flag ADM_THERM_PINEN = true) (cool : s.dev.flag ADM_THERM_ACTIVE = false) :
    s.thermPin true = (s.onDev (·.put ADM_THERM_PIN 1)).thermStart := by
  have starts := s.thermPin_eq true
  dsimp only at starts
  rw [counts, cool, Bool.and_self, Bool.true_or, Bool.not_false, Bool.and_self, if_pos rfl] at starts
  exact starts

/-- A pin that does not count only shows. -/
theorem Chip.thermPin_shows (low : Bool) (off : s.dev.flag ADM_THERM_PINEN = false) (same : s.dev.hostHot = s.dev.flag ADM_THERM_ACTIVE) :
    s.thermPin low = s.onDev (·.put ADM_THERM_PIN (one low)) := by
  have shows := s.thermPin_eq low
  dsimp only at shows
  rw [off, Bool.and_false, Bool.false_or, ← Dev.hostHot, same, Bool.and_not_self, Bool.not_and_self, if_neg Bool.false_ne_true,
    if_neg Bool.false_ne_true] at shows
  exact shows

theorem Chip.thermPin_ends (hot : s.dev.flag ADM_THERM_ACTIVE = true) (noHost : s.dev.hostHot = false) :
    s.thermPin false = (s.onDev (·.put ADM_THERM_PIN 0)).onDev Dev.thermEnd := by
  have ends := s.thermPin_eq false
  dsimp only at ends
  rw [Bool.false_and, Bool.false_or, ← Dev.hostHot, noHost, hot, Bool.false_and, Bool.not_false, Bool.and_self, if_neg Bool.false_ne_true,
    if_pos rfl] at ends
  exact ends

end

end Sys2Proof.Machine
end

section
/-! Profiles (R245): what a write of CAT[p].CTL starts, and what a commit check finds. -/

namespace Sys2Proof.Machine

open Reg

/-! ### CAT[p].CTL -/

section
variable (p : Fin 256)

theorem catCtl_place : ADM_CAT_CTL p / 0x10000 = 0x05 ∧ ADM_CAT_CTL p % 0x10000 = 0x100C + 0x10 * p.val := by
  unfold ADM_CAT_CTL
  omega

theorem findIn_catCtl (p : Fin 256) : (findIn (0x100C + 0x10 * p.val) rowsADM).map (fun x => x.1.base) = some 0x100C := by
  revert p
  decide +kernel

theorem catCtl_row : ∀ r ∈ rowsADM, r.base = 0x100C → r.back = 0
    ∧ r.flds = [⟨31, 31, .rwl, 0, 0, .raw⟩, ⟨25, 24, .ro, 0, 0, .raw⟩, ⟨1, 1, .ro, 0, 0, .raw⟩, ⟨0, 0, .rw, 0, 0, .raw⟩] := by
  simp [rowsADM, rowsADM1, rowsADM2, rowsADM3]

theorem findReg_catCtl : ∃ (r : RegRow) (n : Nat), findReg (ADM_CAT_CTL p) = some (r, n) ∧ r.back = 0
    ∧ (⟨0, 0, .rw, 0, 0, .raw⟩ : FldSpec) ∈ r.flds := by
  obtain ⟨⟨r, n⟩, found, base⟩ := Option.map_eq_some_iff.mp (findIn_catCtl p)
  obtain ⟨hb, hflds⟩ := catCtl_row r (findIn_mem found) base
  refine ⟨r, n, ?_, hb, by rw [hflds]; simp⟩
  unfold findReg
  rw [(catCtl_place p).1, (catCtl_place p).2]
  exact found

theorem Dev.flag_stateReq (d : Dev) : (d.word (ADM_CAT_CTL p)).getLsbD 0 = d.flag (ADM_CAT_CTL_STATE_REQ p) := getLsbD_eq_bits _ 0

theorem Chip.hookAdm_catCtl (s : Chip) (m : Master) (old v : Word) :
    s.hookAdm m (0x100C + 0x10 * p.val) old v = s.onDev (·.profWrite p (old.getLsbD 0)) := by
  have notOwn : regIndex (0x100C + 0x10 * p.val) 0x20 4 8 = none := if_neg fun h => by omega
  have profile : regIndex (0x100C + 0x10 * p.val) 0x100C 0x10 256 = some p.val := by
    unfold regIndex
    rw [Nat.add_sub_cancel_left, Nat.mul_mod_right, Nat.mul_div_cancel_left _ (by decide), if_pos ⟨Nat.le_add_right _ _, rfl, p.isLt⟩]
  have low (k : Nat) (h : k < 0x100C) : 0x100C + 0x10 * p.val ≠ k := by omega
  have either {k j : Nat} (hk : k < 0x100C) (hj : j < 0x100C) :
      ¬ (Decidable.decide (0x100C + 0x10 * p.val = k) || Decidable.decide (0x100C + 0x10 * p.val = j)) = true := by
    simp only [Bool.or_eq_true, decide_eq_true_eq]
    omega
  unfold Chip.hookAdm
  rw [if_neg (low _ (by decide)), if_neg (low _ (by decide)), if_neg (either (by decide) (by decide)), if_neg (either (by decide) (by decide)),
    if_neg (low _ (by decide)), if_neg (low _ (by decide)), notOwn, profile]

variable {p} {s : Chip} {m : Sender} {v : Word}

/-- A write of CAT[p].CTL starts what its change of STATE_REQ asks for. -/
theorem Chip.rowWrite_catCtl (h : Hears s m (ADM_CAT_CTL p) v) :
    s.rowWrite m (ADM_CAT_CTL p) v = (s.takes m (ADM_CAT_CTL p) v).onDev (·.profWrite p (s.dev.flag (ADM_CAT_CTL_STATE_REQ p))) := by
  obtain ⟨r, n, hf, hb, -⟩ := findReg_catCtl p
  obtain ⟨block, offset⟩ := catCtl_place p
  have outside : inSubmit (ADM_CAT_CTL p % 0x10000) = false := by
    rw [offset]
    unfold inSubmit
    rw [Bool.and_eq_false_iff]
    exact .inr (decide_eq_false (by omega))
  rw [Chip.rowWrite_adm hf hb h (by unfold ADM_CAT_CTL; omega) block outside, offset, Chip.hookAdm_catCtl, Dev.flag_stateReq]

/-- A profile without LOCK takes the STATE_REQ that is written. -/
theorem Chip.takes_stateReq (lock : s.dev.flag (ADM_CAT_CTL_LOCK p) = false) :
    (s.takes m (ADM_CAT_CTL p) v).dev.flag (ADM_CAT_CTL_STATE_REQ p) = v.getLsbD 0 := by
  obtain ⟨r, n, hf, hb, hm⟩ := findReg_catCtl p
  obtain ⟨block, offset⟩ := catCtl_place p
  have stored : notStored (ADM_CAT_CTL p) = false := by
    have low : ADM_CAT_CTL p < DBG_HPC := by
      unfold ADM_CAT_CTL DBG_HPC
      omega
    unfold notStored
    dsimp only
    rw [block, beq_eq_false_iff_ne.mpr low.ne]
    rfl
  have free : s.dev.frozen (ADM_CAT_CTL p) 0 0 = false := by
    unfold Dev.frozen
    dsimp only
    rw [block, offset]
    rw [if_neg (by omega), show (0x100C + 0x10 * p.val - 0x1000) / 0x10 = p.val by omega, lock,
      show (0x100C + 0x10 * p.val) % 0x10 = 0xC by omega]
    rfl
  have bit := Chip.takes_free (m := m) (v := v) hf hb hm stored ⟨rfl, rfl⟩ free
  rw [getLsbD_eq_bits, ← bit]
  rfl

theorem withField_stateReq (v : Word) (p : Nat) (b : Bool) : (withField v (ADM_CAT_CTL_STATE_REQ p) (one b)).getLsbD 0 = b := by
  have bit : bits (withField v (ADM_CAT_CTL_STATE_REQ p) (one b)) 0 0 = one b % 2 ^ (0 - 0 + 1) := bits_setBits (Nat.le_refl 0) (Nat.zero_lt_succ 31)
  rw [getLsbD_eq_bits, bit]
  cases b <;> rfl

end

/-! ### What the writes start -/

section
variable {d : Dev} {p : Nat}

/-- A profile's commit check no longer waits. -/
def Dev.unchecked (d : Dev) (p : Nat) : Dev := d.onAdm fun a => { a with checks := a.checks.filter (· != p) }

theorem Dev.profWrite_rise (req : d.flag (ADM_CAT_CTL_STATE_REQ p) = true) :
    d.profWrite p false = d.onAdm fun a => { a with checks := a.checks.filter (· != p) ++ [p] } := by
  unfold Dev.profWrite
  rw [req]
  rfl

theorem Dev.profWrite_fall (req : d.flag (ADM_CAT_CTL_STATE_REQ p) = false) : d.profWrite p true
    = if d.adm.proms.any (·.req.prof == p) then d.unchecked p else (d.unchecked p).put (ADM_CAT_CTL_STATE_EFF p) 0 := by
  have left : (d.unchecked p).flag (ADM_CAT_CTL_STATE_REQ p) = false := req
  have start : d.profWrite p true = (d.unchecked p).profSeam p := by
    unfold Dev.profWrite
    rw [req]
    rfl
  rw [start]
  unfold Dev.profSeam
  rw [left]
  show (if (!(d.adm.proms.any (·.req.prof == p))) = true then _ else _) = _
  cases d.adm.proms.any (·.req.prof == p) <;> rfl

theorem Dev.profWrite_same {b : Bool} (req : d.flag (ADM_CAT_CTL_STATE_REQ p) = b) : d.profWrite p b = d := by
  unfold Dev.profWrite
  rw [req]
  cases b <;> rfl

theorem Dev.profCheck_waiting (waits : p ∈ d.adm.checks) : d.profCheck p =
    if d.profErr p = 0 then ((d.unchecked p).put (ADM_CAT_CTL_ERR p) (d.profErr p)).on (ADM_CAT_CTL_STATE_EFF p)
    else (d.unchecked p).put (ADM_CAT_CTL_ERR p) (d.profErr p) := by
  unfold Dev.profCheck
  rw [if_pos (List.contains_iff_mem.mpr waits)]
  rfl

theorem Dev.profCheck_idle (none : p ∉ d.adm.checks) : d.profCheck p = d := by
  unfold Dev.profCheck
  exact if_neg fun h => none (List.contains_iff_mem.mp h)

end

/-! ### The settled obligation -/

section
variable (s : State) (m : Sender) (p : Fin 256) (v : Word)

theorem exec_thermalEmergencyStart : exec .thermalEmergencyStart s = s.leaves (s.chip.thermPin true) := rfl

theorem exec_thermalEmergencyEnd : exec .thermalEmergencyEnd s = s.leaves (s.chip.thermPin false) := rfl

theorem exec_profileCheckComplete : exec (.profileCheckComplete p) s = s.becomes (·.profCheck p) := rfl

variable {s m p v}

theorem exec_profileCommit (h : Hears s.chip m (ADM_CAT_CTL p) (withField v (ADM_CAT_CTL_STATE_REQ p) 1)) : exec (.profileCommit m p v) s
    = s.leaves ((s.chip.takes m (ADM_CAT_CTL p) (withField v (ADM_CAT_CTL_STATE_REQ p) 1)).onDev
      (·.profWrite p (s.chip.dev.flag (ADM_CAT_CTL_STATE_REQ p)))) := congrArg s.leaves (Chip.rowWrite_catCtl h)

theorem exec_profileUnload (h : Hears s.chip m (ADM_CAT_CTL p) (withField v (ADM_CAT_CTL_STATE_REQ p) 0)) : exec (.profileUnload m p v) s
    = s.leaves ((s.chip.takes m (ADM_CAT_CTL p) (withField v (ADM_CAT_CTL_STATE_REQ p) 0)).onDev
      (·.profWrite p (s.chip.dev.flag (ADM_CAT_CTL_STATE_REQ p)))) := congrArg s.leaves (Chip.rowWrite_catCtl h)

end

/-- Settles O35: what the pin asks for against whether there is an emergency, and the change of STATE_REQ in what a write stored. -/
theorem thermalAndProfiles : Obligations.ThermalAndProfiles := by
  refine ⟨fun s => ?thermal, fun s m p v => ?profiles⟩
  case thermal =>
    intro d byHost
    refine ⟨fun counts cool => ?starts, fun off same => ?shows, fun hot noHost => ?ends⟩
    case starts =>
      obtain ⟨hot, ceil⟩ := (s.chip.onDev (·.put ADM_THERM_PIN 1)).thermStart_staysHot
      obtain ⟨active, stat, istat, pin, limit⟩ := (d.put ADM_THERM_PIN 1).heated_shown
      have seen : (d.put ADM_THERM_PIN 1).flag ADM_THERM_PIN = true := Dev.flag_put_one rfl (by decide)
      have point : (d.put ADM_THERM_PIN 1).get ADM_VTHERM_POINT = d.get ADM_VTHERM_POINT := Dev.get_put_of_ne (by decide)
      refine ⟨(s.chip.onDev (·.put ADM_THERM_PIN 1)).thermStart, ?_, (hot.flag (by decide)).trans (pin.trans seen),
        (hot.flag (by decide)).trans active, (hot.flag (by decide)).trans stat, (hot.flag (by decide)).trans istat,
        fun w => (ceil w).trans (limit.trans point).le, hot.therm fun x hx => ?_⟩
      · rw [exec_thermalEmergencyStart, Chip.thermPin_starts _ counts cool]
      · obtain ⟨y, -, rfl⟩ := List.mem_map.mp hx
        rfl
    case shows =>
      exact ⟨congrArg s.leaves (s.chip.thermPin_shows true off same), congrArg s.leaves (s.chip.thermPin_shows false off same)⟩
    case ends =>
      rw [exec_thermalEmergencyEnd, Chip.thermPin_ends _ hot noHost, Chip.onDev_onDev]
      exact State.becomes_congr (f := fun d => (d.put ADM_THERM_PIN 0).thermEnd) rfl
  case profiles =>
    intro d up dn tU tD req others err lock
    have rises : tU.dev.flag (ADM_CAT_CTL_STATE_REQ p) = true := (Chip.takes_stateReq lock).trans (withField_stateReq v p true)
    have falls : tD.dev.flag (ADM_CAT_CTL_STATE_REQ p) = false := (Chip.takes_stateReq lock).trans (withField_stateReq v p false)
    have admD : tD.dev.adm = d.adm := Chip.takes_adm _ _ _ _
    refine ⟨fun h off => ⟨?commits, rises⟩, fun h on => ?stays, fun waits => ?completes, fun none => ?idle, fun h on => ⟨?unloads, falls⟩,
      fun h off => ?gone⟩
    case commits =>
      rw [exec_profileCommit h, show d.flag (ADM_CAT_CTL_STATE_REQ p) = false from off]
      refine congrArg s.leaves (Chip.onDev_congr ((Dev.profWrite_rise rises).trans ?_))
      rfl
    case stays =>
      rw [exec_profileCommit h, show d.flag (ADM_CAT_CTL_STATE_REQ p) = true from on]
      exact congrArg s.leaves (Chip.onDev_congr (g := id) (Dev.profWrite_same rises))
    case completes =>
      rw [exec_profileCheckComplete]
      exact State.becomes_congr (Dev.profCheck_waiting waits)
    case idle =>
      rw [exec_profileCheckComplete]
      exact congrArg s.leaves (Chip.onDev_congr (g := id) (Dev.profCheck_idle none))
    case unloads =>
      rw [exec_profileUnload h, show d.flag (ADM_CAT_CTL_STATE_REQ p) = true from on]
      have others : tD.dev.adm.proms.any (·.req.prof == p.val) = d.adm.proms.any (·.req.prof == p.val) := 
        congrArg (fun a : Adm => a.proms.any fun x => x.req.prof == p.val) admD
      refine congrArg s.leaves (Chip.onDev_congr ((Dev.profWrite_fall falls).trans ?_))
      rw [others]
      rfl
    case gone =>
      rw [exec_profileUnload h, show d.flag (ADM_CAT_CTL_STATE_REQ p) = false from off]
      exact congrArg s.leaves (Chip.onDev_congr (g := id) (Dev.profWrite_same falls))

end Sys2Proof.Machine
end

section
/-! The aperture of BAR2 and the vectors (R276, R281, R296 to R301, R328): an access by what its checks say, and the pending vectors a flush
sends. -/

namespace Sys2Proof.Machine

open Reg

/-! ### Pending vectors -/

/-- One vector's turn in a flush of the pending-bit array. -/
def Dev.flushVector (d : Dev) (v : Nat) : Dev :=
  match d.hpt.msix[v]? with
  | some e =>
    if d.hpt.pba.getLsbD v && !e.mask && !d.msixFnMask && d.canSend then
      (d.onHpt fun h => { h with pba := h.pba &&& ~~~(1#64 <<< v) }).emit (.msix v e.addr e.data)
    else d
  | none => d

section
variable {d : Dev}

theorem Dev.msixFlush_eq : d.msixFlush = (List.range 64).foldl Dev.flushVector d := rfl

theorem Dev.flushVector_idle {v : Nat} (idle : d.hpt.pba.getLsbD v = false) : d.flushVector v = d := by
  unfold Dev.flushVector
  split
  · rw [idle]
    rfl
  · rfl

theorem Dev.flushVectors_idle {l : List Nat} (idle : ∀ v ∈ l, d.hpt.pba.getLsbD v = false) : l.foldl Dev.flushVector d = d := by
  induction l with
  | nil => rfl
  | cons v l ih =>
    rw [List.foldl_cons, Dev.flushVector_idle (idle v List.mem_cons_self)]
    exact ih fun x hx => idle x (List.mem_cons_of_mem v hx)

/-- With no pending bit a flush sends nothing. -/
theorem Dev.msixFlush_none (none : d.hpt.pba = 0) : d.msixFlush = d := by
  rw [Dev.msixFlush_eq]
  exact Dev.flushVectors_idle fun v _ => by rw [none]; exact BitVec.getLsbD_zero

theorem Dev.flushVector_sends {v : Nat} {e : MsixEnt} (entry : d.hpt.msix[v]? = some e) (pending : d.hpt.pba.getLsbD v = true)
    (clear : e.mask = false) (fn : d.msixFnMask = false) (may : d.canSend = true) :
    d.flushVector v = (d.onHpt fun h => { h with pba := h.pba &&& ~~~(1#64 <<< v) }).emit (.msix v e.addr e.data) := by
  unfold Dev.flushVector
  rw [entry]
  dsimp only
  rw [pending, clear, fn, may]
  rfl

/-- The one pending vector is sent once it is unmasked. -/
theorem Dev.msixFlush_one {x : Fin 64} {e : MsixEnt} (entry : d.hpt.msix[x.val]? = some e) (only : d.hpt.pba = 1#64 <<< x.val)
    (clear : e.mask = false) (fn : d.msixFnMask = false) (may : d.canSend = true) :
    d.msixFlush = (d.onHpt fun h => { h with pba := 0 }).emit (.msix x e.addr e.data) := by
  have bit (v : Nat) : d.hpt.pba.getLsbD v = decide (v = x.val) := by
    rw [only, ← BitVec.twoPow_eq, BitVec.getLsbD_twoPow, decide_eq_true x.isLt, Bool.true_and]
    exact decide_eq_decide.mpr eq_comm
  obtain ⟨before, after, range⟩ := List.append_of_mem (List.mem_range.mpr x.isLt)
  have once : (before ++ x.val :: after).Nodup := range ▸ List.nodup_range
  have others : ∀ v ∈ before, d.hpt.pba.getLsbD v = false := fun v hv => by
    rw [bit, decide_eq_false_iff_not]
    rintro rfl
    exact (List.nodup_append.mp once).2.2 _ hv _ List.mem_cons_self rfl
  have sent := Dev.flushVector_sends entry ((bit x).trans (decide_eq_true rfl)) clear fn may
  have cleared : d.hpt.pba &&& ~~~(1#64 <<< x.val) = 0 := by
    rw [only]
    exact BitVec.and_not_self _
  rw [Dev.msixFlush_eq, range, List.foldl_append, Dev.flushVectors_idle others, List.foldl_cons, sent]
  have last : (d.onHpt fun h => { h with pba := h.pba &&& ~~~(1#64 <<< x.val) }) = d.onHpt fun h => { h with pba := 0 } :=
    congrArg (fun p => d.onHpt fun h => { h with pba := p }) cleared
  rw [last]
  exact Dev.flushVectors_idle fun v _ => BitVec.getLsbD_zero

end

/-! ### Accesses to the aperture -/

theorem Dev.dpTarget_eq (d : Dev) (x : Nat) : d.dpTarget x = d.hpt.dpaddr.toNat + (if d.hpt.dpinc then 0 else x) := by
  unfold Dev.dpTarget
  split <;> rfl

section
variable {d : Dev} {write : Bool} {off n : Nat} (ready : d.flag HPT_CTL_CFGRDY = true) (high : 0x8000 ≤ off) (fits : off + n ≤ 0x10000)
include ready high fits

/-- Inside the aperture of a port that is ready, the enable and the arrays' bounds are checked, then the fence list. -/
theorem Dev.dpCheck_inside {a : Nat} (target : d.dpTarget (off - 0x8000) = a) : d.dpCheck write off n =
    if !d.flag HPT_CTL_DPEN || !inBanks a n then some .abort else if d.fenced write a n then some .fence else none := by
  have inside : (decide (off < 0x8000) || decide (0x10000 < off + n)) = false := by
    rw [Bool.or_eq_false_iff, decide_eq_false_iff_not, decide_eq_false_iff_not]
    omega
  unfold Dev.dpCheck
  dsimp only
  rw [ready, if_neg (by decide), if_neg (by omega), inside, if_neg (by decide), target]

theorem Dev.dpCheck_disabled (disabled : d.flag HPT_CTL_DPEN = false) : d.dpCheck write off n = some .abort := by
  rw [Dev.dpCheck_inside ready high fits rfl, disabled]
  rfl

theorem Dev.dpCheck_enabled {a : Nat} (target : d.dpTarget (off - 0x8000) = a) (enabled : d.flag HPT_CTL_DPEN = true)
    (arrays : 0x1000000 ≤ a ∧ a + n ≤ 0x2200000) : d.dpCheck write off n = if d.fenced write a n then some .fence else none := by
  have banks : inBanks a n = true := by
    unfold inBanks
    rw [Bool.and_eq_true, decide_eq_true_eq, decide_eq_true_eq]
    exact arrays
  rw [Dev.dpCheck_inside ready high fits target, enabled, banks]
  rfl

end

section
variable {s u : Chip} {off : Nat} {data bs : List Byte} {n : Nat} {r : DpRefusal} (ready : s.dev.flag HPT_CTL_CFGRDY = true)
include ready

theorem Chip.dpWrite_addr (four : data.length = 4) :
    s.dpWrite 0 data = s.onDev (·.onHpt fun h => { h with dpaddr := BitVec.ofNat 32 (leNat (data.take 4)) &&& ~~~3#32 }) := by
  unfold Chip.dpWrite
  dsimp only
  rw [ready, if_neg (by decide), if_pos ⟨rfl, four⟩]

theorem Chip.dpWrite_ctl (four : data.length = 4) :
    s.dpWrite 4 data = s.onDev (·.onHpt fun h => { h with dpinc := (BitVec.ofNat 32 (leNat (data.take 4)) : Word).getLsbD 0 }) := by
  unfold Chip.dpWrite
  dsimp only
  rw [ready, if_neg (by decide), if_neg (fun h => absurd h.1 (by decide)), if_pos ⟨rfl, four⟩]

theorem Chip.dpRead_addr : s.dpRead 0 4 = s.onDev (·.answers s.dev.hpt.dpaddr) := by
  unfold Chip.dpRead
  dsimp only
  rw [ready, if_neg (by decide), if_pos ⟨rfl, rfl⟩]
  rfl

theorem Chip.dpRead_ctl : s.dpRead 4 4 = s.onDev (·.answers (if s.dev.hpt.dpinc then 1 else 0)) := by
  unfold Chip.dpRead
  dsimp only
  rw [ready, if_neg (by decide), if_neg (fun h => absurd h.1 (by decide)), if_pos ⟨rfl, rfl⟩]
  cases inc : s.dev.hpt.dpinc <;> exact Chip.onDev_congr (by simp [inc, Dev.answers])

variable (high : 0x8000 ≤ off)
include high

theorem Chip.dpWrite_refused (check : s.dev.dpCheck true off data.length = some r) :
    s.dpWrite off data = s.onDev (·.dpRefuse true (s.dev.dpTarget (off - 0x8000)) r) := by
  unfold Chip.dpWrite
  dsimp only
  rw [ready, if_neg (by decide), if_neg (by omega), if_neg (by omega), check]

theorem Chip.dpRead_refused (check : s.dev.dpCheck false off n = some r) :
    s.dpRead off n = s.onDev (·.dpRefuse false (s.dev.dpTarget (off - 0x8000)) r) := by
  unfold Chip.dpRead
  dsimp only
  rw [ready, if_neg (by decide), if_neg (by omega), if_neg (by omega), check]

variable {a : Nat} (target : s.dev.dpTarget (off - 0x8000) = a)
include target

theorem Chip.dpWrite_served (check : s.dev.dpCheck true off data.length = none)
    (may : (s.asks 0x0C a).bulkMay a data.length = (u, none)) :
    s.dpWrite off data = ((u.bulkWrite 0x0C a data.length data).1.burst a data.length).onDev (·.dpAdvance data.length) := by
  unfold Chip.dpWrite
  dsimp only
  rw [ready, if_neg (by decide), if_neg (by omega), if_neg (by omega), check, target, may]

theorem Chip.dpWrite_failed {e : Cause} (check : s.dev.dpCheck true off data.length = none)
    (may : (s.asks 0x0C a).bulkMay a data.length = (u, some e)) : s.dpWrite off data = u.onDev (·.hostError e true data.length) := by
  unfold Chip.dpWrite
  dsimp only
  rw [ready, if_neg (by decide), if_neg (by omega), if_neg (by omega), check, target, may]

theorem Chip.dpRead_served (check : s.dev.dpCheck false off n = none) (bytes : (s.asks 0x0C a).bulkRead a n = (u, .inl bs)) :
    s.dpRead off n = u.onDev fun d => (d.emit (.reply bs)).dpAdvance n := by
  unfold Chip.dpRead
  dsimp only
  rw [ready, if_neg (by decide), if_neg (by omega), if_neg (by omega), check, target, bytes]

end

/-- A write that meets a half of the gallery that is off has touched nothing (R207). -/
theorem Chip.bulkMay_offline {s u : Chip} {a n : Nat} (h : s.bulkMay a n = (u, some .offline)) : u = s := by
  unfold Chip.bulkMay at h
  dsimp only at h
  split at h
  case isTrue => cases h
  case isFalse =>
    split at h
    case isTrue =>
      cases h
      rfl
    case isFalse =>
      split at h
      · cases h
      · split at h <;> cases h

/-! ### Before CFGRDY -/

section
variable {s : Chip} (unready : s.dev.flag HPT_CTL_CFGRDY = false)
include unready

theorem Chip.dpWrite_unready (off : Nat) (data : List Byte) : s.dpWrite off data = s.onDev (·.drops false) := by
  unfold Chip.dpWrite
  dsimp only
  rw [unready]
  rfl

theorem Chip.dpRead_unready (off n : Nat) : s.dpRead off n = s.onDev (·.emit .unsupported) := by
  unfold Chip.dpRead
  dsimp only
  rw [unready]
  rfl

end

theorem Dev.msixWrite_unready {d : Dev} (unready : d.flag HPT_CTL_CFGRDY = false) (v : Fin 64) (addr : BitVec 64) (w : Word) (mask : Bool) :
    d.msixWrite v addr w mask = d.drops false := by
  unfold Dev.msixWrite
  rw [unready]
  rfl

theorem Dev.msixWrite_ready {d : Dev} (ready : d.flag HPT_CTL_CFGRDY = true) (v : Fin 64) (addr : BitVec 64) (w : Word) (mask : Bool) :
    d.msixWrite v addr w mask = (d.onHpt fun h => { h with msix := h.msix.set v { addr := addr, data := w, mask := mask } }).msixFlush := by
  unfold Dev.msixWrite
  rw [ready]
  rfl

/-! ### The settled obligation -/

section
variable (s : State)

theorem exec_apertureWrite (off : BitVec 16) (data : List Byte) :
    exec (.apertureWrite off data) s = s.leaves (s.chip.dpWrite off.toNat data) := rfl

theorem exec_apertureRead (off : BitVec 16) (n : Nat) : exec (.apertureRead off n) s = s.leaves (s.chip.dpRead off.toNat n) := rfl

theorem exec_msiXUnmask (x : Fin 64) (addr : BitVec 64) (w : Word) (mask : Bool) :
    exec (.msiXUnmask x addr w mask) s = s.becomes (·.msixWrite x addr w mask) := rfl

end

/-- Settles O50: an access by whether the port is ready, what its checks say and what device memory answers; an entry by the pending bits. -/
theorem apertureAndVectors : Obligations.ApertureAndVectors := by
  intro s off data bs n u x addr w mask c d word port a on inAperture entry entered
  have target : d.dpTarget (off.toNat - 0x8000) = a := d.dpTarget_eq _
  have checked (write : Bool) (n : Nat) (ready : d.flag HPT_CTL_CFGRDY = true) (inside : inAperture n) :
      d.dpCheck write off.toNat n = if d.fenced write a n then some .fence else none := by
    obtain ⟨high, fits, enabled, arrays⟩ := inside
    exact Dev.dpCheck_enabled ready high fits target enabled arrays
  have passes {write : Bool} {n : Nat} (ready : d.flag HPT_CTL_CFGRDY = true) (inside : inAperture n) (clear : d.fenced write a n = false) :
      d.dpCheck write off.toNat n = none := by
    rw [checked write n ready inside, clear]
    rfl
  have stops {write : Bool} {n : Nat} (ready : d.flag HPT_CTL_CFGRDY = true) (inside : inAperture n) (hit : d.fenced write a n = true) :
      d.dpCheck write off.toNat n = some .fence := by
    rw [checked write n ready inside, hit]
    rfl
  refine ⟨fun unready => ?unready, fun ready => ⟨?addrWrite, ?ctlWrite, ?addrRead, ?ctlRead, ?served, ?offline, ?fencedWrite, ?read,
    ?fencedRead, ?disabled⟩, fun ready none => ?unmasked, fun ready only clear fn may => ?sent⟩
  case unready =>
    refine ⟨?_, ?_, ?_⟩
    · rw [exec_apertureWrite, Chip.dpWrite_unready unready]
      rfl
    · rw [exec_msiXUnmask]
      exact State.becomes_congr (Dev.msixWrite_unready unready x addr w mask)
    · rw [exec_apertureRead, Chip.dpRead_unready unready]
      rfl
  case addrWrite =>
    rintro rfl four
    exact congrArg s.leaves (Chip.dpWrite_addr ready four)
  case ctlWrite =>
    rintro rfl four
    exact congrArg s.leaves (Chip.dpWrite_ctl ready four)
  case addrRead =>
    rintro rfl
    exact congrArg s.leaves (Chip.dpRead_addr ready)
  case ctlRead =>
    rintro rfl
    exact congrArg s.leaves (Chip.dpRead_ctl ready)
  case served =>
    intro inside clear may
    rw [exec_apertureWrite, Chip.dpWrite_served ready inside.1 target (passes ready inside clear) may]
    rfl
  case offline =>
    intro inside clear may
    refine ⟨?_, congrArg (·.mem.cells) (Chip.bulkMay_offline may)⟩
    rw [exec_apertureWrite, Chip.dpWrite_failed ready inside.1 target (passes ready inside clear) may]
    rfl
  case fencedWrite =>
    intro inside hit
    rw [exec_apertureWrite, Chip.dpWrite_refused ready inside.1 (stops ready inside hit), target]
    rfl
  case read =>
    intro inside clear bytes
    rw [exec_apertureRead, Chip.dpRead_served ready inside.1 target (passes ready inside clear) bytes]
    rfl
  case fencedRead =>
    intro inside hit
    rw [exec_apertureRead, Chip.dpRead_refused ready inside.1 (stops ready inside hit), target]
    rfl
  case disabled =>
    intro high fits off
    rw [exec_apertureRead, Chip.dpRead_refused ready high (Dev.dpCheck_disabled ready high fits off)]
    rfl
  case unmasked =>
    rw [exec_msiXUnmask]
    exact State.becomes_congr ((Dev.msixWrite_ready ready x addr w mask).trans (Dev.msixFlush_none none))
  case sent =>
    rw [exec_msiXUnmask]
    have found : entered.hpt.msix[x.val]? = some entry := by simp [entered, port]
    exact State.becomes_congr ((Dev.msixWrite_ready ready x addr w mask).trans (Dev.msixFlush_one found only clear fn may))

end Sys2Proof.Machine
end

section
/-! The link (R273 to R275, R519, R521): LSTAT as training sets it, and how the link goes down and is started again. -/

namespace Sys2Proof.Machine

open Reg

/-! ### Two stores into one register -/

section
variable {w : Word} {hi lo hi' lo' : Nat} (hf : lo ≤ hi) (hf' : hi < 32)
include hf hf'

theorem setBits_setBits (v v' : Nat) : setBits (setBits w hi lo v) hi lo v' = setBits w hi lo v' := by
  refine BitVec.eq_of_toNat_eq (Nat.eq_of_testBit_eq fun i => ?_)
  rw [testBit_setBits hf hf', testBit_setBits hf hf', testBit_setBits hf hf']
  split <;> rfl

theorem setBits_comm (hg : lo' ≤ hi') (hg' : hi' < 32) (disjoint : hi' < lo ∨ hi < lo') (v v' : Nat) :
    setBits (setBits w hi lo v) hi' lo' v' = setBits (setBits w hi' lo' v') hi lo v := by
  refine BitVec.eq_of_toNat_eq (Nat.eq_of_testBit_eq fun i => ?_)
  rw [testBit_setBits hg hg', testBit_setBits hf hf', testBit_setBits hf hf', testBit_setBits hg hg']
  split
  case isTrue ours => rw [if_neg (by omega)]
  case isFalse => rfl

end

section
variable {α : Type} (k : Nat) (m : List (Nat × α))

theorem amapDel_amapDel : amapDel k (amapDel k m) = amapDel k m := by
  induction m with
  | nil => rfl
  | cons p m ih =>
    obtain ⟨j, u⟩ := p
    by_cases same : k = j
    · simp only [amapDel, if_pos same]
      exact ih
    · simp only [amapDel, if_neg same, ih]

/-- Of two values stored at one key the later stands. -/
theorem amapSet_amapSet [DecidableEq α] (d v v' : α) : amapSet d k v' (amapSet d k v m) = amapSet d k v' m := by
  induction m with
  | nil =>
    by_cases none : v = d
    · simp only [amapSet, if_pos none]
    · simp only [amapSet, if_neg none, if_neg (Nat.lt_irrefl k), if_pos]
  | cons p m ih =>
    obtain ⟨j, u⟩ := p
    by_cases before : k < j
    · by_cases none : v = d
      · simp only [amapSet, if_pos before, if_pos none, amapDel_amapDel]
      · have other : ¬ k = j := Nat.ne_of_lt before
        simp only [amapSet, if_pos before, if_neg none, if_neg (Nat.lt_irrefl k), if_pos, amapDel, if_neg other, amapDel_amapDel]
    · by_cases same : k = j
      · simp only [amapSet, if_neg before, if_pos same]
        exact ih
      · simp only [amapSet, if_neg before, if_neg same, ih]

end

theorem Dev.setWord_setWord (d : Dev) (a : Nat) (w w' : Word) : (d.setWord a w).setWord a w' = d.setWord a w' :=
  congrArg (fun regs => ({ d with regs := regs } : Dev)) (amapSet_amapSet a d.regs _ w w')

/-- Two fields put into one register, as one store. -/
theorem Dev.put_put_same {d : Dev} {f g : Fld} (same : f.addr = g.addr) (v v' : Nat) :
    (d.put f v).put g v' = d.setWord g.addr (setBits (setBits (d.word g.addr) f.hi f.lo v) g.hi g.lo v') := by
  have word : (d.put f v).word g.addr = setBits (d.word g.addr) f.hi f.lo v := by rw [← same, Dev.word_put]
  unfold Dev.put at word ⊢
  rw [word, same, Dev.setWord_setWord]

theorem Dev.put_put {d : Dev} {f : Fld} (h : f.lo ≤ f.hi) (h' : f.hi < 32) (v v' : Nat) : (d.put f v).put f v' = d.put f v' := by
  rw [Dev.put_put_same rfl, setBits_setBits h h']
  rfl

/-- Fields of one register that share no bit may be put in either order. -/
theorem Dev.put_comm {d : Dev} {f g : Fld} (same : f.addr = g.addr) (hf : f.lo ≤ f.hi ∧ f.hi < 32) (hg : g.lo ≤ g.hi ∧ g.hi < 32)
    (disjoint : g.hi < f.lo ∨ f.hi < g.lo) (v v' : Nat) : (d.put f v).put g v' = (d.put g v').put f v := by
  rw [Dev.put_put_same same, Dev.put_put_same same.symm, setBits_comm hf.1 hf.2 hg.1 hg.2 disjoint, same]

/-! ### Training -/

section
variable {d : Dev}

/-- A state with the link's outcome cleared, whatever state is put first. -/
theorem Dev.linkState_one (d : Dev) : d.linkState 1 = (d.linkState 0).put HPT_LSTAT_STATE 1 := by
  have past {d : Dev} {f : Fld} (v : Nat) (same : f.addr = HPT_LSTAT) (low : f.lo ≤ f.hi ∧ f.hi < 24) :
      (d.put f v).put HPT_LSTAT_STATE 1 = (d.put HPT_LSTAT_STATE 1).put f v :=
    Dev.put_comm same ⟨low.1, by omega⟩ (by decide) (.inr low.2) _ _
  unfold Dev.linkState
  dsimp only
  rw [if_pos (by decide), if_pos (by decide)]
  iterate 6 rw [past 0 rfl (by decide)]
  rw [Dev.put_put (by decide) (by decide)]

/-- The effective limits of training are the requested ones (R275). -/
def Dev.linkLimits (d : Dev) : Dev :=
  ((d.put HPT_LINKCFG_RATE_EFF (d.get HPT_LINKCFG_RATE_REQ)).put HPT_LINKCFG_WIDTH_EFF (d.get HPT_LINKCFG_WIDTH_REQ)).put
    HPT_LINKCFG_CXLEN_EFF (d.get HPT_LINKCFG_CXLEN_REQ)

theorem Dev.train_starts (may : d.mayTrain = true) : d.train = (d.linkLimits.linkState 0).put HPT_LSTAT_STATE 1 := by
  unfold Dev.train
  rw [if_pos may]
  exact Dev.linkState_one _

theorem Dev.train_idle (may : d.mayTrain = false) : d.train = d.linkState 0 := by
  unfold Dev.train
  rw [if_neg (by rw [may]; decide)]

/-- The port trains where it may, and else its link is idle. -/
theorem Dev.train_or_idle (d : Dev) : (if d.mayTrain then d.train else d.linkState 0) = d.train := by
  by_cases may : d.mayTrain = true
  · rw [if_pos may]
  · rw [if_neg may, Dev.train_idle (Bool.eq_false_iff.mpr may)]

/-- LINKDOWN is set where the link was up (R275). -/
def Dev.fallen (d : Dev) (live : Bool) : Dev := if live then d.put HPT_ISTAT_LINKDOWN 1 else d

theorem Dev.fallen_hpt (d : Dev) (live : Bool) : (d.fallen live).hpt = d.hpt := by
  unfold Dev.fallen
  split <;> rfl

/-- The port as the start of training finds it. -/
def Dev.linkStart (d : Dev) : Dev := if d.mayTrain then d.train else d.linkState 0

end

section
variable {s : Chip}

theorem Chip.linkLost_eq {live : Bool} (h : s.dev.linkLive = live) : s.linkLost = (s.onDev fun d => (d.fallen live).linkStart).presence := by
  subst h
  exact congrArg Chip.presence (Chip.onDev_congr (Dev.train_or_idle _).symm)

/-- Without its supplies the port stays idle (R519). -/
theorem Chip.vphyDrop_eq :
    s.vphyDrop = (s.onDev fun d => ((d.onHpt fun h => { h with vphy := false }).fallen s.dev.linkLive).linkState 0).presence := by
  have idle : (((s.dev.onHpt fun h => { h with vphy := false }).fallen s.dev.linkLive).mayTrain) = false := by
    unfold Dev.mayTrain
    rw [Dev.fallen_hpt]
    exact Bool.and_false _
  exact congrArg (fun d => Chip.presence { s with dev := d }) (Dev.train_idle idle)

/-- A link reset takes the link down and puts the port's own state back (R277). -/
def Dev.linkReset (d : Dev) (live : Bool) : Dev :=
  { d.fallen live with hpt := { d.hpt with perst := false, cfg := [], msix := msixReset, pba := 0 } }

theorem Chip.perstLow_eq :
    s.perstLow = (s.onDev fun d => (((d.linkReset s.dev.linkLive).linkState 0).put HPT_LSTAT_BME 0).put HPT_LSTAT_D0 0).presence := by
  have reset : ((s.dev.fallen s.dev.linkLive).onHpt fun h => { h with perst := false, cfg := [], msix := msixReset, pba := 0 })
      = s.dev.linkReset s.dev.linkLive := by
    unfold Dev.onHpt Dev.linkReset
    rw [Dev.fallen_hpt]
  exact congrArg Chip.presence (Chip.onDev_congr (congrArg (fun d => ((d.linkState 0).put HPT_LSTAT_BME 0).put HPT_LSTAT_D0 0) reset))

theorem Chip.linkFails_live (live : s.dev.linkLive = true) : s.linkFails = s.linkLost := by
  unfold Chip.linkFails
  rw [live]
  rfl

theorem Chip.linkFails_dead (dead : s.dev.linkLive = false) (recovery : s.dev.get HPT_LSTAT_STATE ≠ 7) : s.linkFails = s := by
  unfold Chip.linkFails
  rw [dead, Bool.false_or, if_neg (by simpa using recovery)]

theorem Chip.linkUp_elsewhere {u : LinkUp} (h : s.dev.get HPT_LSTAT_STATE ≠ 1) : s.linkUp u = s := if_neg h

theorem Dev.vphyReturn_idle {d : Dev} (idle : d.get HPT_LSTAT_STATE = 0) :
    d.vphyReturn = (d.onHpt fun h => { h with vphy := true }).linkStart :=
  (if_pos (show (d.onHpt fun h => { h with vphy := true }).get HPT_LSTAT_STATE = 0 from idle)).trans (Dev.train_or_idle _).symm

theorem Dev.vphyReturn_busy {d : Dev} (busy : d.get HPT_LSTAT_STATE ≠ 0) : d.vphyReturn = d.onHpt fun h => { h with vphy := true } :=
  if_neg (show ¬ (d.onHpt fun h => { h with vphy := true }).get HPT_LSTAT_STATE = 0 from busy)

/-- Above Sleep nothing is kept in the wake latch (R420). -/
theorem Dev.wakeUp_awake {d : Dev} (awake : d.watching = false) (b : Nat) : d.wakeUp b = d := by
  unfold Dev.wakeUp
  rw [awake]
  rfl

theorem Chip.perstHigh_starts (low : s.dev.hpt.perst = false) (awake : s.dev.watching = false) :
    s.perstHigh = s.onDev fun d => (d.onHpt fun h => { h with perst := true }).linkStart := by
  have quiet := Dev.wakeUp_awake (d := s.dev.onHpt fun h => { h with perst := true }) awake 5
  unfold Chip.perstHigh
  rw [low, if_neg Bool.false_ne_true]
  exact Chip.onDev_congr ((congrArg Dev.train quiet).trans (Dev.train_or_idle _).symm)

theorem Chip.perstHigh_again (high : s.dev.hpt.perst = true) : s.perstHigh = s := if_pos high

/-- CLKREQ_N as the host drives it. -/
def Dev.clkreqIs (d : Dev) (on : Bool) : Dev := { d with pwr := { d.pwr with clkreq := on } }

/-- CLKREQ_N seen, a wake condition where it is asserted (R419). -/
def Dev.clkreqSeen (d : Dev) (on : Bool) : Dev := if on then (d.clkreqIs on).wakeUp 5 else d.clkreqIs on

theorem Dev.clkreqSeen_awake {d : Dev} {on : Bool} (awake : on = true → d.watching = false) : d.clkreqSeen on = d.clkreqIs on := by
  cases on with
  | false => rfl
  | true => exact Dev.wakeUp_awake (d := d.clkreqIs true) (awake rfl) 5

theorem Chip.linkPower_eq (s : Chip) (st : Nat) (on : Bool) : s.linkPower st on =
    let t := s.onDev (·.clkreqSeen on)
    if (t.dev.linkLive || t.dev.get HPT_LSTAT_STATE == 7) && 2 ≤ st && st ≤ 7 then
      (t.onDev fun d => (if st = 7 then d.on HPT_ISTAT_LINKDOWN else d).put HPT_LSTAT_STATE st).presence
    else t := rfl

theorem Chip.linkPower_moves {st : Nat} {on : Bool} (up : s.dev.linkLive = true ∨ s.dev.get HPT_LSTAT_STATE = 7) (low : 2 ≤ st) (high : st ≤ 6)
    (awake : on = true → s.dev.watching = false) :
    s.linkPower st on = (s.onDev fun d => (d.clkreqIs on).put HPT_LSTAT_STATE st).presence := by
  have seen : s.onDev (·.clkreqSeen on) = s.onDev (·.clkreqIs on) := Chip.onDev_congr (Dev.clkreqSeen_awake awake)
  have moves : ((s.dev.clkreqIs on).linkLive || (s.dev.clkreqIs on).get HPT_LSTAT_STATE == 7) = true := by
    rw [Bool.or_eq_true, beq_iff_eq]
    exact up
  rw [Chip.linkPower_eq]
  dsimp only
  rw [seen, Chip.onDev_dev, moves, decide_eq_true low, decide_eq_true (show st ≤ 7 by omega), if_pos (by rfl)]
  simp only [if_neg (show ¬ st = 7 by omega)]
  rfl

end

end Sys2Proof.Machine
end

section
/-! The presence of far memory (R292, R294, R329), and the lines of the far cache that go home (R283, R290, R291). -/

namespace Sys2Proof.Machine

open Reg

/-! ### Lost writes -/

/-- The fields that a lost write changes. -/
def lossFlds : List Fld := [HPT_LOSTW_VALID, HPT_LOSTA_ADDR, HPT_LOSTW_COUNT, HPT_ISTAT_LOSTW]

/-- A field that a lost write leaves alone. -/
def Fld.Unlost (f : Fld) : Prop := ∀ g ∈ lossFlds, g.Apart f

section
variable {d : Dev} {f : Fld}

theorem Dev.foldl_get {α : Type} {step : Dev → α → Dev} (h : ∀ d x, (step d x).get f = d.get f) (l : List α) : (l.foldl step d).get f = d.get f := by
  induction l generalizing d with
  | nil => rfl
  | cons x l ih => exact ih.trans (h d x)

variable (kept : f.Unlost)
include kept

theorem Dev.loseWrite_get (d : Dev) (a : Nat) : (d.loseWrite a).get f = d.get f := by
  obtain ⟨valid, addr, count, istat⟩ : HPT_LOSTW_VALID.Apart f ∧ HPT_LOSTA_ADDR.Apart f ∧ HPT_LOSTW_COUNT.Apart f ∧ HPT_ISTAT_LOSTW.Apart f :=
    ⟨kept _ (by decide), kept _ (by decide), kept _ (by decide), kept _ (by decide)⟩
  refine (Dev.get_put_of_apart istat).trans ((Dev.get_put_of_apart count).trans ?_)
  split
  · rfl
  · exact (Dev.get_put_of_apart addr).trans (Dev.get_put_of_apart valid)

theorem Dev.loseFlight_get : d.loseFlight.get f = d.get f := by
  unfold Dev.loseFlight
  split
  · rfl
  · exact Dev.foldl_get (Dev.loseWrite_get kept) _

theorem Dev.loseCache_get : d.loseCache.get f = d.get f := Dev.foldl_get (fun d (l : FarLine) => Dev.loseWrite_get kept d (l.dev * 64)) _

end

/-! ### Presence -/

/-- Far memory gone: writes on their way and dirty lines are lost, and the rings pause (R292, R329). -/
def Dev.absent (d : Dev) : Dev := (((((d.off HPT_LSTAT_PRESENT).on HPT_ISTAT_ABSENT).loseFlight).loseCache).on RNG_STAT_PAUSED).on RNG_ISTAT_PAUSE

section
variable {d : Dev}

theorem Dev.absent_get {f : Fld} (lost : f.Unlost)
    (others : ∀ g ∈ [HPT_LSTAT_PRESENT, HPT_ISTAT_ABSENT, RNG_STAT_PAUSED, RNG_ISTAT_PAUSE], g.Apart f) : d.absent.get f = d.get f := by
  obtain ⟨present, absent, paused, pause⟩ :
      HPT_LSTAT_PRESENT.Apart f ∧ HPT_ISTAT_ABSENT.Apart f ∧ RNG_STAT_PAUSED.Apart f ∧ RNG_ISTAT_PAUSE.Apart f :=
    ⟨others _ (by decide), others _ (by decide), others _ (by decide), others _ (by decide)⟩
  exact (Dev.get_put_of_apart pause).trans ((Dev.get_put_of_apart paused).trans ((Dev.loseCache_get lost).trans ((Dev.loseFlight_get lost).trans
    ((Dev.get_put_of_apart absent).trans (Dev.get_put_of_apart present)))))

/-- What the fall of PRESENT shows. -/
theorem Dev.absent_shown : d.absent.flag HPT_LSTAT_PRESENT = false ∧ d.absent.hpt.fc = [] ∧ d.absent.flag HPT_ISTAT_ABSENT = true
    ∧ d.absent.flag RNG_STAT_PAUSED = true ∧ d.absent.flag RNG_ISTAT_PAUSE = true := by
  have lost {t : Dev} {f : Fld} (h : f.Unlost) : t.loseFlight.loseCache.flag f = t.flag f :=
    Dev.flag_of_get ((Dev.loseCache_get h).trans (Dev.loseFlight_get h))
  have rings {t : Dev} {f : Fld} (h : RNG_STAT_PAUSED.addr ≠ f.addr) (h' : RNG_ISTAT_PAUSE.addr ≠ f.addr) :
      ((t.on RNG_STAT_PAUSED).on RNG_ISTAT_PAUSE).flag f = t.flag f := (Dev.flag_put_of_ne h').trans (Dev.flag_put_of_ne h)
  refine ⟨?_, rfl, ?_, ?_, Dev.flag_put_one rfl (by decide)⟩
  · refine (rings (by decide) (by decide)).trans ((lost (by unfold Fld.Unlost Fld.Apart; decide)).trans ?_)
    exact (Dev.flag_put_of_ne (by decide)).trans (Dev.flag_put_zero (by decide) (by decide))
  · refine (rings (by decide) (by decide)).trans ((lost (by unfold Fld.Unlost Fld.Apart; decide)).trans ?_)
    exact Dev.flag_put_one rfl (by decide)
  · exact (Dev.flag_put_of_apart (by unfold Fld.Apart; decide)).trans (Dev.flag_put_one rfl (by decide))

end

/-- The cores with their copy of PRESENT (R292). -/
def Chip.coresPresent (s : Chip) (v : Bool) : Vector Core 65 := s.cores.map fun c => { c with present := v }

section
variable {s : Chip}

theorem Chip.coresPresent_core (v : Bool) (e : CoreId) : (s.coresPresent v)[e] = { s.cores[e] with present := v } := by
  show (s.coresPresent v)[e.val] = { s.cores[e.val] with present := v }
  unfold Chip.coresPresent
  rw [Vector.getElem_map]

theorem Chip.presence_rises (want : s.dev.wantPresent = true) (was : s.dev.present = false) : s.presence
    = { s with cores := s.coresPresent true, dev := { s.dev.on HPT_LSTAT_PRESENT with todo := s.dev.todo ++ [.rise] } } := by
  unfold Chip.presence
  rw [want, was]
  rfl

theorem Chip.presence_falls (want : s.dev.wantPresent = false) (was : s.dev.present = true) :
    s.presence = { s with cores := s.coresPresent false, dev := s.dev.absent } := by
  unfold Chip.presence
  rw [want, was]
  rfl

theorem Chip.presence_stays (same : s.dev.wantPresent = s.dev.present) : s.presence = s := by
  unfold Chip.presence
  dsimp only
  rw [same, Bool.and_not_self, Bool.not_and_self]
  rfl

/-- The three ways of PRESENT. -/
theorem Chip.presence_dev_cases (s : Chip) : (s.dev.wantPresent = s.dev.present ∧ s.presence.dev = s.dev)
    ∨ (s.dev.wantPresent = true ∧ s.presence.dev = { s.dev.on HPT_LSTAT_PRESENT with todo := s.dev.todo ++ [.rise] })
    ∨ (s.dev.wantPresent = false ∧ s.presence.dev = s.dev.absent) := by
  cases want : s.dev.wantPresent <;> cases was : s.dev.present
  · exact .inl ⟨rfl, congrArg Chip.dev (Chip.presence_stays (want.trans was.symm))⟩
  · exact .inr (.inr ⟨rfl, congrArg Chip.dev (Chip.presence_falls want was)⟩)
  · exact .inr (.inl ⟨rfl, congrArg Chip.dev (Chip.presence_rises want was)⟩)
  · exact .inl ⟨rfl, congrArg Chip.dev (Chip.presence_stays (want.trans was.symm))⟩

/-- PRESENT is what its conditions say. -/
theorem Chip.presence_flag (s : Chip) : s.presence.dev.flag HPT_LSTAT_PRESENT = s.dev.wantPresent := by
  rcases s.presence_dev_cases with ⟨same, dev⟩ | ⟨want, dev⟩ | ⟨want, dev⟩
  · rw [dev, same]
    rfl
  · rw [dev, want]
    exact Dev.flag_put_one (d := s.dev) (f := HPT_LSTAT_PRESENT) rfl (by decide)
  · rw [dev, want]
    exact Dev.absent_shown.1

/-- PRESENT's changes leave HMEM and FCSTAT alone. -/
theorem Chip.presence_hmem (s : Chip) {f : Fld} (hf : f ∈ [HPT_HMEM_AVAIL_REQ, HPT_HMEM_AVAIL_EFF, HPT_FCSTAT_BUSY]) :
    s.presence.dev.flag f = s.dev.flag f := by
  have lost : ∀ f ∈ [HPT_HMEM_AVAIL_REQ, HPT_HMEM_AVAIL_EFF, HPT_FCSTAT_BUSY], f.Unlost := by unfold Fld.Unlost Fld.Apart; decide
  have others : ∀ f ∈ [HPT_HMEM_AVAIL_REQ, HPT_HMEM_AVAIL_EFF, HPT_FCSTAT_BUSY],
      ∀ g ∈ [HPT_LSTAT_PRESENT, HPT_ISTAT_ABSENT, RNG_STAT_PAUSED, RNG_ISTAT_PAUSE], g.Apart f := by unfold Fld.Apart; decide
  rcases s.presence_dev_cases with ⟨-, dev⟩ | ⟨-, dev⟩ | ⟨-, dev⟩
  · rw [dev]
  · rw [dev]
    exact Dev.flag_put_of_apart (d := s.dev) (others f hf _ List.mem_cons_self)
  · rw [dev]
    exact Dev.flag_of_get (Dev.absent_get (lost f hf) (others f hf))

/-- An empty far cache stays empty. -/
theorem Chip.presence_fc (empty : s.dev.hpt.fc = []) : s.presence.dev.hpt.fc = [] := by
  rcases s.presence_dev_cases with ⟨-, dev⟩ | ⟨-, dev⟩ | ⟨-, dev⟩
  · rw [dev, empty]
  · rw [dev]
    exact empty
  · rw [dev]
    rfl

end

/-! ### Lines that go home -/

section
variable (d : Dev)

/-- Lines written back: each dirty one leaves the device, and nothing else changes. -/
theorem Dev.writeBacks (ls : List FarLine) : ∃ out, ls.foldl Dev.farWriteBack d = { d with out := out } ∧ d.out ⊆ out
    ∧ ∀ x ∈ ls, x.st = .modified → .hostWrite (x.host * 64) x.data ∈ out := by
  induction ls generalizing d with
  | nil => exact ⟨d.out, rfl, List.Subset.refl _, fun _ h => absurd h List.not_mem_nil⟩
  | cons l ls ih =>
    by_cases dirty : l.st = .modified
    · have gone : d.farWriteBack l = d.emit (.hostWrite (l.host * 64) l.data) := if_pos dirty
      obtain ⟨out, back, old, written⟩ := ih (d.emit (.hostWrite (l.host * 64) l.data))
      rw [List.foldl_cons, gone, back]
      refine ⟨out, rfl, fun o h => old (List.mem_cons_of_mem _ h), fun x hx mod => ?_⟩
      rcases List.mem_cons.mp hx with rfl | hx
      · exact old List.mem_cons_self
      · exact written x hx mod
    · have stays : d.farWriteBack l = d := if_neg dirty
      obtain ⟨out, back, old, written⟩ := ih d
      rw [List.foldl_cons, stays, back]
      refine ⟨out, rfl, old, fun x hx mod => ?_⟩
      rcases List.mem_cons.mp hx with rfl | hx
      · exact absurd mod dirty
      · exact written x hx mod

/-- A flush writes its dirty lines back and invalidates all of its lines (R290). -/
theorem Dev.fcFlush_eq (which : FarLine → Bool) : ∃ out,
    d.fcFlush which = { d with out := out, hpt := { d.hpt with fc := d.hpt.fc.filter (!which ·) } }
    ∧ ∀ x ∈ d.hpt.fc, which x = true → x.st = .modified → .hostWrite (x.host * 64) x.data ∈ out := by
  obtain ⟨out, back, -, written⟩ := d.writeBacks (d.hpt.fc.reverse.filter which)
  refine ⟨out, ?_, fun x hx picked => written x (List.mem_filter.mpr ⟨List.mem_reverse.mpr hx, picked⟩)⟩
  unfold Dev.fcFlush
  rw [back]
  rfl

/-- A flush of every line. -/
theorem Dev.fcFlush_all : ∃ out, d.fcFlush (fun _ => true) = { d with out := out, hpt := { d.hpt with fc := [] } }
    ∧ ∀ x ∈ d.hpt.fc, x.st = .modified → .hostWrite (x.host * 64) x.data ∈ out := by
  obtain ⟨out, flushed, written⟩ := d.fcFlush_eq fun _ => true
  have none : d.hpt.fc.filter (fun _ => !true) = [] := List.filter_false _
  rw [none] at flushed
  exact ⟨out, flushed, fun x hx => written x hx rfl⟩

/-- The port holds no access. -/
theorem Dev.slots_free : (d.slots == 0) = true ↔ ¬ ∃ h ∈ d.hpt.held, h.wake = true := by
  unfold Dev.slots
  rw [beq_iff_eq, List.length_eq_zero_iff, List.filter_eq_nil_iff]
  push Not
  rfl

end

section
variable {s : Chip}

/-- Withdrawn accesses go on once the seam is over. -/
def Dev.resumeHeld (d : Dev) : Dev := if d.hpt.held.isEmpty then d else { d with todo := d.todo ++ [.rise] }

theorem Dev.resumeHeld_flag (d : Dev) (f : Fld) : d.resumeHeld.flag f = d.flag f := by
  unfold Dev.resumeHeld
  split <;> rfl

theorem Dev.resumeHeld_hpt (d : Dev) : d.resumeHeld.hpt = d.hpt := by
  unfold Dev.resumeHeld
  split <;> rfl

theorem Dev.resumeHeld_out (d : Dev) : d.resumeHeld.out = d.out := by
  unfold Dev.resumeHeld
  split <;> rfl

/-- What the withdrawal of the host's memory leaves of the port at its seam (R291). -/
def Dev.withdrawn (d : Dev) : Dev := (((d.fcFlush fun _ => true).delivered).off HPT_FCSTAT_BUSY).off HPT_HMEM_AVAIL_EFF

theorem Dev.withdrawn_shown (d : Dev) : d.withdrawn.hpt.fc = [] ∧ d.withdrawn.flag HPT_HMEM_AVAIL_EFF = false
    ∧ d.withdrawn.flag HPT_FCSTAT_BUSY = false := by
  obtain ⟨out, flushed, -⟩ := d.fcFlush_all
  unfold Dev.withdrawn
  rw [flushed]
  refine ⟨rfl, Dev.flag_put_zero (by decide) (by decide), ?_⟩
  exact (Dev.flag_put_of_ne (by decide)).trans (Dev.flag_put_zero (by decide) (by decide))

theorem Chip.availSeam_falls (req : s.dev.flag HPT_HMEM_AVAIL_REQ = false) (eff : s.dev.flag HPT_HMEM_AVAIL_EFF = true)
    (free : ¬ ∃ h ∈ s.dev.hpt.held, h.wake = true) : s.availSeam = ((s.onDev Dev.withdrawn).presence).onDev Dev.resumeHeld := by
  unfold Chip.availSeam
  rw [req, eff, s.dev.slots_free.mpr free]
  rfl

theorem Chip.availSeam_waits
    (h : s.dev.flag HPT_HMEM_AVAIL_REQ = true ∨ s.dev.flag HPT_HMEM_AVAIL_EFF = false ∨ ∃ h ∈ s.dev.hpt.held, h.wake = true) :
    s.availSeam = s := by
  refine if_neg fun go => ?_
  obtain ⟨go, free⟩ := Bool.and_eq_true_iff.mp go
  obtain ⟨unasked, eff⟩ := Bool.and_eq_true_iff.mp go
  rcases h with req | off | held
  · exact absurd (req ▸ unasked) (by decide)
  · exact absurd (off.symm.trans eff) (by decide)
  · exact s.dev.slots_free.mp free held

/-- At the seam the lines are home, HMEM is not effective and far memory is gone (R291). -/
theorem Chip.availSeam_shown (req : s.dev.flag HPT_HMEM_AVAIL_REQ = false) (eff : s.dev.flag HPT_HMEM_AVAIL_EFF = true)
    (free : ¬ ∃ h ∈ s.dev.hpt.held, h.wake = true) : s.availSeam.dev.hpt.fc = [] ∧ s.availSeam.dev.flag HPT_HMEM_AVAIL_EFF = false
    ∧ s.availSeam.dev.flag HPT_FCSTAT_BUSY = false ∧ s.availSeam.dev.flag HPT_LSTAT_PRESENT = false := by
  obtain ⟨fc, off, idle⟩ := s.dev.withdrawn_shown
  have gone : s.dev.withdrawn.wantPresent = false := by
    unfold Dev.wantPresent
    rw [off, Bool.and_false]
  rw [Chip.availSeam_falls req eff free, Chip.onDev_dev, Dev.resumeHeld_hpt, Dev.resumeHeld_flag, Dev.resumeHeld_flag, Dev.resumeHeld_flag]
  exact ⟨Chip.presence_fc fc, (Chip.presence_hmem _ (by decide)).trans off, (Chip.presence_hmem _ (by decide)).trans idle,
    (Chip.presence_flag _).trans gone⟩

end

section
variable {d : Dev} {b : Nat}

/-- The port holds an access through window b. -/
def Dev.windowHeld (d : Dev) (b : Nat) : Prop := ∃ h ∈ d.hpt.held, h.wake = true ∧ (h.addr / 0x1000000 == b) = true

theorem Dev.windowHeld_iff : (d.hpt.held.any fun x => x.wake && x.addr / 0x1000000 == b) = true ↔ d.windowHeld b := by
  unfold Dev.windowHeld
  simp only [List.any_eq_true, Bool.and_eq_true]

theorem Dev.windowSeam_waits (h : d.flag (HPT_FWT_ATTR_EN_REQ b) = true ∨ d.windowHeld b) : d.windowSeam b = d := by
  refine if_neg fun go => ?_
  obtain ⟨go, free⟩ := Bool.and_eq_true_iff.mp go
  obtain ⟨unasked, -⟩ := Bool.and_eq_true_iff.mp go
  rcases h with req | held
  · exact absurd (req ▸ unasked) (by decide)
  · rw [Dev.windowHeld_iff.mpr held] at free
    exact absurd free (by decide)

theorem Dev.windowSeam_falls (req : d.flag (HPT_FWT_ATTR_EN_REQ b) = false) (eff : d.flag (HPT_FWT_ATTR_EN_EFF b) = true)
    (free : ¬ d.windowHeld b) :
    d.windowSeam b = ((d.fcFlush fun l => l.dev * 64 / 0x1000000 == b).off (HPT_FWT_ATTR_EN_EFF b)).resumeHeld := by
  have none : (d.hpt.held.any fun x => x.wake && x.addr / 0x1000000 == b) = false := Bool.eq_false_iff.mpr fun h => free (Dev.windowHeld_iff.mp h)
  unfold Dev.windowSeam
  rw [req, eff, none]
  rfl

/-- At its seam the window is disabled, its lines are gone, and the dirty ones have been written back (R283). -/
theorem Dev.windowSeam_shown (req : d.flag (HPT_FWT_ATTR_EN_REQ b) = false) (eff : d.flag (HPT_FWT_ATTR_EN_EFF b) = true)
    (free : ¬ d.windowHeld b) : (d.windowSeam b).flag (HPT_FWT_ATTR_EN_EFF b) = false
    ∧ (d.windowSeam b).hpt.fc = d.hpt.fc.filter (fun l => !(l.dev * 64 / 0x1000000 == b))
    ∧ ∀ x ∈ d.hpt.fc, (x.dev * 64 / 0x1000000 == b) = true → x.st = .modified → .hostWrite (x.host * 64) x.data ∈ (d.windowSeam b).out := by
  obtain ⟨out, flushed, written⟩ := d.fcFlush_eq fun l => l.dev * 64 / 0x1000000 == b
  rw [Dev.windowSeam_falls req eff free, flushed, Dev.resumeHeld_flag, Dev.resumeHeld_hpt, Dev.resumeHeld_out]
  exact ⟨Dev.flag_put_zero (by decide : 31 ≤ 31) (by decide : 31 < 32), rfl, written⟩

end

/-- A command to flush the far cache (R290). -/
theorem Dev.fcCmd_shown (d : Dev) : d.fcCmd.hpt.fc = [] ∧ d.fcCmd.flag HPT_FCSTAT_BUSY = true
    ∧ ∀ x ∈ d.hpt.fc, x.st = .modified → .hostWrite (x.host * 64) x.data ∈ d.fcCmd.out := by
  obtain ⟨out, flushed, written⟩ := d.fcFlush_all
  unfold Dev.fcCmd
  rw [flushed]
  exact ⟨rfl, Dev.flag_put_one rfl (by decide), written⟩

theorem Dev.fcDone_ends {d : Dev} (busy : d.flag HPT_FCSTAT_BUSY = true)
    (h : d.flag HPT_HMEM_AVAIL_REQ = true ∨ d.flag HPT_HMEM_AVAIL_EFF = false) : d.fcDone = d.put HPT_FCSTAT_BUSY 0 := by
  refine if_pos ?_
  rw [busy, Bool.true_and, Bool.or_eq_true, Bool.not_eq_true']
  exact h

theorem Dev.fcDone_idle {d : Dev} (idle : d.flag HPT_FCSTAT_BUSY = false) : d.fcDone = d := by
  unfold Dev.fcDone
  rw [idle]
  rfl

end Sys2Proof.Machine
end

section
/-! Snoops (R286), accesses the port holds (R294), configuration requests (R276, R278), and writes of CTL, HMEM and FCCMD (R275, R290, R291). -/

namespace Sys2Proof.Machine

open Reg

/-! ### Snoops -/

/-- The device's answer to a snoop of a line that the far cache does not hold. -/
def Dev.snoopMiss (d : Dev) : Dev := d.emit (.snoop false false false [])

section
variable {s : Chip} {line : Nat} {l : FarLine} (cxl : s.dev.get HPT_LSTAT_MODE = 2)
include cxl

theorem Dev.isCxl_of_mode : s.dev.isCxl = true := beq_iff_eq.mpr cxl

theorem Chip.snoop_miss (k : Snoop) (none : s.dev.hpt.fc.find? (·.host == line) = none) :
    s.snoop k line = (if k = .inv then s.clearResv (lineOf (2 ^ 52 + line * 64)) else s).onDev Dev.snoopMiss := by
  unfold Chip.snoop
  rw [Dev.isCxl_of_mode cxl, none]
  rfl

variable (found : s.dev.hpt.fc.find? (·.host == line) = some l)
include found

theorem Chip.snoop_cur : s.snoop .cur line = s.onDev (·.emit (.snoop true true (l.st == .modified) l.data)) := by
  unfold Chip.snoop
  rw [Dev.isCxl_of_mode cxl, found]
  rfl

theorem Chip.snoop_data : s.snoop .data line = s.onDev fun d =>
    (d.onHpt fun h => { h with fc := h.fc.map fun x => if x.host = line then { x with st := .shared } else x }).emit
      (.snoop true true (l.st == .modified) (if l.st == .modified then l.data else [])) := by
  unfold Chip.snoop
  rw [Dev.isCxl_of_mode cxl, found]
  rfl

theorem Chip.snoop_inv : s.snoop .inv line = (s.clearResv (lineOf (2 ^ 52 + line * 64))).onDev fun d =>
    (d.farRemove line).emit (.snoop true false (l.st == .modified) (if l.st == .modified then l.data else [])) := by
  unfold Chip.snoop
  rw [Dev.isCxl_of_mode cxl, found]
  rfl

end

/-! ### Accesses the port holds -/

/-- The oldest access whose hold has reached HOLDMAX. -/
def Dev.heldDue (d : Dev) : Option Held := d.hpt.held.find? fun h => h.wake && h.since.toNat + h.limit ≤ d.now.toNat

theorem Chip.holdTimeout_due {s : Chip} {h : Held} (due : s.dev.heldDue = some h) : s.holdTimeout = s.heldTimeout h := by
  unfold Chip.holdTimeout
  rw [show s.dev.hpt.held.find? _ = some h from due]

section
variable {s : Chip} {h : Held} {e : CoreId}

theorem Chip.heldTimeout_post {st : SbEntry} (who : h.who = .post e st) : s.heldTimeout h
    = (((s.onDev (·.put HPT_ISTAT_HOLDTO 1)).dropPost e st).postAnswered e h.id .done).onDev (·.later .rise) := by
  unfold Chip.heldTimeout
  rw [who]
  rfl

theorem Chip.heldTimeout_core (who : h.who = .core e) :
    s.heldTimeout h = ((s.onDev (·.put HPT_ISTAT_HOLDTO 1)).coreTimeout e h.addr).onDev (·.later .rise) := by
  unfold Chip.heldTimeout
  rw [who]
  rfl

theorem Chip.heldTimeout_sunk (who : h.who = .sunk e) :
    s.heldTimeout h = (s.onDev fun d => (d.put HPT_ISTAT_HOLDTO 1).dropHeld (·.id == h.id)).onDev (·.later .rise) := by
  unfold Chip.heldTimeout
  dsimp only
  rw [who]
  dsimp only
  rw [Chip.onDev_onDev s (·.on HPT_ISTAT_HOLDTO)]
  rfl

end

theorem Chip.holdTimeout_none {s : Chip} (none : s.dev.heldDue = none) : s.holdTimeout = s := by
  unfold Chip.holdTimeout
  rw [show s.dev.hpt.held.find? _ = Option.none from none]

theorem Dev.hold_held (d : Dev) (who : HeldWho) (a : Nat) : (d.hold who a true).hpt.held
    = d.hpt.held ++ [{ id := d.hpt.nextId, who := who, addr := a, since := d.now, limit := d.get HPT_HOLDMAX_MS * 32768, wake := true }] := rfl

theorem Chip.dropPost_dev (s : Chip) (e : CoreId) (st : SbEntry) : (s.dropPost e st).dev = s.dev.loseWrite st.addr.toNat := rfl

/-- An access held under WAKE_HOLD asks the host to wake (R294). -/
theorem Dev.hold_wakes (d : Dev) (who : HeldWho) (a : Nat) : (d.hold who a true).flag HPT_HOLD_WAKE = true := by
  unfold Dev.hold Dev.wakeShow
  dsimp only
  have waits : Dev.slots { d with hpt := { d.hpt with
      held := d.hpt.held ++ [⟨d.hpt.nextId, who, a, d.now, d.holdTicks, true⟩], nextId := d.hpt.nextId + 1 } } ≠ 0 := by
    unfold Dev.slots
    simp
  rw [if_neg waits]
  exact Dev.flag_put_one rfl (by decide)

/-! ### Configuration requests -/

section
variable {s : Chip}

theorem Chip.config_unready (unready : s.dev.flag HPT_CTL_CFGRDY = false) (write : Bool) (off : Nat) (v : Word) :
    s.config write off v = s.onDev (·.emit .retry) := by
  unfold Chip.config
  rw [unready]
  rfl

theorem Chip.setBme_unready (unready : s.dev.flag HPT_CTL_CFGRDY = false) (v : Bool) : s.setBme v = s.onDev (·.emit .retry) := by
  unfold Chip.setBme
  rw [unready]
  rfl

theorem Chip.setD0_unready (unready : s.dev.flag HPT_CTL_CFGRDY = false) (v : Bool) : s.setD0 v = s.onDev (·.emit .retry) := by
  unfold Chip.setD0
  rw [unready]
  rfl

variable (ready : s.dev.flag HPT_CTL_CFGRDY = true)
include ready

theorem Chip.config_read (off : Nat) (v : Word) : s.config false off v = s.onDev fun d => d.answers (d.cfgRead off) := by
  unfold Chip.config
  rw [ready]
  rfl

/-- A write away from the power state takes effect, and Bus Master Enable follows (R276). -/
theorem Chip.config_write {off : Nat} (h : off ≠ Config.pmCap + 4) (v : Word) : s.config true off v = (s.onDev fun d =>
    ((d.cfgPut off v).emit (.reply [])).put HPT_LSTAT_BME (if (((d.cfgPut off v).emit (.reply [])).cfgRead 4).getLsbD 2 then 1 else 0)).presence.onDev
      Dev.msixFlush := by
  unfold Chip.config
  rw [ready, if_neg (by decide), if_pos rfl]
  simp only [if_neg h]
  rfl

theorem Chip.setBme_clear : s.setBme false =
    (s.onDev fun d => (d.cfgPut 4 (d.cfgRead 4 &&& ~~~4#32)).put HPT_LSTAT_BME 0).presence := by
  unfold Chip.setBme
  rw [ready]
  rfl

theorem Chip.setD0_ready (v : Bool) : s.setD0 v = (s.onDev fun d =>
    (d.cfgPut (Config.pmCap + 4) ((d.cfgRead (Config.pmCap + 4) &&& ~~~3#32) ||| (if v then 0 else 3))).put HPT_LSTAT_D0
      (if v then 1 else 0)).presence := by
  unfold Chip.setD0
  rw [ready]
  rfl

end

/-! ### Writes of the port's registers -/

theorem Chip.takes_hpt (s : Chip) (m : Sender) (a : Nat) (v : Word) : (s.takes m a v).dev.hpt = s.dev.hpt := by
  have logged (d : Dev) (a : Nat) (old req stored : Word) (origin flags : Nat) : (d.log a old req stored origin flags).hpt = d.hpt := by
    unfold Dev.log
    dsimp only
    split <;> rfl
  unfold Chip.takes Chip.storeReg
  split
  · dsimp only
    split
    · exact logged _ _ _ _ _ _ _
    · rfl
  · rfl

section
variable {s : Chip} {m : Sender} {v : Word}

theorem findReg_hptCtl : ∃ r : RegRow, findReg HPT_CTL = some (r, 0) ∧ r.back = 0 ∧ (⟨0, 0, .rw, 0, 0, .raw⟩ : FldSpec) ∈ r.flds :=
  ⟨_, rfl, rfl, by simp⟩

theorem findReg_hmem : ∃ r : RegRow, findReg HPT_HMEM = some (r, 0) ∧ r.back = 0 ∧ (⟨1, 1, .ro, 1, 0, .raw⟩ : FldSpec) ∈ r.flds
    ∧ (⟨0, 0, .rw, 1, 0, .raw⟩ : FldSpec) ∈ r.flds :=
  ⟨_, rfl, rfl, by simp, by simp⟩

theorem findReg_fccmd : ∃ r : RegRow, findReg HPT_FCCMD = some (r, 0) ∧ r.back = 0 ∧ (r.taken 0x80000000).getLsbD 31 = true :=
  ⟨_, rfl, rfl, by decide⟩

/-- A write of CTL starts training where it raises LTEN. -/
theorem Chip.rowWrite_hptCtl (h : Hears s m HPT_CTL v) : s.rowWrite m HPT_CTL v = (s.takes m HPT_CTL v).lten (s.dev.flag HPT_CTL_LTEN) := by
  obtain ⟨r, hf, hb, -⟩ := findReg_hptCtl
  have old : (s.dev.word HPT_CTL).getLsbD 0 = s.dev.flag HPT_CTL_LTEN := getLsbD_eq_bits _ 0
  rw [Chip.rowWrite_hooks hf hb h (by decide) (by decide) (by decide) rfl, ← old]
  rfl

theorem Chip.takes_lten : (s.takes m HPT_CTL (withField v HPT_CTL_LTEN 1)).dev.flag HPT_CTL_LTEN = true := by
  obtain ⟨r, hf, hb, lten⟩ := findReg_hptCtl
  have taken := Chip.takes_free (s := s) (m := m) (v := withField v HPT_CTL_LTEN 1) hf hb lten rfl ⟨rfl, rfl⟩ rfl
  have one : (s.takes m HPT_CTL (withField v HPT_CTL_LTEN 1)).dev.get HPT_CTL_LTEN = 1 := taken.trans (bits_setBits (Nat.le_refl 0) (by decide))
  exact Dev.flag_of_get one

/-- The link's state stands over a write of CTL. -/
theorem Chip.takes_linkLive : (s.takes m HPT_CTL v).dev.linkLive = s.dev.linkLive := by
  obtain ⟨r, hf, hb, -⟩ := findReg_hptCtl
  have state : (s.takes m HPT_CTL v).dev.get HPT_LSTAT_STATE = s.dev.get HPT_LSTAT_STATE := Chip.takes_get_of_ne hf hb (by decide) (by decide)
  unfold Dev.linkLive
  rw [state]

theorem Chip.rowWrite_ltenRises (h : Hears s m HPT_CTL (withField v HPT_CTL_LTEN 1)) (was : s.dev.flag HPT_CTL_LTEN = false) :
    s.rowWrite m HPT_CTL (withField v HPT_CTL_LTEN 1) = (s.takes m HPT_CTL (withField v HPT_CTL_LTEN 1)).linkLost := by
  rw [Chip.rowWrite_hptCtl h, was]
  unfold Chip.lten
  rw [Chip.takes_lten]
  rfl

theorem Chip.rowWrite_ltenAgain (h : Hears s m HPT_CTL v) (was : s.dev.flag HPT_CTL_LTEN = true) : s.rowWrite m HPT_CTL v = s.takes m HPT_CTL v := by
  rw [Chip.rowWrite_hptCtl h, was]
  unfold Chip.lten
  rw [Bool.not_true, Bool.and_false]
  rfl

/-- A write of HMEM withdraws or restores the host's memory. -/
theorem Chip.rowWrite_hmem (h : Hears s m HPT_HMEM v) : s.rowWrite m HPT_HMEM v = (s.takes m HPT_HMEM v).hmem.onDev (·.later .rise) := by
  obtain ⟨r, hf, hb, -⟩ := findReg_hmem
  rw [Chip.rowWrite_hooks hf hb h (by decide) (by decide) (by decide) rfl]
  rfl

theorem Chip.takes_availReq : (s.takes m HPT_HMEM v).dev.flag HPT_HMEM_AVAIL_REQ = v.getLsbD 0 := by
  obtain ⟨r, hf, hb, -, req⟩ := findReg_hmem
  rw [getLsbD_eq_bits]
  exact Dev.flag_of_get (Chip.takes_free hf hb req rfl ⟨rfl, rfl⟩ rfl)

theorem Chip.takes_availEff : (s.takes m HPT_HMEM v).dev.flag HPT_HMEM_AVAIL_EFF = s.dev.flag HPT_HMEM_AVAIL_EFF := by
  obtain ⟨r, hf, hb, eff, -⟩ := findReg_hmem
  exact Dev.flag_of_get (Chip.takes_unwritten hf hb eff rfl (.inl rfl))

/-- Memory restored: AVAIL_EFF is 1 and no write-back runs (R291). -/
theorem Chip.hmem_restored (req : s.dev.flag HPT_HMEM_AVAIL_REQ = true) : s.hmem.dev.flag HPT_HMEM_AVAIL_REQ = true
    ∧ s.hmem.dev.flag HPT_HMEM_AVAIL_EFF = true ∧ s.hmem.dev.flag HPT_FCSTAT_BUSY = false := by
  have restored : s.hmem = ((s.onDev fun d => (d.on HPT_HMEM_AVAIL_EFF).off HPT_FCSTAT_BUSY).presence).onDev Dev.resumeHeld := if_pos req
  rw [restored, Chip.onDev_dev, Dev.resumeHeld_flag, Dev.resumeHeld_flag, Dev.resumeHeld_flag, Chip.presence_hmem _ (by decide),
    Chip.presence_hmem _ (by decide), Chip.presence_hmem _ (by decide)]
  refine ⟨?_, ?_, Dev.flag_put_zero (by decide) (by decide)⟩
  · exact (Dev.flag_put_of_ne (by decide)).trans ((Dev.flag_put_of_apart (by unfold Fld.Apart; decide)).trans req)
  · exact (Dev.flag_put_of_ne (by decide)).trans (Dev.flag_put_one rfl (by decide))

/-- Memory withdrawn: the write-back begins (R291). -/
theorem Chip.hmem_withdrawn (req : s.dev.flag HPT_HMEM_AVAIL_REQ = false) (eff : s.dev.flag HPT_HMEM_AVAIL_EFF = true) :
    s.hmem = s.onDev (·.put HPT_FCSTAT_BUSY 1) := by
  unfold Chip.hmem
  rw [req, eff]
  rfl

theorem Chip.rowWrite_fccmd (h : Hears s m HPT_FCCMD 0x80000000) :
    s.rowWrite m HPT_FCCMD 0x80000000 = (s.takes m HPT_FCCMD 0x80000000).onDev Dev.fcCmd := by
  obtain ⟨r, hf, hb, flush⟩ := findReg_fccmd
  have hook (t : Chip) (was : Nat → Bool) (old w : Word) :
      t.hook (s.asMaster m) HPT_FCCMD was old w = t.onDev fun d => if w.getLsbD 31 then d.fcCmd else d := rfl
  rw [Chip.rowWrite_hooks hf hb h (by decide) (by decide) (by decide) rfl, hook, flush]
  rfl

end

end Sys2Proof.Machine
end

section
/-! The host link settled (O49): each command by the lemma on what it does, its premises as they stand in the statement. -/

namespace Sys2Proof.Machine

open Reg

section
variable (s : State)

theorem exec_availSeam : exec .availSeam s = s.leaves s.chip.availSeam := rfl

theorem exec_farWindowDisableSeam (b : Fin 256) : exec (.farWindowDisableSeam b) s = s.becomes (·.windowSeam b) := rfl

theorem exec_farCacheFlush (m : Sender) : exec (.farCacheFlush m) s = s.leaves (s.chip.rowWrite m HPT_FCCMD 0x80000000) := rfl

theorem exec_completionTimeout : exec .completionTimeout s = s.becomes (·.onHpt fun h => { h with noReply := true }) := rfl

end

/-- Settles O49: the link by whether it is up and what the port lets train, PRESENT by its three ways, writes of CTL, HMEM and FCCMD by what
they store and start, the seams by what they wait for, and each far line that goes home by the pass that writes it back. -/
theorem hostLink : Obligations.HostLink := by
  refine ⟨fun s m v u st ck d0 t => ?link, fun s m write reg v b line l h e st => ?far⟩
  case link =>
    intro c d live down idle trains start rate cxl vL uL want power pm
    refine ⟨fun training => ?up, fun elsewhere => ?notUp, fun up => ?fails, fun dead recovery => ?failsDead, fun perst lten vphy => ?trains,
      ?drops, fun atIdle => ?returns, fun busy => ?returnsBusy, ?resets, fun low awake => ?rises, fun high => ?risesAgain, fun hears was => ?lten,
      fun hears was => ?ltenAgain, fun up low high awake => ?power, fun unready => ?retried, fun ready => ?taken, ?flag, fun w was e => ?comes,
      fun w was => ?goes, fun same => ?stays⟩
    case up =>
      have trained : c.linkUp u = _ := if_pos training
      exact congrArg s.leaves (trained.trans (congrArg Chip.presence (Chip.onDev_congr rfl)))
    case notUp => exact congrArg s.leaves (Chip.linkUp_elsewhere elsewhere)
    case fails =>
      have lost : c.linkFails = (c.onDev fun d => start (down d)).presence := (Chip.linkFails_live up).trans (Chip.linkLost_eq rfl)
      exact ⟨congrArg s.leaves lost, congrArg s.leaves lost⟩
    case failsDead =>
      have still := Chip.linkFails_dead dead recovery
      exact ⟨congrArg s.leaves still, congrArg s.leaves still⟩
    case trains =>
      refine Dev.train_starts ?_
      unfold Dev.mayTrain
      rw [perst, lten, vphy]
      rfl
    case drops => exact congrArg s.leaves c.vphyDrop_eq
    case returns => exact State.becomes_congr (Dev.vphyReturn_idle atIdle)
    case returnsBusy => exact State.becomes_congr (Dev.vphyReturn_busy busy)
    case resets => exact congrArg s.leaves (c.perstLow_eq.trans (congrArg Chip.presence (Chip.onDev_congr rfl)))
    case rises => exact congrArg s.leaves (Chip.perstHigh_starts low awake)
    case risesAgain => exact congrArg s.leaves (Chip.perstHigh_again high)
    case lten => exact congrArg s.leaves ((Chip.rowWrite_ltenRises hears was).trans (Chip.linkLost_eq Chip.takes_linkLive))
    case ltenAgain => exact congrArg s.leaves (Chip.rowWrite_ltenAgain hears was)
    case power => exact congrArg s.leaves (Chip.linkPower_moves up low high awake)
    case retried => exact ⟨congrArg s.leaves (Chip.setBme_unready unready false), congrArg s.leaves (Chip.setD0_unready unready d0)⟩
    case taken => exact ⟨congrArg s.leaves (Chip.setBme_clear ready), congrArg s.leaves (Chip.setD0_ready ready d0)⟩
    case flag => exact t.presence_flag
    case comes =>
      rw [Chip.presence_rises w was]
      exact Chip.coresPresent_core true e
    case goes =>
      obtain ⟨-, fc, absent, paused, pause⟩ := t.dev.absent_shown
      rw [Chip.presence_falls w was]
      exact ⟨fc, absent, paused, pause, fun e => Chip.coresPresent_core false e⟩
    case stays => exact Chip.presence_stays same
  case far =>
    intro c d off uH uF lines inB lost put found dirty due heldIn
    have noAccess : ¬ heldIn (fun _ => true) → ¬ ∃ h ∈ d.hpt.held, h.wake = true :=
      fun free ⟨h, mem, wake⟩ => free ⟨h, mem, wake, rfl⟩
    refine ⟨fun unready => ?retried, fun ready => ?read, fun ready elsewhere => ?write, fun hears on => ?restored, fun hears off eff => ?withdrawn,
      fun req eff free => ?seam, fun waits => ?seamWaits, fun req eff free => ?window, fun waits => ?windowWaits, fun hears => ?flush,
      fun busy h => ?flushDone, fun idle => ?flushIdle, fun ⟨cxl, hit⟩ => ?cur, fun ⟨cxl, hit⟩ => ?data, fun ⟨cxl, hit⟩ => ?inv,
      fun cxl none => ⟨?curMiss, ?dataMiss, ?invMiss⟩, fun due post => ?post, fun due core => ?core, fun due sunk => ?sunk, fun none => ?notDue,
      fun who a k => ⟨k.hold_held who a, k.hold_wakes who a⟩, c.dropPost_dev e st, exec_completionTimeout s⟩
    case retried => exact congrArg s.leaves (Chip.config_unready unready write off v)
    case read => exact congrArg s.leaves (Chip.config_read ready off v)
    case write => exact congrArg s.leaves (Chip.config_write ready elsewhere v)
    case restored =>
      obtain ⟨req, eff, busy⟩ := Chip.hmem_restored (s := uH) (Chip.takes_availReq.trans on)
      exact ⟨_, congrArg s.leaves (Chip.rowWrite_hmem hears), req, eff, busy⟩
    case withdrawn =>
      have begun : uH.hmem = uH.onDev (·.put HPT_FCSTAT_BUSY 1) :=
        Chip.hmem_withdrawn (Chip.takes_availReq.trans off) (Chip.takes_availEff.trans eff)
      exact congrArg s.leaves ((Chip.rowWrite_hmem hears).trans (congrArg (·.onDev (·.later .rise)) begun))
    case seam => exact ⟨_, exec_availSeam s, Chip.availSeam_shown req eff (noAccess free)⟩
    case seamWaits =>
      exact congrArg s.leaves (Chip.availSeam_waits (waits.imp_right (Or.imp_right fun ⟨h, mem, wake, _⟩ => ⟨h, mem, wake⟩)))
    case window => exact ⟨_, exec_farWindowDisableSeam s b, Dev.windowSeam_shown req eff free⟩
    case windowWaits => exact congrArg s.leaves (Chip.onDev_id (Dev.windowSeam_waits waits))
    case flush =>
      obtain ⟨empty, busy, written⟩ := uF.dev.fcCmd_shown
      rw [Chip.takes_hpt] at written
      refine ⟨uF.dev.fcCmd, ?_, empty, busy, written⟩
      rw [exec_farCacheFlush, Chip.rowWrite_fccmd hears]
      exact congrArg s.leaves (Chip.onDev_congr rfl)
    case flushDone => exact State.becomes_congr (Dev.fcDone_ends busy h)
    case flushIdle => exact congrArg s.leaves (Chip.onDev_id (Dev.fcDone_idle idle))
    case cur => exact congrArg s.leaves (Chip.snoop_cur cxl hit)
    case data => exact congrArg s.leaves (Chip.snoop_data cxl hit)
    case inv => exact congrArg s.leaves (Chip.snoop_inv cxl hit)
    case curMiss => exact congrArg s.leaves (Chip.snoop_miss cxl .cur none)
    case dataMiss => exact congrArg s.leaves (Chip.snoop_miss cxl .data none)
    case invMiss => exact congrArg s.leaves (Chip.snoop_miss cxl .inv none)
    case post => exact congrArg s.leaves ((Chip.holdTimeout_due due).trans (Chip.heldTimeout_post post))
    case core => exact congrArg s.leaves ((Chip.holdTimeout_due due).trans (Chip.heldTimeout_core core))
    case sunk => exact congrArg s.leaves ((Chip.holdTimeout_due due).trans (Chip.heldTimeout_sunk sunk))
    case notDue => exact congrArg s.leaves (Chip.holdTimeout_none none)

end Sys2Proof.Machine
end
